-- ==== Sys2Proof/Word.lean ====
section
/-! DEFINITION. The plainest types of the model: bytes, sparse tables, numbers. -/

namespace Sys2Proof

/-- One byte, as host memory, HBM and Block stores hold it. -/
abbrev Byte := BitVec 8

/-- A sparse table: keys strictly rising, the entry of an absent key is absent. -/
abbrev Tbl (α : Type) := List (Nat × α)

/-- An FP32 word, as its 32-bit pattern (below 2^32). -/
abbrev F32 := Nat

/-- An exact signed number `± mag × 2^exp`; `neg` with `mag = 0` is a negative zero. -/
structure Dy where
  neg : Bool
  mag : Nat
  exp : Int
  deriving DecidableEq, Repr

/-- What counts are added by an arithmetic step: saturations (R53) and elements written as NaN (R55). -/
structure Counts where
  sat : Nat
  nonfin : Nat
  deriving DecidableEq, Repr

/-- An FP computation that counts saturations and NaN writes as it goes (R53, R55, R72). -/
abbrev FpM (α : Type) := StateM Counts α

end Sys2Proof
end

