-- ==== Sys2Proof/Syntax.lean ====
section
/-! DEFINITION. The commands the block takes: every row of spec/opcode_table.json, with the operands
that name its object and carry what the device reads from outside. -/

namespace Sys2Proof

/-- A queue pair: its owner (Court 0 to 15, or 16 the operator) and its identifier 0 to 63 (06 R183). -/
structure QId where
  owner : Nat
  qp : Nat
  deriving DecidableEq, Repr

/-- A host function: port 0 (H0) or 1 (H1), function 0 (PF) or 1 to 16 (VF) (06 R176, R181). -/
structure FnId where
  port : Nat
  fn : Nat
  deriving DecidableEq, Repr

/-- A stream of an admitted run, whose next work order a row concerns (05 R150). -/
structure WoRef where
  run : Nat
  stream : Nat
  deriving DecidableEq, Repr

/-- What a DRAM or SRAM read made by a row finds (04 R116, R122, R136). -/
inductive Finding where
  /-- one symbol of the line at this DPA is in error -/
  | symbol (line sym : Nat)
  /-- the line is uncorrectable -/
  | uncorrectable (line : Nat)
  /-- the tag of the unit that holds the line fails its check -/
  | tagFail (line : Nat)
  /-- the line's COURT or POOL refuses the access -/
  | mismatch (line : Nat)
  /-- an uncorrectable error in the Block store that the work order reads -/
  | storeError
  /-- an uncorrectable error in the dirty stack-cache line that holds the line at this DPA -/
  | sramDirty (line : Nat)
  /-- a corrected stack-cache error -/
  | sramFixed
  /-- a corrected error in the Block store that the work order reads -/
  | storeFixed
  deriving DecidableEq, Repr

/-- The findings of a row's reads, in order. -/
abbrev Findings := List Finding

/-- A doorbell write as it arrives: its width in bytes, whether it is aligned, and its 32 bits (06 R179). -/
structure DoorbellWrite where
  width : Nat
  aligned : Bool
  value : Nat
  deriving DecidableEq, Repr

/-- A measurement of a compute die: the largest added delay of its 64 replicas in ps, its hottest reading in 0.1 °C,
the mean ring-oscillator frequency in kHz (15 R475, R476). -/
structure Meas where
  slack : List Int
  tj : Int
  ro : Nat
  deriving DecidableEq, Repr

/-- What a Roadworks decision reads of its die: rail in mV, PLL in kHz (none: not locked), hottest sensor in 0.1 °C
(15 R485). -/
structure SliceCheck where
  railMv : Nat
  pllKhz : Option Nat
  tj : Int
  deriving DecidableEq, Repr

/-- The strap pins and TEST_MODE as sampled at PERST_N deassertion (17 R528, R534). -/
structure Straps where
  addr : Nat
  size : Nat
  wrap : Nat
  i3cSa : Nat
  i3cInst : Nat
  hclk : Nat
  testMode : Bool
  deriving DecidableEq, Repr

/-- What a boot finds: firmware slots whose image fails verification, Squares that fail, channels whose training
fails, Blocks whose slice does not pass cleanly with their result and repaired rows, the dies' measurements of those
slices, and a stage that some other fault stops (15 R486; 16 R504, R505). -/
structure BootFinds where
  sigBad : List Nat
  sqBad : List Nat
  chanBad : List Nat
  slices : List (Nat × Nat × Nat)
  meas : List (Nat × Meas)
  stop : Option Nat
  deriving DecidableEq, Repr


/-- What an Avenue's training finds: lanes that fail, the neighbour's address, its torus sizes and wrap flags, the slot
it resumes from, and whether it holds no key for the Avenue (12 R376, R377, R392). -/
structure AvLook where
  lanesBad : List Nat
  neighbour : Nat
  sizes : List Nat
  wrap : List Bool
  resume : Nat
  fresh : Bool
  deriving DecidableEq, Repr

/-- What the FEC says of a received flit: it decoded, and the codewords it corrected (12 R390, R396). -/
structure FecIn where
  ok : Bool
  corrected : Nat
  deriving DecidableEq, Repr

/-- A read of host memory that fails (12 R403). -/
inductive HostRead where
  /-- the next submission queue entry -/
  | entry
  /-- the parameter block of the next entry, which is given -/
  | block (entry : List Byte)
  /-- data that a command reads -/
  | command (cid : Nat)
  /-- the image of a COLD model slot -/
  | reload (slot : Nat)
  /-- a cold version -/
  | fetch (handle version : Nat)
  /-- a parked sequence -/
  | parked (seq : Nat)
  deriving DecidableEq, Repr

/-- The commands of the block: one constructor per row of spec/opcode_table.json. -/
inductive Instr where
  /-- DEVICE_INFO (R3) -/
  | deviceInfo (q : QId) (cid : Nat)
  /-- CREATE_QUEUE_PAIR (R195) -/
  | createQueuePair (q : QId) (cid : Nat)
  /-- DELETE_QUEUE_PAIR (R196) -/
  | deleteQueuePair (q : QId) (cid : Nat)
  /-- SET_RING (R195) -/
  | setRing (q : QId) (cid : Nat)
  /-- ABORT (R203) -/
  | abort (q : QId) (cid : Nat)
  /-- SET_FUNCTION_MODE (R211) -/
  | setFunctionMode (q : QId) (cid : Nat)
  /-- CREATE_COURT (R413) -/
  | createCourt (q : QId) (cid : Nat) (whole : Bool)
  /-- DESTROY_COURT (R417) -/
  | destroyCourt (q : QId) (cid : Nat) (whole : Bool)
  /-- RESET_COURT (R417) -/
  | resetCourt (q : QId) (cid : Nat) (whole : Bool)
  /-- RESIZE_COURT (R416) -/
  | resizeCourt (q : QId) (cid : Nat) (whole : Bool)
  /-- LOAD_PACKAGE (R197) -/
  | loadPackage (q : QId) (cid : Nat) (image : List Byte)
  /-- UNLOAD_PACKAGE (R549) -/
  | unloadPackage (q : QId) (cid : Nat)
  /-- RUN (R198) -/
  | run (q : QId) (cid : Nat)
  /-- SET_SEMAPHORE (R200) -/
  | setSemaphore (q : QId) (cid : Nat)
  /-- DMA_WRITE (R200) -/
  | dmaWrite (q : QId) (cid : Nat) (data : List Byte) (mem : Findings)
  /-- DMA_READ (R200) -/
  | dmaRead (q : QId) (cid : Nat) (len : Nat) (mem : Findings)
  /-- LOAD_BASE (R246) -/
  | loadBase (q : QId) (cid : Nat) (image : List Byte) (whole : Bool)
  /-- EVICT_BASE (R248) -/
  | evictBase (q : QId) (cid : Nat)
  /-- PIN_BASE (R248) -/
  | pinBase (q : QId) (cid : Nat)
  /-- REPLACE_BASE (R249) -/
  | replaceBase (q : QId) (cid : Nat) (image : List Byte) (whole : Bool)
  /-- REGISTER_ADAPTER (R222) -/
  | registerAdapter (q : QId) (cid : Nat) (image : List Byte) (whole : Bool)
  /-- REPLACE (R236) -/
  | replace (q : QId) (cid : Nat) (image : List Byte)
  /-- RETIRE_ADAPTER (R239) -/
  | retireAdapter (q : QId) (cid : Nat)
  /-- PIN_CONTRACT (R228) -/
  | pinContract (q : QId) (cid : Nat) (image : List Byte)
  /-- RELEASE_CONTRACT (R230) -/
  | releaseContract (q : QId) (cid : Nat)
  /-- CLAIM_SLOT (R233) -/
  | claimSlot (q : QId) (cid : Nat)
  /-- REBIND_ADAPTER (R240) -/
  | rebindAdapter (q : QId) (cid : Nat) (image : List Byte)
  /-- QUERY_ADAPTER (R241) -/
  | queryAdapter (q : QId) (cid : Nat)
  /-- SERVE (R259) -/
  | serve (q : QId) (cid : Nat) (prompt : List Byte)
  /-- SET_STREAM_RING (R277) -/
  | setStreamRing (q : QId) (cid : Nat)
  /-- PARK (R282) -/
  | park (q : QId) (cid : Nat)
  /-- RESUME (R283) -/
  | resume (q : QId) (cid : Nat)
  /-- STEP (R288) -/
  | step (q : QId) (cid : Nat)
  /-- CHECKPOINT (R321) -/
  | checkpoint (q : QId) (cid : Nat) (mem : Findings) (whole : Bool)
  /-- RESTORE (R324) -/
  | restore (q : QId) (cid : Nat) (image : List Byte) (whole : Bool)
  /-- DISTIL_JOB_OPEN (R353) -/
  | distilJobOpen (q : QId) (cid : Nat)
  /-- DISTIL_JOB_END (R354) -/
  | distilJobEnd (q : QId) (cid : Nat)
  /-- DISTIL_STEP (R356) -/
  | distilStep (q : QId) (cid : Nat)
  /-- FORM_GROUP (R328) -/
  | formGroup (q : QId) (cid : Nat)
  /-- DISSOLVE_GROUP (R330) -/
  | dissolveGroup (q : QId) (cid : Nat)
  /-- GROUP_STATUS (R331) -/
  | groupStatus (q : QId) (cid : Nat)
  /-- SET_TIMETABLE (R435) -/
  | setTimetable (q : QId) (cid : Nat)
  /-- MIGRATE (R429) -/
  | migrate (q : QId) (cid : Nat)
  /-- SET_MAPOUT_RESERVE (R420) -/
  | setMapoutReserve (q : QId) (cid : Nat)
  /-- ATTEST (R464) -/
  | attest (q : QId) (cid : Nat)
  /-- GET_COURT_KEY (R447) -/
  | getCourtKey (q : QId) (cid : Nat)
  /-- INSTALL_WRAPPED_KEY_INSTALL (R449) -/
  | installWrappedKeyInstall (q : QId) (cid : Nat)
  /-- INSTALL_WRAPPED_KEY_REMOVE (R450) -/
  | installWrappedKeyRemove (q : QId) (cid : Nat)
  /-- REGISTER_SIGNER_ADD (R459) -/
  | registerSignerAdd (q : QId) (cid : Nat)
  /-- REGISTER_SIGNER_REMOVE (R459) -/
  | registerSignerRemove (q : QId) (cid : Nat)
  /-- ZEROISE_COURT (R473) -/
  | zeroiseCourt (q : QId) (cid : Nat) (whole : Bool)
  /-- STAGE_FIRMWARE (R511) -/
  | stageFirmware (q : QId) (cid : Nat) (image : List Byte) (whole : Bool)
  /-- ACTIVATE_FIRMWARE_HOT (R515) -/
  | activateFirmwareHot (q : QId) (cid : Nat)
  /-- ACTIVATE_FIRMWARE_WARM (R515) -/
  | activateFirmwareWarm (q : QId) (cid : Nat) (finds : BootFinds)
  /-- HANDOVER (R517) -/
  | handover (q : QId) (cid : Nat)
  /-- HANDOVER_QUERY (R517) -/
  | handoverQuery (q : QId) (cid : Nat)
  /-- CLEAR_REPAIR_LIST (R132) -/
  | clearRepairList (q : QId) (cid : Nat)
  /-- RUN_ROADWORKS (R491) -/
  | runRoadworks (q : QId) (cid : Nat)
  /-- READ_COUNTERS (R200) -/
  | readCounters (q : QId) (cid : Nat)
  /-- READ_SENSORS (R495) -/
  | readSensors (q : QId) (cid : Nat)
  /-- READ_SURVEY (R496) -/
  | readSurvey (q : QId) (cid : Nat)
  /-- ASSIST_REPLY (R210) -/
  | assistReply (q : QId) (cid : Nat) (data : List Byte)
  /-- INVALID_OPCODE_COMMAND (R192) -/
  | invalidOpcodeCommand (q : QId) (cid : Nat)
  /-- SQ_TAIL_WRITE (R179) -/
  | sqTailWrite (via : FnId) (q : QId) (wr : DoorbellWrite)
  /-- CQ_HEAD_WRITE (R179) -/
  | cqHeadWrite (via : FnId) (q : QId) (wr : DoorbellWrite)
  /-- ASSIST_HEAD_WRITE (R178) -/
  | assistHeadWrite (via : FnId) (owner : Nat) (wr : DoorbellWrite)
  /-- EVENT_HEAD_WRITE (R178) -/
  | eventHeadWrite (via : FnId) (owner : Nat) (wr : DoorbellWrite)
  /-- Q0_ENABLE (R182) -/
  | q0Enable (via : FnId) (value : Nat)
  /-- Q0_DISABLE (R182) -/
  | q0Disable (via : FnId) (value : Nat)
  /-- Q0_IRQ_CONFIG (R182) -/
  | q0IrqConfig (via : FnId) (value : Nat)
  /-- CONTROL_WINDOW_WRITE (R181) -/
  | controlWindowWrite (via : FnId) (off : Nat) (width : Nat) (value : Nat)
  /-- MSIX_UNMASK (R399) -/
  | msixUnmask (via : FnId) (vector : Nat)
  /-- COMMAND_FETCH (R189) -/
  | commandFetch (q : QId) (entry : List Byte) (pb : List Byte)
  /-- COALESCE_TIMER_EXPIRY (R191) -/
  | coalesceTimerExpiry (q : QId)
  /-- DEADLINE_EXPIRY (R206) -/
  | deadlineExpiry (q : QId) (cid : Nat)
  /-- ASSIST_DEADLINE_EXPIRY (R212) -/
  | assistDeadlineExpiry (row : Nat) (id : Nat)
  /-- GEMM (R164) -/
  | gemm (w : WoRef) (mem : Findings)
  /-- GROUPED_LOWRANK (R166) -/
  | groupedLowrank (w : WoRef) (mem : Findings)
  /-- ATTENTION (R167) -/
  | attention (w : WoRef) (mem : Findings)
  /-- NORM (R168) -/
  | norm (w : WoRef) (mem : Findings)
  /-- ELEMENTWISE_ADD (R169) -/
  | elementwiseAdd (w : WoRef) (mem : Findings)
  /-- ELEMENTWISE_MUL (R169) -/
  | elementwiseMul (w : WoRef) (mem : Findings)
  /-- ELEMENTWISE_AXPY (R169) -/
  | elementwiseAxpy (w : WoRef) (mem : Findings)
  /-- ELEMENTWISE_SILU (R169) -/
  | elementwiseSilu (w : WoRef) (mem : Findings)
  /-- ELEMENTWISE_SWIGLU (R169) -/
  | elementwiseSwiglu (w : WoRef) (mem : Findings)
  /-- ELEMENTWISE_RELU (R169) -/
  | elementwiseRelu (w : WoRef) (mem : Findings)
  /-- ELEMENTWISE_CONVERT (R169) -/
  | elementwiseConvert (w : WoRef) (mem : Findings)
  /-- ELEMENTWISE_WADD (R169) -/
  | elementwiseWadd (w : WoRef) (mem : Findings)
  /-- ELEMENTWISE_PASS_FOLD (R169) -/
  | elementwisePassFold (w : WoRef) (mem : Findings)
  /-- ELEMENTWISE_WFIN (R169) -/
  | elementwiseWfin (w : WoRef) (mem : Findings)
  /-- COPY_PLAIN (R170) -/
  | copyPlain (w : WoRef) (mem : Findings)
  /-- COPY_SKEW (R545) -/
  | copySkew (w : WoRef) (mem : Findings)
  /-- COPY_GATHER (R170) -/
  | copyGather (w : WoRef) (mem : Findings)
  /-- COPY_REMOTE (R170) -/
  | copyRemote (w : WoRef) (mem : Findings)
  /-- REDUCE_SEND_LAYER (R341) -/
  | reduceSendLayer (w : WoRef) (mem : Findings)
  /-- REDUCE_SEND_TILE (R342) -/
  | reduceSendTile (w : WoRef) (mem : Findings)
  /-- UPDATE (R172) -/
  | update (w : WoRef) (mem : Findings)
  /-- VIADUCT_PAIR_PASS1 (R364) -/
  | viaductPairPass1 (w : WoRef) (mem : Findings)
  /-- VIADUCT_PAIR_PASS2 (R368) -/
  | viaductPairPass2 (w : WoRef) (mem : Findings)
  /-- SEM_ACQUIRE (R156) -/
  | semAcquire (w : WoRef)
  /-- SEM_RELEASE (R156) -/
  | semRelease (w : WoRef)
  /-- SEM_ADD (R155) -/
  | semAdd (w : WoRef)
  /-- FENCE (R158) -/
  | fence (w : WoRef)
  /-- NOP (R174) -/
  | nop (w : WoRef)
  /-- WORK_ORDER_RETIRE (R150) -/
  | workOrderRetire (w : WoRef)
  /-- SEM_HOLD_LIMIT (R156) -/
  | semHoldLimit (w : WoRef)
  /-- VIADUCT_HOLD_LIMIT (R370) -/
  | viaductHoldLimit (w : WoRef)
  /-- SLICE_EXPIRY (R433) -/
  | sliceExpiry (w : WoRef)
  /-- CONTEXT_SAVE_COMPLETE (R100) -/
  | contextSaveComplete (w : WoRef) (mem : Findings)
  /-- TIMETABLE_CYCLE (R436) -/
  | timetableCycle
  /-- SLOT_LEAD_START (R436) -/
  | slotLeadStart (court : Nat) (slot : Nat)
  /-- SLOT_START (R436) -/
  | slotStart (court : Nat) (slot : Nat)
  /-- SLOT_END (R436) -/
  | slotEnd (court : Nat) (slot : Nat)
  /-- STEP_BOUNDARY (R261) -/
  | stepBoundary (batch : Nat) (heads : List (Nat × Option Nat))
  /-- SERVING_STEP_RETIRE (R276) -/
  | servingStepRetire (batch : Nat) (mem : Findings)
  /-- PARK_COPY_COMPLETE (R281) -/
  | parkCopyComplete (seq : Nat) (mem : Findings)
  /-- RETURN_COPY_COMPLETE (R281) -/
  | returnCopyComplete (seq : Nat) (image : List Byte)
  /-- PARK_TTL_EXPIRY (R281) -/
  | parkTtlExpiry (seq : Nat)
  /-- ADAPTER_COLD_FETCH (R224) -/
  | adapterColdFetch (handle : Nat) (version : Nat) (image : List Byte)
  /-- BASE_RELOAD (R247) -/
  | baseReload (slot : Nat) (image : List Byte)
  /-- CONTRACT_END (R231) -/
  | contractEnd (handle : Nat)
  /-- STEP_OPEN (R290) -/
  | stepOpen (court : Nat) (group : Nat)
  /-- UE_END (R307) -/
  | ueEnd (j : Nat) (word : Nat)
  /-- UE_MOV (R307) -/
  | ueMov (j : Nat) (word : Nat)
  /-- UE_ADD (R307) -/
  | ueAdd (j : Nat) (word : Nat)
  /-- UE_SUB (R307) -/
  | ueSub (j : Nat) (word : Nat)
  /-- UE_MUL (R307) -/
  | ueMul (j : Nat) (word : Nat)
  /-- UE_MADD (R307) -/
  | ueMadd (j : Nat) (word : Nat)
  /-- UE_DIV (R307) -/
  | ueDiv (j : Nat) (word : Nat)
  /-- UE_SQRT (R307) -/
  | ueSqrt (j : Nat) (word : Nat)
  /-- UE_MAX (R307) -/
  | ueMax (j : Nat) (word : Nat)
  /-- UE_MIN (R307) -/
  | ueMin (j : Nat) (word : Nat)
  /-- UE_ABS (R307) -/
  | ueAbs (j : Nat) (word : Nat)
  /-- UE_SIGN (R307) -/
  | ueSign (j : Nat) (word : Nat)
  /-- UE_SEL (R307) -/
  | ueSel (j : Nat) (word : Nat)
  /-- VOTE_CAST (R313) -/
  | voteCast (court : Nat) (group : Nat)
  /-- PROGRESS_TIMEOUT (R348) -/
  | progressTimeout (court : Nat) (group : Nat)
  /-- REDUCE_FRAME (R334) -/
  | reduceFrame
  /-- RESULT_FRAME (R340) -/
  | resultFrame (mem : Findings)
  /-- BROADCAST_FRAME (R340) -/
  | broadcastFrame
  /-- VOTE_FRAME (R347) -/
  | voteFrame
  /-- OUTCOME_FRAME (R314) -/
  | outcomeFrame
  /-- REPAIR_FRAME (R349) -/
  | repairFrame
  /-- FORM_FRAME (R328) -/
  | formFrame
  /-- LEAVE_FRAME (R329) -/
  | leaveFrame
  /-- AVENUE_TRAINING (R376) -/
  | avenueTraining (av : Nat) (look : AvLook)
  /-- AVENUE_TRAIN_RETRY (R377) -/
  | avenueTrainRetry (av : Nat) (look : AvLook)
  /-- AVENUE_HELLO (R460) -/
  | avenueHello (av : Nat) (msg : List Byte)
  /-- AVENUE_KEY_RESPONSE (R460) -/
  | avenueKeyResponse (av : Nat) (msg : List Byte)
  /-- AVENUE_KEY_CONFIRM (R460) -/
  | avenueKeyConfirm (av : Nat) (msg : List Byte)
  /-- AVENUE_AUTH_RETRY (R460) -/
  | avenueAuthRetry (av : Nat)
  /-- DATA_FLIT (R379) -/
  | dataFlit (av : Nat) (flit : List Byte) (fec : FecIn)
  /-- IDLE_FLIT (R379) -/
  | idleFlit (av : Nat) (flit : List Byte) (fec : FecIn)
  /-- NAK (R390) -/
  | nak (av : Nat) (flit : List Byte) (fec : FecIn)
  /-- LANE_SWAP (R393) -/
  | laneSwap (av : Nat) (flit : List Byte) (fec : FecIn)
  /-- WIDTH (R394) -/
  | width (av : Nat) (flit : List Byte) (fec : FecIn)
  /-- RETRAIN (R379) -/
  | retrain (av : Nat) (flit : List Byte) (fec : FecIn)
  /-- REPLAY_TIMEOUT (R390) -/
  | replayTimeout (av : Nat)
  /-- AVENUE_KEY_ROLLOVER (R392) -/
  | avenueKeyRollover (av : Nat) (tx : Bool)
  /-- LANE_FAILURE (R393) -/
  | laneFailure (av : Nat) (lane : Nat)
  /-- PUT (R424) -/
  | put
  /-- GET (R424) -/
  | get (mem : Findings)
  /-- DATA (R424) -/
  | data
  /-- DONE (R426) -/
  | done
  /-- FORWARDED (R429) -/
  | forwarded
  /-- NOTICE (R429) -/
  | notice
  /-- LAST_IN_EPOCH (R429) -/
  | lastInEpoch
  /-- ADOPT (R429) -/
  | adopt
  /-- TIMER (R427) -/
  | timer
  /-- UNREACHABLE (R389) -/
  | unreachable
  /-- PARTNER_RETRY (R425) -/
  | partnerRetry (token : Nat)
  /-- PARTNER_RANGE_EXPIRY (R427) -/
  | partnerRangeExpiry (court : Nat) (n : Nat)
  /-- FUNCTION_LEVEL_RESET (R402) -/
  | functionLevelReset (f : FnId)
  /-- BUS_MASTER_ENABLE_CLEAR (R402) -/
  | busMasterEnableClear (f : FnId)
  /-- BUS_MASTER_ENABLE_SET (R402) -/
  | busMasterEnableSet (f : FnId)
  /-- D3HOT_ENTRY (R402) -/
  | d3hotEntry (f : FnId)
  /-- D0_RETURN (R402) -/
  | d0Return (f : FnId)
  /-- HOST_LINK_DOWN (R402) -/
  | hostLinkDown (port : Nat)
  /-- HOST_LINK_TRAIN (R504) -/
  | hostLinkTrain (port : Nat) (full : Bool)
  /-- VF_ENABLE_CHANGE (R401) -/
  | vfEnableChange (port : Nat) (vfs : Nat)
  /-- HOST_READ_FAULT (R403) -/
  | hostReadFault (q : QId) (what : HostRead)
  /-- HOST_READ_TIMEOUT (R403) -/
  | hostReadTimeout (q : QId) (what : HostRead)
  /-- IDE_STREAM_FAIL (R404) -/
  | ideStreamFail (f : FnId)
  /-- SPDM_MESSAGE (R462) -/
  | spdmMessage (port : Nat) (msg : List Byte)
  /-- IDE_KM (R404) -/
  | ideKm (port : Nat) (msg : List Byte)
  /-- I3C_ENTDAA (R405) -/
  | i3cEntdaa (addr : Nat)
  /-- I3C_SETDASA (R405) -/
  | i3cSetdasa (static : Nat) (addr : Nat)
  /-- I3C_CCC (R405) -/
  | i3cCcc (code : Nat) (data : List Byte)
  /-- SET_ENDPOINT_ID (R406) -/
  | setEndpointId (msg : List Byte)
  /-- MCTP_CONTROL_MESSAGE (R406) -/
  | mctpControlMessage (msg : List Byte)
  /-- MCTP_UNSUPPORTED_TYPE (R406) -/
  | mctpUnsupportedType (msg : List Byte)
  /-- GET_TID (R407) -/
  | getTid (msg : List Byte)
  /-- SET_TID (R407) -/
  | setTid (msg : List Byte)
  /-- GET_PLDM_VERSION (R407) -/
  | getPldmVersion (msg : List Byte)
  /-- GET_PLDM_TYPES (R407) -/
  | getPldmTypes (msg : List Byte)
  /-- GET_PLDM_COMMANDS (R407) -/
  | getPldmCommands (msg : List Byte)
  /-- GET_PDR_REPOSITORY_INFO (R407) -/
  | getPdrRepositoryInfo (msg : List Byte)
  /-- GET_PDR (R407) -/
  | getPdr (msg : List Byte)
  /-- GET_SENSOR_READING (R408) -/
  | getSensorReading (msg : List Byte)
  /-- GET_STATE_SENSOR_READINGS (R408) -/
  | getStateSensorReadings (msg : List Byte)
  /-- SET_EVENT_RECEIVER (R408) -/
  | setEventReceiver (msg : List Byte)
  /-- GET_FRU_RECORD_TABLE_METADATA (R407) -/
  | getFruRecordTableMetadata (msg : List Byte)
  /-- GET_FRU_RECORD_TABLE (R407) -/
  | getFruRecordTable (msg : List Byte)
  /-- REQUEST_UPDATE (R409) -/
  | requestUpdate (msg : List Byte)
  /-- PLDM_FIRMWARE_TRANSFER (R409) -/
  | pldmFirmwareTransfer (msg : List Byte)
  /-- PLDM_ACTIVATE_FIRMWARE (R409) -/
  | pldmActivateFirmware (msg : List Byte)
  /-- GET_STATUS (R407) -/
  | getStatus (msg : List Byte)
  /-- CANCEL_UPDATE (R409) -/
  | cancelUpdate (msg : List Byte)
  /-- PLDM_UNSUPPORTED_CMD (R407) -/
  | pldmUnsupportedCmd (msg : List Byte)
  /-- PLDM_UPDATE_IDLE_TIMEOUT (R409) -/
  | pldmUpdateIdleTimeout
  /-- SENSOR_REFRESH (R408) -/
  | sensorRefresh (reads : List (Nat × F32))
  /-- STATUS_SAMPLE (R39) -/
  | statusSample
  /-- SQUARE_HEARTBEAT (R508) -/
  | squareHeartbeat
  /-- SQUARE_TIME_SYNC (R40) -/
  | squareTimeSync
  /-- SQUARE_TAKEOVER (R508) -/
  | squareTakeover (drift : Int) (check : Bool)
  /-- STANDBY_RESYNC_COMPLETE (R508) -/
  | standbyResyncComplete
  /-- FIRMWARE_COMMIT (R513) -/
  | firmwareCommit
  /-- SCRUB_READ (R124) -/
  | scrubRead (line : Nat) (found : Findings)
  /-- ECS_COUNTER_READ (R120) -/
  | ecsCounterRead (slot : Nat) (value : Nat)
  /-- ERROR_BUCKET_ROLL (R127) -/
  | errorBucketRoll
  /-- CHANNEL_MAPOUT (R130) -/
  | channelMapout
  /-- MAPOUT_DONE (R130) -/
  | mapoutDone
  /-- CHANNEL_HARD_FAIL (R131) -/
  | channelHardFail (slot : Nat)
  /-- REFCLK_SWITCH (R37) -/
  | refclkSwitch (die : Nat) (ppm : Option Int)
  /-- REFCLK_BOTH_LOST (R37) -/
  | refclkBothLost (die : Nat) (ppm : Option Int)
  /-- JUNCTION_REF_LOST (R526) -/
  | junctionRefLost (die : Nat) (ppm : Option Int)
  /-- PLL_UNLOCK (R494) -/
  | pllUnlock (die : Nat)
  /-- DIE_LINK_LANE_REPAIR (R24) -/
  | dieLinkLaneRepair
  /-- SURVEY_MEASURE (R477) -/
  | surveyMeasure (die : Nat) (meas : Meas)
  /-- AVS_RAIL_CONFIRM (R479) -/
  | avsRailConfirm (die : Nat) (read : Option Nat) (meas : Meas)
  /-- SPARE_SWAP (R481) -/
  | spareSwap (block : Nat) (meas : Meas)
  /-- ROADWORKS_DECISION (R484) -/
  | roadworksDecision (die : Nat) (look : SliceCheck)
  /-- SLICE_COMPLETE (R487) -/
  | sliceComplete (block : Nat) (result : Nat) (rows : Nat) (meas : Meas)
  /-- SLICE_ABANDON (R488) -/
  | sliceAbandon (block : Nat)
  /-- VISIT_LAPSED (R484) -/
  | visitLapsed (block : Nat)
  /-- BLOCK_FAULT (R489) -/
  | blockFault (block : Nat) (check : Nat)
  /-- BLOCK_WATCHDOG_TRIP (R489) -/
  | blockWatchdogTrip (block : Nat)
  /-- AVAILABILITY_HOURLY_WRITE (R499) -/
  | availabilityHourlyWrite
  /-- GLITCH_TRIP (R471) -/
  | glitchTrip (die : Nat)
  /-- POWER_MEASURE (R518) -/
  | powerMeasure (mw : Nat)
  /-- PWRBRK_ASSERT (R519) -/
  | pwrbrkAssert
  /-- PWRBRK_DEASSERT (R519) -/
  | pwrbrkDeassert
  /-- THERMAL_TRIP (R520) -/
  | thermalTrip (die : Nat)
  /-- POWER_ON (R501) -/
  | powerOn
  /-- POWER_LOSS (R501) -/
  | powerLoss
  /-- VDD_IO_LOSS (R534) -/
  | vddIoLoss
  /-- PERST_ASSERT (R533) -/
  | perstAssert
  /-- PERST_DEASSERT (R504) -/
  | perstDeassert (straps : Straps) (finds : BootFinds)
  /-- BOOT_FABRIC_TIMEOUT (R504) -/
  | bootFabricTimeout
  /-- TAP_BYPASS (R535) -/
  | tapBypass
  /-- TAP_IDCODE (R535) -/
  | tapIdcode
  /-- TAP_SAMPLE_PRELOAD (R535) -/
  | tapSamplePreload (pins : Nat) (shift : Nat)
  /-- TAP_EXTEST (R535) -/
  | tapExtest (pins : Nat) (shift : Nat)
  /-- TAP_CLAMP (R535) -/
  | tapClamp
  /-- TAP_HIGHZ (R535) -/
  | tapHighz
  /-- TAP_PRIVATE (R442) -/
  | tapPrivate (ir : Nat)
  /-- FATAL_DIE_FAULT (R497) -/
  | fatalDieFault (die : Nat)
  /-- STANDBY_SQUARE_FAILURE (R508) -/
  | standbySquareFailure
  /-- CLOCK_GLIDE_COMPLETE (R480) -/
  | clockGlideComplete (die : Nat) (meas : Meas)
  /-- NEIGHBOUR_RESET (R376) -/
  | neighbourReset (av : Nat)
  deriving DecidableEq, Repr

end Sys2Proof
end

