-- ==== Sys2Proof/Machine/Table.lean ====
section
/-! DEFINITION. Named operations on sparse tables, byte strings and bit fields. -/

namespace Sys2Proof.Machine

/-- The entry at key `k`. -/
def tblGet {α : Type} : Tbl α → Nat → Option α
  | [], _ => none
  | (i, a) :: t, k => if k = i then some a else tblGet t k

/-- Sets the entry at key `k`, keeping the keys strictly rising. -/
def tblSet {α : Type} : Tbl α → Nat → α → Tbl α
  | [], k, v => [(k, v)]
  | (i, a) :: t, k, v =>
    if k < i then (k, v) :: (i, a) :: t
    else if k = i then (k, v) :: t
    else (i, a) :: tblSet t k v

/-- Removes the entry at key `k`. -/
def tblErase {α : Type} (t : Tbl α) (k : Nat) : Tbl α := t.filter (fun p => p.1 != k)

/-- Applies `f` to the entry at key `k`, if there is one. -/
def tblModify {α : Type} : Tbl α → Nat → (α → α) → Tbl α
  | [], _, _ => []
  | (i, a) :: t, k, f => if k = i then (i, f a) :: t else (i, a) :: tblModify t k f

/-- The entries of a table in key order. -/
def tblVals {α : Type} (t : Tbl α) : List α := t.map (fun p => p.2)

/-- The entry at key `k`, or `d` where there is none. -/
def tblGetD {α : Type} (t : Tbl α) (k : Nat) (d : α) : α := (tblGet t k).getD d

/-- The keys strictly rise: the canonical form of a table. -/
def tblWf {α : Type} : Tbl α → Bool
  | [] => true
  | [_] => true
  | (i, _) :: (j, b) :: t => decide (i < j) && tblWf ((j, b) :: t)

/-- The number a little-endian byte string stands for. -/
def leNat : List Byte → Nat
  | [] => 0
  | b :: t => b.toNat + 256 * leNat t

/-- The `n` low bytes of `v`, little-endian. -/
def natLe : Nat → Nat → List Byte
  | 0, _ => []
  | n + 1, v => BitVec.ofNat 8 v :: natLe n (v / 256)

/-- The `n` low bytes of `v`, big-endian. -/
def natBe (n v : Nat) : List Byte := (natLe n v).reverse

/-- The number a big-endian byte string stands for. -/
def beNat (l : List Byte) : Nat := leNat l.reverse

/-- Field of `len` bytes at offset `off`, little-endian; bytes beyond the string read as zero. -/
def fld (b : List Byte) (off len : Nat) : Nat := leNat ((b.drop off).take len)

/-- The `len` bytes at offset `off`. -/
def slice (b : List Byte) (off len : Nat) : List Byte := (b.drop off).take len

/-- Every byte of the field `[off, off + len)` is zero (R12). -/
def zeroFld (b : List Byte) (off len : Nat) : Bool := (slice b off len).all (fun x => x == 0#8)

/-- `n` zero bytes. -/
def zeros (n : Nat) : List Byte := List.replicate n 0#8

/-- The string cut or padded with zero bytes to `n` bytes. -/
def padTo (n : Nat) (b : List Byte) : List Byte := (b ++ zeros (n - b.length)).take n

/-- Bit `i` of `v`. -/
def bit (v i : Nat) : Bool := v / 2 ^ i % 2 == 1

/-- Bits `[hi:lo]` of `v`. -/
def bits (v hi lo : Nat) : Nat := v / 2 ^ lo % 2 ^ (hi + 1 - lo)

/-- A Boolean as a bit. -/
def b2n (b : Bool) : Nat := if b then 1 else 0

/-- The two's complement reading of the `w` low bits of `v`. -/
def toSigned (w v : Nat) : Int :=
  let u := v % 2 ^ w
  if bit u (w - 1) then (u : Int) - (2 ^ w : Nat) else (u : Int)

/-- The `w`-bit two's complement pattern of `i`. -/
def ofSigned (w : Nat) (i : Int) : Nat := (i % ((2 ^ w : Nat) : Int)).toNat

/-- Saturating addition of a `w`-bit counter. -/
def satAdd (w a b : Nat) : Nat := min (a + b) (2 ^ w - 1)

/-- `a` rounded up to a multiple of `m`. -/
def roundUp (a m : Nat) : Nat := (a + m - 1) / m * m

/-- Ceiling of `a / m`. -/
def ceilDiv (a m : Nat) : Nat := (a + m - 1) / m

/-- Applies `f` to `0, 1, …, n − 1` in turn. -/
def forUpto {σ : Type} (n : Nat) (f : Nat → σ → σ) (s : σ) : σ := (List.range n).foldl (fun s i => f i s) s

/-- Replaces the bytes of `base` from `off` with `b`. -/
def splice (base : List Byte) (off : Nat) (b : List Byte) : List Byte :=
  base.take off ++ b ++ base.drop (off + b.length)

/-- Cuts a list into pieces of `n` (the last may be shorter); `fuel` bounds the number of pieces. -/
def chunks {α : Type} (n : Nat) : Nat → List α → List (List α)
  | 0, _ => []
  | fuel + 1, l => if l.isEmpty then [] else l.take n :: chunks n fuel (l.drop n)

end Sys2Proof.Machine
end

