-- ==== Sys2Proof/Machine/Float.lean ====
section
/-! DEFINITION. FP32 arithmetic with one correct rounding, saturation and its count
(spec/02_number_formats_and_accumulation.md R52, R53, R55, R56, R541). -/

namespace Sys2Proof.Machine

/-! ### Exact numbers -/

/-- The signed integer `m × 2^e` as an exact number. -/
def dyOf (m e : Int) : Dy := ⟨decide (m < 0), m.natAbs, e⟩

/-- Zero. -/
def dyZero : Dy := ⟨false, 0, 0⟩

/-- The mantissa of `x` at exponent `e`, exact when `e ≤ x.exp`. -/
def dyAt (x : Dy) (e : Int) : Int :=
  let m : Int := ((x.mag <<< (x.exp - e).toNat : Nat) : Int)
  if x.neg then -m else m

/-- Exact sum; an exact zero is positive. -/
def dyAdd (x y : Dy) : Dy :=
  let e := min x.exp y.exp
  dyOf (dyAt x e + dyAt y e) e

/-- The negative of `x`. -/
def dyNeg (x : Dy) : Dy := { x with neg := !x.neg }

/-- Exact product. -/
def dyMul (x y : Dy) : Dy := ⟨x.neg != y.neg, x.mag * y.mag, x.exp + y.exp⟩

/-- `x × 2^k`. -/
def dyScale (x : Dy) (k : Int) : Dy := { x with exp := x.exp + k }

/-- The magnitude of `x`. -/
def dyAbs (x : Dy) : Dy := { x with neg := false }

/-- `x < y`, exactly. -/
def dyLt (x y : Dy) : Bool :=
  let e := min x.exp y.exp
  decide (dyAt x e < dyAt y e)

/-- `x ≤ y`, exactly. -/
def dyLe (x y : Dy) : Bool := !dyLt y x

/-- `x` is zero of either sign. -/
def dyIsZero (x : Dy) : Bool := x.mag == 0

/-- floor(log2 |x|) of a non-zero `x`. -/
def dyLog2 (x : Dy) : Int := (Nat.log2 x.mag : Int) + x.exp

/-- floor of `x`. -/
def dyFloor (x : Dy) : Int :=
  if 0 ≤ x.exp then dyAt x 0
  else
    let d : Int := ((2 ^ (-x.exp).toNat : Nat) : Int)
    (if x.neg then -(x.mag : Int) else (x.mag : Int)) / d

/-! ### Rounding to a format -/

/-- The rounding modes of R52; `sr` carries the 16-bit random value of R54. -/
inductive Rounding where
  | rne
  | rtz
  | sr (r : Nat)
  deriving DecidableEq, Repr

/-- A binary floating-point format: mantissa bits, bias, encoding of the largest finite
magnitude, encoding of NaN and position of the sign bit (R44, R55). -/
structure FloatFmt where
  mant : Nat
  bias : Nat
  maxEnc : Nat
  nanEnc : Nat
  sign : Nat
  deriving DecidableEq, Repr

/-- FP32 (R44). -/
def fmtF32 : FloatFmt := ⟨23, 127, 0x7F7FFFFF, 0x7FC00000, 31⟩
/-- BF16 (R44). -/
def fmtBF16 : FloatFmt := ⟨7, 127, 0x7F7F, 0x7FC0, 15⟩
/-- FP16 (R44). -/
def fmtFP16 : FloatFmt := ⟨10, 15, 0x7BFF, 0x7E00, 15⟩
/-- FP8 E5M2 (R44). -/
def fmtE5M2 : FloatFmt := ⟨2, 15, 0x7B, 0x7E, 7⟩
/-- FP8 E4M3 (R44). -/
def fmtE4M3 : FloatFmt := ⟨3, 7, 0x7E, 0x7F, 7⟩
/-- FP6 E3M2 (R44); no NaN encoding. -/
def fmtE3M2 : FloatFmt := ⟨2, 3, 0x1F, 0, 5⟩
/-- FP6 E2M3 (R44); no NaN encoding. -/
def fmtE2M3 : FloatFmt := ⟨3, 1, 0x1F, 0, 5⟩
/-- FP4 E2M1 (R44); no NaN encoding. -/
def fmtE2M1 : FloatFmt := ⟨1, 1, 0x7, 0, 3⟩

/-- `mag` without its `s` low bits, rounded as `m` says (R52). -/
def roundShift (m : Rounding) (mag s : Nat) : Nat :=
  let kept := mag / 2 ^ s
  let rem := mag % 2 ^ s
  match m with
  | .rne => if 2 ^ s < 2 * rem ∨ (2 * rem = 2 ^ s ∧ kept % 2 = 1) then kept + 1 else kept
  | .rtz => kept
  | .sr r => if 65536 ≤ rem * 65536 / 2 ^ s + r then kept + 1 else kept

/-- The magnitude `mag × 2^e` rounded to a multiple of `2^q`, as that multiple. -/
def roundAt (m : Rounding) (mag : Nat) (e q : Int) : Nat :=
  if e ≤ q then roundShift m mag (q - e).toNat else mag <<< (e - q).toNat

/-- The magnitude encoding of `mag × 2^e` in `f`, and whether it saturated (R52, R53, R56). -/
def encMag (f : FloatFmt) (m : Rounding) (mag : Nat) (e : Int) : Nat × Bool :=
  if mag = 0 then (0, false)
  else
    let q : Int := max ((Nat.log2 mag : Int) + e) (1 - (f.bias : Int)) - (f.mant : Int)
    let enc := (q + f.mant + f.bias - 1).toNat * 2 ^ f.mant + roundAt m mag e q
    if f.maxEnc < enc then (f.maxEnc, true) else (enc, false)

/-- Adds one saturation to the counts (R53). -/
def countSat : FpM Unit := modify (fun c => { c with sat := c.sat + 1 })

/-- Adds `n` elements written as NaN to the counts (R55). -/
def countNonfin (n : Nat) : FpM Unit := modify (fun c => { c with nonfin := c.nonfin + n })

/-- Encodes `x` in `f`: an exact zero is +0 (R56), an overflow is the signed max and counts (R53). -/
def encFloat (f : FloatFmt) (m : Rounding) (x : Dy) : FpM Nat := do
  let p := encMag f m x.mag x.exp
  if p.2 then countSat
  if x.mag = 0 then return 0
  return p.1 + (if x.neg then 2 ^ f.sign else 0)

/-- Decodes a pattern of a format whose all-ones exponent is reserved when `ieee` is set: `none` is
NaN or infinity. -/
def decFloat (f : FloatFmt) (ieee : Bool) (w : Nat) : Option Dy :=
  let mag := w % 2 ^ f.sign
  let neg := bit w f.sign
  let ef := mag / 2 ^ f.mant
  let fr := mag % 2 ^ f.mant
  if ieee && decide (f.maxEnc < mag) then none
  else if ef = 0 then some ⟨neg, fr, 1 - (f.bias : Int) - (f.mant : Int)⟩
  else some ⟨neg, fr + 2 ^ f.mant, (ef : Int) - (f.bias : Int) - (f.mant : Int)⟩

/-! ### FP32 operations (R541) -/

/-- The canonical FP32 NaN (R55). -/
def nan32 : F32 := 0x7FC00000

/-- The largest finite FP32. -/
def max32 : F32 := 0x7F7FFFFF

/-- 1.0. -/
def one32 : F32 := 0x3F800000

/-- The value of an FP32 word; NaN and the infinities are `none` (R541). -/
def f32Val (w : F32) : Option Dy := decFloat fmtF32 true w

/-- `w` is NaN or acts as NaN (R541). -/
def f32IsNan (w : F32) : Bool := (f32Val w).isNone

/-- One rounding to nearest even to FP32 (R53, R56). -/
def f32Round (x : Dy) : FpM F32 := encFloat fmtF32 .rne x

/-- Lifts an exact binary operation to FP32 with one rounding. -/
def f32Op2 (op : Dy → Dy → Dy) (a b : F32) : FpM F32 :=
  match f32Val a, f32Val b with
  | some x, some y => f32Round (op x y)
  | _, _ => pure nan32

/-- rne(a + b). -/
def f32Add (a b : F32) : FpM F32 := f32Op2 dyAdd a b
/-- rne(a − b). -/
def f32Sub (a b : F32) : FpM F32 := f32Op2 (fun x y => dyAdd x (dyNeg y)) a b
/-- rne(a × b). -/
def f32Mul (a b : F32) : FpM F32 := f32Op2 dyMul a b

/-- The quotient of two positive magnitudes, with a sticky last bit that keeps every later rounding correct. -/
def quotSticky (a b : Nat) (e : Int) : Nat × Int :=
  let n := a <<< 96
  let q := n / b
  (2 * q + (if n % b = 0 then 0 else 1), e - 97)

/-- Correctly rounded a / b; 0/0 is NaN, x/0 saturates with the IEEE sign (R541). -/
def f32Div (a b : F32) : FpM F32 :=
  match f32Val a, f32Val b with
  | some x, some y =>
    if y.mag = 0 then
      if x.mag = 0 then pure nan32
      else do
        countSat
        return max32 + (if x.neg != y.neg then 2 ^ 31 else 0)
    else
      let p := quotSticky x.mag y.mag (x.exp - y.exp)
      f32Round ⟨x.neg != y.neg, p.1, p.2⟩
  | _, _ => pure nan32

/-- Integer square root by bits: the largest `r` with `r² ≤ n`, for `n` below 2^(2 × bits). -/
def isqrtBits : Nat → Nat → Nat → Nat
  | 0, _, acc => acc
  | k + 1, n, acc =>
    let t := acc + 2 ^ k
    isqrtBits k n (if t * t ≤ n then t else acc)

/-- Correctly rounded square root; of a negative value, NaN (R541). -/
def f32Sqrt (a : F32) : FpM F32 :=
  match f32Val a with
  | none => pure nan32
  | some x =>
    if x.mag = 0 then pure 0
    else if x.neg then pure nan32
    else
      let k : Nat := if x.exp % 2 = 0 then 64 else 65
      let n := x.mag <<< k
      let r := isqrtBits 60 n 0
      f32Round ⟨false, 2 * r + (if r * r = n then 0 else 1), (x.exp - k) / 2 - 1⟩

/-- The FP32 nearest to an integer, by round-to-nearest-even. -/
def f32OfInt (i : Int) : FpM F32 := f32Round (dyOf i 0)

/-- −a. -/
def f32Neg (a : F32) : F32 := if f32IsNan a then nan32 else a ^^^ 0x80000000

/-- |a|. -/
def f32Abs (a : F32) : F32 := if f32IsNan a then nan32 else a % 2 ^ 31

/-- a < b for two non-NaN words; false where either acts as NaN. -/
def f32Lt (a b : F32) : Bool :=
  match f32Val a, f32Val b with
  | some x, some y => dyLt x y
  | _, _ => false

/-- The larger of two words; NaN when either is NaN (R97). -/
def f32Max (a b : F32) : F32 :=
  if f32IsNan a || f32IsNan b then nan32 else if f32Lt a b then b else a

/-- Runs an FP computation from no counts. -/
def runFp {α : Type} (m : FpM α) : α × Counts := Id.run (StateT.run m ⟨0, 0⟩)

/-- The value of an FP computation whose counts are not kept. -/
def fpVal {α : Type} (m : FpM α) : α := (runFp m).1

end Sys2Proof.Machine
end

