-- ==== Sys2Proof/Machine/Formats.lean ====
section
/-! DEFINITION. Element formats: codes, packing, decoding, conversion, MX and RB8 blocks
(spec/02_number_formats_and_accumulation.md R44 to R57, R542; spec/05_work_orders.md R145, R146). -/

namespace Sys2Proof.Machine

/-- Element code of a format byte (R145). -/
def fmtCode (f : Nat) : Nat := f % 64
/-- TSCALED bit of a format byte (R145). -/
def fmtTscaled (f : Nat) : Bool := bit f 6
/-- MX bit of a format byte (R145). -/
def fmtMx (f : Nat) : Bool := bit f 7

/-- Width of one element in bits, by element code (R44); a WINDOW record is 16 bytes (R62). -/
def elemBits (code : Nat) : Nat :=
  match code with
  | 0x00 => 32 | 0x01 => 16 | 0x02 => 16 | 0x03 => 8 | 0x04 => 8 | 0x05 => 6 | 0x06 => 6
  | 0x07 => 4 | 0x08 => 8 | 0x09 => 16 | 0x0A => 32 | 0x0B => 8 | 0x0C => 128 | 0x0D => 8
  | _ => 0

/-- The format byte is one R145 allows. -/
def fmtLegal (f : Nat) : Bool :=
  let c := fmtCode f
  decide (c ≤ 0x0D) &&
  (!fmtTscaled f || c == 3 || c == 4) &&
  (!fmtMx f || ((3 ≤ c && c ≤ 7) || c == 0x0B || c == 0x0D)) &&
  !(fmtTscaled f && fmtMx f) &&
  !((c == 0x0B || c == 0x0D) && !fmtMx f)

/-- Bytes of a row of `n` packed elements (R45); FP6 groups are padded to whole groups. -/
def rowBytes (code n : Nat) : Nat :=
  match elemBits code with
  | 4 => (n + 1) / 2
  | 6 => (n + 3) / 4 * 3
  | b => n * b / 8

/-- Raw bits of element `i` of a packed row (R45). -/
def elemRaw (code : Nat) (row : List Byte) (i : Nat) : Nat :=
  match elemBits code with
  | 4 => (fld row (i / 2) 1) / 16 ^ (i % 2) % 16
  | 6 => (fld row (i / 4 * 3) 3) / 64 ^ (i % 4) % 64
  | b => fld row (i * (b / 8)) (b / 8)

/-- The value of an element without its block scale; NaN and infinity are `none` (R44, R50, R51). -/
def elemVal (code raw : Nat) : Option Dy :=
  match code with
  | 0x00 => decFloat fmtF32 true raw
  | 0x01 => decFloat fmtBF16 true raw
  | 0x02 => decFloat fmtFP16 true raw
  | 0x03 => decFloat fmtE5M2 true raw
  | 0x04 => decFloat fmtE4M3 true raw
  | 0x05 => decFloat fmtE3M2 false raw
  | 0x06 => decFloat fmtE2M3 false raw
  | 0x07 => decFloat fmtE2M1 false raw
  | 0x08 => some (dyOf (toSigned 8 raw) 0)
  | 0x09 => some (dyOf (toSigned 16 raw) 0)
  | 0x0A => some (dyOf (toSigned 32 raw) 0)
  | 0x0B => some (dyOf (toSigned 8 raw) (-6))
  | 0x0D => some (dyOf raw (-7))
  | _ => none

/-- The largest finite magnitude of an element code, as an exact number (R44). -/
def elemMax (code : Nat) : Dy :=
  match code with
  | 0x03 => ⟨false, 57344, 0⟩
  | 0x04 => ⟨false, 448, 0⟩
  | 0x05 => ⟨false, 28, 0⟩
  | 0x06 => ⟨false, 15, -1⟩
  | 0x07 => ⟨false, 6, 0⟩
  | 0x0B => ⟨false, 127, -6⟩
  | _ => ⟨false, 255, -7⟩

/-- Encodes an integer result: rounds `x` to a multiple of `2^(-frac)`, saturates to `±maxv` and
counts (R53). The result is the two's complement pattern of `w` bits. -/
def encInt (w maxv frac : Nat) (m : Rounding) (x : Dy) : FpM Nat := do
  let k := roundAt m x.mag x.exp (-(frac : Int))
  if maxv < k then countSat
  let k := min k maxv
  return ofSigned w (if x.neg then -(k : Int) else (k : Int))

/-- Encodes an RB8 element: a negative value becomes 0 and counts (R542); limited to 255 (R49). -/
def encRb8 (m : Rounding) (x : Dy) : FpM Nat := do
  if x.neg && x.mag != 0 then
    countSat
    return 0
  let k := roundAt m x.mag x.exp (-7)
  if 255 < k then countSat
  return min k 255

/-- Converts a finite value to an element of `code` (R52, R53, R56). -/
def encElem (code : Nat) (m : Rounding) (x : Dy) : FpM Nat :=
  match code with
  | 0x00 => encFloat fmtF32 m x
  | 0x01 => encFloat fmtBF16 m x
  | 0x02 => encFloat fmtFP16 m x
  | 0x03 => encFloat fmtE5M2 m x
  | 0x04 => encFloat fmtE4M3 m x
  | 0x05 => encFloat fmtE3M2 m x
  | 0x06 => encFloat fmtE2M3 m x
  | 0x07 => encFloat fmtE2M1 m x
  | 0x08 => encInt 8 127 0 m x
  | 0x09 => encInt 16 32767 0 m x
  | 0x0A => encInt 32 2147483647 0 m x
  | 0x0B => encInt 8 127 6 m x
  | 0x0D => encRb8 m x
  | _ => pure 0

/-- The pattern a NaN result takes in a plain output format (R55). -/
def elemNan (code : Nat) : Nat :=
  match code with
  | 0x00 => 0x7FC00000 | 0x01 => 0x7FC0 | 0x02 => 0x7E00 | 0x03 => 0x7E | 0x04 => 0x7F | _ => 0

/-- Converts the FP32 word `z` to a plain element of `code`; a NaN is written and counted (R55). -/
def convElem (code : Nat) (m : Rounding) (z : F32) : FpM Nat :=
  match f32Val z with
  | none => do
    countNonfin 1
    return elemNan code
  | some x => encElem code m x

/-- The smallest `k` with `amax ≤ max × 2^k` (R57). -/
def mxExp (code : Nat) (amax : Dy) : Int :=
  let k0 := dyLog2 amax - dyLog2 (elemMax code)
  if dyLe amax (dyScale (elemMax code) k0) then k0 else k0 + 1

/-- The largest magnitude of a list of values. -/
def dyMaxAbs : List Dy → Dy
  | [] => dyZero
  | x :: t =>
    let y := dyMaxAbs t
    if dyLt y (dyAbs x) then dyAbs x else y

/-- The E8M0 scale of an MX output block of amax `a` (R57). -/
def mxScale (code : Nat) (a : Dy) : Nat :=
  if a.mag = 0 then 127 else (max 0 (min 254 (127 + mxExp code a))).toNat

/-- floor(log2 rmax) + 127 limited to 0 … 254, for the RB8 encoding (R49). -/
def rb8Scale (a : Dy) : Nat :=
  if a.mag = 0 then 0 else (max 0 (min 254 (dyLog2 a + 127))).toNat

/-- Whether the rounded q of rmax equals 256 at scale `X`, so that the block encodes again (R49). -/
def rb8Bump (a : Dy) (X : Nat) : Bool :=
  a.mag != 0 && decide (X < 254) && roundAt .rne a.mag (a.exp + (134 - (X : Int))) 0 == 256

/-- The scale of an output block: R57 for MX elements, R49 and R542 for RB8. -/
def blockScale (code : Nat) (vals : List Dy) : Nat :=
  if code = 0x0D then
    let a := dyMaxAbs (vals.filter (fun x => !x.neg))
    let X := rb8Scale a
    if rb8Bump a X then X + 1 else X
  else mxScale code (dyMaxAbs vals)

/-- Converts the elements of a block at scale `X`, element `i` rounded in mode `m i`; `none` is a
column excluded from the block, written as element 0 (R98). -/
def convBlockElems (code X : Nat) (m : Nat → Rounding) : Nat → List (Option F32) → FpM (List Nat)
  | _, [] => pure []
  | i, none :: t => do
    let r ← convBlockElems code X m (i + 1) t
    return 0 :: r
  | i, some z :: t => do
    let q ← (match f32Val z with
      | none => do
        countNonfin 1
        return elemNan code
      | some x => encElem code (m i) (dyScale x (127 - (X : Int))))
    let r ← convBlockElems code X m (i + 1) t
    return q :: r

/-- Encodes one MX or RB8 block: its scale byte and its element patterns (R55, R57, R98, R49).
A NaN among the valid columns makes a format without a NaN encoding write scale 0xFF. -/
def encBlock (code : Nat) (m : Nat → Rounding) (cols : List (Option F32)) : FpM (Nat × List Nat) := do
  let valid := cols.filterMap id
  if valid.any f32IsNan && !(code == 3 || code == 4) then
    countNonfin valid.length
    return (0xFF, cols.map (fun _ => 0))
  let X := blockScale code (valid.filterMap f32Val)
  let q ← convBlockElems code X m 0 cols
  return (X, q)

/-- Packs element patterns into bytes (R45). -/
def packElems (code : Nat) (qs : List Nat) : List Byte :=
  match elemBits code with
  | 4 => (chunks 2 qs.length qs).flatMap (fun p => natLe 1 (p.getD 0 0 + 16 * p.getD 1 0))
  | 6 => (chunks 4 qs.length qs).flatMap
      (fun p => natLe 3 (p.getD 0 0 + 64 * p.getD 1 0 + 4096 * p.getD 2 0 + 262144 * p.getD 3 0))
  | b => qs.flatMap (natLe (b / 8))

/-- The FP32 word an ELEMENTWISE or NORM input element converts to (R169): exact where FP32 holds it,
otherwise round-to-nearest-even with no count; NaN and infinities act as NaN. -/
def elemToF32 (v : Option Dy) : F32 :=
  match v with
  | none => nan32
  | some x => if x.mag = 0 then (if x.neg then 0x80000000 else 0) else fpVal (f32Round x)

end Sys2Proof.Machine
end

