-- ==== Sys2Proof/Config.lean ====
section
/-! DEFINITION. What the spec leaves open: free values and the cryptographic functions whose standards it only names.
Every constant is opaque, so no proof can see a value of it (notes/assumptions 5, 6). -/

namespace Sys2Proof

/-- The free value number `n`: what a value that the spec leaves open is on that occasion. -/
opaque Config.freeNat (n : Nat) : Nat

/-- The byte at place `a` of free contents number `tag` (04 R112, 05 R152). -/
opaque Config.freeByte (tag a : Nat) : Byte

/-- The three RS(68,65) check symbols of 64 data bytes and a tag byte (04 R120). -/
opaque Config.rsCheck (data : List Byte) (tag : Byte) : BitVec 24

/-- Bytes of the Watch's random bit generator, draw `n`, `len` bytes (14 R444). -/
opaque Config.rbg (n len : Nat) : List Byte

/-- AES-256-GCM encryption: key, nonce, additional data, plaintext to ciphertext and 16-byte tag. -/
opaque Config.gcmSeal (key nonce aad plain : List Byte) : List Byte × List Byte

/-- AES-256-GCM decryption, none where the tag fails. -/
opaque Config.gcmOpen (key nonce aad cipher tag : List Byte) : Option (List Byte)

/-- SLH-DSA-SHA2-128s verification: public key, message, signature (FIPS 205). -/
opaque Config.slhVerify (pub msg sig : List Byte) : Bool

/-- SLH-DSA-SHA2-128s signature of a message under a private seed (FIPS 205). -/
opaque Config.slhSign (seed msg : List Byte) : List Byte

/-- SLH-DSA public key of a private seed (FIPS 205). -/
opaque Config.slhPublic (seed : List Byte) : List Byte

/-- ML-KEM-1024 key generation from a seed: encapsulation key and decapsulation key (FIPS 203). -/
opaque Config.kemKeys (seed : List Byte) : List Byte × List Byte

/-- ML-KEM-1024 encapsulation to a key with randomness: ciphertext and shared secret (FIPS 203). -/
opaque Config.kemEncap (ek rnd : List Byte) : List Byte × List Byte

/-- ML-KEM-1024 decapsulation (FIPS 203). -/
opaque Config.kemDecap (dk cipher : List Byte) : List Byte

/-- AES-256-XTS encryption of one data unit: data key, tweak key, tweak, plaintext (14 R461). -/
opaque Config.xtsSeal (k1 k2 tweak plain : List Byte) : List Byte

/-- AES-256-XTS decryption of one data unit (14 R461). -/
opaque Config.xtsOpen (k1 k2 tweak cipher : List Byte) : List Byte

/-- The set of the stack cache of its stack that a line falls into: the set-index function (04 R109). -/
opaque Config.cacheSet (line : Nat) : Nat

/-- Whether a part code is that of a member of the Ralio family, beside the device's own (14 R460). -/
opaque Config.familyPart (code : Nat) : Bool

/-- The device root secret (14 R445). -/
opaque Config.drs : List Byte

/-- The identity certificate in flash, and Fenermeb's root public key (14 R463). -/
opaque Config.idCert : List Byte

/-- Fenermeb's root public key, fixed in the boot ROM (14 R463). -/
opaque Config.rootKey : List Byte

/-- The measurement of the boot ROM (14 R466). -/
opaque Config.bootRom : List Byte

/-- What is fused for a compute die at manufacture: initial rail set point, temperature coefficient, mean
ring-oscillator frequency (15 R475, R478, R496). -/
opaque Config.fuseRail : Nat → Nat

/-- The fused temperature coefficient K of a compute die, in 0.01 ps/°C (15 R475). -/
opaque Config.fuseK : Nat → Nat

/-- RO_KHZ_INIT of a compute die (15 R496). -/
opaque Config.fuseRo : Nat → Nat

/-- The 15-bit MIPI manufacturer identity of the I3C provisional ID (12 R405). -/
opaque Config.i3cManufacturer : Nat

/-- The bus and device characteristics registers of the I3C target (12 R405). -/
opaque Config.i3cChars : Byte × Byte

/-- The answer to an I3C common command code other than those that return the identity (12 R405). -/
opaque Config.i3cAnswer (code : Nat) : List Byte

/-- The version entries of MCTP Get Version Support for a message type (12 R406). -/
opaque Config.mctpVersions (type : Nat) : List Byte

/-- The version data of GetPLDMVersion for a PLDM type (12 R407). -/
opaque Config.pldmVersion (type : Nat) : List Byte

/-- What a sensor's platform descriptor record holds after its sensor ID (12 R407). -/
opaque Config.pdrBody (sensor : Nat) : List Byte

/-- The 32-bit PLDM reading that a sensor's FP32 sample gives (12 R407, R408). -/
opaque Config.sensorRaw (sensor sample : Nat) : Nat

/-- The SPDM responder's answer to a request after a transcript (14 R462). -/
opaque Config.spdmReply (transcript request : List Byte) : List Byte

/-- Whether a FINISH request is valid after a transcript (14 R462). -/
opaque Config.spdmFinishOk (transcript request : List Byte) : Bool

/-- The secret of the secured session that a transcript sets up (14 R462). -/
opaque Config.spdmSecret (transcript : List Byte) : List Byte

/-- A message of a secured session as opened, none where it fails (14 R462). -/
opaque Config.spdmOpen (secret msg : List Byte) : Option (List Byte)

/-- A message of a secured session as sent (14 R462). -/
opaque Config.spdmSeal (secret msg : List Byte) : List Byte

end Sys2Proof
end

