-- ==== Sys2Proof/Machine/State.lean ====
section
/-! DEFINITION. The state of the device as plain data, its value right after reset, and the reasons a row can stop.
Every field carries: its width; the chapter and rule that name it; its reset value. -/

namespace Sys2Proof.Machine

/-- Faults of the model. -/
inductive Fault where
  /-- A row names a channel, line or address that the spec says the device does not have (04 R102, R105).
  Raised by the memory-event rows; safe: the spec gives no effect there. -/
  | noSuchAddress
  deriving DecidableEq, Repr

/-- Refusals of the model. -/
inductive Refusal where
  /-- The row has no meaning yet. Raised only by exec's arms; safe. -/
  | notModelled (mnemonic : String)
  deriving DecidableEq, Repr

/-- What the device sends out, newest first in `State.out`. -/
inductive OutEv where
  /-- a posted write to host memory of a function (06 R187, R194, R208, R210) -/
  | hostWrite (via : FnId) (addr : Nat) (data : List Byte)
  /-- an MSI-X message of a function (12 R399) -/
  | msix (via : FnId) (vector : Nat)
  /-- a 600-byte flit sent on an Avenue (12 R378, R392) -/
  | avenue (av : Nat) (flit : List Byte)
  /-- an answer on the I3C bus (12 R405) -/
  | i3c (data : List Byte)
  /-- an MCTP message sent by the management target (12 R406 to R409) -/
  | mctp (data : List Byte)
  /-- an AVSBus command: rail and target in millivolts (15 R479) -/
  | avs (rail mv : Nat)
  /-- an answer on the DOE mailbox of a function (14 R462) -/
  | doe (via : FnId) (data : List Byte)
  /-- bits shifted out on TDO by a TAP instruction (17 R535) -/
  | tdo (value width : Nat)
  deriving DecidableEq, Repr

/-- The decision an assist record waits on (06 R212). -/
inductive AssistPurpose where
  /-- a placement decision of a command (13 R431) -/
  | place (kind : Nat) (q : QId) (cid : Nat)
  /-- the home table of a group (10 R333) -/
  | homes (grp : Nat)
  /-- the clip factor of a group's step (09 R318) -/
  | clip (grp : Nat)
  /-- the new state of a group's shards (09 R319) -/
  | update (grp : Nat)
  /-- a contribution to a bucket, or the reduced bucket at its home (10 R351) -/
  | bucket (grp b : Nat) (home : Bool)
  /-- the canonical ranks of diverged shards (10 R350) -/
  | resync (grp : Nat)
  /-- the stop decision of a step of a batch (08 R285) -/
  | stop (batch step : Nat)
  /-- a parking decision of a batch: the join and the proposed victim (08 R285) -/
  | park (batch join victim : Nat)
  /-- the path decision of a step of a batch (08 R285) -/
  | spec (batch : Nat)
  /-- an ordinary margin change of a die: kind and target (15 R483) -/
  | margin (die kind target : Nat)
  /-- a slice of a physical Block (15 R490) -/
  | roadworks (block : Nat)
  deriving DecidableEq, Repr

/-! ### Commands, queues and rings (06) -/

/-- A command the device has fetched and not retired (06 R189). -/
structure Cmd where
  q : QId  -- queue pair of the command; 06 R183; none
  cid : Nat  -- 16 bits; 06 R184; none
  opcode : Nat  -- 16 bits; 06 R184; none
  flags : Nat  -- 16 bits, bit 0 BARRIER, bit 1 NO_IRQ; 06 R184; none
  rsvd : Nat  -- 16 bits, the reserved bytes 6 and 7 of the entry; 06 R184; none
  deadlineMs : Nat  -- 32 bits; 06 R184; none
  fetchedAt : Nat  -- Square time of the fetch; 06 R206; none
  pbLength : Nat  -- 32 bits; 06 R184; none
  entryOk : Bool  -- whether PB_ADDR and INLINE of the entry are as R184 asks; 06 R184; none
  pb : List Byte  -- the parameter block as read; 06 R185; none
  via : FnId  -- function of the queue; 06 R183; none
  started : Bool  -- the command has started; 06 R189; none
  progress : Nat  -- bytes already moved by a DMA command, or copied image bytes; 06 R200; none
  interimLost : Bool  -- an interim entry was dropped; 06 R188; none
  snap : Nat  -- ABORT only: fetch count its target queue must reach; 06 R203; none
  uncounted : Bool  -- a SERVE past its start checks, which counts toward no limit; 06 R189; none
  kt : Nat  -- installation number of the transport key bound at its start, 0 for none; 14 R451; 0
  work : List Nat  -- what a command of several phases still has to do; 06 R189; empty
  deriving DecidableEq, Repr

/-- A completion entry before it is posted (06 R186). -/
structure Compl where
  cid : Nat  -- 16 bits; 06 R186; none
  status : Nat  -- 16 bits; 06 R186, R201; none
  final : Bool  -- FLAGS bit 1; 06 R186; none
  noIrq : Bool  -- NO_IRQ of the command; 06 R184, R191; none
  notes : Nat  -- 16 bits; 06 R186; none
  opcode : Nat  -- 16 bits; 06 R186; none
  retireSeq : Nat  -- 32 bits; 06 R190; none
  result : List Byte  -- 16 bytes; 06 R186; none
  after : Option (QId × Nat)  -- completion that must be posted before this one; 06 R204; none
  deriving DecidableEq, Repr

/-- A queue pair (06 R183, R195). -/
structure Queue where
  via : FnId  -- function the pair was created through; 06 R183; none
  sqDepth : Nat  -- 17 bits, entries; 06 R183; none
  cqDepth : Nat  -- 17 bits, entries; 06 R183; none
  sqBase : Nat  -- 64 bits; 06 R195; none
  cqBase : Nat  -- 64 bits; 06 R195; none
  irqEn : Bool  -- 1 bit; 06 R195; none
  vector : Nat  -- 6 bits; 06 R195; none
  coalUs : Nat  -- 10 bits; 06 R195; none
  coalCount : Nat  -- 11 bits; 06 R195; none
  sqTail : Nat  -- 16 bits, SQ_TAIL; 06 R178; 0 at creation
  sqHead : Nat  -- 16 bits, next entry to fetch; 06 R186; 0 at creation
  cqHead : Nat  -- 16 bits, CQ_HEAD; 06 R178; 0 at creation
  cqWr : Nat  -- 16 bits, device write position; 06 R180; 0 at creation
  phase : Bool  -- 1 bit, PHASE of the next entry; 06 R187; 1 at creation
  unsignalled : Nat  -- final entries posted and not signalled; 06 R191; 0 at creation
  firstUnsig : Option Nat  -- Square time of the first unsignalled entry; 06 R191; none at creation
  fetched : Nat  -- entries fetched so far (the model's own count for R203); 06 R203; 0 at creation
  held : List Compl  -- completions held while the queue is full or the function may not write, oldest first; 06 R187; empty
  retired : List Nat  -- last 4 096 retired CIDs, newest first; 06 R203; empty
  stopped : Bool  -- fetching stopped by a failed fetch; 12 R403; false
  deleting : Bool  -- a take-down is in progress: no fetch, no completion; 06 R196; false
  deriving DecidableEq, Repr

/-- An event ring (06 R195, R208). -/
structure EventRing where
  via : FnId  -- function whose address space holds the ring; 06 R195; none
  base : Nat  -- 64 bits; 06 R195; none
  depth : Nat  -- entries; 06 R195; none
  vector : Nat  -- 6 bits; 06 R195; none
  head : Nat  -- EVENT_HEAD; 06 R178; 0 at creation
  wr : Nat  -- device write position; 06 R180; 0 at creation
  phase : Bool  -- PHASE of the next record; 06 R208; 1 at creation
  seq : Nat  -- 32 bits, SEQUENCE of the next record; 06 R208; 0 at creation
  dropped : Nat  -- 16 bits, records dropped since the last posted one; 06 R208; 0
  live : List (Nat × Nat × List Byte)  -- posted and not yet consumed, oldest first: SOURCE, TIME and the record; 06 R195; empty
  deriving DecidableEq, Repr

/-- A host-assisted decision waiting for its reply (06 R210). -/
structure AssistRec where
  id : Nat  -- 32 bits; 06 R210; none
  func : Nat  -- function mode bit index; 06 R210, R211; none
  row : Nat  -- 0 to 15 a Court, 16 the operator; 06 R210; none
  deadline : Nat  -- Square time at which the record expires; 06 R210; none
  data : List Byte  -- request bytes as posted; 06 R210; none
  plain : List Byte  -- request bytes before sealing; 06 R210, 14 R454; none
  posted : Bool  -- the record has been written to the ring (false while it waits for room); 06 R210; none
  purpose : AssistPurpose  -- what waits for the decision; 06 R212; none
  deriving DecidableEq, Repr

/-- An assist ring (06 R195, R210). -/
structure AssistRing where
  via : FnId  -- function whose address space holds the ring; 06 R195; none
  base : Nat  -- 64 bits; 06 R195; none
  depth : Nat  -- entries; 06 R195; none
  vector : Nat  -- 6 bits; 06 R195; none
  dataBase : Nat  -- 64 bits; 06 R195; none
  dataBytes : Nat  -- 64 bits; 06 R195; none
  head : Nat  -- ASSIST_HEAD; 06 R178; 0 at creation
  wr : Nat  -- device write position; 06 R180; 0 at creation
  phase : Bool  -- PHASE of the next record; 06 R210; 1 at creation
  nextId : Nat  -- next ASSIST_ID; 06 R210; 0 at creation
  dataAt : Nat  -- next free offset of the assist data area; 06 R210; 0 at creation
  live : List AssistRec  -- records posted and not consumed, oldest first; 06 R195; empty
  deriving DecidableEq, Repr

/-- A host function's registers and PCIe state (06 R181, R182; 12 R399 to R404). -/
structure HostFn where
  q0SqBase : Nat  -- 64 bits, Q0_SQ_BASE; 06 R181; 0 (DESIGN CHOICE)
  q0CqBase : Nat  -- 64 bits, Q0_CQ_BASE; 06 R181; 0 (DESIGN CHOICE)
  q0Size : Nat  -- 32 bits, Q0_SIZE; 06 R181; 0
  q0Ctrl : Nat  -- 32 bits, Q0_CTRL; 06 R181; 0
  q0Ready : Bool  -- 1 bit, Q0_STATUS.READY; 06 R181; 0
  q0Error : Bool  -- 1 bit, Q0_STATUS.CONFIG_ERROR; 06 R181; 0
  doorbellFault : Nat  -- ignored doorbell writes; 06 R179; 0
  faultRec : Option Nat × Nat  -- Square time of the last DOORBELL_FAULT record and faults since; 06 R209; none
  bme : Bool  -- Bus Master Enable; 12 R402; true (DESIGN CHOICE)
  d3hot : Bool  -- D3hot; 12 R402; false
  enabled : Bool  -- VF enabled (PF always); 12 R401; true (DESIGN CHOICE)
  msixMask : Nat  -- 64 bits, MSI-X vectors masked; 12 R399; all ones (PRESUMED, PCIe)
  msixPend : Nat  -- 64 bits, MSI-X pending bits; 12 R399; 0
  deriving DecidableEq, Repr

/-- The command subsystem of the active Square. -/
structure CmdState where
  queues : Tbl Queue  -- queue pairs by owner × 64 + QP (owner 16: operator); 06 R183; empty
  cmds : List Cmd  -- fetched unretired commands in fetch order; 06 R189; empty
  retireSeq : Tbl Nat  -- RETIRE_SEQ last used, by owner; 06 R190; 0
  fns : Tbl HostFn  -- host functions by port × 17 + function; 06 R176; registers at their reset values
  eventRings : Tbl EventRing  -- event rings by port × 17 + owner; 06 R208; empty
  assistRings : Tbl AssistRing  -- assist rings by port × 17 + owner; 06 R210; empty
  assists : List AssistRec  -- decisions waiting for a reply; 06 R210; empty
  expired : List (Nat × Nat)  -- row and ASSIST_ID of the records that expired unanswered (what ASSIST_EXPIRED needs); 06 R210; empty
  heldWrites : List (FnId × Nat × List Byte)  -- posted writes held while their function may not write, oldest first; 12 R402, R403; empty
  modes : Tbl Nat  -- 16 bits per row (16: operator), function mode table; 06 R211; 0
  modeDeadlines : Tbl (List Nat)  -- ten assist deadlines in ms per row, 0 for the default 100; 06 R211; empty
  deriving DecidableEq, Repr

/-! ### Memory (04, 13) -/

/-- Who owns a device granule (04 R105). -/
inductive GranOwner where
  | free
  | court (c : Nat)
  | pool
  deriving DecidableEq, Repr

/-- An owned or retired device granule; an absent entry is free, cleared and in service (04 R105, R121). -/
structure Granule where
  owner : GranOwner  -- owner; 04 R105; free
  metaCourt : Nat  -- COURT, CONF and POOL that the clearing gave the granule's lines; 04 R121; 0
  conf : Bool  -- CONF of the granule's lines; 04 R121; 0
  deriving DecidableEq, Repr

/-- Per-channel error counts (04 R120, R127). -/
structure ChanErr where
  l2 : List Nat  -- layer-2 corrections in hourly buckets, newest first, 24; 04 R127; empty
  ue : List (Nat × Nat)  -- uncorrectable lines (DPA of the line, hour bucket age) of the last 24 h; 04 R127; empty
  l1 : List Nat  -- layer-1 corrections in hourly buckets, newest first, 24; 04 R127; empty
  l1Last : Nat  -- layer-1 counter at the last read; 04 R120; 0
  deriving DecidableEq, Repr

/-- A line read with LAST_USE and not rewritten (04 R112). -/
structure LastUse where
  tag : Nat  -- tag of the free value its bytes read as; 04 R112; -
  mask : Nat  -- 64 bits: bytes of the line still undefined; 04 R112; -
  deriving DecidableEq, Repr

/-- The events of one kind that a rate limit has held back (04 R126). -/
structure RecLimit where
  last : Nat  -- Square time of the last record; 04 R126; -
  count : Nat  -- events since; 04 R126; 0
  first : Nat  -- Square time of the first of them; 04 R125; -
  line : Nat  -- DPA of its line; 04 R125; -
  sym : Nat  -- its symbol; 04 R125; -
  deriving DecidableEq, Repr

/-- HBM, granules, error protection and map-out (04). -/
structure Mem where
  hbm : List Host.Cell  -- contents by DPA, one byte a cell, canonical, unlisted bytes read as zero; 04 R102, R106; empty
  granules : Tbl Granule  -- granules that are not free; 04 R105; five device-pool granules after boot (13 R419)
  poison : List Nat  -- DPA of every line with POISON set, rising; 04 R121; empty
  saveCourt : Tbl Nat  -- COURT of the save-area lines of a physical Block, by Block; 04 R121; empty
  lastUse : Tbl LastUse  -- lines whose value is undefined; 04 R112; empty
  mapped : List Nat  -- mapped-out slots f_1, f_2, … in order; 04 R128; empty
  mapQueue : List (Nat × Bool)  -- slots waiting for map-out with their kind (hard); 04 R129; empty
  mapPending : Bool  -- MAPOUT_PENDING has been raised for the map-out in front; 04 R129; false
  repair : List Nat  -- channel repair list in SPI NOR flash, slots in order; 04 R130, R132; empty
  mapNow : Option (Nat × Bool)  -- the map-out in progress: slot and kind; 04 R130; none
  hardDown : List Nat  -- slots that have failed hard and are not yet mapped out; 04 R131; empty
  hardLost : List (Nat × List Nat × List (Nat × Nat))  -- slot, map-outs then in force, and granules whose units there stay poisoned, each with the granule that held them then; 04 R131; empty
  cured : List Nat  -- lines rewritten whole since their slot was lost, by DPA; 04 R122; empty
  chans : Tbl ChanErr  -- error counts by slot; 04 R127; empty
  reserve : Nat  -- MAPOUT_RESERVE, 0 to 48; 04 R129; 3
  saveArea : List Nat  -- device granules of the Block context save area; 13 R419; four after boot
  holdBuf : Option Nat  -- device granule of the device-message hold buffer; 13 R419; one after boot
  recLimit : Tbl RecLimit  -- rate limit of records 0x02 and 0x04 by (type, slot, Court); 04 R126; empty
  macFails : Tbl (List Nat)  -- MAC_FAIL times by Court in the last 24 h; 14 R472; empty
  lockRefused : Nat  -- lock requests refused because a set was full; 04 R113; 0
  sramCorrected : Nat  -- corrected SRAM errors counted in telemetry; 04 R116; 0
  deriving DecidableEq, Repr

/-! ### Blocks (01, 03, 15) -/

/-- A Block store: listed cells over a base that is zero or undefined (03 R75; 05 R152). -/
structure BlockStore where
  cells : List Host.Cell  -- bytes 0x0 to 0xBF_FFFF; 03 R75; empty
  undef : Option Nat  -- none: unlisted bytes are zero; a tag: they are free values; 05 R152; none
  zeroed : List (Nat × Nat)  -- address ranges (first, length) whose unlisted bytes are zero all the same; 11 R361; empty
  deriving DecidableEq, Repr

/-- Whether a physical Block serves a global index, waits as a spare or has left service (01 R29, R30). -/
inductive BlockRole where
  | active (g : Nat)
  | spare
  /-- out of service, with the index it last served -/
  | retired (g : Nat)
  deriving DecidableEq, Repr

/-- What holds a Block (05 R151, R152; 15 R484, R489). -/
inductive BlockUse where
  /-- free for dispatch -/
  | idle
  /-- runs a work order of run and stream -/
  | busy (run stream : Nat)
  /-- bound to a stream by CHAIN, between work orders -/
  | chained (run stream : Nat)
  /-- given up for a context save of run and stream -/
  | saving (run stream : Nat)
  /-- in a Roadworks slice -/
  | testing
  /-- isolated after a fault -/
  | isolated
  deriving DecidableEq, Repr

/-- Why a Block is to leave dispatch (13 R421; 15 R481, R486, R489). -/
inductive EvacWhy where
  /-- a Roadworks slice -/
  | slice
  /-- a swap or retirement of a spare -/
  | swap
  /-- a RESIZE_COURT -/
  | resize
  deriving DecidableEq, Repr

/-- Where a host-assisted Roadworks decision stands (15 R490). -/
inductive Proposal where
  | none
  /-- the record is outstanding -/
  | asked
  /-- the slice may start from a Square time on -/
  | from_ (t : Nat)
  /-- proposed again at a Square time -/
  | later (t : Nat)
  deriving DecidableEq, Repr

/-- A physical Block by its manufactured index 0 to 287 (01 R29). -/
structure Block where
  role : BlockRole  -- role; 01 R30; active below 256, spare from 256
  use : BlockUse  -- use; 05 R151; idle
  store : BlockStore  -- Block store; 03 R75; zero
  priv : List (Nat × Nat)  -- address ranges (first, length) private to a Viaduct pair; 11 R361; empty
  feedStall : List Nat  -- 64 bits each, MA0 to MA3; 03 R101; 0
  drainStall : List Nat  -- 64 bits each, MA0 to MA3; 03 R101; 0
  loadStall : List Nat  -- 64 bits each, MA0 to MA3; 03 R101; 0
  bankConflict : List Nat  -- 64 bits each, MA0 to MA3; 03 R101; 0
  bypassBusy : Nat  -- 64 bits; 03 R101; 0
  lastVisit : Nat  -- Square time of the last completed Roadworks visit; 15 R484; 0
  lapsed : Bool  -- VISIT_LAPSED posted for the current lapse; 15 R484; false
  want : Option EvacWhy  -- why the Block is to leave dispatch; 13 R421; none
  started : Nat  -- Square time of the current slice's fence; 15 R486; 0
  diagnostic : Bool  -- a diagnostic slice is due or runs; 15 R489; false
  lastResult : Nat  -- 8 bits, LAST_RESULT; 15 R496; 0
  repairs : Nat  -- 32 bits, SRAM_REPAIRS; 15 R496; 0
  slack : Option Int  -- projected slack of its three replicas, in 0.001 ps, smallest; 15 R475; none
  lastPass : Option Nat  -- Square time of the last slice passed; 15 R477; none
  unusable : Bool  -- a spare that failed a slice; 15 R482; false
  faults : List Nat  -- Square times of BLOCK_FAULT in the last 24 h; 15 R489; empty
  fixes : List Nat  -- Square times of corrected store errors in the last 24 h; 15 R489; empty
  faultLimit : Option (Nat × Nat)  -- last BLOCK_FAULT record and those held back since; 15 R493; none
  proposal : Proposal  -- host-assisted Roadworks decision; 15 R490; none
  deriving DecidableEq, Repr

/-! ### Packages, runs and work orders (05) -/

/-- A stream of a package (05 R140). -/
structure PkgStream where
  express : Bool  -- CLASS; 05 R140; -
  ttTag : Nat  -- 16 bits; 05 R140; -
  count : Nat  -- 24 bits, WO_COUNT; 05 R140; -
  at_ : Nat  -- Court address of the first work order; 05 R140; -
  deriving DecidableEq, Repr

/-- A symbol-table entry (05 R141). -/
structure PkgSymbol where
  name : Nat  -- 64 bits, NAME_HASH; 05 R141; -
  kind : Nat  -- 32 bits; 05 R141; -
  writable : Bool  -- FLAGS bit 0; 05 R141; -
  size : Nat  -- 64 bits; 05 R141; -
  value : Nat  -- 64 bits; 05 R141; -
  deriving DecidableEq, Repr

/-- A loaded package (05 R137 to R142; 06 R197). -/
structure Package where
  court : Nat  -- owning Court; 06 R193; -
  placeAt : Nat  -- Court address of the image; 06 R197; -
  len : Nat  -- image bytes; 06 R197; -
  sems : Nat  -- SEMAPHORES; 05 R137; -
  minBlocks : Nat  -- MIN_BLOCKS; 05 R137; -
  streams : List PkgStream  -- stream table; 05 R140; -
  symbols : List PkgSymbol  -- symbol table; 05 R141; -
  constAt : Nat  -- Court address of CONSTANTS; 05 R142; -
  constLen : Nat  -- CONST_BYTES; 05 R137; -
  hash : List Byte  -- PACKAGE_HASH; 05 R137; -
  signer : Option Nat  -- KEY_ID of the verified signature; 05 R139; -
  deriving DecidableEq, Repr

/-- What a symbol resolves to for the life of a run (05 R142). -/
structure SymRange where
  at_ : Nat  -- Court address, or offset in the image of the operator slot; 05 R142; -
  size : Nat  -- bytes covered; 05 R142; -
  writable : Bool  -- FLAGS.WRITABLE; 05 R141; -
  slot : Option Nat  -- model slot of the operator whose image `at_` counts in (a permitted device-pool read); 04 R122; -
  deriving DecidableEq, Repr

/-- The outcome of a work order that awaits its retirement (05 R159). -/
structure WoResult where
  code : Nat  -- CODE; 05 R160; -
  splits : Nat  -- SPLITS; 05 R159; -
  bypass : Bool  -- FLAGS bit 0; 05 R159; -
  oldTown : Bool  -- FLAGS bit 2; 05 R159; -
  sat : Nat  -- saturations counted; 05 R159; -
  nonfin : Nat  -- NaN writes counted; 05 R159; -
  block : Nat  -- BLOCK, 0xFFFF for the Square and the Update Engine; 05 R159; -
  deriving DecidableEq, Repr

/-- Where the next work order of a stream stands (05 R150, R151, R156, R158). -/
inductive Head where
  /-- its wait condition does not hold, or its predecessor has just retired -/
  | blocked
  /-- ready for dispatch since a Square time -/
  | ready (since : Nat)
  /-- an ACQUIRE or FENCE that waits since a Square time -/
  | waiting (since : Nat)
  /-- dispatched to physical Blocks (none: Square or Update Engine) -/
  | sent (blocks : List Nat)
  /-- executed, awaiting retirement -/
  | done (blocks : List Nat) (r : WoResult)
  /-- the stream has no further work order -/
  | ended
  deriving DecidableEq, Repr

/-- A Viaduct binding of a stream (11 R361, R362, R370). -/
structure ViaBind where
  bound : Bool  -- the previous VIADUCT_PAIR of the stream left the pair bound; 11 R362; false
  since : Nat  -- Square time of the chain's first work order; 11 R370; 0
  state : Nat  -- Block-store address of the state records; 11 R363; 0
  rows : Nat  -- rows of the records; 11 R363; 0
  topk : Nat  -- TOPK of the records; 11 R363; 0
  deriving DecidableEq, Repr

/-- A work order that the Square derived for a serving step (08 R253). -/
structure Derived where
  bytes : List Byte  -- 128 bytes; 08 R253; -
  marked : Bool  -- the plan work order carries the batch marker; 08 R257; -
  keys : List (Nat × Nat)  -- position and SEED of its rows; 08 R257; -
  seq : Option Nat  -- the sequence, where it serves one only; 08 R254; -
  row0 : Nat  -- row of the step at which its rows begin; 08 R255; -
  pages : List Nat  -- page list of an ATTENTION, 64 bits an entry; 08 R267; -
  tree : List Nat  -- tree mask of each row of an ATTENTION, 128 bits; 08 R267; -
  groups : List (Nat × Nat × Nat)  -- group table of a GROUPED_LOWRANK: first row, rows, index of the binding or 0xFFFF; 08 R255; -
  deriving DecidableEq, Repr

/-- One stream of a run (05 R150 to R156). -/
structure RunStream where
  express : Bool  -- CLASS; 05 R140; -
  ttTag : Nat  -- TT_TAG; 05 R140; -
  count : Nat  -- WO_COUNT; 05 R140; -
  at_ : Nat  -- Court address of its work orders; 05 R140; -
  derived : List Derived  -- work orders that the Square derived, in place of those at `at_`; 08 R253; empty
  via : ViaBind  -- Viaduct binding of the stream; 11 R362; none
  next : Nat  -- position of the next work order; 05 R150; 0 at admission
  head : Head  -- state of that work order; 05 R150; blocked at admission
  chain : List Nat  -- physical Blocks bound by CHAIN; 05 R152; empty
  chainSince : Nat  -- Square time at which the Block was taken; 13 R433; 0
  held : Tbl Nat  -- semaphore amounts held; 05 R156; empty
  heldSince : Nat  -- Square time of the first ACQUIRE held; 05 R156; 0
  saved : List (Nat × BlockStore)  -- saved contexts: physical Block whose save area holds it, and the store saved; 03 R100; empty
  preempted : Bool  -- next record carries PREEMPTED; 13 R432; false
  deriving DecidableEq, Repr

/-- What started a run of work orders. -/
inductive RunOwner where
  /-- a RUN command -/
  | cmd (q : QId) (cid : Nat)
  /-- a serving step of a batch (08) -/
  | serving (court batch step : Nat)
  /-- a training or distillation step of a group (09, 11) -/
  | training (court group : Nat)
  deriving DecidableEq, Repr

/-- An admitted run (05 R142; 06 R198). -/
structure Run where
  owner : RunOwner  -- command or step that runs it; 06 R198; -
  court : Nat  -- Court; 06 R198; -
  pkg : Nat  -- package handle; 06 R198; -
  semBase : Nat  -- SEM_BASE; 06 R198; -
  baseSlot : Nat  -- BASE_SLOT; 06 R198; -
  statusAt : Nat  -- STATUS_AT; 06 R198; -
  statusEntries : Nat  -- STATUS_ENTRIES; 06 R198; -
  step : Nat  -- 64 bits, STEP; 06 R198; -
  symbols : List SymRange  -- resolution of each symbol; 05 R142; -
  bindings : List (Nat × Nat)  -- handle and version of each binding; 05 R142; -
  streams : List RunStream  -- streams; 05 R140; -
  retired : Nat  -- work orders retired; 06 R199; 0
  deriving DecidableEq, Repr

/-- A barrier joined by FENCE work orders (05 R158). -/
structure Barrier where
  court : Nat  -- Court; 05 R158; -
  group : Nat  -- FENCE_GROUP; 05 R158; -
  id : Nat  -- FENCE_ID; 05 R158; -
  count : Nat  -- COUNT; 05 R158; -
  members : List (Nat × Nat)  -- ready members (run, stream); 05 R158; -
  deriving DecidableEq, Repr

/-! ### Adaptations and base models (07) -/

/-- A part of an adapter image (07 R220). -/
structure AdPart where
  layer : Nat  -- 16 bits; 07 R220; -
  part : Nat  -- 8 bits; 07 R220; -
  proj : Nat  -- 8 bits; 07 R220; -
  off : Nat  -- 64 bits, OFFSET; 07 R220; -
  rows : Nat  -- rows of the body; 07 R220; -
  cols : Nat  -- elements per row; 07 R220; -
  len : Nat  -- bytes of the body, its scale array included; 07 R220; -
  deriving DecidableEq, Repr

/-- One version of an adaptation (07 R235, R238). -/
structure AdVersion where
  version : Nat  -- 32 bits; 07 R217; -
  fmt : Nat  -- FORMAT of the image; 07 R219; -
  rank : Nat  -- RANK; 07 R219; -
  alpha : F32  -- ALPHA; 07 R219; -
  prefixTokens : Nat  -- PREFIX_TOKENS; 07 R219; -
  parts : List AdPart  -- part table; 07 R220; -
  imageLen : Nat  -- bytes of the image; 07 R219; -
  hash : List Byte  -- BODY_HASH; 07 R219; -
  keyId : Nat  -- KEY_ID; 07 R217; -
  commits : Nat  -- training commits since the last image; 14 R466; 0
  poolAt : Option Nat  -- Court address in the pool; 07 R217; -
  coldHeld : Bool  -- the cold location holds its bytes; 07 R225; -
  locks : List Nat  -- DPA of its lines locked in stack caches, rising; 04 R113; 07 R229; empty
  refs : Nat  -- users; 07 R235; 0
  admitted : Nat  -- order stamp of the last admission; 07 R226; 0
  wanted : Bool  -- a use waits for it to come to POOL; 07 R224; false
  fetchFail : Option Nat  -- status of a fetch that failed, until the use takes it up; 13 R426; none
  deriving DecidableEq, Repr

/-- States of a Gazetteer entry (07 R217). -/
inductive GazState where
  | free
  | loading
  | ready
  | retiring
  | stale
  deriving DecidableEq, Repr

/-- A Gazetteer entry (07 R217); an absent entry is FREE with GENERATION 0. -/
structure GazEntry where
  state : GazState  -- 8 bits; 07 R217; FREE (0)
  kind : Nat  -- 8 bits; 07 R214; 0 (DESIGN CHOICE)
  modelId : Nat  -- 32 bits; 07 R217; 0 (DESIGN CHOICE)
  modelVersion : Nat  -- 32 bits; 07 R217; 0 (DESIGN CHOICE)
  coldAt : Nat  -- 64 bits; 07 R225; 0 (DESIGN CHOICE)
  via : FnId  -- function that registered it, whose address space a HOST cold location lies in; 07 R225; PF of H0 (DESIGN CHOICE)
  cur : Option AdVersion  -- current version; 07 R235; none
  minTier : Nat  -- 8 bits; 07 R217; 0
  train : Nat  -- TRAIN bits [1:0]; 07 R217; 0
  trainable : Bool  -- TRAIN bit 2; 07 R217; false
  generation : Nat  -- 16 bits; 07 R216; 0 (DESIGN CHOICE)
  contractEnd : Nat  -- 32 bits; 07 R217; 0
  holdUntil : Nat  -- 32 bits; 07 R217; 0
  next : Option AdVersion  -- image loaded for a pending AT_COMMIT replacement; 07 R237; none
  nextCmd : Option (QId × Nat)  -- the REPLACE that waits for the step's end; 07 R237; none
  deriving DecidableEq, Repr

/-- A drain record (07 R238). -/
structure DrainRec where
  handle : Nat  -- 16 bits; 07 R238; -
  ver : AdVersion  -- the superseded version; 07 R238; -
  deriving DecidableEq, Repr

/-- An entry of a base model's tensor directory (07 R244). -/
structure BaseTensor where
  layer : Nat  -- 16 bits; 07 R244; -
  proj : Nat  -- 8 bits; 07 R244; -
  fmt : Nat  -- 8 bits; 07 R244; -
  role : Nat  -- 8 bits; 07 R244; -
  expert : Nat  -- 8 bits; 07 R244; -
  dIn : Nat  -- 32 bits; 07 R244; -
  dOut : Nat  -- 32 bits; 07 R244; -
  off : Nat  -- 64 bits; 07 R244; -
  stride : Nat  -- 32 bits; 07 R244; -
  deriving DecidableEq, Repr

/-- States of a model slot (07 R245). -/
inductive SlotState where
  | empty
  | loading
  | resident
  | cold
  | draining
  deriving DecidableEq, Repr

/-- A model slot (07 R245). -/
structure ModelSlot where
  state : SlotState  -- state; 07 R245; EMPTY
  owner : Nat  -- Court 0 to 15, or 16 the operator; 07 R245; 16
  access : Nat  -- 16 bits; 07 R246; 0
  pin : Bool  -- PIN; 07 R246; false
  reloadable : Bool  -- RELOADABLE; 07 R246; false
  imageAddr : Nat  -- 64 bits; 07 R246; 0
  imageLen : Nat  -- 64 bits; 07 R246; 0
  via : FnId  -- function whose address space holds the image; 07 R247; PF of H0
  keyId : Nat  -- 64 bits; 07 R246; 0
  modelId : Nat  -- 32 bits; 07 R243; 0
  modelVersion : Nat  -- 32 bits; 07 R243; 0
  reservedExperts : Nat  -- 16 bits; 07 R243; 0
  layers : Nat  -- 16 bits; 07 R243; 0
  hash : List Byte  -- BODY_HASH; 07 R243; empty
  tensors : List BaseTensor  -- tensor directory; 07 R244; empty
  granules : List Nat  -- device granules of an operator slot, or Court granule indices; 07 R245; empty
  at_ : Nat  -- Court address of a Court-owned image, unused for the operator; 07 R245; 0
  refs : Nat  -- references; 07 R247; 0
  lastUsed : Nat  -- order stamp of the last use; 07 R247; 0
  wanted : Bool  -- a use waits for its reload; 07 R247; false
  reloadFail : Option Nat  -- status of a reload that failed, until the use takes it up; 07 R247; none
  replacedBy : Option Nat  -- slot of the replacing version; 07 R249; none
  claims : Tbl Nat  -- holder handle by LAYER × 256 + INDEX; 07 R233; empty
  deriving DecidableEq, Repr

/-- Adaptations and base models of the active Square. -/
structure Gaz where
  entries : Tbl GazEntry  -- 65 536 entries by handle; 07 R215; all FREE
  drains : List DrainRec  -- up to 8 192; 07 R238; empty
  slots : Tbl ModelSlot  -- 32 model slots; 07 R245; all EMPTY
  stamp : Nat  -- order stamp of admissions and uses (the model's own); 07 R226; 0
  deriving DecidableEq, Repr

/-! ### Courts, stores and the Timetable (13) -/

/-- COURT_STATE (06 R181); an absent Court has no entry. -/
inductive CourtState where
  | creating
  | ready
  | resetting
  | destroying
  deriving DecidableEq, Repr

/-- A Timetable slot (13 R435). -/
structure TtSlot where
  start : Nat  -- 32 bits; 13 R435; -
  length : Nat  -- 32 bits; 13 R435; -
  lead : Nat  -- 32 bits; 13 R435; -
  tag : Nat  -- 16 bits; 13 R435; -
  blocks : Nat  -- 16 bits; 13 R435; -
  deriving DecidableEq, Repr

/-- A Court's Timetable entry (13 R435). -/
structure TtRow where
  slots : List TtSlot  -- slots; 13 R435; empty
  holdUs : Nat  -- HOLD_LIMIT_US; 13 R435; 10 000
  sliceUs : Nat  -- SLICE_US; 13 R435; 10 000
  deriving DecidableEq, Repr

/-- A Timetable slot in lead or in force (13 R436). -/
structure TtActive where
  court : Nat  -- Court; 13 R436; -
  slot : Nat  -- index in the row; 13 R436; -
  inForce : Bool  -- in force, or in lead; 13 R436; -
  blocks : List Nat  -- global indices reserved; 13 R436; -
  deriving DecidableEq, Repr

/-- A Court (13 R411). -/
structure Court where
  state : CourtState  -- COURT_STATE; 06 R181; -
  by_ : Option (QId × Nat)  -- command of the transition in progress; 13 R417; -
  conf : Bool  -- CONFIDENTIAL; 13 R412; -
  signed : Bool  -- REQUIRE_SIGNED; 13 R412; -
  service : Nat  -- SERVICE, bits [1:0] H0 and [3:2] H1; 13 R412; -
  units : Nat  -- HANDLE_UNITS; 13 R412; -
  unit0 : Nat  -- first handle unit; 13 R415; -
  wayMask : Nat  -- 16 bits; 04 R110; -
  weight : Nat  -- CREDIT_WEIGHT; 13 R411; -
  general : Nat  -- GENERAL_GIB; 13 R414; -
  store : Nat  -- STORE_GIB; 13 R414; -
  serve : Nat  -- SERVE_GIB; 13 R414; -
  pool : Nat  -- POOL_GIB; 13 R414; -
  contexts : Nat  -- CONTEXTS on each Junction; 13 R411; -
  blocks : List Nat  -- global Block indices, rising; 13 R411; -
  gtab : Tbl Nat  -- granule table: device granule by Court granule index, 1 152 entries; 04 R103; -
  sems : Tbl Nat  -- 4 096 semaphores of 32 bits, absent zero; 05 R154; 0 at creation and reset
  satCount : Nat  -- 64 bits, SAT_COUNT; 02 R72; 0 at creation and reset
  nonfinCount : Nat  -- 64 bits, NONFINITE_COUNT; 02 R72; 0 at creation and reset
  slotLate : Nat  -- 64 bits; 13 R438; 0 at creation and reset
  slotOverrun : Nat  -- 64 bits; 13 R438; 0 at creation and reset
  slotShort : Nat  -- 64 bits; 13 R438; 0 at creation and reset
  row : TtRow  -- Timetable entry; 13 R435; no slots, 10 000, 10 000
  rowNext : Option TtRow  -- row that takes effect at the next cycle; 13 R437; none
  deriving DecidableEq, Repr

/-! ### Training, collectives, distillation (09, 10, 11) -/

/-- A 32-element block on its way through a reduction (10 R334, R338, R339). -/
structure RedBlock where
  elems : List F32  -- 32 FP32 words; 10 R334; -
  promoted : Bool  -- FLAGS bit 0; 10 R338; -
  nonfin : Bool  -- FLAGS bit 1; 10 R339; -
  sat : Bool  -- FLAGS bit 2; 10 R339; -
  deriving DecidableEq, Repr

/-- A bucket of an open step on this device (10 R334 to R345). -/
structure BucketRun where
  wire : Nat  -- wire format in force, 0 FP32, 1 BF16, 2 FP16; 09 R297; -
  k : Int  -- SCALE_EXP in force, 0 with WIRE 0; 09 R295; -
  entry : Option Nat  -- LEDGER of the REDUCE_SEND, none with its own WIRE 0; 05 R171; 09 R295; -
  wo : Option (Nat × Nat)  -- run and stream of its unretired TILE REDUCE_SEND; 10 R342; -
  begun : Bool  -- its REDUCE_SEND has opened it on this device; 10 R341, R342; false
  supplied : Tbl (F32 × Bool)  -- TILE elements supplied and cast, by index, with whether the cast saturated; 10 R342; empty
  mine : Tbl RedBlock  -- this device's operand of a stage, by stage × 2^20 + q; 10 R336; empty
  came : Tbl RedBlock  -- the partial that arrived for a stage, by stage × 2^20 + q; 10 R336; empty
  passed : Nat  -- blocks whose last frame has left this device's stages; 10 R344; 0
  results : Tbl RedBlock  -- blocks of g at the home that wait for their UPDATE or the host; 10 R340; 09 R318; empty
  got : Nat  -- blocks of S the home has taken; 10 R340; 0
  amax : F32  -- this device's part of the step amax; 10 R339; +0
  mark : Bool  -- this device's mark; 10 R339; false
  prom : Bool  -- the final blocks carried PROMOTED; 09 R293; 10 R339; false
  deriving DecidableEq, Repr

/-- A shard that an UPDATE registered with the Update Engine (05 R172; 09 R287, R305). -/
structure ShardRun where
  run : Nat  -- run of the UPDATE; 05 R172; -
  stream : Nat  -- stream of the UPDATE; 05 R172; -
  shard : Nat  -- 32 bits, SHARD; 05 R172; -
  bucket : Nat  -- 32 bits, BUCKET; 05 R172; -
  elements : Nat  -- 32 bits, ELEMENTS; 05 R172; -
  cls : Nat  -- CLASS; 05 R172; -
  shift : Int  -- LR_SHIFT; 09 R302; -
  fmt : Nat  -- element code of the replica format; 09 R300; -
  home : Bool  -- role; 09 R287; -
  prog : List Byte  -- program, up to 512 bytes; 09 R306; -
  hyper : List Byte  -- 256 bytes, hyperparameter block; 09 R305; -
  weights : Option SymRange  -- copy 0 of WEIGHTS; 09 R305; -
  m1 : Option SymRange  -- copy 0 of MOMENT1; 09 R303; -
  m2 : Option SymRange  -- copy 0 of MOMENT2; 09 R303; -
  rem : Option SymRange  -- copy 0 of the remainder; 09 R301; -
  work : Option SymRange  -- copy 0 of the working copy; 09 R300; -
  replica : Option (Nat × Nat)  -- Court addresses of the shard in the bound and in the next version; 09 R305; -
  current : Nat  -- CURRENT at dispatch; 09 R311; -
  blocks : List Nat  -- blocks written, or refused by a guard; 09 R308; empty
  counts : Counts  -- saturations counted for the shard; 09 R300, R307; 0
  refused : Bool  -- a guard or an exit check refused a block; 09 R309; false
  digest : Option Nat  -- 64 bits, digest of the prepared copies; 09 R308; none
  deriving DecidableEq, Repr

/-- A binding of a step (09 R288, R290). -/
structure TrainBind where
  handle : Nat  -- 16 bits; 09 R288; -
  version : Nat  -- version bound; 09 R290; -
  train : Bool  -- TRAIN; 09 R288; -
  nextAt : Option Nat  -- Court address of the next-version space; 09 R290; -
  drain : Bool  -- a drain record is reserved; 09 R290; -
  deriving DecidableEq, Repr

/-- Where a step stands (09 R289, R313, R317). -/
inductive StepPhase where
  | opened
  /-- its vote is cast -/
  | voted
  /-- the repair of a diverged shard runs -/
  | repairing
  /-- held, its command retired -/
  | held
  deriving DecidableEq, Repr

/-- A training or distillation step (09, 11). -/
structure TrainStep where
  q : QId  -- queue of the command; 09 R288; -
  cid : Nat  -- CID of the command; 09 R288; -
  number : Nat  -- 64 bits, STEP_NUMBER; 09 R288; -
  job : Option Nat  -- JOB of a DISTIL_STEP; 11 R356; -
  phase : StepPhase  -- phase; 09 R289; opened
  modes : Nat  -- mode entry of the Court at the opening; 06 R213; -
  resync : Bool  -- RESYNC host-assisted; 06 R213; -
  rewarm : Bool  -- rewarm step; 09 R294; -
  ledgerAt : Nat  -- LEDGER_AT; 09 R288; -
  entries : Nat  -- ENTRIES of the ledger; 09 R292; -
  run : Nat  -- run of the plan; 09 R313; -
  binds : List TrainBind  -- bindings; 09 R290; -
  base : Option Nat  -- BASE_SLOT bound; 09 R290; -
  teacher : Option Nat  -- teacher slot bound; 11 R357; -
  cause : Nat  -- 2 bits, this device's cause bits; 09 R312; 0
  own : Option Nat  -- status of this device's own failure; 09 R315; none
  ended : Bool  -- every work order of the plan has retired; 09 R313; false
  scales : Tbl Int  -- SCALE_EXP in force by ledger entry; 09 R295, R297; -
  kinds : Tbl Nat  -- KIND of each ledger entry; 09 R293; -
  amax : Tbl F32  -- amax of each TENSOR entry in this step; 09 R296; empty
  marked : List Nat  -- TENSOR entries marked; 09 R298; empty
  buckets : Tbl BucketRun  -- buckets; 10 R341; empty
  shards : List ShardRun  -- shards; 05 R172; empty
  promoted : Nat  -- blocks this device promoted; 10 R346; 0
  progress : Nat  -- Square time of the last progress of the group's contexts; 10 R348; -
  votedAt : Nat  -- Square time of the vote; 10 R348; 0
  acc : List Byte  -- vote record combined so far; 10 R347; empty
  votes : Tbl Nat  -- VOTE frames combined, by 256-byte piece; 10 R347; empty
  sentUp : Bool  -- the combined vote has been sent on or decided; 10 R347; false
  outcome : List Byte  -- OUTCOME record as far as it has arrived; 10 R347; empty
  outGot : List Nat  -- 256-byte pieces of it that have arrived; 10 R347; empty
  first : List Byte  -- combined record of the first vote, once the step is under repair; 10 R349; empty
  posted : Bool  -- its command has retired; 09 R289, R317; false
  verdict : Option Nat  -- reduced CAUSE: bit 2 DIVERGED, bit 3 COMMITTED; 09 R315; none
  repair : List (Nat × Nat)  -- shards under repair and their canonical ranks; 10 R349; empty
  repaired : Tbl (List Nat)  -- blocks repaired by shard; 10 R349; empty
  second : Bool  -- the second vote of a repair runs; 10 R349; false
  clip : Option F32  -- clip factor of the reply; 09 R318; none
  asked : Bool  -- the CLIP or UPDATE record has been posted; 09 R318, R319; false
  hostState : List Byte  -- reply data of host-assisted UPDATE; 09 R319; empty
  deriving DecidableEq, Repr

/-- FORMED, waiting for members, or BROKEN (10 R328, R330). -/
inductive GroupState where
  | forming
  | formed
  | broken
  deriving DecidableEq, Repr

/-- A collective group of a Court on this device (10 R325 to R333). -/
structure Group where
  pb : List Byte  -- parameter block of FORM_GROUP without its reply fields; 10 R327; -
  state : GroupState  -- state; 10 R331; forming
  by_ : Option (QId × Nat)  -- the FORM_GROUP that waits; 10 R328; -
  offers : Tbl (List Byte × Nat)  -- hash and HOME_GIB of each member heard, by device address; 10 R328; -
  table : Option (List Nat)  -- home table supplied by the host; 10 R333; none
  asked : Bool  -- the home table has been posted to the host; 10 R333; false
  homes : List Nat  -- device address of each bucket's home; 10 R332; empty
  nextStep : Nat  -- 64 bits, next step number; 10 R331; FIRST_STEP
  committed : Nat  -- 64 bits, last committed step; 09 R324; FIRST_STEP − 1
  step : Option TrainStep  -- the step that is unretired or held; 09 R286; none
  added : Nat  -- 64 bits, BLOCKS; 10 R331; 0
  promoted : Nat  -- 64 bits, PROMOTED; 10 R331; 0
  timeouts : Nat  -- 32 bits, TIMEOUTS; 10 R331; 0
  deriving DecidableEq, Repr

/-- An open distillation job (11 R352, R353). -/
structure DistilJob where
  slot : Nat  -- TEACHER_SLOT; 11 R352; -
  group : Nat  -- GROUP; 11 R352; -
  topk : Nat  -- TOPK; 11 R352; -
  temp : F32  -- TEMP; 11 R352; -
  vocab : Nat  -- VOCAB; 11 R352; -
  dTeacher : Nat  -- D_TEACHER; 11 R352; -
  dStudent : Nat  -- D_STUDENT; 11 R352; -
  modelId : Nat  -- MODEL_ID recorded; 11 R353; -
  modelVersion : Nat  -- MODEL_VERSION recorded; 11 R353; -
  deriving DecidableEq, Repr

/-- The register file of a Junction's Update Engine (09 R306). -/
structure UeState where
  v : List (List F32)  -- V0 to V15, 32 FP32 lanes each; 09 R306; +0 (DESIGN CHOICE)
  h : List F32  -- H0 to H31; 09 R306; +0 (DESIGN CHOICE)
  ended : Bool  -- the program has ended; 09 R306; true (DESIGN CHOICE)
  counts : Counts  -- saturations of the program so far; 09 R307; 0
  deriving DecidableEq, Repr

/-! ### Avenues and partner stores (12, 13) -/

/-- A DATA flit before it is sealed (12 R378, R379). -/
structure Flit where
  vc : Nat  -- 4 bits; 12 R378; -
  dest : Nat  -- 16 bits; 12 R378; -
  first : Nat  -- 10 bits; 12 R378; -
  court : Nat  -- Court whose share pays for it, 16 for device traffic; 12 R384; -
  payload : List Byte  -- 584 bytes; 12 R378; -
  deriving DecidableEq, Repr

/-- Link condition of an Avenue (12 R376, R377, R391). -/
inductive AvPhase where
  | down
  | training
  /-- trained, waiting for keys (step 5) -/
  | keying
  | up
  deriving DecidableEq, Repr

/-- An Avenue (12). -/
structure Avenue where
  phase : AvPhase  -- link condition; 12 R376; down
  retryAt : Option Nat  -- Square time of the next attempt after a mismatch or a failed establishment; 12 R377; 14 R460; none
  width : Nat  -- 16 or 8 lanes; 12 R375; 16
  failed : List Nat  -- receive lanes that have failed; 12 R393; empty
  spareRx : Option Nat  -- receive lane on the spare; 12 R393; none
  spareTx : Option Nat  -- transmit lane on the spare; 12 R393; none
  neighbour : Nat  -- 16 bits, address the neighbour reported; 12 R396; 0xFFFF
  keyed : Bool  -- keys are held; 12 R376; false
  txKey : List Byte  -- 32 bytes; 12 R392; empty
  rxKey : List Byte  -- 32 bytes; 12 R392; empty
  txSalt : List Byte  -- 4 bytes; 12 R392; empty
  rxSalt : List Byte  -- 4 bytes; 12 R392; empty
  epoch : Nat  -- key epoch number of both directions' schedule; 12 R392; 0
  rxEpoch : Nat  -- key epoch of the receive direction; 12 R392; 0
  txSlot : Nat  -- 64 bits, next transmit slot; 12 R378; 0
  rxSlot : Nat  -- 64 bits, next receive slot; 12 R378; 0
  transcript : List Byte  -- key establishment so far; 14 R460; empty
  secret : List Byte  -- decapsulation key or shared secret of the establishment; 14 R460; empty
  txSeq : Nat  -- 11 bits, SEQ of the next DATA flit; 12 R378; 0
  unacked : List (Nat × Flit)  -- replay buffer, up to 512, oldest first; 12 R390; empty
  rxNext : Nat  -- 11 bits, expected SEQ; 12 R390; 0
  nakOut : Bool  -- a NAK has been sent for the gap; 12 R390; false
  replaySeq : Nat  -- SEQ of the last replay's first flit; 12 R390; 0
  replayN : Nat  -- replays of it in succession; 12 R390; 0
  ackAt : Nat  -- Square time at which ACK last advanced; 12 R390; 0
  ded : Tbl Nat  -- dedicated credits used, by VC; 12 R382; 0
  pool : Tbl Nat  -- pool buffers held, by VC; 12 R382; 0
  credSeen : Tbl Nat  -- last CRED_N seen, by VC; 12 R383; 0
  credOut : Tbl Nat  -- credits returned, by VC; 12 R383; 0
  credSent : Tbl Nat  -- of these, announced, by VC; 12 R383; 0
  txq : List Flit  -- flits that wait for credit, oldest first; 12 R384; empty
  rrX : Nat  -- next Express TC; 12 R384; 1
  rrL : Nat  -- next Local TC; 12 R384; 4
  deficit : Tbl Nat  -- deficit by TC × 17 + Court; 12 R384; 0
  drr : Tbl Nat  -- Court whose turn it is, by TC; 12 R384; 0
  rx : Tbl (List Byte)  -- bytes of an unfinished message, by VC × 65 536 + destination; 12 R379; empty
  corrected : Nat  -- 64 bits; 12 R396; 0
  uncorrected : Nat  -- 64 bits; 12 R396; 0
  replays : Nat  -- 64 bits; 12 R396; 0
  tagFails : Nat  -- 32 bits; 12 R396; 0
  unreach : Nat  -- UNREACHABLE count; 12 R389; 0
  errors : Nat  -- frames discarded and messages lost; 10 R337; 12 R380; 0
  tagTimes : List Nat  -- Square times of tag failures in the last second; 12 R391; empty
  limits : Tbl (Nat × Nat)  -- last time and suppressed count of a limited record, by type; 12 R396; empty
  deriving DecidableEq, Repr

/-- A sender known to a partner store (13 R425, R429). -/
structure StoreSender where
  addr : Nat  -- 16 bits, device address; 13 R429; -
  seq : Nat  -- 32 bits, last SEQ processed; 13 R425; 0
  early : List (List Byte)  -- messages held ahead of a missing SEQ; 13 R425; empty
  heldDirect : Bool  -- direct messages wait for its LAST_IN_EPOCH; 13 R429; false
  deriving DecidableEq, Repr

/-- A move of a store under way (13 R429). -/
structure StoreMove where
  q : QId  -- the MIGRATE; 13 R429; -
  cid : Nat  -- CID of the MIGRATE; 13 R429; -
  target : Nat  -- 16 bits; 13 R429; -
  adopted : Bool  -- the target has adopted the identity; 13 R429; false
  sent : Nat  -- next offset to send; 13 R429; 0
  dirty : List (Nat × Nat)  -- ranges written meanwhile: offset and length; 13 R429; empty
  open_ : Nat  -- PUT and TIMER messages not yet answered; 13 R429; 0
  seq : Nat  -- messages sent for the move; 13 R429; 0
  timers : Nat  -- TIMER ranges sent in step 3; 13 R429; 0
  final : Bool  -- step 3: messages are held; 13 R429; false
  held : List (List Byte)  -- messages held in step 3, oldest first; 13 R429; empty
  deriving DecidableEq, Repr

/-- What stands for a Court's partner store on this device (13 R423, R429, R430). -/
inductive StoreRole where
  | home
  /-- forwards to a new home until every marker has passed -/
  | stub (home epoch : Nat)
  deriving DecidableEq, Repr

/-- A partner store (13 R423 to R430). -/
structure Store where
  court : Nat  -- Court; 13 R423; -
  origin : Nat  -- 16 bits, device on which it was created; 13 R423; own address
  role : StoreRole  -- home or stub; 13 R429; home
  epoch : Nat  -- 16 bits, placement epoch; 13 R423; 1
  prev : Nat  -- 16 bits, epoch before the last move here, 0 for none; 13 R429; 0
  written : Bool  -- something has been written; 13 R429; false
  adopted : Bool  -- it holds an adopted object; 13 R429; false
  adopter : Option Nat  -- device whose store it adopted; 13 R429; none
  senders : List StoreSender  -- sender table, up to 256; 13 R429; empty
  waiting : List Nat  -- senders whose markers have not passed the stub; 13 R429; empty
  ranges : List (Nat × Nat × Nat)  -- ranges marked for expiry: offset, length, Square time; 13 R427; empty
  expired : List (Nat × Nat)  -- ranges that have expired; 13 R427; empty
  move : Option StoreMove  -- a move under way; 13 R429; none
  deriving DecidableEq, Repr

/-- A tombstone (13 R430). -/
structure Tombstone where
  origin : Nat  -- 16 bits; 13 R430; -
  court : Nat  -- 13 R430; -
  home : Nat  -- 16 bits, new home; 13 R430; -
  epoch : Nat  -- 16 bits, new epoch; 13 R430; -
  deriving DecidableEq, Repr

/-- A partner map entry of a Court (13 R423). -/
structure PartnerMap where
  court : Nat  -- Court; 13 R423; -
  origin : Nat  -- 16 bits; 13 R423; -
  home : Nat  -- 16 bits, current home; 13 R423; the origin
  epoch : Nat  -- 16 bits; 13 R423; 1
  seq : Nat  -- 32 bits, SEQ last used; 13 R425; 0
  deriving DecidableEq, Repr

/-- What a message to a partner store serves (13 R426). -/
inductive ReqUse where
  /-- fetch of a cold version (07 R224) -/
  | fetch (handle version : Nat)
  /-- the copy of a version to its cold location (07 R225, R226) -/
  | demote (handle version : Nat)
  /-- parking copy of a sequence (08 R281) -/
  | park (seq : Nat)
  /-- return copy of a sequence (08 R281) -/
  | return_ (seq : Nat)
  /-- expiry timer of a parked sequence (08 R281; 13 R427) -/
  | timer (seq : Nat)
  /-- FORWARD ADOPT of a move (13 R429) -/
  | adopt (court : Nat)
  /-- contents and timers of a move (13 R429) -/
  | move (court : Nat)
  deriving DecidableEq, Repr

/-- A message to a partner store that awaits its answer (13 R424 to R426). -/
structure PartnerReq where
  token : Nat  -- 32 bits; 13 R424; -
  use : ReqUse  -- operation; 13 R426; -
  dest : Nat  -- 16 bits, device it was sent to; 13 R423; -
  tc : Nat  -- 3 bits; 12 R381; -
  off : Nat  -- OFFSET; 13 R424; -
  len : Nat  -- bytes; 13 R424; -
  msg : List Byte  -- the message, for a repeat; 13 R425; -
  retryAt : Option Nat  -- Square time of a repeat after RETRY; 13 R425; none
  deriving DecidableEq, Repr

/-- The data a use has gathered so far (13 R424, R426). -/
structure PartnerXfer where
  use : ReqUse  -- operation; 13 R426; -
  got : List Host.Cell  -- bytes received, by offset from the transfer's start; 13 R424; empty
  failed : Bool  -- the data is lost; 13 R426; false
  expired : Bool  -- it was lost because the region expired; 13 R426; false
  deriving DecidableEq, Repr

/-- Partner stores and messages of the active Square. -/
structure Partners where
  stores : List Store  -- stores and stubs on this device; 13 R423; none
  tombs : List Tombstone  -- up to 1 024, oldest first; 13 R430; empty
  maps : List PartnerMap  -- up to 64 for each Court; 13 R423; empty
  reqs : List PartnerReq  -- messages that await an answer; 13 R424; empty
  xfers : List PartnerXfer  -- transfers under way; 13 R426; empty
  token : Nat  -- 32 bits, next TOKEN; 13 R424; 1 (DESIGN CHOICE)
  deriving DecidableEq, Repr

/-! ### Serving (08) -/

/-- States of a sequence (08 R260). -/
inductive SeqState where
  | waiting
  | queued
  | running
  | parkedAuto
  | parked
  deriving DecidableEq, Repr

/-- A parking or return copy under way (08 R281). -/
inductive SeqCopy where
  | none
  /-- to PARK_AT -/
  | out
  /-- from PARK_AT -/
  | back
  deriving DecidableEq, Repr

/-- A node of a draft tree (08 R270). -/
structure DraftNode where
  token : Nat  -- 32 bits; 08 R270; -
  parent : Option Nat  -- none: child of the root; 08 R270; -
  deriving DecidableEq, Repr

/-- A KV page slot: the Court address of its page at each layer (08 R266; 13 R421). -/
abbrev KvPage := List Nat

/-- A sequence (08). -/
structure Seq where
  q : QId  -- queue of its SERVE; 08 R258; -
  cid : Nat  -- CID of its SERVE; 08 R258; -
  batch : Nat  -- its batch; 08 R251; -
  express : Bool  -- CLASS; 08 R258; -
  ring : Nat  -- 14 bits, RING; 08 R258; -
  low : Nat  -- 16 bits, H_LOWRANK; 08 R258; -
  scal : Nat  -- 16 bits, H_SCALING; 08 R258; -
  pre : Nat  -- 16 bits, H_PREFIX; 08 R258; -
  spec : Bool  -- SPECULATE; 08 R258; -
  promptAt : Nat  -- 64 bits, PROMPT_ADDR; 08 R258; -
  promptLen : Nat  -- PROMPT_TOKENS; 08 R258; -
  maxNew : Nat  -- MAX_NEW_TOKENS; 08 R258; -
  limit : Nat  -- CONTEXT_LIMIT, 0 taken as 1 048 576; 08 R258; -
  chunk : Nat  -- PREFILL_CHUNK, 0 taken as 2 048; 08 R258; -
  topK : Nat  -- TOP_K; 08 R258; -
  temp : F32  -- TEMP; 08 R258; -
  seed : Nat  -- 64 bits, SEED; 08 R258; -
  stops : List Nat  -- stop tokens; 08 R258; -
  stopSeqs : List (List Nat)  -- stop sequences; 08 R258; -
  ttl : Nat  -- seconds, PARK_TTL_S or the value of a PARK; 08 R258, R282; -
  parkAt : Nat  -- 64 bits, PARK_AT; 08 R258; -
  parkBytes : Nat  -- 64 bits, PARK_BYTES; 08 R258; -
  kt : Nat  -- transport key bound, 0 for none; 14 R451; -
  state : SeqState  -- state; 08 R260; WAITING
  told : Bool  -- the interim QUEUED has been posted; 08 R262; false
  order : Nat  -- order of admission; 08 R255; 0
  base : Option Nat  -- model slot bound; 08 R260; none
  binds : List (Nat × Nat)  -- handles and versions bound; 08 R260; empty
  claims : List (Nat × Nat)  -- reserved expert slots bound as claimed, by layer and index; 07 R234; empty
  prompt : List Nat  -- prompt tokens as read; 08 R258; empty
  pos : Nat  -- positions that hold committed KV; 08 R264; 0
  preLen : Nat  -- PREFIX_TOKENS of its prefix; 08 R266; 0
  root : Option Nat  -- last emitted token; 08 R271; none
  draft : List Byte  -- draft output of the row of the last token; 08 R270; empty
  emitted : Nat  -- tokens posted to the ring; 08 R276; 0
  recent : List Nat  -- last 15 emitted tokens, newest first; 08 R275; empty
  admitStep : Nat  -- ADMIT_STEP; 08 R276; 0
  parkedOnce : Bool  -- FLAGS.PARKED; 08 R276; false
  trimmed : Bool  -- FLAGS.TREE_TRIMMED; 08 R276; false
  split : Bool  -- FLAGS.SPLIT; 08 R276; false
  shared : List KvPage  -- prefix pages by reference; 08 R266; empty
  pages : List KvPage  -- own committed pages in position order; 08 R264; empty
  tent : List KvPage  -- tentative pages of the step; 08 R264; empty
  parkedAt : Nat  -- Square time at which it was parked; 08 R261; 0
  expires : Option Nat  -- Square time at which its time to live ends; 08 R281; none
  copy : SeqCopy  -- copy under way; 08 R281; none
  parkReq : Option (QId × Nat)  -- PARK accepted; 08 R282; none
  resumeReq : Option (QId × Nat)  -- RESUME accepted; 08 R283; none
  ended : Option Nat  -- REASON, with the last token posted; 08 R276; none
  failed : Option Nat  -- status of a failure; 08 R254; none
  gone : Bool  -- its SERVE has retired; its pages leave at the next boundary, or as its batch ends; 08 R276; false
  deriving DecidableEq, Repr

/-- A sequence's part of a step (08 R255, R267, R271). -/
structure StepSeq where
  seq : Nat  -- sequence; 08 R255; -
  first : Nat  -- first row; 08 R255; -
  rows : Nat  -- rows; 08 R255; -
  prefill : Bool  -- prefill rows, else a root row and its tree; 08 R255; -
  tree : List DraftNode  -- nodes of its tree; 08 R270; -
  sampled : List (Option Nat)  -- tokens sampled at the root's row and at each node's, once the step has run; 08 R269; empty
  path : List Nat  -- accepted path of nodes; 08 R272; empty
  dead : Option Nat  -- tile code of a part that failed; 08 R254; none
  deriving DecidableEq, Repr

/-- Where a batch stands (08 R251, R261, R285). -/
inductive BatchPhase where
  /-- at a boundary -/
  | boundary
  /-- a step runs -/
  | stepping
  /-- the step has run and waits for a SPEC decision -/
  | spec
  /-- the SPEC decision has been taken -/
  | decided
  deriving DecidableEq, Repr

/-- A batch (08 R251). -/
structure Batch where
  court : Nat  -- Court; 08 R251; -
  plan : Nat  -- PLAN; 08 R251; -
  slot : Nat  -- BASE_SLOT; 08 R251; -
  step : Nat  -- 64 bits, number of the last step built; 08 R251; 0
  bufs : List (Nat × Nat × Nat)  -- batch buffers: symbol, Court address, bytes; 08 R252; -
  phase : BatchPhase  -- phase; 08 R261; boundary
  run : Nat  -- run of the step; 08 R253; 0
  rows : List StepSeq  -- the step's sequences in row order; 08 R255; empty
  rest : List StepSeq  -- sequences of the following parts of a split; 08 R268; empty
  kvTok : Nat  -- bytes of K, or of V, of one token in the plan's pages; 08 R266; -
  kvHalf : Nat  -- bytes of the K part, or the V part, of a page; 08 R266; -
  kvFmt : Option Nat  -- KV_FORMAT of the plan's per-sequence ATTENTION; 08 R266; -
  kvLayers : Nat  -- layers that the plan's references to serve.kv name; 08 R252; -
  vocab : Nat  -- VOCAB, SIZE of serve.logits / 4; 08 R252; -
  stage : Nat  -- how far the boundary in progress is: 0 releases, 1 returns, 2 Express joins, 3 Local joins, 4 all done; 08 R261; 0
  modes : Nat  -- mode entry of the Court as the step in progress began; 06 R213; 0
  asking : Option Nat  -- join that waits for a PARK decision; 08 R285; none
  noPark : List Nat  -- joins of this boundary for which no parking is to be made, and victims whose copy failed; 08 R285; empty
  stopWait : Nat  -- STOP decisions that wait; 08 R285; 0
  reasons : List (Nat × Nat × Nat)  -- sequence, REASON that the device would give and step, while STOP waits; 08 R285; empty
  deriving DecidableEq, Repr

/-- A stream ring (08 R277 to R279; 14 R457). -/
structure StreamRing where
  via : FnId  -- function whose address space holds it; 08 R277; -
  base : Nat  -- 64 bits; 08 R277; -
  depth : Nat  -- entries; 08 R277; -
  vector : Option Nat  -- VECTOR; 08 R277; -
  head : Nat  -- last accepted HEAD; 08 R279; 0
  wr : Nat  -- write position; 08 R278; 0
  phase : Bool  -- PHASE of the next entry; 08 R278; 1
  written : Nat  -- entries written since the ring was set; 14 R457; 0
  kt : Nat  -- transport key bound, 0 for none; 14 R451; 0
  epoch : Nat  -- RING_EPOCH; 14 R457; 0
  deriving DecidableEq, Repr

/-- Serving of the active Square. -/
structure Serving where
  seqs : Tbl Seq  -- sequences by their number (the model's own); 08 R259; empty
  nextSeq : Nat  -- next sequence number, in the order in which SERVEs started; 08 R261; 0
  admitted : Nat  -- admissions so far; 08 R255; 0
  batches : Tbl Batch  -- batches by their number (the model's own); 08 R251; empty
  nextBatch : Nat  -- next batch number; 08 R251; 0
  rings : Tbl StreamRing  -- stream rings by Court × 16 384 + RING; 08 R277; empty
  deriving DecidableEq, Repr

/-! ### Security (14) -/

/-- A transport key of a Court (14 R446, R449, R453). -/
structure TransportKey where
  id : Nat  -- installation number in the Court's epoch, from 1 (the model's own); 14 R451; -
  key : List Byte  -- 32 bytes; 14 R449; -
  nonce : List Byte  -- 16 bytes, INSTALL_NONCE; 14 R449; -
  sealSeq : Nat  -- 63 bits, next SEAL_SEQ; 14 R453; 0
  rings : Nat  -- SET_STREAM_RING commands retired under it; 14 R457; 0
  deriving DecidableEq, Repr

/-- A weight or group key (14 R446). -/
structure OwnerKey where
  group : Bool  -- KIND 3, else KIND 2; 14 R448; -
  id : Nat  -- 64 bits, KEY_ID; 14 R448; -
  key : List Byte  -- 32 bytes; 14 R449; -
  deriving DecidableEq, Repr

/-- The keys of a Court (14 R446). -/
structure CourtKeys where
  seed : List Byte  -- 32 bytes, CS; 14 R446; RBG at creation and reset
  kemEk : List Byte  -- 1 568 bytes; 14 R446; made with CS
  kemDk : List Byte  -- ML-KEM decapsulation key; 14 R446; made with CS
  cur : Option TransportKey  -- transport key; 14 R446; none
  old : Option TransportKey  -- superseded transport key; 14 R451; none
  installs : Nat  -- transport keys installed in this epoch (the model's own); 14 R451; 0
  keys : List OwnerKey  -- weight and group keys, up to 256; 14 R446; empty
  coldSeq : Nat  -- SEAL_SEQ of the next object sealed under the cold key; 14 R453; 0
  deriving DecidableEq, Repr

/-- The boot attestation key and what its certificate states (14 R446, R463). -/
structure Bak where
  seed : List Byte  -- 48 bytes; 14 R446; RBG at power-on
  pk : List Byte  -- 32 bytes; 14 R463; from the seed
  nonce : List Byte  -- 16 bytes, BOOT_NONCE; 14 R463; RBG at power-on
  meas : List Byte  -- 32 bytes, BOOT_MEASUREMENT; 14 R463; as booted
  deriving DecidableEq, Repr

/-- The Watch. -/
structure Watch where
  rbg : Nat  -- draws taken from the random bit generator (the model's own); 14 R444; 0 (DESIGN CHOICE)
  epochs : Tbl Nat  -- 32 bits, COURT_EPOCH by Court; 14 R446; 0
  courts : Tbl CourtKeys  -- keys by Court; 14 R446; none
  signers : Tbl (List (List Byte))  -- public keys of package signers by Court, up to 16; 14 R459; none
  configs : Tbl (List Byte)  -- CREATE_COURT or RESIZE_COURT block last accepted, by Court; 14 R467; none
  bak : Option Bak  -- boot attestation key; 14 R446; none before boot
  limits : Tbl (Nat × Nat)  -- last time and suppressed count of records 0x04 and 0x06, by type × 17 + Court; 14 R474; none
  zero : List (Nat × Nat)  -- zeroisations started by the device: Court and cause (record type); 14 R471, R472; none
  deriving DecidableEq, Repr

/-! ### Ageing, Roadworks, availability (15) -/

/-- A plan change that is being applied to a die (15 R477, R479, R480). -/
inductive PlanChange where
  | none
  /-- a rail write: target in mV and attempts made -/
  | rail (mv tries : Nat)
  /-- a swap of a physical Block -/
  | swap (block : Nat)
  /-- a clock glide -/
  | clock
  deriving DecidableEq, Repr

/-- A compute die (15). -/
structure Die where
  rail : Nat  -- mV, set point last confirmed; 15 R478; fused, 680 to 720 (free value)
  railInit : Nat  -- mV, fused initial set point; 15 R478; free value
  railSteps : Nat  -- 16 bits; 15 R496; 0
  clkSteps : Nat  -- 0 to 8; 15 R480; 0
  swaps : Nat  -- 8 bits; 15 R496; 0
  retired : Nat  -- 8 bits; 15 R496; 0
  slack : Int  -- worst projected slack in 0.001 ps; 15 R475; 0 (DESIGN CHOICE)
  replica : Nat  -- 8 bits, limiting replica; 15 R496; 0xFF (DESIGN CHOICE)
  lastMeasure : Nat  -- Square time; 15 R496; 0
  ro : Nat  -- kHz; 15 R496; 0 (DESIGN CHOICE)
  tj : Int  -- 0.1 °C, Tj at the last measurement; 15 R496; 0 (DESIGN CHOICE)
  measurements : Nat  -- 32 bits; 15 R496; 0
  ordinaryAt : Option Nat  -- Square time of the last 15-minute measurement that applied a change; 15 R477; none
  urgent : Bool  -- STATE bit 0; 15 R496; false
  exhausted : Bool  -- STATE bit 1; 15 R496; false
  awaiting : Bool  -- STATE bit 2; 15 R483, R496; false
  railFault : Bool  -- STATE bit 3; 15 R479; false
  change : PlanChange  -- change in progress; 15 R492; none
  waits : List PlanChange  -- ordinary changes that wait for a slice to return; 15 R492; empty
  deriving DecidableEq, Repr

/-- A RUN_ROADWORKS under way (15 R491). -/
structure RwCmd where
  q : QId  -- queue; 15 R491; -
  cid : Nat  -- CID; 15 R491; -
  left : List Nat  -- physical Blocks whose slice has not ended; 15 R491; -
  passed : Nat  -- slices passed; 15 R491; 0
  failed : Nat  -- slices failed; 15 R491; 0
  missed : Nat  -- slices abandoned or postponed; 15 R491; 0
  deriving DecidableEq, Repr

/-- One day of powered time (15 R499). -/
structure AvailDay where
  device : Nat  -- device-caused interruption in Square time units; 15 R497; 0
  excluded : Nat  -- excluded interruption in Square time units; 15 R498; 0
  takeovers : Nat  -- unplanned takeovers; 15 R496; 0
  fatals : Nat  -- device-caused fatal faults; 15 R496; 0
  deriving DecidableEq, Repr

/-- Availability counts (15 R496, R499). -/
structure Avail where
  powered : Nat  -- powered time since manufacture in Square time units; 15 R496; 0 (DESIGN CHOICE)
  days : List AvailDay  -- daily buckets of powered time, newest first, 365; 15 R499; empty
  lifetime : Nat  -- device-caused interruption since manufacture, in units; 15 R496; 0
  opened : Option (Bool × Bool)  -- an interval that is open: device-caused or excluded, by a fatal or by a takeover; 15 R499; none
  deriving DecidableEq, Repr

/-- The Survey and the Roadworks controller. -/
structure Survey where
  dies : Tbl Die  -- 16 compute dies; 15 R478; empty until the first boot (then every die)
  rw : List RwCmd  -- RUN_ROADWORKS commands under way; 15 R491; empty
  avail : Avail  -- counts of this power cycle and before; 15 R499; 0
  flash : Avail  -- the same as last written to flash; 15 R499; 0
  countedAt : Nat  -- Square time up to which `avail` counts powered time; 15 R499; 0
  deriving DecidableEq, Repr

/-! ### Power, reset, boot, firmware (16) -/

/-- A component entry of a firmware image (16 R509). -/
structure FwComp where
  version : Nat  -- 32 bits; 16 R509; -
  hash : List Byte  -- 32 bytes; 16 R509; -
  deriving DecidableEq, Repr

/-- A firmware image that has been verified (16 R509). -/
structure FwImage where
  svnSq : Nat  -- 0 to 64; 16 R509; -
  svnMc : Nat  -- 0 to 64; 16 R509; -
  first : FwComp  -- FIRST_STAGE; 16 R509; -
  square : FwComp  -- SQUARE_FW; 16 R509; -
  micro : FwComp  -- MICROCODE; 16 R509; -
  deriving DecidableEq, Repr

/-- The boot record and firmware slots of the SPI NOR flash, and the fuses (16 R502, R503, R510). -/
structure Flash where
  slotA : Option FwImage  -- firmware slot A; 16 R502; an image of version 0 (DESIGN CHOICE)
  slotB : Option FwImage  -- firmware slot B; 16 R502; empty (DESIGN CHOICE)
  select : Nat  -- 1 bit, SELECT; 16 R503; 0 (DESIGN CHOICE)
  staged : Bool  -- STAGED; 16 R503; 0 (DESIGN CHOICE)
  uncommitted : Bool  -- SELECT was rewritten by an activation that has not committed; 16 R516; 0 (DESIGN CHOICE)
  pendSq : Nat  -- PENDING_SQ; 16 R503; 0 (DESIGN CHOICE)
  pendMc : Nat  -- PENDING_MC; 16 R503; 0 (DESIGN CHOICE)
  fuseSq : Nat  -- SQ anti-rollback count, 0 to 64; 16 R510; 0 (DESIGN CHOICE)
  fuseMc : Nat  -- MC anti-rollback count, 0 to 64; 16 R510; 0 (DESIGN CHOICE)
  deriving DecidableEq, Repr

/-- Where an activation or handover stands (16 R515, R517). -/
inductive ActPhase where
  /-- the standby boots the staged slot and resynchronises -/
  | preparing
  /-- the activation window is open since a Square time -/
  | window (since : Nat)
  /-- the old active Square boots as standby -/
  | following
  /-- a warm activation waits for the commands already fetched -/
  | warming
  deriving DecidableEq, Repr

/-- An activation or handover in progress (16 R515, R517). -/
structure Activation where
  q : QId  -- queue; 16 R514; -
  cid : Nat  -- CID; 16 R514; -
  hot : Bool  -- a hot activation, else a HANDOVER; 16 R514, R517; -
  phase : ActPhase  -- phase; 16 R515; -
  deriving DecidableEq, Repr

/-- The standby Square as HANDOVER reports it (16 R517). -/
inductive Standby where
  | absent
  | booting
  | resyncing
  | inService
  deriving DecidableEq, Repr

/-- Power, temperature and duty (16 R518 to R521). -/
structure Power where
  duty : Nat  -- device duty of the power limits in 1/16; 16 R518; 16
  thermal : Tbl Nat  -- duty of a compute die for temperature in 1/16, absent 16; 16 R520; 16
  brake : Bool  -- PWRBRK_N low; 16 R519; false
  windows : List Nat  -- mW of the last 100 µs windows, newest first, 10 000; 16 R518; empty
  excStart : Option Nat  -- Square time at which the excursion began; 16 R518; none
  excEnd : Option Nat  -- Square time at which the last excursion ended; 16 R518; none
  raisedAt : Nat  -- Square time of the last restoration; 16 R518; 0
  usPower : Nat  -- µs throttled for power; 16 R521; 0
  usTemp : Nat  -- µs throttled for temperature; 16 R521; 0
  excursions : Nat  -- excursions; 16 R521; 0
  usBrake : Nat  -- µs with PWRBRK_N low; 16 R521; 0
  brakeAt : Nat  -- Square time at which PWRBRK_N went low; 16 R521; 0
  stackHot : Tbl Nat  -- stacks with refresh doubled (1) or also request rate halved (2); 16 R520; none
  sensors : Tbl Nat  -- 32 bits each, last sample of sensors 1 to 91; 12 R408; absent (no sample)
  flags : Tbl Nat  -- threshold flags of each sensor; 12 R408; 0
  deriving DecidableEq, Repr

/-- Samples of the status collector (01 R39). -/
structure Sample where
  at_ : Nat  -- Square time of the sample; 01 R39; 0
  throttle : List Nat  -- the four counts of 16 R521; 01 R39; empty
  counters : Tbl (List Nat)  -- counters of 03 R101 by physical Block; 01 R39; empty
  deriving DecidableEq, Repr

/-- The TAP (17 R535). -/
structure Tap where
  ir : Nat  -- 8 bits, instruction in force; 17 R535; 0x01 IDCODE (PRESUMED, IEEE 1149.1)
  bsr : Nat  -- boundary-scan register, one bit a cell; 17 R535; 0 (DESIGN CHOICE)
  deriving DecidableEq, Repr

/-- A PLDM firmware update (12 R409). -/
structure PldmUpdate where
  maxXfer : Nat  -- 32 bits, the largest transfer the update agent takes; 12 R409; -
  size : Nat  -- image bytes announced; 12 R409; 0
  got : List Byte  -- image bytes received; 12 R409; empty
  at_ : Nat  -- Square time of the last command; 12 R409; -
  state : Nat  -- state that GetStatus reports: 1 learn components, 2 ready transfer, 3 download; 12 R407; 1
  verified : Bool  -- the image has been checked and staged; 12 R409; false
  deriving DecidableEq, Repr

/-- An SPDM responder on a port's DOE mailbox (14 R462). -/
structure Spdm where
  agreed : Bool  -- the requester selected the fixed algorithms; 14 R462; false
  transcript : List Byte  -- messages of the session establishment; 14 R462; empty
  session : Option (List Byte)  -- secret of the secured session; 14 R462; none
  deriving DecidableEq, Repr

/-- The management port and the IDE streams of the host ports (12 R404 to R409). -/
structure Mgmt where
  dyn : Option Nat  -- 7 bits, I3C dynamic address; 12 R405; none
  eid : Nat  -- 8 bits, MCTP endpoint ID; 12 R406; 0 (PRESUMED, MCTP null endpoint)
  tid : Nat  -- 8 bits, PLDM terminus ID; 12 R407; 0 (PRESUMED, PLDM unassigned)
  receiver : Option (List Byte)  -- event receiver; 12 R408; none
  upd : Option PldmUpdate  -- PLDM firmware update under way; 12 R409; none
  prevUpd : Nat  -- update state before the present one; 12 R407; 0 (PRESUMED, IDLE)
  spdm : Tbl Spdm  -- responders by port; 14 R462; none
  ide : Tbl Bool  -- IDE streams by port × 17 + function: keyed (true) or ended after a failure (false); 12 R404; none
  ideKeys : Tbl (List Byte)  -- keys and IVs programmed, by (port × 17 + stream) × 256 + key sub-stream byte; 12 R404; none
  deriving DecidableEq, Repr

/-- The device's major cycle and the slots that hold Blocks (13 R435, R436). -/
structure Timetable where
  cycle : Nat  -- CYCLE in units; 13 R435; 100 000
  t0 : Nat  -- T0; 13 R436; 0
  cycleNext : Option Nat  -- cycle that takes effect at the next boundary; 13 R437; none
  active : List TtActive  -- slots in lead or in force; 13 R436; empty
  deriving DecidableEq, Repr

/-- The Squares and the device's overall condition (01 R31, R40; 06 R181; 16; 17). -/
structure Squares where
  time : Nat  -- 64 bits, Square time in 10 ns units; 00 R14; 0
  ready : Bool  -- DEV_STATUS.READY; 06 R181; 0
  active : Nat  -- 1 bit, DEV_STATUS.ACTIVE_SQUARE; 06 R181; 0
  takeover : Bool  -- DEV_STATUS.TAKEOVER; 06 R181; 0
  fatal : Bool  -- DEV_STATUS.FATAL; 06 R181; 0
  stage : Nat  -- 8 bits, DEV_STATUS.BOOT_STAGE; 06 R181; 0x00
  stageAt : Nat  -- Square time at which the stage began; 16 R504; 0
  powered : Bool  -- the rails are in regulation; 16 R501; true (DESIGN CHOICE)
  vddIo : Bool  -- VDD_IO is above 1.0 V; 17 R531; true (DESIGN CHOICE)
  perst : Bool  -- PERST_N is low; 16 R506; true
  addr : Nat  -- 16 bits, device address d3:d2:d1:d0; 12 R385; 0 until the straps are sampled (DESIGN CHOICE)
  torus : List Nat  -- sizes of dimensions 0 to 3; 12 R385; 1 each until the straps are sampled (DESIGN CHOICE)
  wrap : List Bool  -- wrap flags of dimensions 0 to 3; 12 R385; false
  strapsBad : Bool  -- the straps are inconsistent; 17 R529; false
  i3cSa : Nat  -- 7 bits, STRAP_I3C_SA as sampled; 17 R528; 0 (DESIGN CHOICE)
  i3cInst : Nat  -- 4 bits, STRAP_I3C_INST as sampled; 17 R528; 0 (DESIGN CHOICE)
  hclk : Nat  -- 2 bits, STRAP_HCLK as sampled; 17 R528; 0 (DESIGN CHOICE)
  standby : Standby  -- the standby Square; 16 R517; absent
  standbyFw : Option FwImage  -- image the standby runs; 16 R517; none
  running : Option FwImage  -- image the active Square runs; 16 R511; none
  microcode : Option FwComp  -- microcode the Blocks run; 16 R504; none
  beatAt : Nat  -- Square time of the last heartbeat received; 16 R508; 0
  shadow : Nat  -- 64 bits, the standby's shadow count as last synchronised; 01 R40; 0
  act : Option Activation  -- activation or handover in progress; 16 R515; none
  refs : Tbl Nat  -- reference of a die by R474 code: 1 switched to REFCLK1, 2 lost, absent REFCLK0; 01 R37; REFCLK0
  laneRepairs : Nat  -- die-to-die lane repairs in telemetry; 01 R24; 0
  faultN : Bool  -- FAULT_N low; 17 R534; false
  alertN : Bool  -- ALERT_N low; 17 R534; false
  thermtripN : Bool  -- THERMTRIP_N low; 17 R534; false
  hostUp : List Nat  -- link of H0 and H1: 0 down, 1 up, 2 up at x16 and 64 GT/s; 12 R408; 0
  deriving DecidableEq, Repr

/-- The whole device. -/
structure State where
  sq : Squares  -- the Squares, time and boot; 01, 16; see Squares
  cmd : CmdState  -- commands, queues, rings; 06; see CmdState
  mem : Mem  -- HBM; 04; see Mem
  blocks : Tbl Block  -- 288 physical Blocks; 01 R29; see Block
  courts : Tbl Court  -- Courts 0 to 15, absent ones without an entry; 13 R411; none
  pkgs : Tbl Package  -- loaded packages by handle; 06 R197; none
  runs : Tbl Run  -- admitted runs; 05 R142; none
  nextRun : Nat  -- number of the next run, in admission order (the model's own); 05 R142; 0
  barriers : List Barrier  -- barriers with ready members; 05 R158; none
  semWait : List (Nat × Nat × Nat)  -- ACQUIRE waiters (run, stream, semaphore) in order; 05 R157; none
  runDone : List (RunOwner × Nat × Nat × Nat × Nat)  -- ended runs of steps, not yet taken up: owner, CODE, stream, SEQ, retired work orders; 05 R161; none
  gaz : Gaz  -- Gazetteer and model cache; 07; see Gaz
  grps : Tbl Group  -- collective groups by Court × 65 536 + GROUP; 10 R325; none
  jobs : Tbl DistilJob  -- open distillation jobs by Court × 4 + JOB; 11 R352; none
  ue : Tbl UeState  -- register files of the four Update Engines; 09 R306; empty (zero)
  avs : Tbl Avenue  -- Avenues 0 to 7; 12 R374; empty until boot
  inbox : List (Nat × Nat × List Byte)  -- messages for this device not yet processed, with the Avenue they came on (8: this device) and their TC, oldest first; 12 R379; empty
  part : Partners  -- partner stores and messages; 13 R423; see Partners
  tt : Timetable  -- device Timetable; 13 R435; see Timetable
  srv : Serving  -- serving; 08; see Serving
  sec : Watch  -- keys, epochs, signers; 14; see Watch
  age : Survey  -- ageing, Roadworks, availability; 15; see Survey
  pwr : Power  -- power and temperature; 16; see Power
  flash : Flash  -- boot record, firmware slots, fuses; 16; see Flash
  smp : Sample  -- status collector; 01 R39; see Sample
  tap : Tap  -- TAP; 17 R535; see Tap
  mgm : Mgmt  -- management port; 12; see Mgmt
  free : Nat  -- the model's own counter of free values taken; -; 0 (DESIGN CHOICE)
  out : List OutEv  -- what the device has sent out, newest first (the model's own record); -; empty
  pending : List Instr  -- commands waiting, first in first out (the model's own); -; empty
  deriving DecidableEq, Repr

/-- Availability counts of a new device. -/
def Avail.zero : Avail := { powered := 0, days := [], lifetime := 0, opened := none }

/-- The image taken to stand in slot A of a new device's flash (a model's choice: no chapter gives its contents). -/
def FwImage.factory : FwImage :=
  { svnSq := 0, svnMc := 0, first := ⟨0, List.replicate 32 0#8⟩, square := ⟨0, List.replicate 32 0#8⟩,
    micro := ⟨0, List.replicate 32 0#8⟩ }

/-- The machine right after reset. -/
def State.reset : State :=
  { sq := { time := 0, ready := false, active := 0, takeover := false, fatal := false, stage := 0, stageAt := 0,
            powered := true, vddIo := true, perst := true, addr := 0, torus := [1, 1, 1, 1],
            wrap := [false, false, false, false], strapsBad := false, i3cSa := 0, i3cInst := 0, hclk := 0,
            standby := .absent, standbyFw := none, running := none, microcode := none, beatAt := 0, shadow := 0,
            act := none, refs := [], laneRepairs := 0, faultN := false, alertN := false, thermtripN := false,
            hostUp := [0, 0] }
    cmd := { queues := [], cmds := [], retireSeq := [], fns := [], eventRings := [], assistRings := [], assists := [],
             expired := [], heldWrites := [], modes := [], modeDeadlines := [] }
    mem := { hbm := [], granules := [], poison := [], saveCourt := [], lastUse := [], mapped := [], mapQueue := [],
             mapPending := false, repair := [], mapNow := none, hardDown := [], hardLost := [], cured := [], chans := [], reserve := 3, saveArea := [], holdBuf := none, recLimit := [], macFails := [],
             lockRefused := 0, sramCorrected := 0 }
    blocks := []
    courts := [], pkgs := [], runs := [], nextRun := 0, barriers := [], semWait := [], runDone := []
    gaz := { entries := [], drains := [], slots := [], stamp := 0 }
    tt := { cycle := 100000, t0 := 0, cycleNext := none, active := [] }
    grps := [], jobs := [], ue := [], avs := [], inbox := []
    part := { stores := [], tombs := [], maps := [], reqs := [], xfers := [], token := 1 }
    srv := { seqs := [], nextSeq := 0, admitted := 0, batches := [], nextBatch := 0, rings := [] }
    sec := { rbg := 0, epochs := [], courts := [], signers := [], configs := [], bak := none, limits := [], zero := [] }
    age := { dies := [], rw := [], avail := Avail.zero, flash := Avail.zero, countedAt := 0 }
    pwr := { duty := 16, thermal := [], brake := false, windows := [], excStart := none, excEnd := none, raisedAt := 0,
             usPower := 0, usTemp := 0, excursions := 0, usBrake := 0, brakeAt := 0, stackHot := [],
             sensors := [], flags := [] }
    flash := { slotA := some FwImage.factory, slotB := none, select := 0, staged := false, uncommitted := false, pendSq := 0, pendMc := 0,
               fuseSq := 0, fuseMc := 0 }
    smp := { at_ := 0, throttle := [], counters := [] }
    tap := { ir := 1, bsr := 0 }
    mgm := { dyn := none, eid := 0, tid := 0, receiver := none, upd := none, prevUpd := 0, spdm := [], ide := [], ideKeys := [] }
    free := 0, out := [], pending := [] }

end Sys2Proof.Machine
end

