-- ==== Sys2Proof/Machine/Flags.lean ====
section
/-! DEFINITION. Status words (spec/06_command_protocol.md R201), completion notes (R186), tile status codes
(spec/05_work_orders.md R160) and the opcode table's queue and abort columns (R192). -/

namespace Sys2Proof.Machine

/-- SUCCESS (06 R201). -/
abbrev stSuccess : Nat := 0x0000
/-- SCALE_REWARM (06 R201). -/
abbrev stScaleRewarm : Nat := 0x0001
/-- ALREADY_DONE (06 R201). -/
abbrev stAlreadyDone : Nat := 0x0002
/-- QUEUED (06 R201). -/
abbrev stQueued : Nat := 0x0003
/-- INVALID_OPCODE (06 R201). -/
abbrev stInvalidOpcode : Nat := 0x1001
/-- INVALID_FIELD (06 R201). -/
abbrev stInvalidField : Nat := 0x1002
/-- INVALID_QUEUE (06 R201). -/
abbrev stInvalidQueue : Nat := 0x1003
/-- PARAM_FAULT (06 R201). -/
abbrev stParamFault : Nat := 0x1004
/-- NOT_FOUND (06 R201). -/
abbrev stNotFound : Nat := 0x1005
/-- NOT_ABORTABLE (06 R201). -/
abbrev stNotAbortable : Nat := 0x1006
/-- DUPLICATE_CID (06 R201). -/
abbrev stDuplicateCid : Nat := 0x1007
/-- NOT_SUPPORTED (06 R201). -/
abbrev stNotSupported : Nat := 0x1008
/-- NOT_PERMITTED (06 R201). -/
abbrev stNotPermitted : Nat := 0x2001
/-- WRONG_COURT (06 R201). -/
abbrev stWrongCourt : Nat := 0x2002
/-- SIGNATURE_FAILED (06 R201). -/
abbrev stSignatureFailed : Nat := 0x2003
/-- ROLLBACK_REFUSED (06 R201). -/
abbrev stRollbackRefused : Nat := 0x2004
/-- KEY_UNWRAP_FAILED (06 R201). -/
abbrev stKeyUnwrapFailed : Nat := 0x2005
/-- COURT_NOT_READY (06 R201). -/
abbrev stCourtNotReady : Nat := 0x3001
/-- BUSY_TRANSITION (06 R201). -/
abbrev stBusyTransition : Nat := 0x3002
/-- SLOT_TAKEN (06 R201). -/
abbrev stSlotTaken : Nat := 0x3003
/-- ADAPTER_IN_TRAINING (06 R201). -/
abbrev stAdapterInTraining : Nat := 0x3004
/-- NO_RESOURCE (06 R201). -/
abbrev stNoResource : Nat := 0x3005
/-- LIMIT_EXCEEDED (06 R201). -/
abbrev stLimitExceeded : Nat := 0x3006
/-- STATE_CONFLICT (06 R201). -/
abbrev stStateConflict : Nat := 0x3007
/-- SYMBOL_UNRESOLVED (06 R201). -/
abbrev stSymbolUnresolved : Nat := 0x3008
/-- ASSIST_EXPIRED (06 R201). -/
abbrev stAssistExpired : Nat := 0x3009
/-- ABORTED (06 R201). -/
abbrev stAborted : Nat := 0x4001
/-- TIMEOUT (06 R201). -/
abbrev stTimeout : Nat := 0x4002
/-- STEP_SKIPPED (06 R201). -/
abbrev stStepSkipped : Nat := 0x4003
/-- REPLICA_DIVERGED (06 R201). -/
abbrev stReplicaDiverged : Nat := 0x4004
/-- SEM_HOLD_EXCEEDED (06 R201). -/
abbrev stSemHoldExceeded : Nat := 0x4005
/-- WORK_ORDER_FAILED (06 R201). -/
abbrev stWorkOrderFailed : Nat := 0x4006
/-- NOT_EXECUTED (06 R201). -/
abbrev stNotExecuted : Nat := 0x4007
/-- ASSIST_TIMEOUT (06 R201). -/
abbrev stAssistTimeout : Nat := 0x4008
/-- ADDRESS_FAULT (06 R201). -/
abbrev stAddressFault : Nat := 0x5001
/-- MEMORY_ERROR (06 R201). -/
abbrev stMemoryError : Nat := 0x5002
/-- HOST_FAULT (06 R201). -/
abbrev stHostFault : Nat := 0x5003
/-- DEVICE_FAULT (06 R201). -/
abbrev stDeviceFault : Nat := 0x5004
/-- Tile code OK (05 R160). -/
abbrev tcOk : Nat := 0x0000
/-- Tile code BAD_FIELD (05 R160). -/
abbrev tcBadField : Nat := 0x1001
/-- Tile code BAD_FORMAT (05 R160). -/
abbrev tcBadFormat : Nat := 0x1002
/-- Tile code BAD_SHAPE (05 R160). -/
abbrev tcBadShape : Nat := 0x1003
/-- Tile code BAD_SYMBOL (05 R160). -/
abbrev tcBadSymbol : Nat := 0x1004
/-- Tile code ADDRESS_FAULT (05 R160). -/
abbrev tcAddressFault : Nat := 0x2001
/-- Tile code MEMORY_ERROR (05 R160). -/
abbrev tcMemoryError : Nat := 0x2002
/-- Tile code WITHDRAWN (05 R160). -/
abbrev tcWithdrawn : Nat := 0x3001
/-- Tile code SEM_HOLD_EXCEEDED (05 R160). -/
abbrev tcSemHoldExceeded : Nat := 0x3002
/-- Tile code SEM_RANGE (05 R160). -/
abbrev tcSemRange : Nat := 0x3003
/-- Tile code BLOCK_FAULT (05 R160). -/
abbrev tcBlockFault : Nat := 0x4001
/-- Tile code CONTEXT_LOST (05 R160). -/
abbrev tcContextLost : Nat := 0x4002
/-- NOTES.REWARM (06 R186). -/
abbrev noteRewarm : Nat := 1
/-- NOTES.TRUNCATED (06 R186, R194). -/
abbrev noteTruncated : Nat := 2
/-- NOTES.INTERIM_LOST (06 R186, R188). -/
abbrev noteInterimLost : Nat := 4

/-- A row of the opcode table: opcode, allowed on the admin queue, allowed on a Court queue, abortable (06 R192). -/
structure OpRow where
  op : Nat
  admin : Bool
  court : Bool
  abort : Bool
  deriving DecidableEq, Repr

/-- The opcode table (06 R192). -/
def opTable : List OpRow := [
  ⟨0x0101, true, true, false⟩,
  ⟨0x0102, true, true, false⟩,
  ⟨0x0103, true, true, false⟩,
  ⟨0x0104, true, true, false⟩,
  ⟨0x0105, true, true, false⟩,
  ⟨0x0106, true, false, false⟩,
  ⟨0x0201, true, false, true⟩,
  ⟨0x0202, true, false, false⟩,
  ⟨0x0203, true, true, false⟩,
  ⟨0x0204, true, false, true⟩,
  ⟨0x0205, false, true, true⟩,
  ⟨0x0206, false, true, false⟩,
  ⟨0x0207, false, true, true⟩,
  ⟨0x0208, false, true, false⟩,
  ⟨0x0209, false, true, true⟩,
  ⟨0x020A, false, true, true⟩,
  ⟨0x0301, true, true, true⟩,
  ⟨0x0302, true, true, false⟩,
  ⟨0x0303, true, true, false⟩,
  ⟨0x0304, true, true, true⟩,
  ⟨0x0401, false, true, true⟩,
  ⟨0x0402, false, true, true⟩,
  ⟨0x0403, false, true, false⟩,
  ⟨0x0404, false, true, true⟩,
  ⟨0x0405, false, true, false⟩,
  ⟨0x0406, false, true, false⟩,
  ⟨0x0407, false, true, true⟩,
  ⟨0x0408, false, true, false⟩,
  ⟨0x0501, false, true, true⟩,
  ⟨0x0502, false, true, false⟩,
  ⟨0x0503, false, true, true⟩,
  ⟨0x0504, false, true, true⟩,
  ⟨0x0601, false, true, true⟩,
  ⟨0x0602, false, true, true⟩,
  ⟨0x0603, false, true, true⟩,
  ⟨0x0701, false, true, true⟩,
  ⟨0x0702, false, true, true⟩,
  ⟨0x0801, false, true, true⟩,
  ⟨0x0802, false, true, false⟩,
  ⟨0x0803, false, true, false⟩,
  ⟨0x0901, true, false, false⟩,
  ⟨0x0902, true, true, true⟩,
  ⟨0x0903, true, false, false⟩,
  ⟨0x0A01, true, true, true⟩,
  ⟨0x0A02, false, true, false⟩,
  ⟨0x0A03, false, true, true⟩,
  ⟨0x0A04, false, true, false⟩,
  ⟨0x0A05, true, true, false⟩,
  ⟨0x0B01, true, false, true⟩,
  ⟨0x0B02, true, false, false⟩,
  ⟨0x0B03, true, false, false⟩,
  ⟨0x0B04, true, false, false⟩,
  ⟨0x0B05, true, false, true⟩,
  ⟨0x0C01, true, true, false⟩,
  ⟨0x0C02, true, false, false⟩,
  ⟨0x0C03, true, false, false⟩,
  ⟨0x0D01, true, true, false⟩]

/-- Opcode of DEVICE_INFO (06 R192). -/
abbrev opDeviceInfo : Nat := 0x0101
/-- Opcode of CREATE_QUEUE_PAIR (06 R192). -/
abbrev opCreateQueuePair : Nat := 0x0102
/-- Opcode of DELETE_QUEUE_PAIR (06 R192). -/
abbrev opDeleteQueuePair : Nat := 0x0103
/-- Opcode of SET_RING (06 R192). -/
abbrev opSetRing : Nat := 0x0104
/-- Opcode of ABORT (06 R192). -/
abbrev opAbort : Nat := 0x0105
/-- Opcode of SET_FUNCTION_MODE (06 R192). -/
abbrev opSetFunctionMode : Nat := 0x0106
/-- Opcode of CREATE_COURT (06 R192). -/
abbrev opCreateCourt : Nat := 0x0201
/-- Opcode of DESTROY_COURT (06 R192). -/
abbrev opDestroyCourt : Nat := 0x0202
/-- Opcode of RESET_COURT (06 R192). -/
abbrev opResetCourt : Nat := 0x0203
/-- Opcode of RESIZE_COURT (06 R192). -/
abbrev opResizeCourt : Nat := 0x0204
/-- Opcode of LOAD_PACKAGE (06 R192). -/
abbrev opLoadPackage : Nat := 0x0205
/-- Opcode of UNLOAD_PACKAGE (06 R192). -/
abbrev opUnloadPackage : Nat := 0x0206
/-- Opcode of RUN (06 R192). -/
abbrev opRun : Nat := 0x0207
/-- Opcode of SET_SEMAPHORE (06 R192). -/
abbrev opSetSemaphore : Nat := 0x0208
/-- Opcode of DMA_WRITE (06 R192). -/
abbrev opDmaWrite : Nat := 0x0209
/-- Opcode of DMA_READ (06 R192). -/
abbrev opDmaRead : Nat := 0x020A
/-- Opcode of LOAD_BASE (06 R192). -/
abbrev opLoadBase : Nat := 0x0301
/-- Opcode of EVICT_BASE (06 R192). -/
abbrev opEvictBase : Nat := 0x0302
/-- Opcode of PIN_BASE (06 R192). -/
abbrev opPinBase : Nat := 0x0303
/-- Opcode of REPLACE_BASE (06 R192). -/
abbrev opReplaceBase : Nat := 0x0304
/-- Opcode of REGISTER_ADAPTER (06 R192). -/
abbrev opRegisterAdapter : Nat := 0x0401
/-- Opcode of REPLACE (06 R192). -/
abbrev opReplace : Nat := 0x0402
/-- Opcode of RETIRE_ADAPTER (06 R192). -/
abbrev opRetireAdapter : Nat := 0x0403
/-- Opcode of PIN_CONTRACT (06 R192). -/
abbrev opPinContract : Nat := 0x0404
/-- Opcode of RELEASE_CONTRACT (06 R192). -/
abbrev opReleaseContract : Nat := 0x0405
/-- Opcode of CLAIM_SLOT (06 R192). -/
abbrev opClaimSlot : Nat := 0x0406
/-- Opcode of REBIND_ADAPTER (06 R192). -/
abbrev opRebindAdapter : Nat := 0x0407
/-- Opcode of QUERY_ADAPTER (06 R192). -/
abbrev opQueryAdapter : Nat := 0x0408
/-- Opcode of SERVE (06 R192). -/
abbrev opServe : Nat := 0x0501
/-- Opcode of SET_STREAM_RING (06 R192). -/
abbrev opSetStreamRing : Nat := 0x0502
/-- Opcode of PARK (06 R192). -/
abbrev opPark : Nat := 0x0503
/-- Opcode of RESUME (06 R192). -/
abbrev opResume : Nat := 0x0504
/-- Opcode of STEP (06 R192). -/
abbrev opStep : Nat := 0x0601
/-- Opcode of CHECKPOINT (06 R192). -/
abbrev opCheckpoint : Nat := 0x0602
/-- Opcode of RESTORE (06 R192). -/
abbrev opRestore : Nat := 0x0603
/-- Opcode of DISTIL_JOB (06 R192). -/
abbrev opDistilJob : Nat := 0x0701
/-- Opcode of DISTIL_STEP (06 R192). -/
abbrev opDistilStep : Nat := 0x0702
/-- Opcode of FORM_GROUP (06 R192). -/
abbrev opFormGroup : Nat := 0x0801
/-- Opcode of DISSOLVE_GROUP (06 R192). -/
abbrev opDissolveGroup : Nat := 0x0802
/-- Opcode of GROUP_STATUS (06 R192). -/
abbrev opGroupStatus : Nat := 0x0803
/-- Opcode of SET_TIMETABLE (06 R192). -/
abbrev opSetTimetable : Nat := 0x0901
/-- Opcode of MIGRATE (06 R192). -/
abbrev opMigrate : Nat := 0x0902
/-- Opcode of SET_MAPOUT_RESERVE (06 R192). -/
abbrev opSetMapoutReserve : Nat := 0x0903
/-- Opcode of ATTEST (06 R192). -/
abbrev opAttest : Nat := 0x0A01
/-- Opcode of GET_COURT_KEY (06 R192). -/
abbrev opGetCourtKey : Nat := 0x0A02
/-- Opcode of INSTALL_WRAPPED_KEY (06 R192). -/
abbrev opInstallWrappedKey : Nat := 0x0A03
/-- Opcode of REGISTER_SIGNER (06 R192). -/
abbrev opRegisterSigner : Nat := 0x0A04
/-- Opcode of ZEROISE_COURT (06 R192). -/
abbrev opZeroiseCourt : Nat := 0x0A05
/-- Opcode of STAGE_FIRMWARE (06 R192). -/
abbrev opStageFirmware : Nat := 0x0B01
/-- Opcode of ACTIVATE_FIRMWARE (06 R192). -/
abbrev opActivateFirmware : Nat := 0x0B02
/-- Opcode of HANDOVER (06 R192). -/
abbrev opHandover : Nat := 0x0B03
/-- Opcode of CLEAR_REPAIR_LIST (06 R192). -/
abbrev opClearRepairList : Nat := 0x0B04
/-- Opcode of RUN_ROADWORKS (06 R192). -/
abbrev opRunRoadworks : Nat := 0x0B05
/-- Opcode of READ_COUNTERS (06 R192). -/
abbrev opReadCounters : Nat := 0x0C01
/-- Opcode of READ_SENSORS (06 R192). -/
abbrev opReadSensors : Nat := 0x0C02
/-- Opcode of READ_SURVEY (06 R192). -/
abbrev opReadSurvey : Nat := 0x0C03
/-- Opcode of ASSIST_REPLY (06 R192). -/
abbrev opAssistReply : Nat := 0x0D01

/-- The opcode's row, if the device accepts the opcode (06 R192). -/
def opRow (op : Nat) : Option OpRow := opTable.find? (fun r => r.op == op)

/-- ABORT may withdraw the opcode (06 R192, R203). -/
def opAbortable (op : Nat) : Bool := match opRow op with
  | some r => r.abort
  | none => false

end Sys2Proof.Machine
end

