-- ==== Sys2Proof/Machine/Ops.lean ====
section
/-! DEFINITION. Named operations over memory, counters, queues and rings: the byte stores, HBM behind the granule
tables, event records, completions, retirement (spec/04_memory_system.md; spec/06_command_protocol.md). -/

namespace Sys2Proof.Machine

/-! ### Byte stores -/

/-- The byte listed at `a`. -/
def memGet : List Host.Cell → Nat → Option Byte
  | [], _ => none
  | (i, b) :: t, a => if a = i then some b else memGet t a

/-- Writes byte `b` at `a`; writing what an unlisted address reads as (`d`) removes the entry. -/
def memPut (d : Option Byte) : List Host.Cell → Nat → Byte → List Host.Cell
  | [], a, b => if d = some b then [] else [(a, b)]
  | (i, c) :: t, a, b =>
    if a < i then (if d = some b then (i, c) :: t else (a, b) :: (i, c) :: t)
    else if a = i then (if d = some b then t else (a, b) :: t)
    else (i, c) :: memPut d t a b

/-- Writes a byte string from `a` upward: what lies below, the string's entries, what lies above. -/
def memPutBytes (d : Option Byte) (m : List Host.Cell) (a : Nat) (bs : List Byte) : List Host.Cell :=
  m.filter (fun p => decide (p.1 < a)) ++
    ((bs.zipIdx a).map (fun p => (p.2, p.1))).filter (fun p => d != some p.2) ++
    m.filter (fun p => decide (a + bs.length ≤ p.1))

/-- The bytes listed at `a` to `a + n − 1`, before `acc`; `cells` are the entries of that range, falling. -/
def memFill (a : Nat) : Nat → List Host.Cell → List (Option Byte) → List (Option Byte)
  | 0, _, acc => acc
  | n + 1, [], acc => memFill a n [] (none :: acc)
  | n + 1, (i, b) :: t, acc => if a + n = i then memFill a n t (some b :: acc) else memFill a n ((i, b) :: t) (none :: acc)

/-- What a canonical store lists at each address of `[a, a + n)`. -/
def memRange (m : List Host.Cell) (a n : Nat) : List (Option Byte) :=
  memFill a n (m.filter (fun p => decide (a ≤ p.1) && decide (p.1 < a + n))).reverse []

/-- Removes every listed address in `[lo, hi)`. -/
def memDrop (m : List Host.Cell) (lo hi : Nat) : List Host.Cell :=
  m.filter (fun p => decide (p.1 < lo) || decide (hi ≤ p.1))

/-- The canonical form: addresses strictly rising, no entry equal to what an unlisted address reads as. -/
def Memory.wf (d : Option Byte) : List Host.Cell → Bool
  | [] => true
  | [(_, b)] => d != some b
  | (i, b) :: (j, c) :: t => (d != some b) && decide (i < j) && Memory.wf d ((j, c) :: t)

/-! ### Free values -/

/-- A fresh free value and the state with its counter advanced. -/
def takeFree (s : State) : Nat × State := (Config.freeNat s.free, { s with free := s.free + 1 })

/-- Advances the counter of free values. -/
def bumpFree (s : State) : State := { s with free := s.free + 1 }

/-! ### Output -/

/-- Records an output of the device. -/
def emit (e : OutEv) (s : State) : State := { s with out := e :: s.out }

/-! ### HBM: interleave and map-out (04 R107, R128) -/

/-- Bytes of a granule. -/
abbrev gib : Nat := 2 ^ 30

/-- Physical channel slot of a device address, before any map-out (04 R107). -/
def slotOf (dpa : Nat) : Nat := (dpa / 256 % 384 + dpa / 256 / 384) % 384

/-- Row of a device address (04 R107). -/
def rowOf (dpa : Nat) : Nat := dpa / 256 / 384

/-- First row of region R_i (04 R128). -/
def regionBase (i : Nat) : Nat := 32768 * (384 - i)

/-- The slots that map-outs 1 to i leave, ascending (04 R128). -/
def liveSlots (mapped : List Nat) (i : Nat) : List Nat :=
  (List.range 384).filter (fun x => !(mapped.take i).contains x)

/-- Target (row, slot) in R_i of a unit of row `w` on slot f_i (04 R128 step 2). -/
def mapTarget (mapped : List Nat) (i w : Nat) : Nat × Nat :=
  (regionBase i + w / (384 - i), (liveSlots mapped i).getD (w % (384 - i)) 0)

/-- The targets in R_j on slot `f`, ascending in (row, slot) (04 R128 step 3, first list). -/
def targetsOn (mapped : List Nat) (j f : Nat) : List (Nat × Nat) :=
  ((List.range (regionBase j)).map (mapTarget mapped j)).filter (fun t => t.2 == f)

/-- The targets in R_j that held units of f_j from rows of R_i (04 R128 step 3, second list). -/
def targetsFreed (mapped : List Nat) (j i : Nat) : List (Nat × Nat) :=
  ((List.range 32768).map (fun k => mapTarget mapped j (regionBase i + k)))

/-- Where the target of region j stands after map-out i, for i above j (04 R128 step 3). -/
def rehome (mapped : List Nat) (j i : Nat) (t : Nat × Nat) : Nat × Nat :=
  let f := mapped.getD (i - 1) 384
  if t.2 = f then
    let freed := targetsFreed mapped j i
    let on := targetsOn mapped j f
    let first := on.filter (fun x => !freed.contains x)
    let second := freed.filter (fun x => !on.contains x)
    second.getD (first.idxOf t) t
  else t

/-- The physical (row, slot) that holds the unit of a device address after the map-outs listed (04 R107, R128). -/
def homeOf (mapped : List Nat) (dpa : Nat) : Nat × Nat :=
  let p := slotOf dpa
  let w := rowOf dpa
  match mapped.idxOf? p with
  | none => (w, p)
  | some k =>
    ((List.range mapped.length).filter (fun i => decide (k + 1 < i + 1))).foldl
      (fun t i => rehome mapped (k + 1) (i + 1) t) (mapTarget mapped (k + 1) w)

/-- Stack and channel of a slot (04 R107). -/
def stackOf (slot : Nat) : Nat := slot % 12
/-- Channel of a slot (04 R107). -/
def channelOf (slot : Nat) : Nat := slot / 12

/-- Granules that may be assigned: 1 152 less three for each map-out, the one in progress included (04 R105, R130). -/
def granulesInService (s : State) : Nat := 1152 - 3 * (s.mem.mapped.length + b2n s.mem.mapNow.isSome)

/-- HBM_GIB_USABLE (00 R5). -/
def hbmUsable (s : State) : Nat := 1152 - 3 * s.mem.mapped.length

/-! ### HBM: lines and bytes -/

/-- The line that holds a device address, by its own address. -/
def lineOf (dpa : Nat) : Nat := dpa / 64 * 64

/-- The line lies on a slot that has failed hard and is not yet mapped out (04 R131). -/
def lineDown (s : State) (line : Nat) : Bool :=
  !s.mem.hardDown.isEmpty && s.mem.hardDown.contains (homeOf s.mem.mapped line).2

/-- The line was lost by a hard failure and not rewritten whole since (04 R131). -/
def lineLost (s : State) (line : Nat) : Bool :=
  !s.mem.hardLost.isEmpty && !s.mem.cured.contains line &&
  s.mem.hardLost.any (fun e => e.2.2.any (fun g =>
    g.1 == line / gib && (homeOf e.2.1 (g.2 * gib + line % gib)).2 == e.1))

/-- A read of the line delivers poison (04 R121, R122, R131). -/
def linePoison (s : State) (line : Nat) : Bool :=
  s.mem.poison.contains line || lineDown s line || lineLost s line

/-- The byte at a device address that lists `v`; a byte of a line left undefined by LAST_USE is one of the values of
04 R112. -/
def hbmByteOf (s : State) (dpa : Nat) (v : Byte) : Byte :=
  match tblGet s.mem.lastUse (lineOf dpa) with
  | none => v
  | some u =>
    if bit u.mask (dpa % 64) then
      match Config.freeNat (u.tag + s.free) % 3 with
      | 0 => v
      | 1 => 0#8
      | _ => Config.freeByte u.tag dpa
    else v

/-- The byte at a device address (04 R107, R112). -/
def hbmByte (s : State) (dpa : Nat) : Byte := hbmByteOf s dpa ((memGet s.mem.hbm dpa).getD 0#8)

/-- Marks the lines of `[dpa, dpa + len)` as undefined after a read with LAST_USE (04 R111, R112). -/
def markLastUse (dpa len : Nat) (s : State) : State :=
  let n := (dpa + len + 63) / 64 - dpa / 64
  forUpto n (fun i s =>
    { s with mem.lastUse := tblSet s.mem.lastUse (lineOf dpa + 64 * i) ⟨s.free, 2 ^ 64 - 1⟩
             free := s.free + 1 }) s

/-- Inserts a line into a rising list of lines. -/
def insLine (x : Nat) : List Nat → List Nat
  | [] => [x]
  | y :: t => if x < y then x :: y :: t else if x = y then y :: t else y :: insLine x t

/-- Sets POISON of a line (04 R122). -/
def poisonLine (line : Nat) (s : State) : State := { s with mem.poison := insLine line s.mem.poison }

/-- Writes one byte at a device address; nothing reaches a channel that has failed hard (04 R131). -/
def hbmPut (dpa : Nat) (b : Byte) (s : State) : State :=
  if lineDown s (lineOf dpa) then s
  else
    { s with
      mem.hbm := memPut (some 0#8) s.mem.hbm dpa b
      mem.lastUse := tblModify s.mem.lastUse (lineOf dpa)
        (fun u => { u with mask := u.mask &&& (2 ^ 64 - 1 - 2 ^ (dpa % 64)) }) }

/-- Writes bytes from a device address on, as `hbmPut` writes one. -/
def hbmPutBytes (dpa : Nat) (bs : List Byte) (s : State) : State :=
  if s.mem.hardDown.isEmpty then
    { s with
      mem.hbm := memPutBytes (some 0#8) s.mem.hbm dpa bs
      mem.lastUse := if s.mem.lastUse.isEmpty then s.mem.lastUse else forUpto bs.length (fun i t => tblModify t (lineOf (dpa + i))
        (fun u => { u with mask := u.mask &&& (2 ^ 64 - 1 - 2 ^ ((dpa + i) % 64)) })) s.mem.lastUse }
  else bs.zipIdx.foldl (fun s p => hbmPut (dpa + p.2) p.1 s) s

/-- A full-line write clears POISON (04 R122). -/
def cureLine (line : Nat) (s : State) : State :=
  if lineDown s line then s
  else { s with mem.poison := s.mem.poison.filter (fun x => x != line)
                mem.cured := if s.mem.hardLost.isEmpty then s.mem.cured else insLine line s.mem.cured }

/-- Cures every line that `[dpa, dpa + len)` covers whole. -/
def cureLines (dpa len : Nat) (s : State) : State :=
  let first := (dpa + 63) / 64
  let last := (dpa + len) / 64
  forUpto (last - first) (fun i s => cureLine (64 * (first + i)) s) s

/-- Writes bytes at a device address; a masked write leaves a line poisoned (04 R117, R122). -/
def hbmWrite (dpa : Nat) (bs : List Byte) (s : State) : State :=
  cureLines dpa bs.length (hbmPutBytes dpa bs s)

/-- The bytes `[dpa, dpa + len)`. -/
def hbmRead (s : State) (dpa len : Nat) : List Byte :=
  ((memRange s.mem.hbm dpa len).zipIdx dpa).map (fun p => hbmByteOf s p.2 (p.1.getD 0#8))

/-- The first line of `[dpa, dpa + len)` that delivers poison, or is among the lines `bad` that a read found bad. -/
def hbmPoisoned (s : State) (bad : List Nat) (dpa len : Nat) : Option Nat :=
  (List.range ((dpa + len + 63) / 64 - dpa / 64)).findSome? (fun i =>
    let l := lineOf dpa + 64 * i
    if linePoison s l || bad.contains l then some l else none)

/-- Writes a device granule with zeros and gives its lines a new owner's metadata (04 R106, R121). -/
def clearGranule (G : Nat) (o : GranOwner) (conf : Bool) (s : State) : State :=
  { s with
    mem.hbm := memDrop s.mem.hbm (G * gib) ((G + 1) * gib)
    mem.poison := s.mem.poison.filter (fun l => l / gib != G)
    mem.lastUse := s.mem.lastUse.filter (fun p => p.1 / gib != G)
    mem.hardLost := s.mem.hardLost.map (fun e => (e.1, e.2.1, e.2.2.filter (fun g => g.1 != G)))
    mem.cured := s.mem.cured.filter (fun l => l / gib != G)
    mem.granules := match o with
      | .free => tblErase s.mem.granules G
      | .court c => tblSet s.mem.granules G ⟨o, c, conf⟩
      | .pool => tblSet s.mem.granules G ⟨o, 0, conf⟩ }

/-- The free in-service device granules, ascending (04 R105; 13 R421). -/
def freeGranules (s : State) : List Nat :=
  (List.range (granulesInService s)).filter (fun G => (tblGet s.mem.granules G).isNone)

/-- Free granules beyond MAPOUT_RESERVE (04 R129; 13 R413, R420). -/
def spareGranules (s : State) : Nat := (freeGranules s).length - s.mem.reserve

/-! ### Court addresses (04 R103, R104) -/

/-- Device address of a Court address; none where 04 R104 refuses the access. -/
def courtDpa (c : Court) (ca : Nat) : Option Nat :=
  match tblGet c.gtab (ca / gib) with
  | none => none
  | some G => if c.conf && decide (0x3C000000 ≤ ca % gib) then none else some (G * gib + ca % gib)

/-- Every byte of `[ca, ca + len)` is accessible to the Court (04 R104). -/
def courtRangeOk (c : Court) (ca len : Nat) : Bool :=
  if len = 0 then true
  else
    let g0 := ca / gib
    let g1 := (ca + len - 1) / gib
    decide (ca + len ≤ 2 ^ 41) &&
    (List.range (g1 - g0 + 1)).all (fun i => (tblGet c.gtab (g0 + i)).isSome) &&
    (!c.conf || (g0 == g1 && decide ((ca + len - 1) % gib < 0x3C000000)))

/-- The Court by number. -/
def courtOf (s : State) (c : Nat) : Option Court := tblGet s.courts c

/-- Changes a Court, if it exists. -/
def modCourt (c : Nat) (f : Court → Court) (s : State) : State := { s with courts := tblModify s.courts c f }

/-- The parts of `[ca, ca + len)` in order: offset, length, and device address where the Court may access the part; no
part crosses a granule (04 R103, R104). -/
def courtParts (c : Court) (ca len : Nat) : List (Nat × Nat × Option Nat) :=
  (List.range ((ca + len + gib - 1) / gib - ca / gib)).flatMap (fun i =>
    let g := ca / gib + i
    let lo := max ca (g * gib)
    let hi := min (ca + len) ((g + 1) * gib)
    match tblGet c.gtab g with
    | none => [(lo - ca, hi - lo, none)]
    | some G =>
      let mid := if c.conf then max lo (min hi (g * gib + 0x3C000000)) else hi
      [(lo - ca, mid - lo, some (G * gib + (lo - g * gib))), (mid - ca, hi - mid, none)])

/-- The bytes of a Court range; bytes the Court may not access read as zero here and are refused by the caller. -/
def courtRead (s : State) (c : Court) (ca len : Nat) : List Byte :=
  (courtParts c ca len).flatMap (fun r => match r.2.2 with
    | some d => hbmRead s d r.2.1
    | none => zeros r.2.1)

/-- The first line of the Court range that delivers poison, by its device address. -/
def courtPoisoned (s : State) (c : Court) (bad : List Nat) (ca len : Nat) : Option Nat :=
  (List.range ((ca + len + 63) / 64 - ca / 64)).findSome? (fun i =>
    match courtDpa c (lineOf ca + 64 * i) with
    | some d => if linePoison s d || bad.contains d then some d else none
    | none => none)

/-- Writes bytes into a Court's memory, granule by granule. -/
def courtWrite (c : Court) (ca : Nat) (bs : List Byte) (s : State) : State :=
  let s := (courtParts c ca bs.length).foldl (fun s r => match r.2.2 with
    | some d => hbmPutBytes d ((bs.drop r.1).take r.2.1) s
    | none => s) s
  let first := (ca + 63) / 64
  let last := (ca + bs.length) / 64
  forUpto (last - first) (fun i s => match courtDpa c (64 * (first + i)) with
    | some d => cureLine d s
    | none => s) s

/-- Marks the lines of a Court range read with LAST_USE. -/
def courtLastUse (c : Court) (ca len : Nat) (s : State) : State :=
  forUpto ((ca + len + 63) / 64 - ca / 64) (fun i s => match courtDpa c (lineOf ca + 64 * i) with
    | some d => markLastUse d 1 s
    | none => s) s

/-- Adds to a Court's SAT_COUNT and NONFINITE_COUNT; a counter at 2^64 − 1 stays there (02 R72). -/
def addCounts (c : Nat) (k : Counts) (s : State) : State :=
  modCourt c (fun r => { r with satCount := satAdd 64 r.satCount k.sat, nonfinCount := satAdd 64 r.nonfinCount k.nonfin }) s

/-! ### Interrupts and rings -/

/-- Key of a host function in `fns`. -/
def fnKey (f : FnId) : Nat := f.port * 17 + f.fn
/-- The host function's registers. -/
def fnOf (s : State) (f : FnId) : Option HostFn := tblGet s.cmd.fns (fnKey f)
/-- Changes a host function. -/
def modFn (f : FnId) (g : HostFn → HostFn) (s : State) : State := { s with cmd.fns := tblModify s.cmd.fns (fnKey f) g }

/-- The function may write host memory (12 R402). -/
def fnWrites (s : State) (f : FnId) : Bool := match fnOf s f with
  | some h => h.enabled && h.bme && !h.d3hot
  | none => false

/-- Raises an MSI-X vector of a function: masked, it sets the pending bit (12 R399). -/
def raiseMsix (f : FnId) (v : Nat) (s : State) : State :=
  match fnOf s f with
  | none => s
  | some h =>
    if bit h.msixMask v || !fnWrites s f then modFn f (fun h => { h with msixPend := h.msixPend ||| 2 ^ v }) s
    else emit (.msix f v) s

/-- The function's IDE stream has been ended by a failure, so that its reads and writes fail (12 R403, R404). -/
def ideEnded (s : State) (f : FnId) : Bool := tblGet s.mgm.ide (fnKey f) == some false

/-- The function can read host memory: a bus master in D0 (12 R402). -/
def hostReads (s : State) (f : FnId) : Bool := fnWrites s f && !ideEnded s f

/-- Posts a write to host memory: held while the function may not write, not issued where its IDE stream has ended
(12 R402, R403). -/
def hostWrite (f : FnId) (a : Nat) (bs : List Byte) (s : State) : State :=
  if ideEnded s f then s
  else if fnWrites s f then emit (.hostWrite f a bs) s
  else { s with cmd.heldWrites := s.cmd.heldWrites ++ [(f, a, bs)] }

/-- Entries a ring or queue of depth `d` holds between `head` and `wr` (06 R180). -/
def ringUsed (d head wr : Nat) : Nat := (wr + d - head) % d

/-- Key of the ring of an owner on a port. -/
def ringKey (port owner : Nat) : Nat := port * 17 + owner

/-- The port whose event ring takes an owner's records: H0, or H1 when H0 has none (06 R208). -/
def eventPort (s : State) (owner : Nat) : Option Nat :=
  if (tblGet s.cmd.eventRings (ringKey 0 owner)).isSome then some 0
  else if (tblGet s.cmd.eventRings (ringKey 1 owner)).isSome then some 1 else none

/-- The 64 bytes of an event ring entry (06 R208). -/
def eventBytes (source : Nat) (phase : Bool) (dropped seq time : Nat) (rec : List Byte) : List Byte :=
  natLe 1 source ++ natLe 1 (b2n phase) ++ natLe 2 dropped ++ natLe 4 seq ++ natLe 8 time ++ padTo 48 rec

/-- Writes one record into an event ring, or drops and counts it when the ring is full (06 R180, R208). -/
def putEvent (key source time : Nat) (rec : List Byte) (s : State) : State :=
  match tblGet s.cmd.eventRings key with
  | none => s
  | some r =>
    if r.depth ≤ ringUsed r.depth r.head r.wr + 1 then
      { s with cmd.eventRings := tblSet s.cmd.eventRings key { r with dropped := satAdd 16 r.dropped 1 } }
    else
      let s := hostWrite r.via (r.base + 64 * r.wr) (eventBytes source r.phase r.dropped r.seq time rec) s
      let wr := (r.wr + 1) % r.depth
      let r' := { r with wr := wr, phase := if wr = 0 then !r.phase else r.phase, dropped := 0,
                         seq := (r.seq + 1) % 2 ^ 32, live := r.live ++ [(source, time, rec)] }
      let s := { s with cmd.eventRings := tblSet s.cmd.eventRings key r' }
      raiseMsix r.via r.vector s

/-- Posts a record to an owner's event ring (16: the operator) (06 R208). -/
def postEvent (owner source : Nat) (rec : List Byte) (s : State) : State :=
  match eventPort s owner with
  | none => s
  | some p => putEvent (ringKey p owner) source s.sq.time rec s

/-- A queue-fault record (06 R209). -/
def queueFaultRec (type : Nat) (f : FnId) (court qp cid op status seq count : Nat) : List Byte :=
  natLe 1 type ++ natLe 1 f.port ++ natLe 1 f.fn ++ natLe 1 court ++ natLe 1 qp ++ [0#8] ++ natLe 2 cid ++
  natLe 2 op ++ natLe 2 status ++ natLe 4 seq ++ natLe 4 count ++ zeros 28

/-- Posts a queue-fault record to the operator and, for a Court, its copy (06 R209). -/
def postQueueFault (rec : List Byte) (court : Nat) (s : State) : State :=
  let s := postEvent 16 0x04 rec s
  if court < 16 then postEvent court 0x04 rec s else s

/-! ### Completions (06 R186 to R191, R204) -/

/-- Key of a queue pair. -/
def qKey (q : QId) : Nat := q.owner * 64 + q.qp
/-- The queue pair. -/
def queueOf (s : State) (q : QId) : Option Queue := tblGet s.cmd.queues (qKey q)
/-- Changes a queue pair. -/
def modQueue (q : QId) (f : Queue → Queue) (s : State) : State := { s with cmd.queues := tblModify s.cmd.queues (qKey q) f }

/-- The 32 bytes of a completion entry (06 R186). -/
def complBytes (c : Compl) (sqHead : Nat) (phase : Bool) : List Byte :=
  natLe 2 c.cid ++ natLe 2 c.status ++ natLe 2 sqHead ++ natLe 1 (b2n phase + 2 * b2n c.final) ++ [0#8] ++
  natLe 2 c.notes ++ natLe 2 c.opcode ++ natLe 4 c.retireSeq ++ padTo 16 c.result

/-- The queue can take one more entry (06 R180, R187) and its function may write (12 R402). -/
def cqRoom (s : State) (q : Queue) : Bool :=
  decide (ringUsed q.cqDepth q.cqHead q.cqWr + 1 < q.cqDepth) && fnWrites s q.via

/-- The completion that must be posted first is still held (06 R204). -/
def blockedBy (s : State) (a : Option (QId × Nat)) : Bool :=
  match a with
  | none => false
  | some (q, cid) => match queueOf s q with
    | none => false
    | some t => t.held.any (fun c => c.final && c.cid == cid)

/-- Counts a posted final entry toward coalescing and signals it (06 R191). -/
def coalesce (q : QId) (noIrq : Bool) (s : State) : State :=
  match queueOf s q with
  | none => s
  | some t =>
    if !t.irqEn || noIrq then s
    else if t.coalCount ≤ t.unsignalled + 1 then
      raiseMsix t.via t.vector (modQueue q (fun t => { t with unsignalled := 0, firstUnsig := none }) s)
    else
      modQueue q (fun t => { t with unsignalled := t.unsignalled + 1,
                                    firstUnsig := some (t.firstUnsig.getD s.sq.time) }) s

/-- Writes a completion entry into its queue (06 R187). -/
def putCompl (q : QId) (c : Compl) (s : State) : State :=
  match queueOf s q with
  | none => s
  | some t =>
    let s := hostWrite t.via (t.cqBase + 32 * t.cqWr) (complBytes c t.sqHead t.phase) s
    let wr := (t.cqWr + 1) % t.cqDepth
    let s := modQueue q (fun t => { t with cqWr := wr, phase := if wr = 0 then !t.phase else t.phase }) s
    if c.final then coalesce q c.noIrq s else s

/-- Posts the held completions of a queue in order, as far as there is room; `fuel` bounds their number. -/
def drainHeld : Nat → QId → State → State
  | 0, _, s => s
  | n + 1, q, s =>
    match queueOf s q with
    | none => s
    | some t =>
      match t.held with
      | [] => s
      | c :: rest =>
        if cqRoom s t && !blockedBy s c.after then
          drainHeld n q (putCompl q c (modQueue q (fun t => { t with held := rest }) s))
        else s

/-- The queue identity of a key. -/
def qOfKey (k : Nat) : QId := ⟨k / 64, k % 64⟩

/-- Posts the held completions of every queue, again as long as one posting can release another (06 R187, R204). -/
def drainAll (s : State) : State :=
  let n := (s.cmd.queues.map (fun p => p.2.held.length)).foldl (· + ·) 0
  forUpto n (fun _ s => s.cmd.queues.foldl (fun s p => drainHeld p.2.held.length (qOfKey p.1) s) s) s

/-- Hands a completion to its queue: it is held behind earlier ones and posted when there is room (06 R187). -/
def postCompl (q : QId) (c : Compl) (s : State) : State :=
  drainAll (modQueue q (fun t => { t with held := t.held ++ [c] }) s)

/-- Entries of a completion queue not consumed, held ones included. -/
def cqFill (t : Queue) : Nat := ringUsed t.cqDepth t.cqHead t.cqWr + t.held.length

/-! ### Retirement (06 R189 to R191, R196, R203) -/

/-- The unretired command with a CID on a queue. -/
def findCmd (s : State) (q : QId) (cid : Nat) : Option Cmd :=
  s.cmd.cmds.find? (fun c => c.q == q && c.cid == cid)

/-- Changes an unretired command. -/
def modCmd (q : QId) (cid : Nat) (f : Cmd → Cmd) (s : State) : State :=
  { s with cmd.cmds := s.cmd.cmds.map (fun c => if c.q = q ∧ c.cid = cid then f c else c) }

/-- The next RETIRE_SEQ of an owner, from 1, wrapping from 2^32 − 1 to 1 (06 R190). -/
def nextSeq (s : State) (owner : Nat) : Nat :=
  let n := tblGetD s.cmd.retireSeq owner 0
  if n = 2 ^ 32 - 1 then 1 else n + 1

/-- The function that a queue pair belongs to. -/
def cmdReplyFn (c : Cmd) : FnId := c.via

/-- The final outcome of a command: status, RESULT, NOTES, reply data for its reply buffer, and a completion it follows. -/
structure CmdEnd where
  status : Nat
  result : List Byte
  notes : Nat
  reply : Option (List Byte)
  after : Option (QId × Nat)
  /-- withdrawn without effect (06 R196) -/
  withdrawn : Bool
  deriving DecidableEq, Repr

/-- An outcome with a status and nothing else. -/
def finSt (st : Nat) : CmdEnd := ⟨st, [], 0, none, none, false⟩
/-- An outcome with a status and RESULT bytes. -/
def finRes (st : Nat) (r : List Byte) : CmdEnd := ⟨st, r, 0, none, none, false⟩
/-- SUCCESS with reply data (06 R194). -/
def finReply (r : List Byte) : CmdEnd := ⟨stSuccess, [], 0, some r, none, false⟩

/-- Offset of the reply fields: the last 16 bytes of the opcode's layout of `n` bytes (06 R194). -/
def replyAt (c : Cmd) (lay : Nat) : Nat × Nat := (fld c.pb lay 8, fld c.pb (lay + 8) 4)

/-- A command, stream ring or sequence of the owner is bound to a transport key (14 R451). -/
def keyBound (s : State) (owner id : Nat) : Bool :=
  s.cmd.cmds.any (fun c => c.q.owner == owner && c.kt == id) ||
  s.srv.rings.any (fun p => p.1 / 16384 == owner && p.2.kt == id) ||
  s.srv.seqs.any (fun p => p.2.q.owner == owner && p.2.kt == id)

/-- Destroys a superseded transport key whose last binding has ended (14 R451). -/
def purgeOld (owner : Nat) (s : State) : State :=
  { s with sec.courts := tblModify s.sec.courts owner (fun k => match k.old with
      | none => k
      | some o => if keyBound s owner o.id then k else { k with old := none }) }

/-- The transport key that a command of the owner binds when it starts, 0 for none (14 R451). -/
def curKey (s : State) (owner : Nat) : Nat := match tblGet s.sec.courts owner with
  | none => 0
  | some k => (k.cur.map (·.id)).getD 0

/-- The queue pair a function's bootstrap registers bring up (06 R182). -/
def bootQ (f : FnId) : QId := if f.fn = 0 then ⟨16, 0⟩ else ⟨f.fn - 1, if f.port = 0 then 0 else 32⟩

/-- A queue pair that is being taken down is gone once no command of it is unretired, and READY clears with a bootstrap
pair (06 R182, R196). -/
def dropDeleted (q : QId) (s : State) : State :=
  match queueOf s q with
  | none => s
  | some t =>
    if !t.deleting || s.cmd.cmds.any (fun c => c.q == q) then s
    else
      let s := { s with cmd.queues := tblErase s.cmd.queues (qKey q) }
      if bootQ t.via = q then modFn t.via (fun h => { h with q0Ready := false }) s else s

/-- In whose sequence a command retires: a reset or zeroisation that the operator commands takes its Court's next
value (06 R190). -/
def seqOwner (s : State) (c : Cmd) : Nat :=
  let n := fld c.pb 0 1
  if c.q.owner = 16 ∧ (c.opcode = opResetCourt ∨ c.opcode = opZeroiseCourt) ∧ n < 16 ∧ (courtOf s n).isSome then n
  else c.q.owner

/-- Retires a command: RETIRE_SEQ, CID history, RETIRED_UNPOSTED or the final completion (06 R188 to R190, R196, R203).
Reply data has been written before. -/
def retire (c : Cmd) (f : CmdEnd) (s : State) : State :=
  let owner := seqOwner s c
  let seq := nextSeq s owner
  let s := { s with
    cmd.cmds := s.cmd.cmds.filter (fun d => !(d.q == c.q && d.cid == c.cid))
    cmd.retireSeq := tblSet s.cmd.retireSeq owner seq }
  let s := modQueue c.q (fun t => { t with retired := (c.cid :: t.retired).take 4096 }) (purgeOld c.q.owner s)
  let notes := f.notes ||| (if c.interimLost then noteInterimLost else 0)
  match queueOf s c.q with
  | none => s
  | some t =>
    if t.deleting then
      if f.withdrawn then dropDeleted c.q s
      else dropDeleted c.q <| postQueueFault (queueFaultRec 0x03 t.via c.q.owner c.q.qp c.cid c.opcode f.status seq 1) c.q.owner s
    else
      postCompl c.q ⟨c.cid, f.status, true, bit c.flags 1, notes, c.opcode, seq, padTo 16 f.result, f.after⟩ s

/-- Writes a command's reply data to its reply buffer, cut to REPLY_LEN, and gives the outcome with TRUNCATED and
the full length where it was cut (06 R194). -/
def writeReply (c : Cmd) (lay : Nat) (f : CmdEnd) (s : State) : CmdEnd × State :=
  match f.reply with
  | none => (f, s)
  | some r =>
    if ideEnded s c.via then ({ f with status := stHostFault, result := [] }, s)
    else
    let (addr, len) := replyAt c lay
    let s := hostWrite c.via addr (r.take len) s
    if len < r.length then
      ({ f with notes := f.notes ||| noteTruncated, result := natLe 4 r.length ++ f.result.drop 4 }, s)
    else (f, s)

/-- Posts an interim completion, or drops it when the queue is more than seven-eighths full (06 R188). -/
def interim (c : Cmd) (status : Nat) (result : List Byte) (s : State) : State :=
  match queueOf s c.q with
  | none => s
  | some t =>
    if t.deleting then s
    else if 7 * t.cqDepth < 8 * cqFill t then modCmd c.q c.cid (fun c => { c with interimLost := true }) s
    else postCompl c.q ⟨c.cid, status, false, true, 0, c.opcode, 0, padTo 16 result, none⟩ s

/-! ### Starting a command (06 R184, R185, R189, R192, R206, R207) -/

/-- The command may start: commands of a queue start in fetch order; BARRIER waits and holds back (06 R189). -/
def canStart (s : State) (c : Cmd) : Bool :=
  let before := (s.cmd.cmds.takeWhile (fun d => !(d.q == c.q && d.cid == c.cid))).filter (fun d => d.q == c.q)
  before.all (fun d => d.started && !bit d.flags 0) && (!bit c.flags 0 || before.isEmpty)

/-- The Court of a queue is ready, or the queue is the operator's. -/
def ownerReady (s : State) (owner : Nat) : Bool :=
  owner == 16 || (match courtOf s owner with
    | some c => c.state == .ready
    | none => false)

/-- The opcodes whose layout ends in the reply fields (06 R194). -/
def hasReply (op : Nat) : Bool :=
  op == opDeviceInfo || op == opGetCourtKey || op == opAttest || op == opQueryAdapter || op == opGroupStatus ||
  op == opFormGroup || op == opReadCounters || op == opReadSensors || op == opReadSurvey || op == opRun

/-- The reply fields are as R194 asks. -/
def replyOk (c : Cmd) (lay : Nat) : Bool :=
  !hasReply c.opcode || (fld c.pb (lay - 16) 8 % 64 == 0 && zeroFld c.pb (lay - 4) 4)

/-- The commands that a confidential Court without a transport key may not use (14 R443). -/
def sealedOp (c : Cmd) : Bool :=
  c.opcode == opDmaWrite || c.opcode == opDmaRead || c.opcode == opLoadPackage || c.opcode == opServe ||
  c.opcode == opSetStreamRing || c.opcode == opCheckpoint || c.opcode == opRestore ||
  c.opcode == opRegisterSigner || (c.opcode == opSetRing && fld c.pb 0 1 == 1)

/-- The Court is confidential and holds no transport key (14 R443). -/
def unkeyed (s : State) (owner : Nat) : Bool := match courtOf s owner with
  | none => false
  | some k => k.conf && curKey s owner == 0

/-- The checks every command meets when it starts, on its layout of `lay` bytes (variable entries and reply fields
included) with the reserved byte ranges given (06 R184, R185, R192, R206, R207; 00 R12). -/
def startCheck (s : State) (c : Cmd) (lay : Nat) (rsv : List (Nat × Nat)) : Option Nat :=
  match opRow c.opcode with
  | none => some stInvalidOpcode
  | some r =>
    if !ownerReady s c.q.owner && c.opcode != opDeviceInfo && c.opcode != opZeroiseCourt then some stCourtNotReady
    else if !(if c.q.owner = 16 then r.admin else r.court) then some stInvalidQueue
    else if 4 ≤ c.flags ∨ c.rsvd ≠ 0 ∨ (c.deadlineMs ≠ 0 ∧ !r.abort) then some stInvalidField
    else if 262144 < c.pbLength ∨ !c.entryOk then some stInvalidField
    else if c.pb.length < lay then some stInvalidField
    else if !(rsv.all (fun p => zeroFld c.pb p.1 p.2)) then some stInvalidField
    else if !zeroFld c.pb lay (c.pb.length - lay) then some stInvalidField
    else if !replyOk c lay then some stInvalidField
    else if sealedOp c && unkeyed s c.q.owner then some stNotPermitted
    else none

/-- What a command's own meaning answers: retire with an outcome, or stay unretired. -/
inductive Did where
  | fin (f : CmdEnd)
  | stay
  deriving DecidableEq, Repr

/-- The command reads host memory: an image, data, a prompt or a reply (06 R200, R210; 07 R222, R236, R240, R246). -/
def readsHost (c : Cmd) : Bool :=
  c.opcode == opDmaWrite || c.opcode == opLoadPackage || c.opcode == opLoadBase || c.opcode == opReplaceBase ||
  c.opcode == opRegisterAdapter || c.opcode == opReplace || (c.opcode == opRebindAdapter && fld c.pb 16 4 != 0) ||
  c.opcode == opServe || c.opcode == opRestore || c.opcode == opStageFirmware ||
  (c.opcode == opAssistReply && fld c.pb 4 1 == 1 && fld c.pb 16 4 != 0)

/-- The command moves data between the device and host memory, its reply buffer aside (12 R403). -/
def usesHost (c : Cmd) : Bool := readsHost c || c.opcode == opDmaRead || c.opcode == opCheckpoint

/-- The command waits until its function may read again (12 R402). -/
def hostWaits (s : State) (c : Cmd) : Bool := readsHost c && !fnWrites s c.via && !ideEnded s c.via

/-- Runs an opcode's row: the command must be fetched under that opcode and free to start; a failed check retires it;
otherwise `body` acts, and the command retires with the outcome `body` gives (06 R189, R190). One that moves host data
waits while its function may not read, and fails where the function's IDE stream has ended (12 R402 to R404). -/
def runCmd (op : Nat) (q : QId) (cid : Nat) (lay : Cmd → Nat) (rsv : List (Nat × Nat))
    (body : Cmd → State → State × Did) (s : State) : State :=
  match findCmd s q cid with
  | none => s
  | some c =>
    if !s.sq.ready ∨ c.opcode ≠ op ∨ (s.sq.takeover ∧ op ≠ opAttest) ∨ hostWaits s c then s
    else if c.started then
      match body c s with
      | (s, .stay) => s
      | (s, .fin f) =>
        let p := writeReply c (lay c - 16) f s
        retire c p.1 p.2
    else if !canStart s c then s
    else
      match startCheck s c (lay c) rsv with
      | some st => retire c (finSt st) s
      | none =>
        if usesHost c && ideEnded s c.via then retire c (finSt stHostFault) s
        else
        let kt := curKey s c.q.owner
        match body { c with started := true, kt := kt } (modCmd q cid (fun c => { c with started := true, kt := kt }) s) with
        | (s, .stay) => s
        | (s, .fin f) =>
          let p := writeReply c (lay c - 16) f s
          retire c p.1 p.2

/-- A body that ends with a status where the check fails. -/
def failWith (s : State) (st : Nat) : State × Did := (s, .fin (finSt st))

end Sys2Proof.Machine
end

