-- ==== Sys2Proof/Machine/Operands.lean ====
section
/-! DEFINITION. Operand forms of a work order: location words, tensor references, reading and writing rows
(spec/05_work_orders.md R143 to R146, R547; spec/04_memory_system.md R104, R122). -/

namespace Sys2Proof.Machine

/-- The location word "none" (R143). -/
abbrev locNone : Nat := 0xFFFFFFFFFFFF

/-- A resolved location (R143). -/
inductive Place where
  /-- a Court address -/
  | court (a : Nat)
  /-- an address in the Block store of the physical Block given -/
  | store (b a : Nat)
  /-- an offset in what a symbol resolves to -/
  | sym (r : SymRange) (off : Nat)
  /-- a reduction bucket, as an output only -/
  | bucket (group id : Nat)
  deriving DecidableEq, Repr

/-- What a work order sees of the device while it runs. -/
structure Ctx where
  /-- Court number -/
  cn : Nat
  /-- the Court -/
  court : Court
  /-- the run -/
  run : Run
  /-- physical Blocks it runs on -/
  blocks : List Nat
  /-- lines that its reads found bad -/
  bad : List Nat
  /-- its Block-store reads meet an uncorrectable error -/
  storeBad : Bool
  /-- addresses of the Block store private to a Viaduct pair: first and length (11 R361) -/
  priv : List (Nat × Nat × Nat)
  deriving DecidableEq, Repr

/-- Resolves a 48-bit location word (R143); the error is a tile code. -/
def locPlace (x : Ctx) (w : Nat) : Except Nat Place :=
  match bits w 47 46 with
  | 0 => if bits w 45 41 = 0 then .ok (.court (w % 2 ^ 41)) else .error tcBadField
  | 1 => if bits w 45 24 = 0 then .ok (.store (x.blocks.getD 0 288) (w % 2 ^ 24)) else .error tcBadField
  | 2 => match x.run.symbols[w % 2 ^ 20]? with
    | some r => .ok (.sym r (bits w 45 20 * 64))
    | none => .error tcBadSymbol
  | _ => if bits w 45 40 = 0 then .ok (.bucket (w % 2 ^ 16) (bits w 39 16)) else .error tcBadField

/-- Resolves an 8-byte location field: bits [63:48] are reserved (R143). -/
def locPlace8 (x : Ctx) (w : Nat) : Except Nat Place :=
  if w / 2 ^ 48 ≠ 0 then .error tcBadField else locPlace x w

/-- Resolves an 8-byte location field that may be none. -/
def locOpt8 (x : Ctx) (w : Nat) : Except Nat (Option Place) :=
  if w = locNone then .ok none else (locPlace8 x w).map some

/-- The range `[disp, disp + len)` from a place may be accessed: none, or the tile code of the refusal
(R104, R160, R361, R547). -/
def placeCheck (x : Ctx) (p : Place) (disp len : Nat) (write : Bool) : Option Nat :=
  if len = 0 then none
  else match p with
  | .court a => if courtRangeOk x.court (a + disp) len then none else some tcAddressFault
  | .store b a =>
    if 0xC00000 < a + disp + len then some tcAddressFault
    else if x.priv.any (fun e => e.1 == b && decide (a + disp < e.2.1 + e.2.2) && decide (e.2.1 < a + disp + len)) then
      some tcAddressFault
    else none
  | .sym r off =>
    if r.size < off + disp + len ∨ (write ∧ !r.writable) then some tcBadSymbol
    else if r.slot.isSome then (if write then some tcAddressFault else none)
    else if courtRangeOk x.court (r.at_ + off + disp) len then none else some tcAddressFault
  | .bucket _ _ => if write then none else some tcBadField

/-- Device address of a byte of an operator slot's image (07 R245). -/
def slotDpa (s : State) (n a : Nat) : Option Nat := match tblGet s.gaz.slots n with
  | none => none
  | some m => (m.granules[a / gib]?).map (fun G => G * gib + a % gib)

/-- The bytes of an operator slot's image. -/
def slotRead (s : State) (n a len : Nat) : List Byte :=
  (List.range ((a + len + gib - 1) / gib - a / gib)).flatMap (fun i =>
    let lo := max a ((a / gib + i) * gib)
    let hi := min (a + len) ((a / gib + i + 1) * gib)
    match slotDpa s n lo with
    | some d => hbmRead s d (hi - lo)
    | none => zeros (hi - lo))

/-- The first line of a range of an operator slot's image that delivers poison. -/
def slotPoisoned (s : State) (n : Nat) (bad : List Nat) (a len : Nat) : Option Nat :=
  (List.range ((a + len + 63) / 64 - a / 64)).findSome? (fun i => match slotDpa s n (lineOf a + 64 * i) with
    | some d => if linePoison s d || bad.contains d then some d else none
    | none => none)

/-- A byte of a Block store from what is listed at its address: the listed cell, else zero, else a free value
(03 R75; 05 R152). -/
def storeByteOf (r : BlockStore) (a : Nat) : Option Byte → Byte
  | some v => v
  | none => match r.undef with
    | none => 0#8
    | some t => if r.zeroed.any (fun z => decide (z.1 ≤ a) && decide (a < z.1 + z.2)) then 0#8 else Config.freeByte t a

/-- The bytes of a Block store. -/
def storeRead (s : State) (b a len : Nat) : List Byte :=
  match tblGet s.blocks b with
  | none => zeros len
  | some k => ((memRange k.store.cells a len).zipIdx a).map (fun p => storeByteOf k.store p.2 p.1)

/-- Writes bytes into a Block store. -/
def storeWrite (b a : Nat) (bs : List Byte) (s : State) : State :=
  { s with blocks := tblModify s.blocks b (fun k =>
      { k with store.cells := memPutBytes (if k.store.undef.isNone then some 0#8 else none) k.store.cells a bs }) }

/-- Writes a Block store to zero (04 R108). -/
def storeZero (b : Nat) (s : State) : State :=
  { s with blocks := tblModify s.blocks b (fun k => { k with store := ⟨[], none, []⟩, priv := [] }) }

/-- Leaves a Block store's contents undefined, but for the bytes private to a Viaduct pair, which are written to
zero (05 R152; 11 R361). -/
def storeForget (b : Nat) (s : State) : State :=
  { s with blocks := tblModify s.blocks b (fun k => { k with store := ⟨[], some s.free, k.priv⟩, priv := [] }),
           free := s.free + 1 }

/-- The private ranges of every Block (11 R361). -/
def allPriv (s : State) : List (Nat × Nat × Nat) := s.blocks.flatMap (fun p => p.2.priv.map (fun r => (p.1, r)))

/-- The bytes of a place. -/
def placeRead (s : State) (x : Ctx) (p : Place) (disp len : Nat) : List Byte :=
  match p with
  | .court a => courtRead s x.court (a + disp) len
  | .store b a => storeRead s b (a + disp) len
  | .sym r off =>
    match r.slot with
    | some n => slotRead s n (r.at_ + off + disp) len
    | none => courtRead s x.court (r.at_ + off + disp) len
  | .bucket _ _ => []

/-- MEMORY_ERROR of a work order, with the line that delivered poison where one did (R160; 04 R123, R126). -/
def memErr (line : Option Nat) : Nat := tcMemoryError + 2 ^ 16 * (match line with
  | none => 0
  | some l => l + 1)

/-- The tile code of an error. -/
def errCode (e : Nat) : Nat := e % 2 ^ 16

/-- The line of an error, if poison caused it. -/
def errLine (e : Nat) : Option Nat := if e / 2 ^ 16 = 0 then none else some (e / 2 ^ 16 - 1)

/-- The error of a read of the range that delivers poison (04 R122, R123, R116). -/
def placePoison (s : State) (x : Ctx) (p : Place) (disp len : Nat) : Option Nat :=
  if len = 0 then none
  else match p with
  | .court a => (courtPoisoned s x.court x.bad (a + disp) len).map (fun l => memErr (some l))
  | .store _ _ => if x.storeBad then some (memErr none) else none
  | .sym r off =>
    (match r.slot with
     | some n => slotPoisoned s n x.bad (r.at_ + off + disp) len
     | none => courtPoisoned s x.court x.bad (r.at_ + off + disp) len).map (fun l => memErr (some l))
  | .bucket _ _ => none

/-- Writes bytes at a place. -/
def placeWrite (x : Ctx) (p : Place) (disp : Nat) (bs : List Byte) (s : State) : State :=
  match p with
  | .court a => courtWrite x.court (a + disp) bs s
  | .store b a => storeWrite b (a + disp) bs s
  | .sym r off => if r.slot.isSome then s else courtWrite x.court (r.at_ + off + disp) bs s
  | .bucket _ _ => s

/-- A write that a work order makes: place, displacement, bytes. -/
abbrev WoWrite := Place × Nat × List Byte

/-- Applies the writes of a work order in order. -/
def applyWrites (x : Ctx) (ws : List WoWrite) (s : State) : State :=
  ws.foldl (fun s w => placeWrite x w.1 w.2.1 w.2.2 s) s

/-- A tensor reference (R144). -/
structure TRef where
  place : Place
  fmt : Nat
  hint : Nat
  stride : Nat
  scaleDisp : Nat
  /-- rows that precede row 0: 0 but in a work order that the Square derived (08 R253) -/
  row0 : Nat
  deriving DecidableEq, Repr

/-- Element code of a tensor. -/
def tCode (t : TRef) : Nat := fmtCode t.fmt

/-- Reads the tensor reference at byte `off` of a work order (R144 to R146); the error is a tile code. -/
def tensorRef (x : Ctx) (wo : List Byte) (off : Nat) : Except Nat TRef := do
  let hint := fld wo (off + 7) 1
  if hint ≥ 3 then throw tcBadField
  let p ← locPlace x (fld wo off 6)
  let f := fld wo (off + 6) 1
  if !fmtLegal f then throw tcBadFormat
  let sd := fld wo (off + 12) 4
  if sd % 64 ≠ 0 ∨ (sd ≠ 0 ∧ !fmtMx f) then throw tcBadField
  let st := fld wo (off + 8) 4
  if fmtMx f ∧ st % 96 ≠ 0 then throw tcBadShape
  return ⟨p, f, hint, st, sd, 0⟩

/-- A tensor reference whose ADDR may be none (R169). -/
def tensorOpt (x : Ctx) (wo : List Byte) (off : Nat) : Except Nat (Option TRef) :=
  if fld wo off 6 = locNone then .ok none else (tensorRef x wo off).map some

/-- First byte and number of bytes that hold elements `[lo, hi)` of a packed row (R45). -/
def elemSpan (code lo hi : Nat) : Nat × Nat :=
  if hi ≤ lo then (0, 0)
  else match elemBits code with
  | 4 => (lo / 2, (hi + 1) / 2 - lo / 2)
  | 6 => (lo / 4 * 3, (hi + 3) / 4 * 3 - lo / 4 * 3)
  | b => (lo * (b / 8), (hi - lo) * (b / 8))

/-- Displacement of the scale byte of block `j` in row `r` (R146). -/
def scaleAt (t : TRef) (r j : Nat) : Nat := t.scaleDisp + (t.row0 + r) * (t.stride / (4 * elemBits (tCode t))) + j

/-- The accesses of elements `[lo, hi)` of row `r` and of their block scales. -/
def rowSpans (t : TRef) (r lo hi : Nat) : List (Nat × Nat) :=
  let e := elemSpan (tCode t) lo hi
  ((t.row0 + r) * t.stride + e.1, e.2) :: (if fmtMx t.fmt ∧ lo < hi then [(scaleAt t r (lo / 32), (hi + 31) / 32 - lo / 32)] else [])

/-- The first refusal among the accesses of a row range. -/
def rowCheck (x : Ctx) (t : TRef) (r lo hi : Nat) (write : Bool) : Option Nat :=
  (rowSpans t r lo hi).findSome? (fun p => placeCheck x t.place p.1 p.2 write)

/-- The first refusal among rows `0` to `n − 1`. -/
def rowsCheck (x : Ctx) (t : TRef) (n lo hi : Nat) (write : Bool) : Option Nat :=
  (List.range n).findSome? (fun r => rowCheck x t r lo hi write)

/-- The error of a read of elements `[lo, hi)` of rows `0` to `n − 1` that meets poison. -/
def rowsPoison (s : State) (x : Ctx) (t : TRef) (n lo hi : Nat) : Option Nat :=
  (List.range n).findSome? (fun r => (rowSpans t r lo hi).findSome? (fun p => placePoison s x t.place p.1 p.2))

/-- The raw patterns of elements `[lo, hi)` of row `r` (R45). -/
def rowRaw (s : State) (x : Ctx) (t : TRef) (r lo hi : Nat) : List Nat :=
  let e := elemSpan (tCode t) lo hi
  let row := placeRead s x t.place ((t.row0 + r) * t.stride + e.1) e.2
  let skip := match elemBits (tCode t) with
    | 4 => lo % 2
    | 6 => lo % 4
    | _ => 0
  (List.range (hi - lo)).map (fun i => elemRaw (tCode t) row (skip + i))

/-- The scale bytes of the blocks that cover elements `[lo, hi)` of row `r`, block `lo / 32` first (R146). -/
def rowScales (s : State) (x : Ctx) (t : TRef) (r lo hi : Nat) : List Nat :=
  if fmtMx t.fmt ∧ lo < hi then
    (placeRead s x t.place (scaleAt t r (lo / 32)) ((hi + 31) / 32 - lo / 32)).map (fun b => b.toNat)
  else []

/-- The values of elements `[0, n)` of row `r`, block scales applied (R46). -/
def rowVals (s : State) (x : Ctx) (t : TRef) (r n : Nat) : List (Option Dy) :=
  let raws := rowRaw s x t r 0 n
  let sc := rowScales s x t r 0 n
  raws.zipIdx.map (fun p =>
    let v := elemVal (tCode t) p.1
    if fmtMx t.fmt then
      let X := sc.getD (p.2 / 32) 255
      let bias : Int := 127
      if X = 255 then none else v.map (fun d => dyScale d ((X : Int) - bias))
    else v)

/-- The FP32 words of elements `[0, n)` of row `r` (R169). -/
def rowF32 (s : State) (x : Ctx) (t : TRef) (r n : Nat) : List F32 := (rowVals s x t r n).map elemToF32

/-- An FP32 vector of `n` words at a place, from word `c0`. -/
def vecF32 (s : State) (x : Ctx) (p : Place) (c0 n : Nat) : List F32 :=
  let b := placeRead s x p (4 * c0) (4 * n)
  (List.range n).map (fun j => fld b (4 * j) 4)

/-- Marks what a tensor row read with LAST_USE as undefined (04 R111, R112). -/
def placeLastUse (x : Ctx) (p : Place) (disp len : Nat) (s : State) : State :=
  if len = 0 then s
  else match p with
  | .court a => courtLastUse x.court (a + disp) len s
  | .sym r off => if r.slot.isSome then s else courtLastUse x.court (r.at_ + off + disp) len s
  | _ => s

/-- Applies the LAST_USE hint of a tensor to rows `0` to `n − 1`. -/
def tensorLastUse (x : Ctx) (t : TRef) (n lo hi : Nat) (s : State) : State :=
  if t.hint ≠ 2 then s
  else forUpto n (fun r s => (rowSpans t r lo hi).foldl (fun s p => placeLastUse x t.place p.1 p.2 s) s) s

end Sys2Proof.Machine
end

