-- ==== Sys2Proof/Machine/Runs.lean ====
section
/-! DEFINITION. Runs of work orders: readiness, dispatch, retirement, failure, semaphores, barriers, pre-emption
(spec/05_work_orders.md R150 to R162; spec/13_placement_and_scheduling.md R432, R433, R436; 06 R199). -/

namespace Sys2Proof.Machine

/-! ### Blocks of a Court -/

/-- The physical Block that serves a global index (01 R29, R30). -/
def physOf (s : State) (g : Nat) : Option Nat :=
  (s.blocks.find? (fun p => p.2.role == .active g)).map (fun p => p.1)

/-- The global index of a physical Block, 0xFFFF when it serves none. -/
def globalOf (s : State) (b : Nat) : Nat := match tblGet s.blocks b with
  | some k => match k.role with
    | .active g => g
    | _ => 0xFFFF
  | none => 0xFFFF

/-- Compute die of a physical Block: 16 active and 2 spare slots per die (01 R29). -/
def dieOf (b : Nat) : Nat := if b < 256 then b / 16 else (b - 256) / 2

/-- Use of a physical Block. -/
def useOf (s : State) (b : Nat) : Option BlockUse := (tblGet s.blocks b).map (·.use)

/-- Changes a physical Block. -/
def modBlock (b : Nat) (f : Block → Block) (s : State) : State := { s with blocks := tblModify s.blocks b f }

/-- Sets the use of physical Blocks. -/
def setUse (bs : List Nat) (u : BlockUse) (s : State) : State := bs.foldl (fun s b => modBlock b (fun k => { k with use := u }) s) s

/-- The free Blocks of a Court as (global, physical), lowest global index first (R151). -/
def freeBlocks (s : State) (c : Court) : List (Nat × Nat) :=
  c.blocks.filterMap (fun g => match physOf s g with
    | some b => match tblGet s.blocks b with
      | some k => if k.use = .idle ∧ k.want = none then some (g, b) else none
      | none => none
    | none => none)

/-- Global indices that slots of the Court reserve, in force only when `force` (13 R436). -/
def reserved (s : State) (cn : Nat) (force : Bool) : List Nat :=
  (s.tt.active.filter (fun a => a.court == cn && (!force || a.inForce))).flatMap (·.blocks)

/-- Blocks that slots in force or in lead reserve together at the instant at which they reserve most (13 R435). -/
def peakBlocks (slots : List TtSlot) (cycle : Nat) : Nat :=
  let at_ (t : TtSlot) : Nat := (t.start + cycle - t.lead % cycle) % cycle
  (slots.map (fun a => ((slots.filter (fun b => decide ((at_ a + cycle - at_ b) % cycle < b.lead + b.length))).map
    (·.blocks)).sum)).foldl max 0

/-- Slots of the Court's Timetable row with a tag. -/
def tagSlots (c : Court) (tag : Nat) : List Nat :=
  (c.row.slots.zipIdx.filter (fun p => p.1.tag == tag)).map (fun p => p.2)

/-- The Block an unpaired work order goes to, if it may dispatch now (R151; 13 R436). -/
def pickBlock (s : State) (cn : Nat) (c : Court) (express : Bool) (tag : Nat) : Option Nat :=
  let free := freeBlocks s c
  let force := reserved s cn true
  if !express then (free.find? (fun p => !(reserved s cn false).contains p.1)).map (·.2)
  else if tag ≠ 0 ∧ tagSlots c tag ≠ [] then
    match s.tt.active.find? (fun a => a.court == cn && a.inForce && (tagSlots c tag).contains a.slot) with
    | none => none
    | some a => match free.find? (fun p => a.blocks.contains p.1) with
      | some p => some p.2
      | none => (free.find? (fun p => !force.contains p.1)).map (·.2)
  else (free.find? (fun p => !force.contains p.1)).map (·.2)

/-- The two Blocks of a VIADUCT_PAIR: the lowest free Block whose die holds a second one (R153). -/
def pickPair (s : State) (cn : Nat) (c : Court) (express : Bool) : Option (Nat × Nat) :=
  let res := reserved s cn (!express)
  let free := (freeBlocks s c).filter (fun p => !(res.contains p.1))
  free.findSome? (fun p => (free.find? (fun r => r.1 != p.1 && dieOf r.2 == dieOf p.2)).map (fun r => (p.2, r.2)))

/-! ### Work orders of a stream -/

/-- Changes a run. -/
def modRun (r : Nat) (f : Run → Run) (s : State) : State := { s with runs := tblModify s.runs r f }

/-- Changes one stream of a run. -/
def modStream (r i : Nat) (f : RunStream → RunStream) (s : State) : State :=
  modRun r (fun k => { k with streams := k.streams.modify i f }) s

/-- A stream of a run. -/
def streamOf (s : State) (r i : Nat) : Option (Run × RunStream) :=
  match tblGet s.runs r with
  | none => none
  | some k => match k.streams[i]? with
    | none => none
    | some t => some (k, t)

/-- The 128 bytes of a stream's next work order (R140, R147). -/
def woBytes (s : State) (k : Run) (t : RunStream) : List Byte :=
  match t.derived with
  | [] => match courtOf s k.court with
    | some c => courtRead s c (t.at_ + 128 * t.next) 128
    | none => []
  | l => ((l[t.next]?).map (·.bytes)).getD []

/-- TYPE of a work order (R148). -/
def woType (wo : List Byte) : Nat := fld wo 0 1
/-- CHAIN (R147). -/
def woChain (wo : List Byte) : Bool := bit (fld wo 1 1) 0
/-- FORCE_ARRAYS (R147; 03 R89). -/
def woForce (wo : List Byte) : Bool := bit (fld wo 1 1) 1
/-- OLD_TOWN (R147; 02 R73). -/
def woOldTown (wo : List Byte) : Bool := bit (fld wo 1 1) 2

/-- Semaphores the run may name: those of its package (R154). -/
def semCount (s : State) (k : Run) : Nat := ((tblGet s.pkgs k.pkg).map (·.sems)).getD 0

/-- A semaphore index of a work order is 0xFFFF where none is allowed, or one of the package (R154). -/
def semOk (n i : Nat) (none : Bool) : Bool := decide (i < n) || (none && i == 0xFFFF)

/-- The operation selectors of a work order, and the fields of the Square's own types, are ones R148 to R174 give. -/
def selectorOk (n : Nat) (wo : List Byte) : Bool :=
  match woType wo with
  | 5 => decide (1 ≤ fld wo 88 1) && decide (fld wo 88 1 ≤ 10)
  | 6 => decide (fld wo 72 1 ≤ 3)
  | 7 => decide (fld wo 61 1 ≤ 1)
  | 9 => decide (1 ≤ fld wo 112 1) && decide (fld wo 112 1 ≤ 2)
  | 10 => decide (1 ≤ fld wo 32 1) && decide (fld wo 32 1 ≤ 3) && zeroFld wo 33 1 && zeroFld wo 40 88 &&
    semOk n (fld wo 34 2) false
  | 11 => decide (2 ≤ fld wo 34 2) && decide (fld wo 34 2 ≤ 4096) && decide (fld wo 40 1 ≤ 1) && zeroFld wo 41 87
  | 12 => zeroFld wo 32 96
  | _ => true

/-- The run belongs to a serving step, whose work orders have no tile status array (08 R253). -/
def servingRun (k : Run) : Bool := match k.owner with
  | .serving _ _ _ => true
  | _ => false

/-- The header checks of R149: TYPE, reserved fields, SEQ, semaphores, STATUS_SLOT. -/
def headerOk (s : State) (k : Run) (t : RunStream) (wo : List Byte) : Bool :=
  decide (1 ≤ woType wo) && decide (woType wo ≤ 12) && decide (fld wo 1 1 < 8) && zeroFld wo 10 2 && zeroFld wo 28 4 &&
  fld wo 16 4 == t.next && semOk (semCount s k) (fld wo 2 2) true && semOk (semCount s k) (fld wo 8 2) true &&
  (servingRun k || decide (fld wo 20 4 < k.statusEntries)) && selectorOk (semCount s k) wo

/-- Value of a Court semaphore (R154). -/
def semVal (s : State) (cn i : Nat) : Nat := match courtOf s cn with
  | some c => tblGetD c.sems i 0
  | none => 0

/-- Sets a Court semaphore; a zero needs no entry. -/
def semSet (cn i v : Nat) (s : State) : State :=
  modCourt cn (fun c => { c with sems := if v = 0 then tblErase c.sems i else tblSet c.sems i v }) s

/-- The WAIT condition of a work order holds (R150). -/
def waitHolds (s : State) (k : Run) (wo : List Byte) : Bool :=
  fld wo 2 2 == 0xFFFF || decide (fld wo 4 4 ≤ semVal s k.court (k.semBase + fld wo 2 2))

/-- A result with a code and nothing else, on the physical Blocks given. -/
def woFail (s : State) (code : Nat) (blocks : List Nat) : WoResult :=
  ⟨code, 0, false, false, 0, 0, match blocks with
    | b :: _ => globalOf s b
    | [] => 0xFFFF⟩

/-! ### Dispatch (R150 to R153) -/

/-- Makes a stream's head ready when its WAIT condition holds, or fails its header (R149, R150). -/
def readyOne (r i : Nat) (s : State) : State :=
  match streamOf s r i with
  | none => s
  | some (k, t) =>
    if t.head ≠ .blocked then s
    else
      let wo := woBytes s k t
      if !headerOk s k t wo then modStream r i (fun t => { t with head := .done [] (woFail s tcBadField []) }) s
      else if waitHolds s k wo then modStream r i (fun t => { t with head := .ready s.sq.time }) s
      else s

/-- Every (run, stream) pair, runs in admission order. -/
def allStreams (s : State) : List (Nat × Nat) :=
  s.runs.flatMap (fun p => (List.range p.2.streams.length).map (fun i => (p.1, i)))

/-- Makes every head ready that can be. -/
def readyAll (s : State) : State := (allStreams s).foldl (fun s p => readyOne p.1 p.2 s) s

/-- The order of dispatch: Express first, then by time of readiness, then by stream index (R151). -/
def readyBefore (a b : Bool × Nat × Nat × Nat) : Bool :=
  if a.1 ≠ b.1 then a.1
  else if a.2.1 ≠ b.2.1 then decide (a.2.1 < b.2.1)
  else decide (a.2.2.2 ≤ b.2.2.2)

/-- Inserts into a list in dispatch order. -/
def insReady (a : Bool × Nat × Nat × Nat) : List (Bool × Nat × Nat × Nat) → List (Bool × Nat × Nat × Nat)
  | [] => [a]
  | b :: t => if readyBefore a b then a :: b :: t else b :: insReady a t

/-- The ready streams in dispatch order, as (Express, since, run, stream). -/
def readyList (s : State) : List (Bool × Nat × Nat × Nat) :=
  ((allStreams s).filterMap (fun p => match streamOf s p.1 p.2 with
    | some (_, t) => match t.head with
      | .ready since => some (t.express, since, p.1, p.2)
      | _ => none
    | none => none)).foldl (fun l a => insReady a l) []

/-- A free Block that a Roadworks slice waits for is fenced: its slice begins (15 R486 step 1). -/
def fenceIfDue (b : Nat) (s : State) : State :=
  modBlock b (fun k => if k.use = .idle ∧ k.want = some .slice then
    { k with use := .testing, want := none, started := s.sq.time, proposal := .none } else k) s

/-- Gives up Blocks: idle, their contents undefined to the next work order (R152). -/
def releaseBlocks (bs : List Nat) (s : State) : State :=
  bs.foldl (fun s b => match useOf s b with
    | some (.busy _ _) => fenceIfDue b (storeForget b (setUse [b] .idle s))
    | some (.chained _ _) => fenceIfDue b (storeForget b (setUse [b] .idle s))
    | some (.saving _ _) => fenceIfDue b (storeForget b (setUse [b] .idle s))
    | _ => s) s

/-! ### Buckets of a collective group (10 R341 to R344) -/

/-- Key of a Court's group. -/
def grpKey (court g : Nat) : Nat := court * 65536 + g

/-- Members of the box in a dimension (10 R325, R327). -/
def boxN (pb : List Byte) (i : Nat) : Nat := fld pb 18 2 / 16 ^ i % 16 + 1

/-- Relative coordinate of a device in a dimension (10 R326). -/
def relCoord (pb : List Byte) (addr i : Nat) : Nat := (addr / 16 ^ i + 16 - fld pb 16 2 / 16 ^ i % 16) % 16

/-- The device is a box member (10 R325). -/
def inBox (pb : List Byte) (addr : Nat) : Bool := (List.range 4).all (fun i => decide (relCoord pb addr i < boxN pb i))

/-- Offset of the bucket entries in a FORM_GROUP parameter block (10 R327). -/
def bucketsAt (pb : List Byte) : Nat := 64 + roundUp (2 * fld pb 20 2) 8

/-- ELEMENTS of a bucket (10 R327). -/
def bucketElems (pb : List Byte) (b : Nat) : Nat := fld pb (bucketsAt pb + 8 * b) 4

/-- Blocks of 32 elements of a bucket (10 R334). -/
def bucketBlocks (pb : List Byte) (b : Nat) : Nat := ceilDiv (bucketElems pb b) 32

/-- A bucket has released its contexts on this device: its blocks have passed, and its UPDATE work orders have written
their last blocks (10 R344). -/
def bucketOver (addr : Nat) (g : Group) (t : TrainStep) (b : Nat) : Bool :=
  let home := g.homes[b]? == some addr
  match tblGet t.buckets b with
  | none => !inBox g.pb addr && !home
  | some r =>
    (!inBox g.pb addr || decide (bucketBlocks g.pb b ≤ r.passed)) &&
    (t.shards.filter (fun d => d.bucket == b)).all (fun d => decide (d.elements ≤ 32 * d.blocks.length)) &&
    (!home || t.shards.any (fun d => d.bucket == b))

/-- A bucket holds contexts on this device, or may take them (10 R344). -/
def bucketFits (addr : Nat) (g : Group) (t : TrainStep) (b : Nat) : Bool :=
  (tblGet t.buckets b).isSome || decide (b < fld g.pb 3 1) || bucketOver addr g t (b - fld g.pb 3 1)

/-- A work order that is not dispatched yet: a REDUCE_SEND whose bucket may not take contexts, and a GEMM that supplies
a bucket not yet open (10 R341, R342). -/
def bucketWaits (s : State) (k : Run) (wo : List Byte) : Bool := match k.owner with
  | .training court grp => match (tblGet s.grps (grpKey court grp)).bind (fun g => g.step.map (fun t => (g, t))) with
    | none => false
    | some (g, t) =>
      if woType wo = 7 then
        fld wo 48 2 == grp && decide (fld wo 52 4 < fld g.pb 22 2) && !bucketFits s.sq.addr g t (fld wo 52 4)
      else if woType wo = 1 ∧ bits (fld wo 64 6) 47 46 = 3 ∧ fld wo 64 6 ≠ 2 ^ 48 - 1 then
        fld wo 64 6 % 2 ^ 16 == grp && decide (bits (fld wo 64 6) 39 16 < fld g.pb 22 2) &&
        !(tblGet t.buckets (bits (fld wo 64 6) 39 16)).any (·.begun)
      else false
  | _ => false

/-- Dispatches one ready work order, if a Block is there for it (R151 to R153). -/
def dispatchOne (r i : Nat) (s : State) : State :=
  match streamOf s r i with
  | none => s
  | some (k, t) =>
    match courtOf s k.court with
    | none => s
    | some c =>
      let wo := woBytes s k t
      let ty := woType wo
      if bucketWaits s k wo then s
      else if ty ≥ 10 ∨ ty = 8 then modStream r i (fun t => { t with head := .sent [] }) s
      else if t.saved ≠ [] then
        if t.chain ≠ [] then s
        else if t.saved.length = 2 then
          match pickPair s k.court c t.express with
          | some (a, b) => setUse [a, b] (.saving r i) (modStream r i (fun t => { t with chain := [a, b] }) s)
          | none => s
        else match pickBlock s k.court c t.express t.ttTag with
          | some b => setUse [b] (.saving r i) (modStream r i (fun t => { t with chain := [b] }) s)
          | none => s
      else if t.chain.any (fun b => useOf s b != some (.chained r i)) then s
      else if t.chain ≠ [] ∧ (ty = 9 → t.chain.length = 2) then
        setUse t.chain (.busy r i) (modStream r i (fun t => { t with head := .sent t.chain }) s)
      else if ty = 9 then
        let s := modStream r i (fun t => { t with chain := [] }) (releaseBlocks t.chain s)
        match pickPair s k.court c t.express with
        | some (a, b) =>
          setUse [a, b] (.busy r i) (modStream r i (fun t => { t with head := .sent [a, b], chainSince := s.sq.time }) s)
        | none => s
      else match pickBlock s k.court c t.express t.ttTag with
        | some b =>
          setUse [b] (.busy r i) (modStream r i (fun t => { t with head := .sent [b], chainSince := s.sq.time }) s)
        | none => s

/-- Readies and dispatches all that can be (R150, R151). -/
def settle (s : State) : State :=
  let s := readyAll s
  (readyList s).foldl (fun s a => dispatchOne a.2.2.1 a.2.2.2 s) s

/-! ### References that a use holds (07 R235, R247) -/

/-- Adds `d` to the references of a handle's version, current or draining. -/
def refVersion (h v : Nat) (d : Int) (s : State) : State :=
  let f := fun (a : AdVersion) => if a.version = v then { a with refs := (a.refs + d).toNat } else a
  { s with
    gaz.entries := tblModify s.gaz.entries h (fun e => { e with cur := e.cur.map f })
    gaz.drains := s.gaz.drains.map (fun r => if r.handle = h then { r with ver := f r.ver } else r) }

/-- Draining records of a handle (07 R217 DRAINING). -/
def drainingOf (s : State) (h : Nat) : Nat := (s.gaz.drains.filter (fun r => r.handle == h)).length

/-- The entry as FREE, its GENERATION kept (07 R216, R218). -/
def freeEntry (e : GazEntry) : GazEntry :=
  { e with state := .free, cur := none, kind := 0, modelId := 0, modelVersion := 0, coldAt := 0, via := ⟨0, 0⟩, minTier := 0,
           train := 0, trainable := false, contractEnd := 0, holdUntil := 0, next := none, nextCmd := none }

/-- Frees the superseded versions without references, and a RETIRING entry whose REFS and DRAINING are 0
(07 R218, R238). -/
def sweepHandle (h : Nat) (s : State) : State :=
  let s := { s with gaz.drains := s.gaz.drains.filter (fun r => !(r.handle == h && r.ver.refs == 0)) }
  match tblGet s.gaz.entries h with
  | none => s
  | some e =>
    if e.state = .retiring ∧ (e.cur.map (·.refs)).getD 0 = 0 ∧ drainingOf s h = 0 then
      { s with gaz.entries := tblSet s.gaz.entries h (freeEntry e) }
    else s

/-- A use drops its reference to a version (07 R235, R238). -/
def dropVersion (h v : Nat) (s : State) : State := sweepHandle h (refVersion h v (-1) s)

/-- Changes a model slot. -/
def modSlot (n : Nat) (f : ModelSlot → ModelSlot) (s : State) : State := { s with gaz.slots := tblModify s.gaz.slots n f }

/-- The Court whose handle range holds a handle (07 R215; 13 R415). -/
def handleOwner (s : State) (h : Nat) : Option Nat :=
  (s.courts.find? (fun p => decide (256 * p.2.unit0 ≤ h) && decide (h < 256 * (p.2.unit0 + p.2.units)))).map (·.1)

/-- The Court may use a model slot (07 R245). -/
def slotFor (m : ModelSlot) (court : Nat) : Bool := m.owner == court || (m.owner == 16 && bit m.access court)

/-- Makes a model slot EMPTY: its space is released, its claims are discarded (07 R247 to R249). -/
def emptySlot (n : Nat) (s : State) : State := match tblGet s.gaz.slots n with
  | none => s
  | some m =>
    let s := if m.owner = 16 ∧ m.state ≠ .cold then m.granules.foldl (fun s G => clearGranule G .free false s) s else s
    let rest := (tblErase s.gaz.slots n).map (fun (p : Nat × ModelSlot) => if p.2.replacedBy = some n then (p.1, { p.2 with replacedBy := none }) else p)
    { s with gaz.slots := rest }

/-- Some READY adaptation is bound to the model version of a slot (07 R249). -/
def slotBound (s : State) (m : ModelSlot) : Bool :=
  s.gaz.entries.any (fun p => p.2.state == .ready && p.2.modelId == m.modelId && p.2.modelVersion == m.modelVersion &&
    (match handleOwner s p.1 with
      | some c => slotFor m c
      | none => false))

/-- A DRAINING slot becomes EMPTY once no adaptation bound to it is READY and it has no references (07 R249). -/
def sweepSlots (s : State) : State :=
  s.gaz.slots.foldl (fun s p => match tblGet s.gaz.slots p.1 with
    | some m => if m.state = .draining ∧ m.refs = 0 ∧ !slotBound s m then emptySlot p.1 s else s
    | none => s) s

/-- Adds `d` to a model slot's references. -/
def refSlot (n : Nat) (d : Int) (s : State) : State :=
  sweepSlots (modSlot n (fun m => { m with refs := (m.refs + d).toNat }) s)

/-! ### Ending a run (R156, R161, R199) -/

/-- Adds back every amount the run's streams hold (R156). -/
def addBackHeld (k : Run) (s : State) : State :=
  k.streams.foldl (fun s t => t.held.foldl (fun s p => semSet k.court p.1 (semVal s k.court p.1 + p.2) s) s) s

/-- The 16 bytes of a tile status record (R159). -/
def statusBytes (w : WoResult) (preempted : Bool) (seq : Nat) : List Byte :=
  natLe 2 w.code ++ natLe 1 (min w.splits 255) ++
  natLe 1 (b2n w.bypass + 2 * b2n preempted + 4 * b2n w.oldTown + 8 * b2n (w.sat != 0) + 16 * b2n (w.nonfin != 0)) ++
  natLe 2 w.block ++ zeros 2 ++ natLe 4 (min w.sat (2 ^ 32 - 1)) ++ natLe 4 seq

/-- Writes a tile status record (R159, R552). -/
def writeStatus (k : Run) (wo : List Byte) (w : WoResult) (pre : Bool) (s : State) : State :=
  if fld wo 20 4 < k.statusEntries then
    match courtOf s k.court with
    | some c => courtWrite c (k.statusAt + 16 * fld wo 20 4) (statusBytes w pre (fld wo 16 4)) s
    | none => s
  else s

/-- Withdraws what a stream has dispatched: its record reads WITHDRAWN (R161, 03 R86). -/
def withdrawStream (k : Run) (t : RunStream) (s : State) : State :=
  let wo := woBytes s k t
  let rec_ (bs : List Nat) (s : State) : State :=
    writeStatus k wo { woFail s tcWithdrawn bs with oldTown := woOldTown wo && woType wo == 1 } t.preempted s
  match t.head with
  | .sent bs => releaseBlocks (bs ++ t.chain) (rec_ bs s)
  | .done bs r =>
    releaseBlocks (bs ++ t.chain) (writeStatus k wo { r with code := tcWithdrawn } t.preempted s)
  | .waiting _ => releaseBlocks t.chain (rec_ [] s)
  | _ => releaseBlocks t.chain s

/-- The physical Blocks of the run leave it; the run and what it holds are released. -/
def dropRun (r : Nat) (s : State) : State :=
  match tblGet s.runs r with
  | none => s
  | some k =>
    let s := addBackHeld k s
    let s := { s with
      runs := tblErase s.runs r
      semWait := s.semWait.filter (fun w => w.1 != r)
      barriers := (s.barriers.map (fun b => { b with members := b.members.filter (fun m => m.1 != r) })).filter
        (fun b => !b.members.isEmpty) }
    match k.owner with
    | .cmd _ _ =>
      let s := k.bindings.foldl (fun s b => dropVersion b.1 b.2 s) s
      if k.baseSlot = 0xFFFF then s else refSlot k.baseSlot (-1) s
    | _ => s

/-- The command status of a run that ended with a tile code (06 R199). -/
def runStatus (code : Nat) : Nat :=
  match code with
  | 0x3002 => stSemHoldExceeded
  | 0x2001 => stAddressFault
  | 0x2002 => stMemoryError
  | _ => stWorkOrderFailed

/-- Ends a run: its command retires, or its step takes up the outcome later (R161; 06 R199). -/
def endRun (r code stream seq : Nat) (s : State) : State :=
  match tblGet s.runs r with
  | none => s
  | some k =>
    let s := dropRun r s
    match k.owner with
    | .cmd q cid => match findCmd s q cid with
      | none => s
      | some c =>
        if code = 0 then retire c (finRes stSuccess (natLe 8 k.retired)) s
        else retire c (finRes (runStatus code) (natLe 2 code ++ natLe 2 stream ++ natLe 4 seq)) s
    | o => { s with runDone := s.runDone ++ [(o, code, stream, seq, k.retired)] }

/-- Withdraws every dispatched work order of a run, except those of one stream (R161). -/
def withdrawAll (r : Nat) (except : Option Nat) (s : State) : State :=
  match tblGet s.runs r with
  | none => s
  | some k => (k.streams.zipIdx.filter (fun p => some p.2 ≠ except)).foldl (fun s p => withdrawStream k p.1 s) s

/-- Adds to a semaphore; none where the value would pass 2^32 − 1 (R155). -/
def semAdd (cn i n : Nat) (s : State) : Option State :=
  let v := semVal s cn i
  if 2 ^ 32 ≤ v + n then none else some (semSet cn i (v + n) s)

/-- SIGNAL_ADD of a work order that completed OK: the new state, or none when it fails with SEM_RANGE (R155). -/
def signal (k : Run) (wo : List Byte) (s : State) : Option State :=
  if fld wo 8 2 = 0xFFFF then some s else semAdd k.court (k.semBase + fld wo 8 2) (fld wo 12 4) s

/-- The stream after its work order has retired. -/
def advance (t : RunStream) (chain : List Nat) : RunStream :=
  { t with next := t.next + 1, head := if t.next + 1 < t.count then .blocked else .ended, chain := chain, preempted := false }

/-- Serves the ACQUIRE waiters, Express first, in the order in which they began to wait (R156, R157). -/
def serveWaiter (w : Nat × Nat × Nat) (s : State) : State :=
  match streamOf s w.1 w.2.1 with
  | none => s
  | some (k, t) =>
    let n := fld (woBytes s k t) 36 4
    let v := semVal s k.court w.2.2
    let ahead := (s.semWait.takeWhile (fun x => x != w)).any (fun x =>
      x.2.2 == w.2.2 && (match streamOf s x.1 x.2.1 with
        | some (k', t') => k'.court == k.court && (t'.express || !t.express)
        | none => false))
    let express := s.semWait.any (fun x => x != w && x.2.2 == w.2.2 && (match streamOf s x.1 x.2.1 with
        | some (k', t') => k'.court == k.court && t'.express && !t.express
        | none => false))
    if ahead ∨ express ∨ v < n then s
    else
      let s := semSet k.court w.2.2 (v - n) s
      modStream w.1 w.2.1 (fun t => { t with
        head := .done [] (woFail s 0 [])
        held := tblSet t.held w.2.2 (tblGetD t.held w.2.2 0 + n)
        heldSince := if t.held.isEmpty then s.sq.time else t.heldSince })
        { s with semWait := s.semWait.filter (fun x => x != w) }

/-- Serves every waiter once, in order, as often as one service can allow another. -/
def serveWaiters (s : State) : State :=
  forUpto s.semWait.length (fun _ s => s.semWait.foldl (fun s w => serveWaiter w s) s) s

/-- A run that an abort, a deadline or a reset withdraws: records WITHDRAWN, held amounts back, the run dropped (R161,
R162). Its command is retired by the caller. -/
def abortRun (r : Nat) (s : State) : State := settle (serveWaiters (dropRun r (withdrawAll r none s)))

/-- A chained Local stream gives up its Blocks at a boundary: their stores are being saved (13 R433; 03 R100). -/
def preempt (r i : Nat) (s : State) : State :=
  match streamOf s r i with
  | none => s
  | some (_, t) => setUse t.chain (.saving r i) s

/-- An Express work order of the Court is ready and finds no free Block (13 R433). -/
def expressStarved (s : State) (cn : Nat) : Bool :=
  match courtOf s cn with
  | none => false
  | some c => (freeBlocks s c).isEmpty && (readyList s).any (fun a => a.1 && (match tblGet s.runs a.2.2.1 with
      | some k => k.court == cn
      | none => false))

/-- The stream has held its Block for longer than SLICE_US while another Local work order of the Court is ready and
no Block is free (13 R433). -/
def sliceOver (s : State) (r i cn : Nat) (t : RunStream) : Bool :=
  match courtOf s cn with
  | none => false
  | some c => decide (t.chainSince + c.row.sliceUs * 100 ≤ s.sq.time) && (freeBlocks s c).isEmpty &&
      (readyList s).any (fun a => !a.1 && !(a.2.2.1 == r && a.2.2.2 == i) && (match tblGet s.runs a.2.2.1 with
        | some k => k.court == cn
        | none => false))

/-- A chained stream between work orders must give up its Block now: an evacuation, or for a Local stream an Express
work order that waits, its slice or a reservation (13 R421, R432, R433, R436). -/
def mustYield (s : State) (r i : Nat) : Bool :=
  match streamOf s r i with
  | none => false
  | some (k, t) =>
    let leaving := t.chain.any (fun b => ((tblGet s.blocks b).map (fun k => k.want.isSome)).getD false)
    !t.chain.isEmpty && t.saved.isEmpty &&
    t.chain.all (fun b => ((tblGet s.blocks b).map (fun k => k.priv.isEmpty)).getD true) &&
    (t.express || t.held.isEmpty) &&
    (leaving || (!t.express &&
      (expressStarved s k.court || sliceOver s r i k.court t || t.chain.any (fun b => (reserved s k.court false).contains (globalOf s b)))))

/-- A part of a serving step that serves one sequence only has failed: only that sequence fails (08 R254). -/
def failPart (r seq code : Nat) (s : State) : State :=
  { s with srv.batches := s.srv.batches.map (fun p => (p.1, if p.2.run = r ∧ p.2.phase = .stepping then
      { p.2 with rows := p.2.rows.map (fun e => if e.seq = seq ∧ e.dead = none then { e with dead := some code } else e) }
      else p.2)) }

/-- The result a work order retires with: a part of one sequence that failed leaves its run going (08 R254). -/
def settlePart (r : Nat) (t : RunStream) (w : WoResult) (s : State) : WoResult × State :=
  match (t.derived[t.next]?).bind (·.seq) with
  | none => (w, s)
  | some q => if w.code = 0 then (w, s) else ({ w with code := 0 }, failPart r q w.code s)

/-- Retires a stream's executed work order: its record, its signal, its Blocks, the run's end or failure
(R150, R152, R155, R159, R161). -/
def retireWo (r i : Nat) (s : State) : State :=
  match streamOf s r i with
  | none => s
  | some (k, t) =>
    match t.head with
    | .done bs w =>
      let wo := woBytes s k t
      let pw := settlePart r t w s
      let w := pw.1
      let s := pw.2
      let p := if w.code = 0 then (match signal k wo s with
          | some s' => (s', w)
          | none => (s, { w with code := tcSemRange }))
        else (s, w)
      let w := p.2
      let s := writeStatus k wo w t.preempted p.1
      let keep := woChain wo && w.code == 0
      let s := if bs.isEmpty then s else if keep then setUse bs (.chained r i) s else releaseBlocks (bs ++ t.chain) s
      let chain := if bs.isEmpty then t.chain else if keep then bs else []
      if w.code ≠ 0 then
        settle (serveWaiters (endRun r w.code i (fld wo 16 4) (withdrawAll r (some i) (releaseBlocks chain s))))
      else
        let s := modRun r (fun k => { k with retired := k.retired + 1 }) s
        let s := modStream r i (fun t => advance t chain) s
        let s := serveWaiters s
        match tblGet s.runs r with
        | none => settle s
        | some k =>
          if k.streams.all (fun t => t.head == .ended) then
            settle (serveWaiters (endRun r 0 0 0 (k.streams.foldl (fun s t => releaseBlocks t.chain s) s)))
          else
            let s := readyAll s
            settle (if mustYield s r i then preempt r i s else s)
    | _ => s

/-- The work order of a stream that is dispatched, or else its next one, fails with a code and retires (R156, R160). -/
def faultStream (r i code : Nat) (s : State) : State :=
  match streamOf s r i with
  | none => s
  | some (_, t) =>
    if t.head = .ended then s
    else
      let bs := match t.head with
        | .sent bs => bs
        | .done bs _ => bs
        | _ => []
      retireWo r i (modStream r i (fun t => { t with head := .done bs (woFail s code bs) })
        { s with semWait := s.semWait.filter (fun w => !(w.1 == r && w.2.1 == i)) })

/-- Marks a stream's dispatched work order as executed. -/
def finishWo (r i : Nat) (w : WoResult) (s : State) : State :=
  modStream r i (fun t => match t.head with
    | .sent bs => { t with head := .done bs w }
    | .waiting _ => { t with head := .done [] w }
    | _ => t) s

/-- The outcome of an owner's run, and the ended runs without it. -/
def takeRun (s : State) (o : RunOwner) : Option (Nat × State) := match s.runDone.find? (fun r => r.1 == o) with
  | none => none
  | some r => some (r.2.1, { s with runDone := s.runDone.filter (fun x => x.1 != o) })

end Sys2Proof.Machine
end

