-- ==== Sys2Proof/Machine/Queues.lean ====
section
/-! DEFINITION. The admin commands over queues, rings and modes, the doorbells, the control window and command fetch
(spec/06_command_protocol.md R176 to R195, R208 to R213; spec/00_scope.md R3). -/

namespace Sys2Proof.Machine

/-- The outcome every row of the block gives: a next state. -/
abbrev Res := Host.Outcome State Fault Refusal

/-! ### DEVICE_INFO (00 R3) -/

/-- Global Block indices in service (00 R3, R5). -/
def blocksActive (s : State) : Nat :=
  (s.blocks.filter (fun p => match p.2.role with
    | .active _ => true
    | _ => false)).length

/-- The 64-byte DEVICE_INFO reply (00 R3). -/
def deviceInfoBytes (s : State) : List Byte :=
  natLe 2 1 ++ natLe 2 0x1296 ++ natLe 1 0xB0 ++ natLe 1 2 ++ natLe 1 16 ++ natLe 1 12 ++ natLe 1 4 ++ natLe 1 16 ++
  natLe 1 2 ++ natLe 1 4 ++ natLe 2 (blocksActive s) ++ natLe 2 64 ++ natLe 4 12288 ++ natLe 2 1050 ++ natLe 1 32 ++
  natLe 1 8 ++ natLe 4 1152 ++ natLe 4 (hbmUsable s) ++ natLe 2 128 ++ natLe 1 16 ++ natLe 1 2 ++ natLe 1 16 ++
  natLe 1 32 ++ natLe 1 64 ++ natLe 1 4 ++ natLe 4 65536 ++ natLe 2 4096 ++ natLe 2 16384 ++ natLe 2 1024 ++
  natLe 2 256 ++ natLe 4 0x7F ++ zeros 8

/-- DEVICE_INFO (00 R3, R6). -/
def execDeviceInfo (q : QId) (cid : Nat) (s : State) : Res :=
  .next (runCmd opDeviceInfo q cid (fun _ => 16) [(12, 4)] (fun _ s => (s, .fin (finReply (deviceInfoBytes s)))) s)

/-! ### Which Court a function serves (R176, R177) -/

/-- SERVICE of a Court on a port: 0 not served, 1 PF, 2 VF. -/
def serviceOn (c : Court) (port : Nat) : Nat := if port = 0 then bits c.service 1 0 else bits c.service 3 2

/-- The Court is served by the PF on the port. -/
def pfServed (s : State) (court port : Nat) : Bool := match courtOf s court with
  | some c => serviceOn c port == 1
  | none => false

/-- The doorbell page of an owner is live in the function's window (R177). -/
def pageLive (s : State) (f : FnId) (owner : Nat) : Bool :=
  if f.fn = 0 then owner == 16 || pfServed s owner f.port else owner + 1 == f.fn

/-! ### Queue pairs and rings (R195) -/

/-- A new queue pair with empty queues. -/
def newQueue (via : FnId) (sqd cqd sqb cqb : Nat) (irq : Bool) (vec us cnt : Nat) : Queue :=
  { via := via, sqDepth := sqd, cqDepth := cqd, sqBase := sqb, cqBase := cqb, irqEn := irq, vector := vec,
    coalUs := us, coalCount := cnt, sqTail := 0, sqHead := 0, cqHead := 0, cqWr := 0, phase := true,
    unsignalled := 0, firstUnsig := none, fetched := 0, held := [], retired := [], stopped := false, deleting := false }

/-- The Court whose queue pair a CREATE_ or DELETE_QUEUE_PAIR names: the issuing Court, or on the admin queue one
served by the PF on the issuing port; none is INVALID_QUEUE (R195, R196). -/
def namedCourt (s : State) (c : Cmd) (court : Nat) : Option Nat :=
  if c.q.owner ≠ 16 then some c.q.owner
  else if court < 16 && pfServed s court c.via.port then some court else none

/-- The field checks of CREATE_QUEUE_PAIR (R183, R195). -/
def createQpOk (pb : List Byte) : Bool :=
  decide (fld pb 1 1 < 2) && decide (1 ≤ fld pb 2 2) && decide (1 ≤ fld pb 4 2) && decide (fld pb 6 2 ≤ 63) &&
  fld pb 8 8 % 4096 == 0 && fld pb 16 8 % 4096 == 0 && decide (fld pb 24 2 ≤ 1000) && decide (fld pb 26 2 ≤ 1024) &&
  decide (fld pb 0 1 ≤ 63)

/-- Effect of CREATE_QUEUE_PAIR. -/
def createQpBody (c : Cmd) (s : State) : State × Did :=
  match namedCourt s c (fld c.pb 28 1) with
  | none => failWith s stInvalidQueue
  | some court =>
    if !createQpOk c.pb ∨ (queueOf s ⟨court, fld c.pb 0 1⟩).isSome then failWith s stInvalidField
    else
      let q := newQueue c.via (fld c.pb 2 2 + 1) (fld c.pb 4 2 + 1) (fld c.pb 8 8) (fld c.pb 16 8)
        (bit (fld c.pb 1 1) 0) (fld c.pb 6 2) (fld c.pb 24 2) (fld c.pb 26 2)
      ({ s with cmd.queues := tblSet s.cmd.queues (qKey ⟨court, fld c.pb 0 1⟩) q }, .fin (finSt stSuccess))

/-- CREATE_QUEUE_PAIR (R195). -/
def execCreateQueuePair (q : QId) (cid : Nat) (s : State) : Res :=
  .next (runCmd opCreateQueuePair q cid (fun _ => 32) [(29, 3)] createQpBody s)

/-- Replaces the event ring of a key and reposts what the old one held unconsumed (R195). -/
def setEventRing (key : Nat) (via : FnId) (depth vec base : Nat) (s : State) : State :=
  let old := tblGet s.cmd.eventRings key
  let r : EventRing := { via := via, base := base, depth := depth, vector := vec, head := 0, wr := 0, phase := true,
                         seq := 0, dropped := (old.map (·.dropped)).getD 0, live := [] }
  let s := { s with cmd.eventRings := tblSet s.cmd.eventRings key r }
  ((old.map (·.live)).getD []).foldl (fun s e => putEvent key e.1 s.sq.time e.2.2 s) s

/-- Milliseconds of Square time. -/
abbrev msUnits : Nat := 100000

/-- The 64 bytes of an assist record (R210); a long request lies in the data area at the address given. -/
def assistBytes (r : AssistRec) (phase : Bool) (left : Nat) (ext : Option Nat) : List Byte :=
  natLe 4 r.id ++ natLe 1 r.func ++ natLe 1 (b2n phase + 2 * b2n ext.isSome) ++ natLe 1 r.row ++ [0#8] ++
  natLe 4 left ++ natLe 4 r.data.length ++
  (match ext with
    | none => padTo 48 r.data
    | some a => padTo 48 (natLe 8 a ++ natLe 8 r.data.length))

/-- The decisions whose record always has EXT set (09 R318, R319; 10 R333, R350). -/
def extAlways : AssistPurpose → Bool
  | .homes _ => true
  | .clip _ => true
  | .update _ => true
  | .resync _ => true
  | _ => false

/-- Writes one waiting assist record into its ring when there is room (R210). -/
def putAssist (key : Nat) (r : AssistRec) (s : State) : State :=
  match tblGet s.cmd.assistRings key with
  | none => s
  | some g =>
    if g.depth ≤ ringUsed g.depth g.head g.wr + 1 then s
    else
      let long := decide (48 < r.data.length) || extAlways r.purpose
      let at_ := if g.dataAt + r.data.length ≤ g.dataBytes then g.dataAt else 0
      let ext := if long then some (g.dataBase + at_) else none
      let s := if long then hostWrite g.via (g.dataBase + at_) r.data s else s
      let left := (r.deadline - s.sq.time) / msUnits
      let s := hostWrite g.via (g.base + 64 * g.wr) (assistBytes r g.phase left ext) s
      let wr := (g.wr + 1) % g.depth
      let g' := { g with wr := wr, phase := if wr = 0 then !g.phase else g.phase,
                         dataAt := if long then roundUp (at_ + r.data.length) 64 else g.dataAt,
                         live := g.live ++ [{ r with posted := true }] }
      let s := { s with
        cmd.assistRings := tblSet s.cmd.assistRings key g'
        cmd.assists := s.cmd.assists.map (fun a => if a.id = r.id ∧ a.row = r.row then { a with posted := true } else a) }
      raiseMsix g.via g.vector s

/-- The ring of a function mode row: the Court's ring on H0 or else H1, or the ring of the PF that holds the admin
queue pair (R210). -/
def assistKey (s : State) (row : Nat) : Option Nat :=
  if row = 16 then
    match queueOf s ⟨16, 0⟩ with
    | none => none
    | some t => if (tblGet s.cmd.assistRings (ringKey t.via.port 16)).isSome then some (ringKey t.via.port 16) else none
  else if (tblGet s.cmd.assistRings (ringKey 0 row)).isSome then some (ringKey 0 row)
  else if (tblGet s.cmd.assistRings (ringKey 1 row)).isSome then some (ringKey 1 row) else none

/-- Posts the waiting records of a row, oldest first, as far as there is room (R210). -/
def pumpAssists (row : Nat) (s : State) : State :=
  match assistKey s row with
  | none => s
  | some k => (s.cmd.assists.filter (fun a => a.row == row && !a.posted)).foldl (fun s a => putAssist k a s) s

/-- The assist deadline of a function in a row, in ms (R211). -/
def assistDeadline (s : State) (row func : Nat) : Nat :=
  let d := (tblGetD s.cmd.modeDeadlines row []).getD func 0
  if d = 0 then 100 else d

/-- Posts a decision to the host; false, with a NO_ASSIST_RING record, where the row has no ring, and the caller then
applies the outcome of a missing reply (R210, R212). -/
def askHost (row func : Nat) (data plain : List Byte) (purpose : AssistPurpose) (s : State) : Bool × State :=
  match assistKey s row with
  | none =>
    (false, postQueueFault (queueFaultRec 0x04 ⟨0, 0⟩ row 0xFF 0 0 func 0 1) row s)
  | some k =>
    let id := ((tblGet s.cmd.assistRings k).map (·.nextId)).getD 0
    let r : AssistRec := { id := id, func := func, row := row, data := data, plain := plain, posted := false, purpose := purpose,
                           deadline := s.sq.time + assistDeadline s row func * msUnits }
    let s := { s with cmd.assistRings := tblModify s.cmd.assistRings k (fun g => { g with nextId := (g.nextId + 1) % 2 ^ 32 })
                      cmd.assists := s.cmd.assists ++ [r] }
    (true, pumpAssists row s)

/-- The mode entry of a row holds a function in host-assisted mode (R211). -/
def modeBit (s : State) (row func : Nat) : Bool := bit (tblGetD s.cmd.modes row 0) func

/-- Replaces the assist ring of a key and reposts what the old one held unconsumed (R195). -/
def setAssistRing (key : Nat) (via : FnId) (depth vec base dbase dbytes : Nat) (s : State) : State :=
  let old := tblGet s.cmd.assistRings key
  let r : AssistRing := { via := via, base := base, depth := depth, vector := vec, dataBase := dbase, dataBytes := dbytes,
                          head := 0, wr := 0, phase := true, nextId := (old.map (·.nextId)).getD 0, dataAt := 0, live := [] }
  let s := { s with cmd.assistRings := tblSet s.cmd.assistRings key r }
  let s := ((old.map (·.live)).getD []).foldl (fun s a => putAssist key a s) s
  pumpAssists (key % 17) s

/-- The field checks of SET_RING (R195). -/
def setRingOk (pb : List Byte) : Bool :=
  decide (fld pb 0 1 ≤ 1) && decide (63 ≤ fld pb 2 2) && decide (fld pb 4 2 ≤ 63) && fld pb 8 8 % 4096 == 0 &&
  (if fld pb 0 1 = 0 then fld pb 16 8 == 0 else fld pb 16 8 % 64 == 0)

/-- Effect of SET_RING. -/
def setRingBody (c : Cmd) (s : State) : State × Did :=
  if !setRingOk c.pb then failWith s stInvalidField
  else
    let key := ringKey c.via.port c.q.owner
    let s := if fld c.pb 0 1 = 0 then setEventRing key c.via (fld c.pb 2 2 + 1) (fld c.pb 4 2) (fld c.pb 8 8) s
      else setAssistRing key c.via (fld c.pb 2 2 + 1) (fld c.pb 4 2) (fld c.pb 8 8) (fld c.pb 16 8) (fld c.pb 24 8) s
    (s, .fin (finSt stSuccess))

/-- SET_RING (R195). -/
def execSetRing (q : QId) (cid : Nat) (s : State) : Res :=
  .next (runCmd opSetRing q cid (fun _ => 32) [(1, 1), (6, 2)] setRingBody s)

/-! ### SET_FUNCTION_MODE (R211) -/

/-- The ten deadlines of a SET_FUNCTION_MODE block. -/
def modeDeadlinesOf (pb : List Byte) : List Nat := (List.range 10).map (fun i => fld pb (4 + 2 * i) 2)

/-- Effect of SET_FUNCTION_MODE; MARGIN is read-only in a Court row. -/
def setModeBody (c : Cmd) (s : State) : State × Did :=
  let row := fld c.pb 0 1
  let m := fld c.pb 2 2
  let dl := modeDeadlinesOf c.pb
  if 16 < row ∨ 1024 ≤ m ∨ !(dl.all (fun d => decide (d ≤ 60000))) then failWith s stInvalidField
  else
    let m := if row = 16 then m else m &&& 0x2FF
    ({ s with cmd.modes := tblSet s.cmd.modes row m, cmd.modeDeadlines := tblSet s.cmd.modeDeadlines row dl },
      .fin (finSt stSuccess))

/-- SET_FUNCTION_MODE (R211). -/
def execSetFunctionMode (q : QId) (cid : Nat) (s : State) : Res :=
  .next (runCmd opSetFunctionMode q cid (fun _ => 24) [(1, 1)] setModeBody s)

/-! ### INVALID_OPCODE_COMMAND (R192) -/

/-- A fetched command whose opcode the table lacks completes with INVALID_OPCODE (R192). -/
def execInvalidOpcodeCommand (q : QId) (cid : Nat) (s : State) : Res :=
  .next (match findCmd s q cid with
    | none => s
    | some c =>
      if (opRow c.opcode).isNone ∧ s.sq.ready ∧ canStart s c then
        retire c (finSt (if ownerReady s c.q.owner then stInvalidOpcode else stCourtNotReady)) s
      else s)

/-! ### Doorbells (R178, R179) -/

/-- Counts an ignored doorbell write and raises its record, at most one per function per second (R179, R209). -/
def doorbellFault (f : FnId) (owner qp : Nat) (s : State) : State :=
  match fnOf s f with
  | none => s
  | some h =>
    let s := modFn f (fun h => { h with doorbellFault := h.doorbellFault + 1 }) s
    match h.faultRec.1 with
    | some t =>
      if s.sq.time < t + 100000000 then modFn f (fun h => { h with faultRec := (h.faultRec.1, h.faultRec.2 + 1) }) s
      else
        postQueueFault (queueFaultRec 0x01 f owner qp 0 0 0 0 (h.faultRec.2 + 1)) owner
          (modFn f (fun h => { h with faultRec := (some s.sq.time, 0) }) s)
    | none =>
      postQueueFault (queueFaultRec 0x01 f owner qp 0 0 0 0 1) owner
        (modFn f (fun h => { h with faultRec := (some s.sq.time, 0) }) s)

/-- The write has a doorbell's form and an index below `depth` (R179). -/
def doorbellOk (w : DoorbellWrite) (depth : Nat) : Bool :=
  w.width == 4 && w.aligned && decide (w.value < 65536) && decide (w.value < depth)

/-- The head index lies between the device's head and its write position, both included (R179). -/
def headOk (depth head wr new : Nat) : Bool := decide (ringUsed depth head new ≤ ringUsed depth head wr)

/-- SQ_TAIL doorbell (R178, R179). -/
def execSqTailWrite (via : FnId) (q : QId) (wr : DoorbellWrite) (s : State) : Res :=
  .next (if !pageLive s via q.owner then s
    else match queueOf s q with
      | none => doorbellFault via q.owner q.qp s
      | some t =>
        if t.via ≠ via ∨ !doorbellOk wr t.sqDepth then doorbellFault via q.owner q.qp s
        else modQueue q (fun t => { t with sqTail := wr.value }) s)

/-- CQ_HEAD doorbell: releases completion slots, so that held completions are posted (R179, R187). -/
def execCqHeadWrite (via : FnId) (q : QId) (wr : DoorbellWrite) (s : State) : Res :=
  .next (if !pageLive s via q.owner then s
    else match queueOf s q with
      | none => doorbellFault via q.owner q.qp s
      | some t =>
        if t.via ≠ via ∨ !doorbellOk wr t.cqDepth ∨ !headOk t.cqDepth t.cqHead t.cqWr wr.value then
          doorbellFault via q.owner q.qp s
        else drainAll (modQueue q (fun t => { t with cqHead := wr.value }) s))

/-- ASSIST_HEAD doorbell: releases slots, so that waiting records are posted (R178, R210). -/
def execAssistHeadWrite (via : FnId) (owner : Nat) (wr : DoorbellWrite) (s : State) : Res :=
  let key := ringKey via.port owner
  .next (if !pageLive s via owner then s
    else match tblGet s.cmd.assistRings key with
      | none => doorbellFault via owner 0xFF s
      | some r =>
        if r.via ≠ via ∨ !doorbellOk wr r.depth ∨ !headOk r.depth r.head r.wr wr.value then doorbellFault via owner 0xFF s
        else
          let r' := { r with head := wr.value, live := r.live.drop (ringUsed r.depth r.head wr.value) }
          pumpAssists owner { s with cmd.assistRings := tblSet s.cmd.assistRings key r' })

/-- EVENT_HEAD doorbell: releases event ring slots (R178). -/
def execEventHeadWrite (via : FnId) (owner : Nat) (wr : DoorbellWrite) (s : State) : Res :=
  let key := ringKey via.port owner
  .next (if !pageLive s via owner then s
    else match tblGet s.cmd.eventRings key with
      | none => doorbellFault via owner 0xFF s
      | some r =>
        if r.via ≠ via ∨ !doorbellOk wr r.depth ∨ !headOk r.depth r.head r.wr wr.value then doorbellFault via owner 0xFF s
        else
          let r' := { r with head := wr.value, live := r.live.drop (ringUsed r.depth r.head wr.value) }
          { s with cmd.eventRings := tblSet s.cmd.eventRings key r' })

/-! ### The control window (R181, R182) -/

/-- On a virtual function, the Court it serves takes the bootstrap pair (R182). -/
def bootCourtOk (s : State) (f : FnId) : Bool :=
  f.fn == 0 || (match courtOf s (f.fn - 1) with
    | some c => (c.state == .ready || c.state == .resetting) && serviceOn c f.port == 2
    | none => false)

/-- ENABLE meets none of the cases that set CONFIG_ERROR (R182). -/
def bootOk (s : State) (f : FnId) (h : HostFn) : Bool :=
  h.q0SqBase % 4096 == 0 && h.q0CqBase % 4096 == 0 && decide (1 ≤ bits h.q0Size 15 0) && decide (1 ≤ bits h.q0Size 31 16) &&
  (queueOf s (bootQ f)).isNone && bootCourtOk s f

/-- Q0_CTRL.ENABLE from 0 to 1 (R182). -/
def execQ0Enable (via : FnId) (value : Nat) (s : State) : Res :=
  .next (match fnOf s via with
    | none => s
    | some h =>
      if s.sq.stage ≠ 0xFF ∨ !h.enabled ∨ bit h.q0Ctrl 0 ∨ !bit value 0 then s
      else
        let s := modFn via (fun h => { h with q0Ctrl := value % 2 ^ 32, q0Error := false }) s
        if bootOk s via h then
          let t := newQueue via (bits h.q0Size 15 0 + 1) (bits h.q0Size 31 16 + 1) h.q0SqBase h.q0CqBase
            (bit value 1) (bits value 7 2) 0 0
          modFn via (fun h => { h with q0Ready := true })
            { s with cmd.queues := tblSet s.cmd.queues (qKey (bootQ via)) t }
        else modFn via (fun h => { h with q0Error := true }) s)

/-- A change of IRQ_EN or VECTOR with ENABLE unchanged takes effect at once while READY is set (R182). -/
def execQ0IrqConfig (via : FnId) (value : Nat) (s : State) : Res :=
  .next (match fnOf s via with
    | none => s
    | some h =>
      if s.sq.stage ≠ 0xFF ∨ !h.enabled ∨ bit h.q0Ctrl 0 ≠ bit value 0 then s
      else
        let s := modFn via (fun h => { h with q0Ctrl := value % 2 ^ 32 }) s
        if h.q0Ready then modQueue (bootQ via) (fun t => { t with irqEn := bit value 1, vector := bits value 7 2 }) s
        else s)

/-- A 4- or 8-byte write into an 8-byte register: its new value, none where the write is ignored (R181). -/
def write64 (old off reg width value : Nat) : Option Nat :=
  if width = 8 ∧ off = reg then some (value % 2 ^ 64)
  else if width = 4 ∧ off = reg then some (old / 2 ^ 32 * 2 ^ 32 + value % 2 ^ 32)
  else if width = 4 ∧ off = reg + 4 then some (old % 2 ^ 32 + value % 2 ^ 32 * 2 ^ 32)
  else none

/-- A write to the bootstrap bases and sizes; every other write is ignored (R181, R182). -/
def execControlWindowWrite (via : FnId) (off width value : Nat) (s : State) : Res :=
  .next (match fnOf s via with
    | none => s
    | some h =>
      if s.sq.stage ≠ 0xFF ∨ !h.enabled ∨ h.q0Ready then s
      else match write64 h.q0SqBase off 0x018 width value with
        | some v => modFn via (fun h => { h with q0SqBase := v }) s
        | none => match write64 h.q0CqBase off 0x020 width value with
          | some v => modFn via (fun h => { h with q0CqBase := v }) s
          | none =>
            if off = 0x028 ∧ width = 4 then modFn via (fun h => { h with q0Size := value % 2 ^ 32 }) s else s)

/-- Unmasking an MSI-X vector raises it when its pending bit is set (12 R399). -/
def execMsixUnmask (via : FnId) (vector : Nat) (s : State) : Res :=
  .next (match fnOf s via with
    | none => s
    | some h =>
      if 63 < vector then s
      else
        let s := modFn via (fun h => { h with msixMask := h.msixMask &&& (2 ^ 64 - 1 - 2 ^ vector) }) s
        if bit h.msixPend vector ∧ fnWrites s via then
          emit (.msix via vector) (modFn via (fun h => { h with msixPend := h.msixPend &&& (2 ^ 64 - 1 - 2 ^ vector) }) s)
        else s)

/-! ### Fetch and coalescing (R184, R189, R191) -/

/-- Unretired commands of a queue that count toward the limits. -/
def countedOn (s : State) (q : QId) : Nat := (s.cmd.cmds.filter (fun c => c.q == q && !c.uncounted)).length
/-- Unretired commands of an owner that count toward the limits. -/
def countedOf (s : State) (owner : Nat) : Nat := (s.cmd.cmds.filter (fun c => c.q.owner == owner && !c.uncounted)).length

/-- The limits on fetched, unretired commands leave room (R189). -/
def fetchRoom (s : State) (q : QId) : Bool :=
  decide (countedOn s q < 256) && decide (countedOf s q.owner < (if q.owner = 16 then 256 else 4096))

/-- A warm activation has stopped fetching on every queue (16 R515). -/
def warming (s : State) : Bool := match s.sq.act with
  | some a => a.phase == .warming
  | none => false

/-- The device may fetch from the queue now (R180, R189; 12 R402, R403). -/
def mayFetch (s : State) (q : QId) (t : Queue) : Bool :=
  s.sq.ready && !s.sq.takeover && !warming s && !t.stopped && !t.deleting && t.sqHead != t.sqTail && fetchRoom s q && fnWrites s t.via

/-- PB_ADDR and INLINE are as R184 asks. -/
def entryFormOk (e : List Byte) : Bool :=
  let n := fld e 12 4
  if n ≤ 40 then fld e 16 8 == 0 && zeroFld e (24 + n) (40 - n) else fld e 16 8 % 64 == 0 && zeroFld e 24 40

/-- The command of an entry and its parameter block (R184, R185). -/
def cmdOf (q : QId) (t : Queue) (now : Nat) (e pb : List Byte) : Cmd :=
  let n := fld e 12 4
  { q := q, cid := fld e 2 2, opcode := fld e 0 2, flags := fld e 4 2, rsvd := fld e 6 2, deadlineMs := fld e 8 4,
    fetchedAt := now, pbLength := n, entryOk := entryFormOk e,
    pb := if n ≤ 40 then slice e 24 n else if n ≤ 262144 then padTo n pb else [],
    via := t.via, started := false, progress := 0, interimLost := false, snap := 0,
    uncounted := false, kt := 0, work := [] }

/-- Fetch count a target queue must reach before an ABORT searches it (R203). -/
def abortSnap (s : State) (q : QId) (target : Nat) : Nat :=
  match queueOf s ⟨q.owner, if q.owner = 16 then 0 else target⟩ with
  | none => 0
  | some t => t.fetched + ringUsed t.sqDepth t.sqHead t.sqTail

/-- A duplicate CID fails at fetch; the earlier command is unaffected (R189). -/
def rejectDuplicate (c : Cmd) (s : State) : State :=
  let seq := nextSeq s c.q.owner
  let s := { s with cmd.retireSeq := tblSet s.cmd.retireSeq c.q.owner seq }
  postCompl c.q ⟨c.cid, stDuplicateCid, true, bit c.flags 1, 0, c.opcode, seq, zeros 16, none⟩ s

/-- A failed fetch of an entry: the queue stops until it is deleted, and a FETCH_FAILED record names it (R209; 12 R403). -/
def fetchFailed (q : QId) (t : Queue) (s : State) : State :=
  postQueueFault (queueFaultRec 0x02 t.via q.owner q.qp 0 0 0 0 1) q.owner (modQueue q (fun t => { t with stopped := true }) s)

/-- The device fetches the next entry of a queue, with the parameter block it reads (R184, R185, R189). -/
def execCommandFetch (q : QId) (entry pb : List Byte) (s : State) : Res :=
  .next (match queueOf s q with
    | none => s
    | some t =>
      if !mayFetch s q t ∨ entry.length ≠ 64 then s
      else if ideEnded s t.via then fetchFailed q t s
      else
        let c := cmdOf q t s.sq.time entry pb
        let s := modQueue q (fun t => { t with sqHead := (t.sqHead + 1) % t.sqDepth, fetched := t.fetched + 1 }) s
        if (findCmd s q c.cid).isSome then rejectDuplicate c s
        else
          let c := if c.opcode = opAbort then { c with snap := abortSnap s q (fld c.pb 0 1) } else c
          { s with cmd.cmds := s.cmd.cmds ++ [c] })

/-- COALESCE_US after the first unsignalled entry the vector is raised (R191). -/
def execCoalesceTimerExpiry (q : QId) (s : State) : Res :=
  .next (match queueOf s q with
    | none => s
    | some t => match t.firstUnsig with
      | none => s
      | some t0 =>
        if s.sq.time < t0 + t.coalUs * 100 then s
        else raiseMsix t.via t.vector (modQueue q (fun t => { t with unsignalled := 0, firstUnsig := none }) s))

end Sys2Proof.Machine
end

