-- ==== Sys2Proof/Machine/Sha.lean ====
section
/-! DEFINITION. SHA-256, HMAC-SHA-256 and the key derivation of spec/14_security_and_attestation.md R444.
PRESUMED: SHA-256 is FIPS 180-4 and HMAC is FIPS 198-1, which the spec only names (assumption 21). -/

namespace Sys2Proof.Machine

/-- The SHA-256 round constants. -/
def shaK : List Nat := [
  0x428a2f98, 0x71374491, 0xb5c0fbcf, 0xe9b5dba5, 0x3956c25b, 0x59f111f1, 0x923f82a4, 0xab1c5ed5,
  0xd807aa98, 0x12835b01, 0x243185be, 0x550c7dc3, 0x72be5d74, 0x80deb1fe, 0x9bdc06a7, 0xc19bf174,
  0xe49b69c1, 0xefbe4786, 0x0fc19dc6, 0x240ca1cc, 0x2de92c6f, 0x4a7484aa, 0x5cb0a9dc, 0x76f988da,
  0x983e5152, 0xa831c66d, 0xb00327c8, 0xbf597fc7, 0xc6e00bf3, 0xd5a79147, 0x06ca6351, 0x14292967,
  0x27b70a85, 0x2e1b2138, 0x4d2c6dfc, 0x53380d13, 0x650a7354, 0x766a0abb, 0x81c2c92e, 0x92722c85,
  0xa2bfe8a1, 0xa81a664b, 0xc24b8b70, 0xc76c51a3, 0xd192e819, 0xd6990624, 0xf40e3585, 0x106aa070,
  0x19a4c116, 0x1e376c08, 0x2748774c, 0x34b0bcb5, 0x391c0cb3, 0x4ed8aa4a, 0x5b9cca4f, 0x682e6ff3,
  0x748f82ee, 0x78a5636f, 0x84c87814, 0x8cc70208, 0x90befffa, 0xa4506ceb, 0xbef9a3f7, 0xc67178f2]

/-- Rotation right of a 32-bit word. -/
def rotr (x n : Nat) : Nat := (x >>> n) ||| (x <<< (32 - n)) % 2 ^ 32

/-- The working variables of SHA-256. -/
structure ShaH where
  a : Nat
  b : Nat
  c : Nat
  d : Nat
  e : Nat
  f : Nat
  g : Nat
  h : Nat

/-- The initial hash value. -/
def shaInit : ShaH :=
  ⟨0x6a09e667, 0xbb67ae85, 0x3c6ef372, 0xa54ff53a, 0x510e527f, 0x9b05688c, 0x1f83d9ab, 0x5be0cd19⟩

/-- Extends the message schedule, newest word first. -/
def shaSched : Nat → List Nat → List Nat
  | 0, w => w
  | n + 1, w =>
    let x := w.getD 14 0
    let y := w.getD 1 0
    let s0 := rotr x 7 ^^^ rotr x 18 ^^^ (x >>> 3)
    let s1 := rotr y 17 ^^^ rotr y 19 ^^^ (y >>> 10)
    shaSched n (((w.getD 15 0 + s0 + w.getD 6 0 + s1) % 2 ^ 32) :: w)

/-- The rounds over the schedule words and constants. -/
def shaRounds : List (Nat × Nat) → ShaH → ShaH
  | [], v => v
  | (w, k) :: t, v =>
    let s1 := rotr v.e 6 ^^^ rotr v.e 11 ^^^ rotr v.e 25
    let ch := (v.e &&& v.f) ^^^ ((2 ^ 32 - 1 - v.e) &&& v.g)
    let t1 := (v.h + s1 + ch + k + w) % 2 ^ 32
    let s0 := rotr v.a 2 ^^^ rotr v.a 13 ^^^ rotr v.a 22
    let mj := (v.a &&& v.b) ^^^ (v.a &&& v.c) ^^^ (v.b &&& v.c)
    shaRounds t ⟨(t1 + s0 + mj) % 2 ^ 32, v.a, v.b, v.c, (v.d + t1) % 2 ^ 32, v.e, v.f, v.g⟩

/-- One 64-byte block. -/
def shaBlock (v : ShaH) (blk : List Byte) : ShaH :=
  let w0 := (List.range 16).map (fun i => beNat (slice blk (4 * i) 4))
  let r := shaRounds (((shaSched 48 w0.reverse).reverse).zip shaK) v
  let p (x y : Nat) := (x + y) % 2 ^ 32
  ⟨p v.a r.a, p v.b r.b, p v.c r.c, p v.d r.d, p v.e r.e, p v.f r.f, p v.g r.g, p v.h r.h⟩

/-- SHA-256 of a byte string. -/
def sha256 (m : List Byte) : List Byte :=
  let pad := [0x80#8] ++ zeros ((119 - m.length % 64) % 64) ++ natBe 8 (8 * m.length)
  let bs := chunks 64 (m.length / 64 + 2) (m ++ pad)
  let v := bs.foldl shaBlock shaInit
  natBe 4 v.a ++ natBe 4 v.b ++ natBe 4 v.c ++ natBe 4 v.d ++ natBe 4 v.e ++ natBe 4 v.f ++ natBe 4 v.g ++ natBe 4 v.h

/-- HMAC-SHA-256. -/
def hmac (key m : List Byte) : List Byte :=
  let k := padTo 64 (if 64 < key.length then sha256 key else key)
  sha256 (k.map (fun b => b ^^^ 0x5C#8) ++ sha256 (k.map (fun b => b ^^^ 0x36#8) ++ m))

/-- The bytes of an ASCII label. -/
def ascii (l : String) : List Byte := l.toList.map (fun c => BitVec.ofNat 8 c.toNat)

/-- KDF(K, label, context) (R444). -/
def kdf (k : List Byte) (label : String) (ctx : List Byte) : List Byte :=
  hmac k (natBe 4 1 ++ ascii label ++ [0#8] ++ ctx ++ natBe 4 0x100)

end Sys2Proof.Machine
end

