-- ==== Sys2Proof/Machine/Watch.lean ====
section
/-! DEFINITION. The Watch: random draws, identity and boot attestation keys, Court keys, sealed objects and security
records (spec/14_security_and_attestation.md R444 to R455, R463, R474). -/

namespace Sys2Proof.Machine

/-! ### Random draws and keys (R444 to R446) -/

/-- RBG(n) and the state after the draw (R444). -/
def draw (n : Nat) (s : State) : List Byte × State :=
  (padTo n (Config.rbg s.sec.rbg n), { s with sec.rbg := s.sec.rbg + 1 })

/-- The 48 bytes from which the identity key pair is made (R446). -/
def idSeed : List Byte := kdf Config.drs "ralio-identity" [0#8] ++ (kdf Config.drs "ralio-identity" [1#8]).take 16

/-- The identity public key (R446). -/
def idPk : List Byte := padTo 32 (Config.slhPublic idSeed)

/-- IDENTITY_KEY_HASH (R463). -/
def idHash : List Byte := sha256 idPk

/-- An SLH-DSA-SHA2-128s signature, 7 856 bytes (R463). -/
def slhSig (seed m : List Byte) : List Byte := padTo 7856 (Config.slhSign seed m)

/-- The measurements of a firmware image in TYPE order: boot ROM, first stage, Square firmware, microcode (R466). -/
def fwMeasure (f : FwImage) : List (List Byte) := [padTo 32 Config.bootRom, f.first.hash, f.square.hash, f.micro.hash]

/-- Makes the boot attestation key at power-on (R446, R463). -/
def makeBak (f : FwImage) (s : State) : State :=
  let a := draw 48 s
  let b := draw 16 a.2
  { b.2 with sec.bak := some ⟨a.1, padTo 32 (Config.slhPublic a.1), b.1, sha256 (fwMeasure f).flatten⟩ }

/-- The BAK certificate: 128 bytes signed by the identity key (R463). -/
def bakCert (b : Bak) : List Byte :=
  let c := natLe 4 0x434B4255 ++ natLe 2 1 ++ zeros 2 ++ padTo 16 b.nonce ++ idHash ++ padTo 32 b.pk ++ padTo 32 b.meas ++ zeros 8
  c ++ slhSig idSeed c

/-- The identity certificate, 7 984 bytes (R463). -/
def idCert : List Byte := padTo 7984 Config.idCert

/-- COURT_EPOCH of a Court (R446). -/
def epochOf (s : State) (c : Nat) : Nat := tblGetD s.sec.epochs c 0

/-- The keys of a Court. -/
def keysOf (s : State) (c : Nat) : Option CourtKeys := tblGet s.sec.courts c

/-- Destroys every key of a Court (R446, R473). -/
def destroyKeys (c : Nat) (s : State) : State := { s with sec.courts := tblErase s.sec.courts c }

/-- A fresh Court seed and KEM key pair, with COURT_EPOCH increased by 1 (R446). -/
def freshKeys (c : Nat) (s : State) : State :=
  let a := draw 32 s
  let b := draw 64 a.2
  let kem := Config.kemKeys b.1
  { b.2 with
    sec.epochs := tblSet b.2.sec.epochs c ((epochOf b.2 c + 1) % 2 ^ 32)
    sec.courts := tblSet b.2.sec.courts c ⟨a.1, padTo 1568 kem.1, kem.2, none, none, 0, [], 0⟩ }

/-- The cold key of a Court (R446). -/
def coldKey (c : Nat) (k : CourtKeys) : List Byte := kdf k.seed "ralio-cold" (natLe 1 c)

/-- The transport key of an installation number (R451). -/
def transportKey (s : State) (c id : Nat) : Option TransportKey :=
  match keysOf s c with
  | none => none
  | some k => match k.cur.filter (fun t => t.id == id) with
    | some t => some t
    | none => k.old.filter (fun t => t.id == id)

/-- Changes a transport key. -/
def modTransport (c id : Nat) (f : TransportKey → TransportKey) (s : State) : State :=
  let g := fun (t : TransportKey) => if t.id = id then f t else t
  { s with sec.courts := tblModify s.sec.courts c (fun k => { k with cur := k.cur.map g, old := k.old.map g }) }

/-- A weight or group key of a Court. -/
def ownerKey (s : State) (c id : Nat) (group : Bool) : Option (List Byte) :=
  match keysOf s c with
  | none => none
  | some k => (k.keys.find? (fun w => w.id == id && w.group == group)).map (·.key)

/-! ### Security records (R474) -/

/-- The 48 bytes of a security event record. -/
def secRecBytes (type court die av epoch count detail : Nat) : List Byte :=
  natLe 1 type ++ natLe 1 (if court < 16 then court else 0xFF) ++ natLe 1 die ++ natLe 1 av ++ natLe 4 epoch ++
  natLe 4 count ++ zeros 4 ++ natLe 8 detail ++ zeros 24

/-- Posts a security record, with the Court copy of types 0x01 to 0x04 (R474). -/
def postSec (type court die av count detail : Nat) (s : State) : State :=
  let r := secRecBytes type court die av (if court < 16 then epochOf s court else 0) count detail
  let s := postEvent 16 0x05 r s
  if type ≤ 4 ∧ court < 16 then postEvent court 0x05 r s else s

/-- Posts a record of type 0x04 or 0x06: at most one per Court per second (R474). -/
def postSecLimited (type court die av detail : Nat) (s : State) : State :=
  let key := type * 17 + min court 16
  let post (n : Nat) (s : State) : State :=
    postSec type court die av n detail { s with sec.limits := tblSet s.sec.limits key (s.sq.time, 0) }
  match tblGet s.sec.limits key with
  | none => post 1 s
  | some (t, n) =>
    if s.sq.time < t + 100000000 then { s with sec.limits := tblSet s.sec.limits key (t, n + 1) }
    else post (n + 1) s

/-- SEAL_FAIL of a sealed object (R455, R474). -/
def sealFail (court purpose chunk : Nat) (s : State) : State :=
  postSecLimited 0x04 court 0xFF 0xFF (purpose + 2 ^ 32 * chunk) s

/-! ### Sealed objects (R452 to R455) -/

/-- PURPOSE DATA (R454). -/
abbrev sealData : Nat := 1
/-- PURPOSE PROMPT (R454). -/
abbrev sealPrompt : Nat := 2
/-- PURPOSE CHECKPOINT (R454). -/
abbrev sealCheckpoint : Nat := 3
/-- PURPOSE ASSIST (R454). -/
abbrev sealAssist : Nat := 4
/-- PURPOSE PACKAGE (R454). -/
abbrev sealPackage : Nat := 5
/-- PURPOSE COLD (R454). -/
abbrev sealCold : Nat := 6
/-- PURPOSE IMAGE (R454). -/
abbrev sealImage : Nat := 7

/-- Bytes of a sealed object of `n` plaintext bytes (R452). -/
def sealedLen (n : Nat) : Nat := 64 + n + 16 * ceilDiv n 4096

/-- The label of a purpose (R454). -/
def sealLabel (purpose : Nat) : String :=
  if purpose = sealCold then "ralio-cold-seal" else if purpose = sealImage then "ralio-image" else "ralio-seal"

/-- The 64-byte header of a sealed object (R452). -/
def sealHeader (purpose court seq : Nat) (nonce : List Byte) (len binding : Nat) : List Byte :=
  natLe 4 0x4C455355 ++ natLe 1 1 ++ natLe 1 purpose ++ natLe 1 court ++ [0#8] ++ natLe 8 seq ++ padTo 16 nonce ++
  natLe 8 len ++ natLe 8 binding ++ zeros 16

/-- Seals a plaintext under key `k` (R452, R453). -/
def sealObject (k : List Byte) (purpose court seq : Nat) (nonce : List Byte) (binding : Nat) (plain : List Byte) :
    List Byte :=
  let h := sealHeader purpose court seq nonce plain.length binding
  let sk := kdf k (sealLabel purpose) (padTo 16 nonce)
  h ++ ((chunks 4096 (plain.length / 4096 + 1) plain).zipIdx.map (fun c =>
    let r := Config.gcmSeal sk (natLe 8 seq ++ natLe 4 c.2) (h.take 48) c.1
    padTo c.1.length r.1 ++ padTo 16 r.2)).flatten

/-- What opening a sealed object gives: the plaintext of the chunks before the first that fails, and that chunk. -/
structure Opened where
  plain : List Byte
  fail : Option Nat
  deriving DecidableEq, Repr

/-- Opens chunks from number `i` on, as long as they authenticate (R455). -/
def openChunks (sk aad : List Byte) (seq : Nat) : Nat → Nat → Nat → List Byte → Opened
  | 0, _, _, _ => ⟨[], none⟩
  | n + 1, i, left, b =>
    let k := min left 4096
    match Config.gcmOpen sk (natLe 8 seq ++ natLe 4 i) aad (slice b 0 k) (slice b k 16) with
    | none => ⟨[], some i⟩
    | some p =>
      let r := openChunks sk aad seq n (i + 1) (left - k) (b.drop (k + 16))
      ⟨padTo k p ++ r.plain, r.fail⟩

/-- The header names the purpose, Court and binding that the use asks (R454). -/
def sealHeaderOk (o : List Byte) (purpose court binding : Nat) : Bool :=
  fld o 0 4 == 0x4C455355 && fld o 4 1 == 1 && fld o 5 1 == purpose && fld o 6 1 == court && fld o 7 1 == 0 &&
  fld o 40 8 == binding && zeroFld o 48 16 && decide (1 ≤ fld o 32 8) && decide (sealedLen (fld o 32 8) ≤ o.length)

/-- Opens a sealed object under key `k` (R453 to R455). -/
def openObject (k o : List Byte) (purpose court binding : Nat) : Opened :=
  if !sealHeaderOk o purpose court binding then ⟨[], some 0⟩
  else
    let n := fld o 32 8
    openChunks (kdf k (sealLabel purpose) (slice o 16 16)) (o.take 48) (fld o 8 8) (ceilDiv n 4096) 0 n (o.drop 64)

/-- Opens an object the host wrote under the transport key a command is bound to (R451). -/
def openHost (s : State) (c kt : Nat) (o : List Byte) (purpose binding : Nat) : Opened :=
  match transportKey s c kt with
  | none => ⟨[], some 0⟩
  | some t => openObject t.key o purpose c binding

/-- Seals what the device writes under the transport key a command is bound to (R453). -/
def sealHost (c kt purpose binding : Nat) (plain : List Byte) (s : State) : List Byte × State :=
  match transportKey s c kt with
  | none => ([], s)
  | some t =>
    (sealObject t.key purpose c t.sealSeq t.nonce binding plain,
     modTransport c kt (fun t => { t with sealSeq := t.sealSeq + 1 }) s)

/-- Seals what a confidential Court puts into a cold or parking location under its cold key (R454). -/
def sealColdObj (c binding : Nat) (plain : List Byte) (s : State) : List Byte × State :=
  match keysOf s c with
  | none => ([], s)
  | some k =>
    let n := draw 16 s
    (sealObject (coldKey c k) sealCold c k.coldSeq n.1 binding plain,
     { n.2 with sec.courts := tblModify n.2.sec.courts c (fun k => { k with coldSeq := k.coldSeq + 1 }) })

/-- Opens what came back from a cold or parking location (R454). -/
def openColdObj (s : State) (c : Nat) (o : List Byte) (binding : Nat) : Opened :=
  match keysOf s c with
  | none => ⟨[], some 0⟩
  | some k => openObject (coldKey c k) o sealCold c binding

/-- The Court is confidential. -/
def confCourt (s : State) (c : Nat) : Bool := match courtOf s c with
  | none => false
  | some k => k.conf

/-- Posts a decision to the host, its request sealed where the row is a confidential Court (R442, R454). -/
def ask (row func : Nat) (data : List Byte) (purpose : AssistPurpose) (s : State) : Bool × State :=
  if confCourt s row then
    let id := match assistKey s row with
      | none => 0
      | some k => ((tblGet s.cmd.assistRings k).map (·.nextId)).getD 0
    let r := sealHost row (curKey s row) sealAssist (id + 2 ^ 32 * func) data s
    askHost row func r.1 data purpose r.2
  else askHost row func data data purpose s

/-- Some Court is confidential (R442). -/
def anyConf (s : State) : Bool := s.courts.any (fun p => p.2.conf)

end Sys2Proof.Machine
end

