-- ==== Sys2Proof/Machine/Ageing.lean ====
section
/-! DEFINITION. The Survey's measurements and margin plan, spare swap and retirement, Roadworks, faults found in
service, and the availability counts (spec/15_ageing_and_self_test.md). -/

namespace Sys2Proof.Machine

/-! ### Blocks of a die (01 R29) -/

/-- Hours of Square time. -/
abbrev hourUnits : Nat := 360000000000
/-- Minutes of Square time. -/
abbrev minUnits : Nat := 6000000000
/-- Seconds of Square time. -/
abbrev secUnits : Nat := 100000000

/-- The 18 physical Blocks of a die by local number (01 R29). -/
def dieBlocks (n : Nat) : List Nat := (List.range 16).map (fun k => 16 * n + k) ++ [256 + 2 * n, 257 + 2 * n]

/-- Local number of a physical Block (01 R29). -/
def localOf (b : Nat) : Nat := if b < 256 then b % 16 else 16 + b % 2

/-- The index records name for a physical Block: the one it serves or last served, or its spare index (R493, R496). -/
def recIndex (s : State) (b : Nat) : Nat := match tblGet s.blocks b with
  | some k => match k.role with
    | .active g => g
    | .retired g => g
    | .spare => b
  | none => 0xFFFF

/-- The Court whose Block set holds a global index. -/
def courtOfIndex (s : State) (g : Nat) : Option Nat := (s.courts.find? (fun p => p.2.blocks.contains g)).map (·.1)

/-- The Court of a physical Block, 16 for none. -/
def courtOfBlock (s : State) (b : Nat) : Nat := (courtOfIndex s (globalOf s b)).getD 16

/-- A compute die. -/
def dieState (s : State) (n : Nat) : Option Die := tblGet s.age.dies n

/-- Changes a compute die. -/
def modDie (n : Nat) (f : Die → Die) (s : State) : State := { s with age.dies := tblModify s.age.dies n f }

/-- Planned Block clock in MHz (R480). -/
def clockMhz (d : Die) : Nat := 1050 - 25 * d.clkSteps

/-! ### Records (R493, R494) -/

/-- What a Block or ageing record says. -/
structure AgeRec where
  type : Nat
  die : Nat
  court : Nat
  result : Nat
  index : Nat
  other : Nat
  urgent : Bool
  count : Nat
  detail : Nat
  deriving DecidableEq, Repr

/-- A record about a physical Block. -/
def blockRec (s : State) (type b result : Nat) : AgeRec :=
  ⟨type, dieOf b, courtOfBlock s b, result, recIndex s b, 0xFFFF, false, 1, 0⟩

/-- A record about a die. -/
def dieRec (type n : Nat) (urgent : Bool) : AgeRec := ⟨type, n, 16, 0, 0xFFFF, 0xFFFF, urgent, 1, 0⟩

/-- SLACK_PS: the slack in whole ps, rounded down or up where it is not whole (R493, R496). -/
def slackPs (s : State) (x : Int) : Nat :=
  ofSigned 16 (x / 1000 + (if x % 1000 = 0 then 0 else ((Config.freeNat s.free % 2 : Nat) : Int)))

/-- The 48 bytes of a Block or ageing record (R493). -/
def ageRecBytes (s : State) (r : AgeRec) : List Byte :=
  let d := (dieState s r.die)
  natLe 1 r.type ++ natLe 1 r.die ++ natLe 1 (if r.court < 16 then r.court else 0xFF) ++ natLe 1 r.result ++
  natLe 2 r.index ++ natLe 2 r.other ++ natLe 2 ((d.map (·.rail)).getD 0) ++ natLe 2 ((d.map clockMhz).getD 0) ++
  natLe 2 (slackPs s ((d.map (·.slack)).getD 0)) ++ natLe 1 ((d.map (·.replica)).getD 0xFF) ++ natLe 1 (b2n r.urgent) ++
  natLe 4 r.count ++ natLe 4 r.detail ++ zeros 24

/-- Posts a Block or ageing record; BLOCK_RETIRED and BLOCK_FAULT with a Court copy (R493). -/
def postAge (r : AgeRec) (s : State) : State :=
  let b := ageRecBytes s r
  let s := postEvent 16 0x02 b (bumpFree s)
  if (r.type = 0x05 ∨ r.type = 0x09) ∧ r.court < 16 then postEvent r.court 0x02 b s else s

/-- Posts a BLOCK_FAULT record: at most one per Block per second (R493). -/
def postBlockFault (b check : Nat) (s : State) : State :=
  match tblGet s.blocks b with
  | none => s
  | some k =>
    let post (n : Nat) : State := postAge { blockRec s 0x09 b check with count := n }
      (modBlock b (fun k => { k with faultLimit := some (s.sq.time, 0) }) s)
    match k.faultLimit with
    | none => post 1
    | some (t, n) =>
      if s.sq.time < t + secUnits then modBlock b (fun k => { k with faultLimit := some (t, n + 1) }) s else post (n + 1)

/-- The 48 bytes of a clock record (R494). -/
def clockRecBytes (type die : Nat) (ppm : Option Int) : List Byte :=
  natLe 1 type ++ natLe 1 die ++ zeros 2 ++
  natLe 4 (match ppm with
    | some p => ofSigned 32 p
    | none => 0x7FFFFFFF) ++ zeros 40

/-- Posts a clock record (R494). -/
def postClock (type die : Nat) (ppm : Option Int) (s : State) : State := postEvent 16 0x03 (clockRecBytes type die ppm) s

/-- The physical Block has left service for good (01 R30). -/
def gone (k : Block) : Bool := match k.role with
  | .retired _ => true
  | _ => false

/-! ### Slices under way (R486, R488, R491) -/

/-- A physical Block of the die is under test. -/
def testingOn (s : State) (n : Nat) : Option Nat := (dieBlocks n).find? (fun b => useOf s b == some .testing)

/-- A Block of the die is chosen for a slice: under test or being evacuated for one (R484). -/
def sliceOn (s : State) (n : Nat) : Bool :=
  (dieBlocks n).any (fun b => match tblGet s.blocks b with
    | some k => k.use == .testing || k.want == some .slice
    | none => false)

/-- Retires the RUN_ROADWORKS commands whose slices have all ended (R491). -/
def rwRetire (s : State) : State :=
  (s.age.rw.filter (fun r => r.left.isEmpty)).foldl (fun s r =>
    let s := { s with age.rw := s.age.rw.filter (fun x => !(x.q == r.q && x.cid == r.cid)) }
    match findCmd s r.q r.cid with
    | none => s
    | some c => retire c (finRes stSuccess (natLe 2 r.passed ++ natLe 2 r.failed ++ natLe 2 r.missed)) s) s

/-- A slice of the Block has ended: 0 passed, 1 failed, 2 abandoned (R491). -/
def rwEnd (b how : Nat) (s : State) : State :=
  rwRetire { s with age.rw := s.age.rw.map (fun r => if r.left.contains b then
    { r with left := r.left.filter (fun x => x != b), passed := r.passed + b2n (how == 0),
             failed := r.failed + b2n (how == 1), missed := r.missed + b2n (how == 2) } else r) }

/-- Abandons the slice of a Block for a cause: 1 precondition, 2 takeover, 3 urgent change (R488). A Block isolated
after a fault stays so. -/
def abandonSlice (b cause : Nat) (s : State) : State :=
  match tblGet s.blocks b with
  | none => s
  | some k =>
    if k.use ≠ .testing then s
    else
      let s := modBlock b (fun k => { k with use := if k.diagnostic then .isolated else .idle, lastResult := 4 }) (storeZero b s)
      rwEnd b 2 (postAge { blockRec s 0x0C b 4 with detail := cause } s)

/-! ### Evacuation (13 R421) -/

/-- A Block is to leave dispatch: a chained stream between work orders gives it up where it may. -/
def evacuate (b : Nat) (why : EvacWhy) (s : State) : State :=
  let s := modBlock b (fun k => { k with want := some why }) s
  match useOf s b with
  | some (.chained r i) => if mustYield s r i then preempt r i s else s
  | some .idle => fenceIfDue b s
  | _ => s

/-- A Block bound in a Viaduct pair is taken out of service: the pair's work order fails (01 R43; 11 R371). -/
def breakPair (b : Nat) (s : State) : State :=
  match tblGet s.blocks b with
  | none => s
  | some k => match k.use with
    | .busy r i => match streamOf s r i with
      | some (w, t) => if woType (woBytes s w t) = 9 then faultStream r i tcBlockFault s else s
      | none => s
    | .chained r i => match streamOf s r i with
      | some (_, t) => if t.via.bound ∨ !k.priv.isEmpty then faultStream r i tcBlockFault s else s
      | none => s
    | _ => s

/-! ### Spares (R477, R481, R482) -/

/-- The spare is usable (R477). -/
def spareUsable (s : State) (b : Nat) : Bool := match tblGet s.blocks b with
  | some k => k.role == .spare && !k.unusable &&
    (match k.slack with
      | some x => decide (60000 ≤ x)
      | none => false) &&
    (match k.lastPass with
      | some t => decide (s.sq.time ≤ t + 24 * hourUnits)
      | none => false)
  | none => false

/-- The usable spares of a die, lower index first (R477). -/
def spares (s : State) (n : Nat) : List Nat := [256 + 2 * n, 257 + 2 * n].filter (spareUsable s)

/-- The die no longer waits for the swap of a Block. -/
def noSwap (b : Nat) (d : Die) : Die := if d.change = .swap b then { d with change := .none } else d

/-- A Block leaves service without replacement (R482). -/
def retireBlock (b : Nat) (s : State) : State :=
  match tblGet s.blocks b with
  | none => s
  | some k => match k.role with
    | .active g =>
      let r := blockRec s 0x05 b 0
      let s := modBlock b (fun k => { k with role := BlockRole.retired g, use := .idle, want := none, diagnostic := false }) (storeZero b s)
      let s := { s with courts := s.courts.map (fun p => (p.1, { p.2 with blocks := p.2.blocks.filter (fun x => x != g) })) }
      let s := modDie (dieOf b) (fun d => noSwap b { d with retired := d.retired + 1 }) s
      postAge r s
    | _ => s

/-- A Block that failed leaves service: it waits for its swap, or is retired where no spare can replace it
(R482, R487, R489). -/
def leaveService (b : Nat) (s : State) : State :=
  let n := dieOf b
  let s := modBlock b (fun k => { k with use := .isolated, diagnostic := false, want := some .swap }) s
  if (spares s n).isEmpty then retireBlock b s else s

/-- The spare takes over the failing Block's global index (01 R30; R481 steps 2 to 4). -/
def swapIn (old spare : Nat) (s : State) : State :=
  match tblGet s.blocks old with
  | none => s
  | some k => match k.role with
    | .active g =>
      let s := modBlock old (fun k => { k with role := BlockRole.retired g, use := .idle, want := none, diagnostic := false }) (storeZero old s)
      let s := modBlock spare (fun k => { k with role := .active g, use := .idle, want := none }) (storeZero spare s)
      let s := modDie (dieOf old) (fun d => noSwap old { d with swaps := d.swaps + 1 }) s
      postAge { blockRec s 0x02 spare 0 with other := spare } s
    | _ => s

/-! ### Measurement (R475) -/

/-- S_proj of a replica in 0.001 ps: S − K × (105 − Tj) / 100 with K in 0.01 ps/°C (R475). -/
def project (n : Nat) (m : Meas) (i : Nat) : Int := 1000 * m.slack.getD i 0 - Config.fuseK n * (1050 - m.tj)

/-- The replicas that copy a Block's paths (R475). -/
def replicasOf (b : Nat) : List Nat := [3 * localOf b, 3 * localOf b + 1, 3 * localOf b + 2]

/-- The smallest of the projected slacks listed, with its replica, the lower replica on a tie. -/
def worstOf (n : Nat) (m : Meas) : List Nat → Option (Int × Nat)
  | [] => none
  | i :: t => match worstOf n m t with
    | none => some (project n m i, i)
    | some w => if project n m i ≤ w.1 then some (project n m i, i) else some w

/-- The Block serves a global index. -/
def inService (s : State) (b : Nat) : Bool := match tblGet s.blocks b with
  | some k => (match k.role with
    | .active _ => true
    | _ => false)
  | none => false

/-- The replicas that count toward a die's worst slack: those of the Blocks in service and 54 to 63 (R475). -/
def countedReplicas (s : State) (n : Nat) : List Nat :=
  ((dieBlocks n).filter (inService s)).flatMap replicasOf ++ (List.range 10).map (· + 54)

/-- Records a measurement of a die (R475, R496). -/
def recordMeas (n : Nat) (m : Meas) (s : State) : State :=
  let s := (dieBlocks n).foldl (fun s b => modBlock b (fun k => { k with slack := (worstOf n m (replicasOf b)).map (·.1) }) s) s
  match worstOf n m (countedReplicas s n) with
  | none => s
  | some w => modDie n (fun d => { d with slack := w.1, replica := w.2, lastMeasure := s.sq.time, ro := m.ro, tj := m.tj,
                                          measurements := d.measurements + 1 }) s

/-! ### The margin plan (R477 to R480, R483) -/

/-- A change the plan may make (R477). -/
inductive Margin where
  | rail (mv : Nat)
  | swap (b : Nat)
  | clock
  deriving DecidableEq, Repr

/-- The Block of a die that a replica belongs to, where it is in service. -/
def blockOfReplica (s : State) (n r : Nat) : Option Nat :=
  (dieBlocks n).find? (fun b => inService s b && (replicasOf b).contains r)

/-- The change that R477 chooses for a die below 60 ps, none when no change remains. -/
def marginChoice (s : State) (n : Nat) (d : Die) : Option Margin :=
  if d.rail + 5 ≤ 840 then some (.rail (d.rail + 5))
  else match blockOfReplica s n d.replica with
    | some b => if (spares s n).isEmpty then (if d.clkSteps < 8 then some .clock else none) else some (.swap b)
    | none => if d.clkSteps < 8 then some .clock else none

/-- Some die's rail write is under way: AVSBus writes are serialised (R492). -/
def railBusy (s : State) : Bool := s.age.dies.any (fun p => match p.2.change with
  | .rail _ _ => true
  | _ => false)

/-- Begins a die's change, or lets it wait for the slice on the die or for AVSBus (R479, R480, R481, R492). -/
def beginChange (n : Nat) (c : Margin) (s : State) : State :=
  match c with
  | .rail mv =>
    if (testingOn s n).isSome ∨ railBusy s then modDie n (fun d => { d with waits := [.rail mv 1] }) s
    else emit (.avs n mv) (modDie n (fun d => { d with change := .rail mv 1, waits := [] }) s)
  | .swap b => evacuate b .swap (modDie n (fun d => { d with change := .swap b }) s)
  | .clock =>
    if (testingOn s n).isSome then modDie n (fun d => { d with waits := [.clock] }) s
    else modDie n (fun d => { d with change := .clock, waits := [] }) s

/-- Starts the changes that waited, in die order, as far as they may start (R492). -/
def startWaiting (s : State) : State :=
  s.age.dies.foldl (fun s p => match dieState s p.1 with
    | none => s
    | some d => match d.waits, d.change with
      | .rail mv _ :: _, .none => beginChange p.1 (.rail mv) s
      | .clock :: _, .none => beginChange p.1 .clock s
      | _, _ => s) s

/-- An urgent change that needs the rail or the clock abandons the slice on the die (R488, R492). -/
def clearSlice (n : Nat) (c : Margin) (s : State) : State :=
  match c, testingOn s n with
  | .swap _, _ => s
  | _, some b => settle (abandonSlice b 3 s)
  | _, none => s

/-- KIND, FROM and TO of a change (R483). -/
def marginFields (s : State) (n : Nat) (d : Die) : Margin → Nat × Nat × Nat
  | .rail mv => (1, d.rail, mv)
  | .swap b => (2, globalOf s b, (spares s n).headD 0)
  | .clock => (3, clockMhz d, clockMhz d - 25)

/-- The 16 bytes of a MARGIN request (R483). -/
def marginBytes (s : State) (n : Nat) (d : Die) (c : Margin) : List Byte :=
  let f := marginFields s n d c
  natLe 1 f.1 ++ natLe 1 n ++ zeros 2 ++ natLe 4 f.2.1 ++ natLe 4 f.2.2 ++ natLe 2 (slackPs s d.slack) ++ natLe 1 d.replica ++ [0#8]

/-- Applies an ordinary change, the one of its 15 minutes (R477). -/
def ordinary (n : Nat) (c : Margin) (s : State) : State :=
  beginChange n c (modDie n (fun d => { d with ordinaryAt := some s.sq.time, awaiting := false }) s)

/-- An ordinary change may be applied now: none in the last 15 minutes (R477). -/
def ordinaryFree (s : State) (d : Die) : Bool := match d.ordinaryAt with
  | none => true
  | some t => decide (t + 15 * minUnits ≤ s.sq.time)

/-- An ordinary change is applied, or proposed where MARGIN is host-assisted (R483). -/
def proposeOrdinary (n : Nat) (d : Die) (c : Margin) (s : State) : State :=
  if d.awaiting ∨ !ordinaryFree s d then s
  else if modeBit s 16 8 then
    let f := marginFields s n d c
    match ask 16 8 (marginBytes s n d c) (.margin n f.1 f.2.2) (bumpFree s) with
    | (true, s) => modDie n (fun d => { d with awaiting := true }) s
    | (false, s) => ordinary n c s
  else ordinary n c s

/-- The Survey's decision after a measurement of a die (R477). -/
def decideMargin (n : Nat) (s : State) : State :=
  match dieState s n with
  | none => s
  | some d =>
    if 60000 ≤ d.slack then modDie n (fun d => { d with urgent := false, exhausted := false }) s
    else
      let urgent := decide (d.slack < 25000)
      match d.change with
      | .swap b => if urgent then breakPair b (modDie n (fun d => { d with urgent := true }) s) else s
      | .rail _ _ => s
      | .clock => s
      | .none =>
        match marginChoice s n d with
        | none => postAge (dieRec 0x04 n urgent) (modDie n (fun d => { d with urgent := false, exhausted := true }) s)
        | some c =>
          if urgent then
            let s := beginChange n c (clearSlice n c (modDie n (fun d => { d with urgent := true, waits := [] }) s))
            match c with
            | .swap b => breakPair b s
            | _ => s
          else
            let s := modDie n (fun d => { d with urgent := false, exhausted := false }) s
            if d.waits.isEmpty then proposeOrdinary n d c s else s

/-- Measures a die and decides (R475 to R477). -/
def measureDie (n : Nat) (m : Meas) (s : State) : State :=
  if m.slack.length = 64 then decideMargin n (recordMeas n m s) else s

/-- The reply to a MARGIN record, or its expiry: applied unless refused, where the plan still calls for it (R483). -/
def marginReply (n kind to_ : Nat) (refuse : Bool) (s : State) : State :=
  match dieState s n with
  | none => s
  | some d =>
    let s := modDie n (fun d => { d with awaiting := false }) s
    if refuse ∨ d.change ≠ .none ∨ !d.waits.isEmpty ∨ 60000 ≤ d.slack then s
    else match marginChoice s n d with
      | none => s
      | some c => if (marginFields s n d c).1 = kind ∧ (marginFields s n d c).2.2 = to_ then settle (ordinary n c s) else s

/-- A plan change on the die forbids a measurement now: one made meanwhile is discarded (R476). -/
def dieMoving (d : Die) : Bool := match d.change with
  | .rail _ _ => true
  | .clock => true
  | _ => false

/-- SURVEY_MEASURE (R475 to R477). -/
def execSurveyMeasure (die : Nat) (meas : Meas) (s : State) : Res :=
  .next (match dieState s die with
    | none => s
    | some d => if !s.sq.ready ∨ dieMoving d then s else settle (measureDie die meas s))

/-- The rail reading completes the change: within 5 mV of the target (R479). -/
def railOk (mv : Nat) (read : Option Nat) : Bool := match read with
  | some r => decide (r ≤ mv + 5) && decide (mv ≤ r + 5)
  | none => false

/-- AVS_RAIL_CONFIRM: the read-back of a rail write (R479). -/
def execAvsRailConfirm (die : Nat) (read : Option Nat) (meas : Meas) (s : State) : Res :=
  .next (match dieState s die with
    | none => s
    | some d => match d.change with
      | .rail mv tries =>
        if !s.sq.ready then s
        else if railOk mv read then
          let s := modDie die (fun d => { d with rail := mv, railSteps := d.railSteps + 1, railFault := false, change := .none }) s
          let s := postAge (dieRec 0x01 die d.urgent) s
          settle (measureDie die meas (startWaiting s))
        else if tries < 3 then emit (.avs die mv) (modDie die (fun d => { d with change := .rail mv (tries + 1) }) s)
        else
          let s := modDie die (fun d => { d with railFault := true, urgent := false, change := .none }) s
          startWaiting (postAge (dieRec 0x0B die d.urgent) s)
      | _ => s)

/-- CLOCK_GLIDE_COMPLETE: the PLL has glided to the new frequency (R480). -/
def execClockGlideComplete (die : Nat) (meas : Meas) (s : State) : Res :=
  .next (match dieState s die with
    | none => s
    | some d => match d.change with
      | .clock =>
        if !s.sq.ready then s
        else
          let s := modDie die (fun d => { d with clkSteps := d.clkSteps + 1, change := .none }) s
          settle (measureDie die meas (postAge (dieRec 0x03 die d.urgent) s))
      | _ => s)

/-- SPARE_SWAP: the Block out of dispatch is replaced by the usable spare of lower index, which waits for a slice of
that spare (R477, R481, R482, R492). -/
def execSpareSwap (block : Nat) (meas : Meas) (s : State) : Res :=
  let n := dieOf block
  .next (match tblGet s.blocks block with
    | none => s
    | some k =>
      if !s.sq.ready ∨ k.want ≠ some .swap ∨ (k.use ≠ .idle ∧ k.use ≠ .isolated) then s
      else match spares s n with
        | sp :: _ =>
          if useOf s sp = some .idle then settle (measureDie n meas (swapIn block sp s)) else s
        | [] =>
          if k.use = .isolated then settle (retireBlock block s)
          else settle (modDie n (fun d => noSwap block d)
            (modBlock block (fun k => { k with want := none }) s)))

/-! ### Roadworks (R484 to R488, R490) -/

/-- The preconditions of a slice (R485). -/
def sliceOk (d : Die) (look : SliceCheck) : Bool :=
  decide (look.railMv ≤ d.rail + 15) && decide (d.rail ≤ look.railMv + 15) && decide (look.tj ≤ 950) &&
  (match look.pllKhz with
    | none => false
    | some f => decide (1000 * f ≤ 1005 * (1000 * clockMhz d)) && decide (995 * (1000 * clockMhz d) ≤ 1000 * f))

/-- The visit lapses: 24 hours have passed (R484). -/
def visitOver (s : State) (k : Block) : Bool := decide (k.lastVisit + 24 * hourUnits ≤ s.sq.time)

/-- A slot would reserve the Block (13 R437): every slot recurs within 200 ms. -/
def slotWould (s : State) (b : Nat) : Bool := match courtOf s (courtOfBlock s b) with
  | none => false
  | some c => decide ((c.blocks.filter (fun g => (physOf s g).isSome)).idxOf (globalOf s b) < peakBlocks c.row.slots s.tt.cycle)

/-- The Blocks of a die that are due, oldest visit first, the lower index winning a tie (R484). -/
def dueBlocks (s : State) (n : Nat) : List Nat :=
  ((dieBlocks n).filterMap (fun b => match tblGet s.blocks b with
    | some k => (if gone k then none else if k.use ≠ .isolated ∧ k.want = none ∧ k.lastVisit + 20 * hourUnits ≤ s.sq.time then some (k.lastVisit, b) else none)
    | none => none)).foldl (fun l a =>
      (l.takeWhile (fun x => decide (x.1 ≤ a.1))) ++ a :: (l.dropWhile (fun x => decide (x.1 ≤ a.1)))) [] |>.map (·.2)

/-- A Block that an isolated state holds for its diagnostic slice, or that commanded slices name (R489, R491). -/
def calledBlock (s : State) (n : Nat) : Option Nat :=
  match (dieBlocks n).find? (fun b => match tblGet s.blocks b with
      | some k => k.diagnostic && k.use == .isolated && k.want == none
      | none => false) with
  | some b => some b
  | none => (dieBlocks n).find? (fun b => s.age.rw.any (fun r => r.left.contains b) &&
      (match tblGet s.blocks b with
        | some k => k.use != .isolated && k.want == none
        | none => false) && (!slotWould s b))

/-- The Court that hosts the ROADWORKS decision for a due Block, if one does (R490). -/
def roadCourt (s : State) (b : Nat) : Option Nat :=
  let c := courtOfBlock s b
  if c < 16 ∧ modeBit s c 7 then some c else none

/-- What a decision does with a due Block: run its slice, propose it, or leave it for now (R437, R484, R490). -/
inductive DueStep where
  | run
  | propose (court : Nat)
  | leave
  deriving DecidableEq, Repr

/-- The step for a due Block. -/
def dueStep (s : State) (b : Nat) : DueStep := match tblGet s.blocks b with
  | none => .leave
  | some k =>
    if visitOver { s with sq.time := s.sq.time + 10 * secUnits } k then .run
    else if slotWould s b then .leave
    else match roadCourt s b with
      | none => .run
      | some c => match k.proposal with
        | .none => .propose c
        | .asked => .leave
        | .from_ t => if t ≤ s.sq.time then .run else .leave
        | .later t => if t ≤ s.sq.time then .propose c else .leave

/-- DATA of a ROADWORKS proposal (R490). -/
def roadBytes (s : State) (b : Nat) (k : Block) : List Byte :=
  natLe 2 (globalOf s b) ++ zeros 2 ++ natLe 4 ((k.lastVisit + 24 * hourUnits) / secUnits) ++ natLe 4 (s.sq.time / secUnits)

/-- Starts a slice: an unused Block is fenced at once, a Block in dispatch is evacuated first (R486). -/
def startSlice (b : Nat) (s : State) : State :=
  match useOf s b with
  | some .isolated => modBlock b (fun k => { k with use := .testing, want := none, started := s.sq.time }) s
  | _ => evacuate b .slice s

/-- Proposes a slice to a Court's host; without a ring it is postponed (R212, R490). -/
def proposeSlice (b court : Nat) (k : Block) (s : State) : State :=
  match ask court 7 (roadBytes s b k) (.roadworks b) s with
  | (true, s) => modBlock b (fun k => { k with proposal := .asked }) s
  | (false, s) => modBlock b (fun k => { k with proposal := .later (s.sq.time + 10 * minUnits) }) s

/-- Goes through the due Blocks until one runs: those that wait for their host are passed over. -/
def decideDue (l : List Nat) (s : State) : State :=
  match l with
  | [] => s
  | b :: t => match dueStep s b, tblGet s.blocks b with
    | .run, some _ => startSlice b s
    | .propose c, some k =>
      let s := proposeSlice b c k s
      decideDue t s
    | _, _ => decideDue t s

/-- ROADWORKS_DECISION: the slice decision of a die (R484, R485, R492). -/
def execRoadworksDecision (die : Nat) (look : SliceCheck) (s : State) : Res :=
  .next (match dieState s die with
    | none => s
    | some d =>
      if !s.sq.ready ∨ s.sq.takeover ∨ sliceOn s die ∨ dieMoving d ∨ !sliceOk d look then s
      else settle (match calledBlock s die with
        | some b => startSlice b s
        | none => decideDue (dueBlocks s die) s))

/-- The reply to a ROADWORKS record: 0 grants, 1 with the START_S given grants from then on, else it is postponed by
10 minutes (R490). -/
def roadReply (b : Nat) (disp : Nat) (start : Nat) (s : State) : State :=
  modBlock b (fun k => if k.proposal ≠ .asked then k
    else
      let due := (k.lastVisit + 24 * hourUnits) / secUnits
      { k with proposal := match disp with
        | 0 => .from_ s.sq.time
        | 1 => .from_ (min start due * secUnits)
        | _ => .later (s.sq.time + 10 * minUnits) }) s

/-- The slice has passed: PASS or PASS_REPAIRED (R487). -/
def slicePassed (b result rows : Nat) (s : State) : State :=
  let s := modBlock b (fun k => { k with
    use := .idle, lastResult := result, lastVisit := s.sq.time, lapsed := false, lastPass := some s.sq.time,
    diagnostic := false, repairs := k.repairs + (if result = 1 then rows else 0) }) (storeZero b s)
  if result = 1 then postAge { blockRec s 0x08 b 1 with detail := rows } s else s

/-- The slice has failed: SLICE_FAILED, then the swap or retirement, or an unusable spare (R482, R487). -/
def sliceFailed (b result : Nat) (s : State) : State :=
  let s := modBlock b (fun k => { k with lastResult := result, lastVisit := s.sq.time, lapsed := false }) (storeZero b s)
  let s := postAge (blockRec s 0x07 b result) s
  if inService s b then leaveService b s
  else
    let s := modBlock b (fun k => { k with use := .idle, unusable := true, diagnostic := false }) s
    postAge (blockRec s 0x06 b result) s

/-- SLICE_COMPLETE: a slice ends with RESULT 0 to 3, after the die's measurement (R486, R487). -/
def execSliceComplete (block result rows : Nat) (meas : Meas) (s : State) : Res :=
  .next (if !s.sq.ready ∨ useOf s block ≠ some .testing ∨ 3 < result ∨ meas.slack.length ≠ 64 then s
    else
      let n := dieOf block
      let s := recordMeas n meas s
      let s := if result ≤ 1 then slicePassed block result rows s else sliceFailed block result s
      let s := rwEnd block (if result ≤ 1 then 0 else 1) s
      settle (decideMargin n (startWaiting s)))

/-- SLICE_ABANDON: a precondition of R485 failed during the slice (R488). -/
def execSliceAbandon (block : Nat) (s : State) : Res :=
  .next (if s.sq.ready ∧ useOf s block = some .testing then settle (startWaiting (abandonSlice block 1 s)) else s)

/-- VISIT_LAPSED (R484). -/
def execVisitLapsed (block : Nat) (s : State) : Res :=
  .next (match tblGet s.blocks block with
    | none => s
    | some k =>
      if !s.sq.ready ∨ k.lapsed ∨ !visitOver s k ∨ gone k then s
      else postAge (blockRec s 0x0A block 0) (modBlock block (fun k => { k with lapsed := true }) s))

/-! ### Faults found in service (R489) -/

/-- The Block may meet a fault: it is in service or a spare, and neither under test nor isolated (R489, R492). -/
def canFault (k : Block) : Bool :=
  !gone k && k.use != .testing && k.use != .isolated

/-- Isolates a Block: it holds no work any more, and a diagnostic slice is due (R489). -/
def isolate (b : Nat) (s : State) : State :=
  storeForget b (modBlock b (fun k => { k with use := .isolated, want := none, diagnostic := true, proposal := .none }) s)

/-- A check of a Block trips: its work order fails with BLOCK_FAULT and the Block is isolated; a second fault within
24 hours swaps or retires it (R489). -/
def tripCheck (b check : Nat) (k : Block) (s : State) : State :=
  let recent := k.faults.filter (fun t => decide (s.sq.time ≤ t + 24 * hourUnits))
  let s := modBlock b (fun k => { k with faults := s.sq.time :: recent }) (postBlockFault b check s)
  let s := isolate b s
  let s := match k.use with
    | .busy r i => faultStream r i tcBlockFault s
    | .chained r i => faultStream r i tcBlockFault s
    | .saving r i => faultStream r i tcBlockFault s
    | _ => s
  let s := if recent.isEmpty then s
    else if inService s b then leaveService b s
    else modBlock b (fun k => { k with use := .idle, unusable := true, diagnostic := false }) s
  settle s

/-- Too many corrected errors of its store: the Block leaves dispatch at its boundary for a diagnostic slice (R489). -/
def tripFixes (b : Nat) (s : State) : State :=
  let s := postBlockFault b 4 (modBlock b (fun k => { k with fixes := [], diagnostic := true }) s)
  evacuate b .slice s

/-- BLOCK_FAULT: check 1 parity or 2 residue trips, or 4: 64 corrected store errors within 24 hours (R489). -/
def execBlockFault (block check : Nat) (s : State) : Res :=
  .next (match tblGet s.blocks block with
    | none => s
    | some k =>
      if !s.sq.ready ∨ !canFault k then s
      else if check = 1 ∨ check = 2 then tripCheck block check k s
      else if check = 4 ∧ 64 ≤ (k.fixes.filter (fun t => decide (s.sq.time ≤ t + 24 * hourUnits))).length then
        settle (tripFixes block s)
      else s)

/-- BLOCK_WATCHDOG_TRIP: no progress for 100 ms with work issued (R489). -/
def execBlockWatchdogTrip (block : Nat) (s : State) : Res :=
  .next (match tblGet s.blocks block with
    | none => s
    | some k => match k.use with
      | .busy _ _ => if s.sq.ready then tripCheck block 3 k s else s
      | _ => s)

/-! ### RUN_ROADWORKS (R491) -/

/-- The physical Blocks that a RUN_ROADWORKS names; none where a field is out of range. -/
def rwNamed (s : State) (pb : List Byte) : Option (List Nat) :=
  let live (b : Nat) : Bool := (tblGet s.blocks b).any (fun k => !gone k)
  match fld pb 0 1 with
  | 1 =>
    let i := fld pb 2 2
    if 288 ≤ i then none
    else if i < 256 then some (match physOf s i with
      | some b => [b]
      | none => [])
    else some (if (tblGet s.blocks i).any (fun k => k.role == .spare) then [i] else [])
  | 2 => if 15 < fld pb 1 1 then none else some ((dieBlocks (fld pb 1 1)).filter live)
  | 3 => some ((List.range 288).filter live)
  | _ => none

/-- Effect of RUN_ROADWORKS: the named slices wait for the decisions of their dies. -/
def runRoadworksBody (c : Cmd) (s : State) : State × Did :=
  match rwNamed s c.pb with
  | none => failWith s stInvalidField
  | some [] => failWith s stNotFound
  | some l => ({ s with age.rw := s.age.rw ++ [⟨c.q, c.cid, l, 0, 0, 0⟩] }, .stay)

/-- RUN_ROADWORKS (R491). -/
def execRunRoadworks (q : QId) (cid : Nat) (s : State) : Res :=
  .next (match findCmd s q cid with
    | none => s
    | some c => if c.started then s else runCmd opRunRoadworks q cid (fun _ => 8) [(4, 4)] runRoadworksBody s)

/-! ### Availability (R497 to R499) -/

/-- Days of powered time. -/
abbrev dayUnits : Nat := 24 * hourUnits

/-- A day without anything counted. -/
def AvailDay.zero : AvailDay := ⟨0, 0, 0, 0⟩

/-- Changes the bucket of the present day. -/
def Avail.today (a : Avail) (f : AvailDay → AvailDay) : Avail := match a.days with
  | [] => { a with days := [f .zero] }
  | d :: t => { a with days := f d :: t }

/-- Counts powered time up to now, with the interval that is open (R497 to R499). -/
def accrue (s : State) : State :=
  let dt := s.sq.time - s.age.countedAt
  let a := s.age.avail
  let new := (a.powered + dt) / dayUnits - a.powered / dayUnits
  let a := { a with powered := a.powered + dt, days := (List.replicate (min new 365) AvailDay.zero ++ a.days).take 365 }
  let a := match a.opened with
    | some (true, _) => { a.today (fun d => { d with device := d.device + dt }) with lifetime := a.lifetime + dt }
    | some (false, _) => a.today (fun d => { d with excluded := d.excluded + dt })
    | none => a
  { s with age.avail := a, age.countedAt := s.sq.time }

/-- Opens an interval: device-caused or excluded, of a fatal fault or of a takeover (R497, R498). -/
def openInterval (device fatal : Bool) (s : State) : State :=
  let s := accrue s
  let a := if device then s.age.avail.today (fun d => if fatal then { d with fatals := d.fatals + 1 }
    else { d with takeovers := d.takeovers + 1 }) else s.age.avail
  { s with age.avail := { a with opened := some (device, fatal) } }

/-- Ends the open interval and writes the counts to flash (R499). -/
def closeInterval (s : State) : State :=
  let s := accrue s
  let a := { s.age.avail with opened := none }
  { s with age.avail := a, age.flash := a }

/-- AVAILABILITY_HOURLY_WRITE (R499). -/
def execAvailabilityHourlyWrite (s : State) : Res :=
  .next (let s := accrue s
         { s with age.flash := s.age.avail })

/-! ### READ_SURVEY (R496) -/

/-- STATE of a Block record (R496). -/
def blockStateCode (s : State) (b : Nat) (k : Block) : Nat := match k.role with
  | .retired _ => 4
  | .active _ => if k.use = .testing then 1 else if k.use = .isolated then 5 else 0
  | .spare => if k.use = .testing then 1 else if k.use = .isolated then 5 else if spareUsable s b then 2 else 3

/-- A Block record of 16 bytes (R496). -/
def blockSurvey (s : State) (b : Nat) : List Byte := match tblGet s.blocks b with
  | none => zeros 16
  | some k => natLe 2 (recIndex s b) ++ natLe 1 (blockStateCode s b k) ++ natLe 1 k.lastResult ++ natLe 4 k.repairs ++
    natLe 8 k.lastVisit

/-- A die record of 64 bytes (R496). -/
def dieSurvey (s : State) (n : Nat) : List Byte := match dieState s n with
  | none => natLe 1 n ++ zeros 63
  | some d =>
    natLe 1 n ++ natLe 1 d.clkSteps ++ natLe 2 d.rail ++ natLe 2 d.railInit ++ natLe 2 (clockMhz d) ++
    natLe 2 (slackPs { s with free := s.free + n } d.slack) ++ natLe 1 d.replica ++ natLe 1 (spares s n).length ++ natLe 2 d.railSteps ++
    natLe 1 d.swaps ++ natLe 1 d.retired ++ natLe 8 d.lastMeasure ++ natLe 4 d.ro ++ natLe 4 (Config.fuseRo n) ++
    natLe 2 (ofSigned 16 d.tj) ++ natLe 2 (Config.fuseK n) ++ natLe 4 d.measurements ++
    natLe 1 (b2n d.urgent + 2 * b2n d.exhausted + 4 * b2n d.awaiting + 8 * b2n d.railFault) ++ zeros 23

/-- The header of 64 bytes (R496). -/
def surveyHeader (s : State) : List Byte :=
  let a := (accrue s).age.avail
  let dev := (a.days.map (·.device)).sum
  let exc := (a.days.map (·.excluded)).sum
  natLe 8 s.sq.time ++ natLe 8 (a.powered / secUnits) ++ natLe 8 (dev / 100) ++ natLe 8 (exc / 100) ++
  natLe 8 (a.lifetime / 100) ++ natLe 4 (a.days.map (·.takeovers)).sum ++ natLe 4 (a.days.map (·.fatals)).sum ++
  natLe 2 ((List.range 16).map (fun n => (spares s n).length)).sum ++ natLe 2 (s.age.dies.map (fun p => p.2.retired)).sum ++
  zeros 12

/-- The 5 696 bytes of the reply (R496). -/
def surveyBytes (s : State) : List Byte :=
  surveyHeader s ++ (List.range 16).flatMap (dieSurvey s) ++ (List.range 16).flatMap (fun n => (dieBlocks n).flatMap (blockSurvey s))

/-- READ_SURVEY (R496). -/
def execReadSurvey (q : QId) (cid : Nat) (s : State) : Res :=
  .next (runCmd opReadSurvey q cid (fun _ => 16) [(12, 4)]
    (fun _ s => ({ s with free := s.free + 16 }, .fin (finReply (surveyBytes s)))) s)

end Sys2Proof.Machine
end

