-- ==== Sys2Proof/Machine/Random.lean ====
section
/-! DEFINITION. Philox 4×32-10, the random words of stochastic rounding and sampling
(spec/02_number_formats_and_accumulation.md R54; spec/08_serving.md R257, R269). -/

namespace Sys2Proof.Machine

/-- One Philox 4×32 round on the counter `c0..c3` with key `k0, k1`.
PRESUMED: the multipliers are those of the published Philox 4×32 (assumption 7). -/
def philoxRound (c : Nat × Nat × Nat × Nat) (k0 k1 : Nat) : Nat × Nat × Nat × Nat :=
  let p0 := 0xD2511F53 * c.1
  let p1 := 0xCD9E8D57 * c.2.2.1
  (((p1 / 2 ^ 32) ^^^ c.2.1) ^^^ k0, p1 % 2 ^ 32, ((p0 / 2 ^ 32) ^^^ c.2.2.2) ^^^ k1, p0 % 2 ^ 32)

/-- `n` rounds, the key bumped between rounds by the published Weyl constants. -/
def philoxRounds : Nat → Nat × Nat × Nat × Nat → Nat → Nat → Nat × Nat × Nat × Nat
  | 0, c, _, _ => c
  | n + 1, c, k0, k1 =>
    philoxRounds n (philoxRound c k0 k1) ((k0 + 0x9E3779B9) % 2 ^ 32) ((k1 + 0xBB67AE85) % 2 ^ 32)

/-- The four output words of Philox 4×32-10. -/
def philox (k0 k1 c0 c1 c2 c3 : Nat) : Nat × Nat × Nat × Nat :=
  philoxRounds 10 (c0 % 2 ^ 32, c1 % 2 ^ 32, c2 % 2 ^ 32, c3 % 2 ^ 32) (k0 % 2 ^ 32) (k1 % 2 ^ 32)

/-- Word `i mod 4` of a Philox output. -/
def philoxWord (o : Nat × Nat × Nat × Nat) (i : Nat) : Nat :=
  match i % 4 with
  | 0 => o.1
  | 1 => o.2.1
  | 2 => o.2.2.1
  | _ => o.2.2.2

/-- The 16-bit random value of element `e` under R54. -/
def srRandom (tensorId seed step e : Nat) : Nat :=
  let q := e / 4
  philoxWord (philox tensorId seed (q % 2 ^ 32) (q / 2 ^ 32) (step % 2 ^ 32) (step / 2 ^ 32)) (e % 4) % 2 ^ 16

end Sys2Proof.Machine
end

