-- ==== Sys2Proof/Machine/Accum.lean ====
section
/-! DEFINITION. The long accumulator: bounds, truncated products, WINDOW records, passes, multi-word and
complex products, Old Town sums (spec/02_number_formats_and_accumulation.md R50, R58 to R62, R65, R68 to R71, R73;
spec/03_matrix_engine.md R87, R88). -/

namespace Sys2Proof.Machine

/-- One operand along the reduction range of a pass: the element values with block scales applied
(`none` is a NaN input, R50), the low parts of a split FP32 operand (R70), and the bound S (R59). -/
structure PassVec where
  vals : List (Option Dy)
  lows : List (Option Dy)
  bound : Option Int
  deriving DecidableEq, Repr

/-- An accumulator at the end of a pass, which is also a WINDOW record (R58, R62). -/
structure WinRec where
  a : Int
  emax : Option Int
  nan : Bool
  deriving DecidableEq, Repr

/-- The constant c of an operand format (R59). -/
def boundC (code : Nat) : Int :=
  match code with
  | 0x07 => 3 | 0x06 => 3 | 0x05 => 5 | 0x04 => 9 | 0x03 => 16 | 0x0B => 2 | _ => 1

/-- The larger of two bounds, where `none` is no bound. -/
def boundMax (x y : Option Int) : Option Int :=
  match x, y with
  | none, b => b
  | a, none => a
  | some a, some b => some (max a b)

/-- The sum of two bounds and a constant; no bound when either is missing. -/
def boundAdd (x y : Option Int) (c : Int) : Option Int :=
  match x, y with
  | some a, some b => some (a + b + c)
  | _, _ => none

/-- Bound of a 16-bit row: the largest floor(log2 |x|), a subnormal counting as exponent `emin` (R59). -/
def bound16 (emin : Int) : List (Option Dy) → Option Int
  | [] => none
  | none :: t => bound16 emin t
  | some x :: t => if x.mag = 0 then bound16 emin t else boundMax (some (max emin (dyLog2 x))) (bound16 emin t)

/-- Bound of an MX row: the largest X − 127 over the blocks whose scale is not 0xFF (R59). -/
def boundMx : List Nat → Option Int
  | [] => none
  | x :: t => if x = 255 then boundMx t else boundMax (some ((x : Int) - 127)) (boundMx t)

/-- BF16 rounding of a split, without a count (R70). -/
def bf16Near (x : Dy) : Option Dy := decFloat fmtBF16 true (fpVal (encFloat fmtBF16 .rne x))

/-- The FP32 element rounds to BF16 beyond the BF16 max with an unbounded exponent range (R70). -/
def bf16Over (x : Dy) : Bool := (encMag fmtBF16 .rne x.mag x.exp).2

/-- The high part of a split FP32 element; `none` is a NaN input (R70). -/
def splitHi (v : Option Dy) : Option Dy :=
  match v with
  | none => none
  | some x => if bf16Over x then none else bf16Near x

/-- The low part of a split FP32 element (R70). -/
def splitLo (v : Option Dy) : Option Dy :=
  match v, splitHi v with
  | some x, some h => bf16Near (dyAdd x (dyNeg h))
  | _, _ => none

/-- The operand vector of format byte `f` from raw elements and, for MX, the scale byte of each
block of 32 elements from element 0 of the slice's row (R46, R50, R59, R70). -/
def passVec (f : Nat) (raws : List Nat) (scales : List Nat) : PassVec :=
  let c := fmtCode f
  let vals := raws.map (elemVal c)
  if fmtMx f then
    let scaled := vals.zipIdx.map (fun p =>
      let X := scales.getD (p.2 / 32) 255
      if X = 255 then none else p.1.map (fun x => dyScale x ((X : Int) - 127)))
    ⟨scaled, [], boundMx scales⟩
  else if c = 0 then
    let his := vals.map splitHi
    ⟨his, vals.map splitLo, bound16 (-126) his⟩
  else if c = 1 then ⟨vals, [], bound16 (-126) vals⟩
  else if c = 2 then ⟨vals, [], bound16 (-14) vals⟩
  else ⟨vals, [], some 0⟩

/-- A product truncated toward zero to a multiple of 2^(emax − 68), as that multiple (R60). -/
def truncProd (emax : Int) (p : Dy) : Int :=
  let s := p.exp - (emax - 68)
  let m : Int := if 0 ≤ s then ((p.mag <<< s.toNat : Nat) : Int) else ((p.mag / 2 ^ (-s).toNat : Nat) : Int)
  if p.neg then -m else m

/-- Adds the truncated products of two vectors, negated when `neg`, into a register (R50, R58, R60). -/
def accDot (emax : Int) (neg : Bool) : List (Option Dy) → List (Option Dy) → Int × Bool → Int × Bool
  | some x :: xs, some y :: ys, (a, n) =>
    let t := truncProd emax (dyMul x y)
    accDot emax neg xs ys (if neg then a - t else a + t, n)
  | _ :: xs, _ :: ys, (a, _) => accDot emax neg xs ys (a, true)
  | _, _, r => r

/-- Some product of the two vectors has a NaN input (R50). -/
def anyNan : List (Option Dy) → List (Option Dy) → Bool
  | x :: xs, y :: ys => x.isNone || y.isNone || anyNan xs ys
  | _, _ => false

/-- emax of an output element for format codes `ca`, `cb` (R59, R68, R69, R70). -/
def emaxOf (ca cb : Nat) (x y : PassVec) : Option Int :=
  if ca = 8 ∨ ca = 9 then some 68
  else boundAdd x.bound y.bound (boundC ca + boundC cb + (if ca = 0 then 1 else 0))

/-- One real pass: the register after all products of the pass at the emax given (R59, R60, R68 to R70). -/
def passAt (ca : Nat) (emax : Option Int) (neg : Bool) (x y : PassVec) (r : Int × Bool) : Int × Bool :=
  match emax with
  | none => (r.1, r.2 || anyNan x.vals y.vals)
  | some e =>
    let r := accDot e neg x.vals y.vals r
    if ca = 0 then accDot e neg x.lows y.vals (accDot e neg x.vals y.lows r) else r

/-- The register of one real output element over one pass. -/
def passReal (ca cb : Nat) (x y : PassVec) : WinRec :=
  let e := emaxOf ca cb x y
  let r := passAt ca e false x y (0, false)
  ⟨r.1, e, r.2⟩

/-- The FP32 result of a register (R61). -/
def winF32 (w : WinRec) : FpM F32 :=
  if w.nan then pure nan32
  else match w.emax with
    | none => pure 0
    | some e => f32Round (dyOf w.a (e - 68))

/-- Exact sum of two partial windows of one pass (R62). -/
def winAdd (u v : WinRec) : WinRec := ⟨u.a + v.a, u.emax, u.nan || v.nan⟩

/-- The 16 bytes of a WINDOW record (R62). -/
def winBytes (w : WinRec) : List Byte :=
  natLe 12 (ofSigned 96 (if w.emax.isNone then 0 else w.a)) ++ natLe 2 (ofSigned 16 (w.emax.getD 0)) ++
  natLe 1 (b2n w.nan + 2 * b2n w.emax.isNone) ++ [0#8]

/-- Reads a WINDOW record (R62). -/
def winOf (b : List Byte) : WinRec :=
  let fl := fld b 14 1
  ⟨toSigned 96 (fld b 0 12), if bit fl 1 then none else some (toSigned 16 (fld b 12 2)), bit fl 0⟩

/-- The results of the passes folded in ascending order (R65). -/
def foldPasses : List F32 → FpM F32
  | [] => pure 0
  | r :: t => t.foldlM f32Add r

/-- A complex operand along a pass: its real and imaginary parts (R71). -/
structure CplxVec where
  re : PassVec
  im : PassVec
  deriving DecidableEq, Repr

/-- Four-pass complex product: the registers re and im, each with the largest emax of its terms (R71, R88). -/
def passCplx4 (ca cb : Nat) (x y : CplxVec) : WinRec × WinRec :=
  let eRe := boundMax (emaxOf ca cb x.re y.re) (emaxOf ca cb x.im y.im)
  let eIm := boundMax (emaxOf ca cb x.re y.im) (emaxOf ca cb x.im y.re)
  let r := passAt ca eRe true x.im y.im (passAt ca eRe false x.re y.re (0, false))
  let i := passAt ca eIm false x.im y.re (passAt ca eIm false x.re y.im (0, false))
  (⟨r.1, eRe, r.2⟩, ⟨i.1, eIm, i.2⟩)

/-- A pre-sum of the Gauss sequence rounded to the operand format, without a count (R71). -/
def preSum (code : Nat) (sub : Bool) (x y : Option Dy) : Option Dy :=
  match x, y with
  | some a, some b =>
    elemVal code (fpVal (encElem code .rne (dyAdd a (if sub then dyNeg b else b))))
  | _, _ => none

/-- The vector of pre-sums with its own 16-bit bound (R71). -/
def preVec (code : Nat) (sub : Bool) (x y : PassVec) : PassVec :=
  let v := List.zipWith (preSum code sub) x.vals y.vals
  ⟨v, [], bound16 (if code = 1 then -126 else -14) v⟩

/-- Gauss complex product: k1, k2, k3 combined exactly at their common emax (R71, R87, R88). -/
def passGauss (code : Nat) (x y : CplxVec) : WinRec × WinRec :=
  let ab := preVec code false x.re x.im
  let dc := preVec code true y.im y.re
  let cd := preVec code false y.re y.im
  let e := boundMax (boundMax (emaxOf code code ab y.re) (emaxOf code code x.re dc)) (emaxOf code code x.im cd)
  let k1 := passAt code e false ab y.re (0, false)
  let k2 := passAt code e false x.re dc (0, false)
  let k3 := passAt code e false x.im cd (0, false)
  (⟨k1.1 - k3.1, e, k1.2 || k3.2⟩, ⟨k1.1 + k2.1, e, k1.2 || k2.2⟩)

/-! ### Old Town (R73, R74) -/

/-- An FP32 word from an exact value under IEEE 754 sign rules for zero (R74). -/
def f32RoundIeee (x : Dy) : FpM F32 := do
  let r ← f32Round x
  return if x.mag = 0 then (if x.neg then 0x80000000 else 0) else r

/-- IEEE 754 addition of two exact values: an exact zero is negative only when both are negative zeros. -/
def dyAddIeee (x y : Dy) : Dy :=
  let z := dyAdd x y
  if z.mag = 0 then { z with neg := x.neg && y.neg && x.mag == 0 && y.mag == 0 } else z

/-- FP32 addition under IEEE 754 sign rules (R73). -/
def otAdd (a b : F32) : FpM F32 :=
  match f32Val a, f32Val b with
  | some x, some y => f32RoundIeee (dyAddIeee x y)
  | _, _ => pure nan32

/-- FP32 multiplication under IEEE 754 sign rules (R74). -/
def otMul (a b : F32) : FpM F32 :=
  match f32Val a, f32Val b with
  | some x, some y => f32RoundIeee (dyMul x y)
  | _, _ => pure nan32

/-- A BF16 subnormal input becomes a zero of its sign (R73). -/
def otFlush (x : Dy) : Dy := if x.mag = 0 ∨ dyLog2 x < -126 then { x with mag := 0 } else x

/-- One product: exact, below 2^−126 a zero of its sign (R73). -/
def otProd (x y : Dy) : Dy := otFlush (dyMul (otFlush x) (otFlush y))

/-- The exact IEEE-signed sum of a group of products; `none` when a product has a NaN input. -/
def otGroup : List (Option Dy) → List (Option Dy) → Option Dy → Option Dy
  | some x :: xs, some y :: ys, acc => otGroup xs ys (acc.map (fun a => dyAddIeee a (otProd x y)))
  | _ :: xs, _ :: ys, _ => otGroup xs ys none
  | _, _, acc => acc

/-- Folds the groups of 32 into the two interleaved partials (R73). -/
def otFold : Nat → Nat → List (Option Dy) → List (Option Dy) → F32 × F32 → FpM (F32 × F32)
  | 0, _, _, _, p => pure p
  | n + 1, g, xs, ys, p => do
    if xs.isEmpty then return p
    let G ← (match otGroup (xs.take 32) (ys.take 32) (some ⟨true, 0, 0⟩) with
      | none => pure nan32
      | some s => f32RoundIeee s)
    let p' ← (if g % 2 = 0 then do return (← otAdd p.1 G, p.2) else do return (p.1, ← otAdd p.2 G))
    otFold n (g + 1) (xs.drop 32) (ys.drop 32) p'

/-- The Old Town result of one output element (R73). -/
def otDot (xs ys : List (Option Dy)) : FpM F32 := do
  let p ← otFold xs.length 0 xs ys (0, 0)
  otAdd p.1 p.2

/-- Old Town conversion to BF16: RNE, a subnormal result flushed to a zero of its sign (R74). -/
def otBf16 (z : F32) : FpM Nat :=
  match f32Val z with
  | none => do
    countNonfin 1
    return 0x7FC0
  | some x => do
    let r ← encFloat fmtBF16 .rne x
    return if r % 2 ^ 15 < 2 ^ 7 then (if x.neg then 0x8000 else 0) else r

end Sys2Proof.Machine
end

