-- ==== Sys2Proof/Machine/Special.lean ====
section
/-! DEFINITION. EXP, group records and their fold (spec/03_matrix_engine.md R93 to R97), with LN and LOG2
where other chapters define them. -/

namespace Sys2Proof.Machine

/-- The FP32 value nearest to log2 e (R93). -/
def expL : F32 := 0x3FB8AA3B
/-- The FP32 value nearest to ln 2 (R93). -/
def expG : F32 := 0x3F317218
/-- 0.5. -/
def half32 : F32 := 0x3F000000

/-- The largest `r < 2^k` above `acc` with `r^256 ≤ n`, found bit by bit. -/
def root256 : Nat → Nat → Nat → Nat
  | 0, _, acc => acc
  | k + 1, n, acc =>
    let t := acc + 2 ^ k
    root256 k n (if t ^ 256 ≤ n then t else acc)

/-- T[i]: the FP32 value nearest to 2^(i/256), computed from the exact 256th root (R93). -/
def expT (i : Nat) : F32 :=
  let r := root256 26 (2 ^ (256 * 25 + i)) 0
  (encMag fmtF32 .rne (2 * r + 1) (-26)).1

/-- EXP of R93, exactly as written there. -/
def f32Exp (x : F32) : FpM F32 := do
  if x = 0xFF800000 then return 0
  if f32IsNan x then return nan32
  let t ← f32Mul x expL
  match f32Val t with
  | none => return nan32
  | some tv =>
    if dyLt tv (dyOf (-150) 0) then return 0
    if dyLe (dyOf 128 0) tv then
      countSat
      return max32
    let n := dyFloor tv
    let f := dyAdd tv (dyOf (-n) 0)
    let i := dyFloor (dyScale f 8)
    let r := dyAdd f (dyOf (-i) (-8))
    let u ← (match f32Val expG with
      | some g => f32Round (dyMul r g)
      | none => pure nan32)
    let a ← f32Mul u half32
    let b ← f32Add one32 a
    let c ← f32Mul u b
    let p ← f32Add one32 c
    let q ← f32Mul (expT i.toNat) p
    match f32Val q with
    | none => return nan32
    | some qv => f32Round (dyScale qv n)

/-- A group record (R96) before it is cut to the statistics the work order enables. -/
structure GroupRec where
  max : F32
  amax : F32
  expsum : F32
  sumsq : F32
  mean : F32
  m2 : F32
  count : Nat
  group : Nat
  nan : Bool
  sat : Bool
  deriving DecidableEq, Repr

/-- One level of the adder tree: results 2i and 2i + 1 are added with one rne (R94). -/
def treeLevel : List F32 → FpM (List F32)
  | a :: b :: t => do
    let s ← f32Add a b
    let r ← treeLevel t
    return s :: r
  | l => pure l

/-- tree_sum of 64 lanes in six levels (R94). -/
def treeSum (lanes : List F32) : FpM F32 := do
  let l1 ← treeLevel lanes
  let l2 ← treeLevel l1
  let l3 ← treeLevel l2
  let l4 ← treeLevel l3
  let l5 ← treeLevel l4
  let l6 ← treeLevel l5
  return l6.getD 0 0

/-- A term per lane, +0 in the lanes of invalid columns (R94). -/
def laneMap (cols : List (Option F32)) (f : F32 → FpM F32) : FpM (List F32) :=
  cols.mapM (fun c => match c with
    | none => pure 0
    | some z => f z)

/-- The number of saturations an FP computation counts, with its value; the counts stay added. -/
def withSat {α : Type} (m : FpM α) : FpM (α × Bool) := do
  let c0 ← get
  let a ← m
  let c1 ← get
  return (a, decide (c0.sat < c1.sat))

/-- Which statistics a record needs: MAX, AMAX, EXPSUM, SUMSQ, MOMENTS (R163). -/
structure StatSel where
  max : Bool
  amax : Bool
  expsum : Bool
  sumsq : Bool
  moments : Bool
  deriving DecidableEq, Repr

/-- Every statistic. -/
def statAll : StatSel := ⟨true, true, true, true, true⟩

/-- The group record of up to 64 lanes, `none` in the lanes of invalid columns; only the operations of
the statistics selected are carried out and counted (R94, R97). -/
def groupRec (sel : StatSel) (g : Nat) (cols : List (Option F32)) : FpM (Option GroupRec) := do
  let cols := cols ++ List.replicate (64 - cols.length) none
  let zs := cols.filterMap id
  match zs with
  | [] => return none
  | z0 :: rest =>
    let n := zs.length
    let nan := zs.any f32IsNan
    let mx := if nan then nan32 else rest.foldl f32Max z0
    let am := (rest.map f32Abs).foldl f32Max (f32Abs z0)
    let r ← withSat do
      let es ← (if sel.expsum then do
          let l ← laneMap cols (fun z => do f32Exp (← f32Sub z mx))
          treeSum l
        else pure 0)
      let sq ← (if sel.sumsq then do
          let l ← laneMap cols (fun z => f32Mul z z)
          treeSum l
        else pure 0)
      if sel.moments then
        let l ← laneMap cols pure
        let s ← treeSum l
        let nf ← f32OfInt n
        let mean ← f32Div s nf
        let l2 ← laneMap cols (fun z => do
          let d ← f32Sub z mean
          f32Mul d d)
        let m2 ← treeSum l2
        return (es, sq, mean, m2)
      else return (es, sq, 0, 0)
    let (es, sq, mean, m2) := r.1
    return some ⟨mx, am, es, sq, mean, m2, n, g, nan, r.2⟩

/-- combine(P, Q) of R95. -/
def combineRec (sel : StatSel) (p q : GroupRec) : FpM GroupRec := do
  let m := f32Max p.max q.max
  let am := f32Max p.amax q.amax
  let n := p.count + q.count
  let r ← withSat do
    let es ← (if sel.expsum then do
        let e1 ← f32Exp (← f32Sub p.max m)
        let a ← f32Mul p.expsum e1
        let e2 ← f32Exp (← f32Sub q.max m)
        let b ← f32Mul q.expsum e2
        f32Add a b
      else pure 0)
    let sq ← (if sel.sumsq then f32Add p.sumsq q.sumsq else pure 0)
    if sel.moments then
      let delta ← f32Sub q.mean p.mean
      let qc ← f32OfInt q.count
      let pc ← f32OfInt p.count
      let nf ← f32OfInt n
      let mean ← f32Add p.mean (← f32Mul delta (← f32Div qc nf))
      let s ← f32Add p.m2 q.m2
      let w ← f32Div (← f32Mul pc qc) nf
      let m2 ← f32Add s (← f32Mul (← f32Mul delta delta) w)
      return (es, sq, mean, m2)
    else return (es, sq, 0, 0)
  let (es, sq, mean, m2) := r.1
  return ⟨m, am, es, sq, mean, m2, n, min p.group q.group, p.nan || q.nan, p.sat || q.sat || r.2⟩

/-- The left fold of group records in ascending group order (R95). -/
def foldRecs (sel : StatSel) : List GroupRec → FpM (Option GroupRec)
  | [] => pure none
  | r :: t => do
    let x ← t.foldlM (combineRec sel) r
    return some x

/-- The 32 bytes of a record, fields not enabled written as zero (R96). -/
def recBytes (sel : StatSel) (r : GroupRec) : List Byte :=
  let put (b : Bool) (v : Nat) := natLe 4 (if b then v else 0)
  put sel.max r.max ++ put sel.amax r.amax ++ put sel.expsum r.expsum ++ put sel.sumsq r.sumsq ++
  put sel.moments r.mean ++ put sel.moments r.m2 ++ natLe 4 r.count ++ natLe 2 r.group ++
  natLe 1 (b2n r.nan + 2 * b2n r.sat) ++ [0#8]

/-- Reads a record (R96). -/
def recOf (b : List Byte) : GroupRec :=
  let fl := fld b 30 1
  ⟨fld b 0 4, fld b 4 4, fld b 8 4, fld b 12 4, fld b 16 4, fld b 20 4, fld b 24 4, fld b 28 2, bit fl 0, bit fl 1⟩

end Sys2Proof.Machine
end

