-- ==== Sys2Proof/Machine/Epilogue.lean ====
section
/-! DEFINITION. The drain: epilogue block, scale and bias, statistics, conversion, MX output
(spec/03_matrix_engine.md R92 to R98, R543; spec/05_work_orders.md R163). -/

namespace Sys2Proof.Machine

/-- An epilogue block (R163). -/
structure Epi where
  flags : Nat
  round : Nat
  scale : F32
  bias : F32
  seed : Nat
  colScale : Option Place
  colBias : Option Place
  colMask : Option Place
  stats : Option Place
  statsStride : Nat
  statsIn : Option Place
  deriving DecidableEq, Repr

/-- The drain of a work order whose epilogue location is none (R163). -/
def epiNone : Epi := ⟨0, 0, one32, 0, 0, none, none, none, none, 0, none⟩

/-- SCALE_BIAS is set. -/
def epiScaleBias (e : Epi) : Bool := bit e.flags 0
/-- Some statistics step is enabled (R163). -/
def epiStats (e : Epi) : Bool := bits e.flags 7 3 != 0
/-- The statistics selected. -/
def epiSel (e : Epi) : StatSel := ⟨bit e.flags 3, bit e.flags 4, bit e.flags 5, bit e.flags 6, bit e.flags 7⟩

/-- Reads the 64 bytes of an epilogue block and makes its own checks (R163, R12). -/
def epiOf (x : Ctx) (b : List Byte) : Except Nat Epi := do
  let fl := fld b 0 2
  if 2048 ≤ fl ∨ 2 < fld b 2 1 ∨ !zeroFld b 3 1 ∨ !zeroFld b 52 4 then throw tcBadField
  let cs ← locOpt8 x (fld b 16 8)
  let cb ← locOpt8 x (fld b 24 8)
  let cm ← locOpt8 x (fld b 32 8)
  let sa ← locOpt8 x (fld b 40 8)
  let si ← locOpt8 x (fld b 56 8)
  let e : Epi := ⟨fl, fld b 2 1, fld b 4 4, fld b 8 4, fld b 12 4, cs, cb, cm, sa, fld b 48 4, si⟩
  if bit fl 0 ∧ bit fl 1 ∧ cs.isNone then throw tcBadField
  if bit fl 0 ∧ bit fl 2 ∧ cb.isNone then throw tcBadField
  if bit fl 9 ∧ cm.isNone then throw tcBadField
  if epiStats e ∧ sa.isNone then throw tcBadField
  if bit fl 8 ∧ bit fl 10 ∧ si.isNone then throw tcBadField
  return e

/-- Loads the epilogue block at an 8-byte location field (R163). -/
def epiLoad (s : State) (x : Ctx) (w : Nat) : Except Nat Epi :=
  if w = locNone then .ok epiNone
  else do
    let p ← locPlace8 x w
    match placeCheck x p 0 64 false with
    | some c => throw c
    | none =>
      match placePoison s x p 0 64 with
      | some c => throw c
      | none => epiOf x (placeRead s x p 0 64)

/-- Where and how a drain writes: tensor, logical position of its first element, logical width, epilogue, the tensor
scale rne(τ_A × τ_B) when an operand is tensor-scaled, the random values of SR. -/
structure Drain where
  out : TRef
  mBase : Nat
  nBase : Nat
  width : Nat
  epi : Epi
  tau : Option F32
  /-- the random value of SR for logical row, logical column and element index (R54; 08 R257) -/
  rnd : Nat → Nat → Nat → Nat
  /-- row of `out` of the first drained row -/
  row0 : Nat

/-- Shape rules of a drain of `n` columns: it holds whole statistics groups and whole MX blocks (R98, R543). -/
def drainShapeOk (d : Drain) (n : Nat) : Bool :=
  (!epiStats d.epi || (d.nBase % 64 == 0 && ((d.nBase + n) % 64 == 0 || d.nBase + n == d.width))) &&
  (!fmtMx d.out.fmt || (d.nBase % 32 == 0 && ((d.nBase + n) % 32 == 0 || d.nBase + n == d.width))) &&
  decide (d.nBase + n ≤ d.width)

/-- The accesses a drain of `m` rows and `n` columns makes: place, displacement, length, write. -/
def drainAccesses (d : Drain) (m n : Nat) : List (Place × Nat × Nat × Bool) :=
  let e := d.epi
  let vec (on : Bool) (p : Option Place) : List (Place × Nat × Nat × Bool) :=
    match on, p with
    | true, some p => [(p, 4 * d.nBase, 4 * n, false)]
    | _, _ => []
  let mask := match bit e.flags 9, e.colMask with
    | true, some p => [(p, d.nBase / 8, (d.nBase + n + 7) / 8 - d.nBase / 8, false)]
    | _, _ => []
  let rows := (List.range m).flatMap (fun i =>
    (rowSpans d.out (d.row0 + i) 0 n).map (fun q => (d.out.place, q.1, q.2, true)) ++
    (match epiStats e, e.stats with
      | true, some p =>
        if bit e.flags 10 then [(p, (d.mBase + i) * e.statsStride, 32, true)]
        else [(p, (d.mBase + i) * e.statsStride + 32 * (d.nBase / 64), 32 * ((n + 63) / 64), true)]
      | _, _ => []) ++
    (match bit e.flags 8 && bit e.flags 10, e.statsIn with
      | true, some p => [(p, (d.mBase + i) * e.statsStride, 32, false)]
      | _, _ => []))
  vec (epiScaleBias e && bit e.flags 1) e.colScale ++ vec (epiScaleBias e && bit e.flags 2) e.colBias ++ mask ++ rows

/-- The tile code a drain fails with before it has any effect. -/
def drainCheck (s : State) (x : Ctx) (d : Drain) (m n : Nat) : Option Nat :=
  if !drainShapeOk d n then some tcBadShape
  else
    let acc := drainAccesses d m n
    match acc.findSome? (fun a => placeCheck x a.1 a.2.1 a.2.2.1 a.2.2.2) with
    | some c => some c
    | none => acc.findSome? (fun a => if a.2.2.2 then none else placePoison s x a.1 a.2.1 a.2.2.1)

/-- Column masks of the drained columns: true where the column is valid (R94, R163). -/
def drainValid (s : State) (x : Ctx) (d : Drain) (n : Nat) : List Bool :=
  match bit d.epi.flags 9, d.epi.colMask with
  | true, some p =>
    (List.range n).map (fun j =>
      let c := d.nBase + j
      bit (fld (placeRead s x p (c / 8) 1) 0 1) (c % 8))
  | _, _ => List.replicate n true

/-- Scale and bias of one element (R92 step 2). -/
def scaleBias (e : Epi) (tau : Option F32) (sj bj y : F32) : FpM F32 := do
  if epiScaleBias e then
    let sg ← f32Mul (tau.getD one32) sj
    let p ← f32Mul y sg
    f32Add p bj
  else match tau with
    | some t => f32Mul y t
    | none => return y

/-- The per-column scales and biases of the drained columns. -/
def drainVecs (s : State) (x : Ctx) (d : Drain) (n : Nat) : List F32 × List F32 :=
  let e := d.epi
  let cs := match bit e.flags 1, e.colScale with
    | true, some p => if epiScaleBias e then vecF32 s x p d.nBase n else List.replicate n e.scale
    | _, _ => List.replicate n e.scale
  let cb := match bit e.flags 2, e.colBias with
    | true, some p => if epiScaleBias e then vecF32 s x p d.nBase n else List.replicate n e.bias
    | _, _ => List.replicate n e.bias
  (cs, cb)

/-- The rounding mode of column `j` of logical row `m` (R52, R54). -/
def drainMode (d : Drain) (m j : Nat) : Rounding :=
  match d.epi.round with
  | 0 => .rne
  | 1 => .rtz
  | _ => .sr (d.rnd m (d.nBase + j) (m * d.width + d.nBase + j))

/-- The group records of a drained row, from group `nBase / 64` (R94, R543). -/
def rowGroups (sel : StatSel) (g : Nat) : Nat → List (Option F32) → FpM (List GroupRec)
  | 0, _ => pure []
  | fuel + 1, cols => do
    if cols.isEmpty then return []
    let r ← groupRec sel g (cols.take 64)
    let t ← rowGroups sel (g + 1) fuel (cols.drop 64)
    return match r with
      | some r => r :: t
      | none => t

/-- The statistics writes of one row (R95, R96, R163). -/
def statWrites (s : State) (x : Ctx) (d : Drain) (i : Nat) (cols : List (Option F32)) : FpM (List WoWrite) := do
  match epiStats d.epi, d.epi.stats with
  | true, some p =>
    let sel := epiSel d.epi
    let gs ← rowGroups sel (d.nBase / 64) cols.length cols
    let base := (d.mBase + i) * d.epi.statsStride
    if bit d.epi.flags 10 then
      let carry := match bit d.epi.flags 8, d.epi.statsIn with
        | true, some q => [recOf (placeRead s x q base 32)]
        | _, _ => []
      match ← foldRecs sel (carry ++ gs) with
      | some r => return [(p, base, recBytes sel r)]
      | none => return []
    else return gs.map (fun r => (p, base + 32 * r.group, recBytes sel r))
  | _, _ => return []

/-- Converts the columns of a plain output row; an excluded column is 0 and counts nothing (R92 step 4). -/
def convPlain (code : Nat) (m : Nat → Rounding) : Nat → List (Option F32) → FpM (List Nat)
  | _, [] => pure []
  | j, none :: t => do return 0 :: (← convPlain code m (j + 1) t)
  | j, some z :: t => do
    let q ← convElem code (m j) z
    return q :: (← convPlain code m (j + 1) t)

/-- Converts the blocks of an MX or RB8 output row and gives their writes; a block with no valid column is not
written (R98). `b` counts blocks from the row's first. -/
def convBlocks (d : Drain) (row : Nat) (m : Nat → Rounding) : Nat → Nat → List (Option F32) → FpM (List WoWrite)
  | 0, _, _ => pure []
  | fuel + 1, b, cols => do
    if cols.isEmpty then return []
    let blk := cols.take 32
    let t ← convBlocks d row m fuel (b + 1) (cols.drop 32)
    if blk.all Option.isNone then return t
    let q ← encBlock (tCode d.out) (fun j => m (32 * b + j)) (blk ++ List.replicate (32 - blk.length) none)
    let e := elemSpan (tCode d.out) (32 * b) (32 * b + 32)
    return (d.out.place, row * d.out.stride + e.1, packElems (tCode d.out) q.2) ::
      (d.out.place, scaleAt d.out row b, natLe 1 q.1) :: t

/-- An INT32 pattern from an exact integer sum, saturated and counted (R68, R53). -/
def encExact (a : Int) : FpM Nat := encInt 32 2147483647 0 .rne (dyOf a 0)

/-- The writes of one drained row: `ys` holds the FP32 results, `exact` the integer sums of an INT32 output that is
taken from them (R68, R92). -/
def drainRow (s : State) (x : Ctx) (d : Drain) (i : Nat) (ys : List F32) (exact : Option (List Int)) :
    FpM (List WoWrite) := do
  let n := ys.length
  let valid := drainValid s x d n
  let v := drainVecs s x d n
  let zs ← (List.zip ys (List.zip v.1 v.2)).mapM (fun p => scaleBias d.epi d.tau p.2.1 p.2.2 p.1)
  let cols := List.zipWith (fun ok z => if ok then some z else none) valid zs
  let st ← statWrites s x d i cols
  let code := tCode d.out
  let mode := drainMode d (d.mBase + i)
  if fmtMx d.out.fmt then
    let w ← convBlocks d (d.row0 + i) mode n 0 cols
    return st ++ w
  else
    let qs ← (match exact with
      | some as => (List.zip as valid).mapM (fun p => if p.2 then encExact p.1 else pure 0)
      | none => convPlain code mode 0 cols)
    return st ++ [(d.out.place, (d.row0 + i) * d.out.stride, packElems code qs)]

/-- The writes of a drain of several rows. -/
def drainRows (s : State) (x : Ctx) (d : Drain) : Nat → List (List F32 × Option (List Int)) → FpM (List WoWrite)
  | _, [] => pure []
  | i, r :: t => do
    let w ← drainRow s x d i r.1 r.2
    let u ← drainRows s x d (i + 1) t
    return w ++ u

/-- An Old Town row: RNE(RNE(x × scale) + bias) under IEEE signs, then FP32 or BF16 (02 R74). -/
def otDrainRow (s : State) (x : Ctx) (d : Drain) (i : Nat) (ys : List F32) : FpM (List WoWrite) := do
  let v := drainVecs s x d ys.length
  let valid := drainValid s x d ys.length
  let qs ← (List.zip (List.zip ys valid) (List.zip v.1 v.2)).mapM (fun p => do
    let z ← (if epiScaleBias d.epi then do
        let t ← otMul p.1.1 p.2.1
        otAdd t p.2.2
      else pure p.1.1)
    if !p.1.2 then return 0
    else if tCode d.out = 1 then otBf16 z
    else if f32IsNan z then do
      countNonfin 1
      return nan32
    else return z)
  return [(d.out.place, (d.row0 + i) * d.out.stride, packElems (tCode d.out) qs)]

end Sys2Proof.Machine
end

