-- ==== Sys2Proof/Machine/Gemm.lean ====
section
/-! DEFINITION. What a work order computes: the common environment and outcome, GEMM and GROUPED_LOWRANK
(spec/05_work_orders.md R164 to R166; spec/03_matrix_engine.md R87 to R92; spec/02_number_formats_and_accumulation.md
R48, R65 to R74). -/

namespace Sys2Proof.Machine

/-- What a work order's arithmetic sees. -/
structure WoEnv where
  x : Ctx
  wo : List Byte
  /-- STEP of R54 -/
  step : Nat
  /-- the derived work order of a serving step that it is (08 R253) -/
  der : Option Derived
  /-- SCALE_EXP of a TENSOR entry of the open step's ledger (09 R296) -/
  scaleOf : Nat → Option Int
  /-- the exponent k of a tagged CONVERT for an entry, or the tile code of its refusal (09 R296, R297) -/
  convOf : Nat → Except Nat Int

/-- What a work order does. -/
structure WoOut where
  /-- tile code, with the poisoned line of a MEMORY_ERROR -/
  code : Nat
  writes : List WoWrite
  splits : Nat
  bypass : Bool
  /-- tensors read: rows and element range -/
  used : List (TRef × Nat × Nat × Nat)
  /-- elements for a reduction bucket: group, bucket, index and FP32 value (10 R342) -/
  supply : Option (Nat × Nat × List (Nat × F32))

/-- A work order that fails without effect. -/
def woErr (e : Nat) : WoOut := ⟨e, [], 0, false, [], none⟩

/-- A work order that completes with the writes given. -/
def woDone (ws : List WoWrite) : WoOut := ⟨0, ws, 0, false, [], none⟩

/-- The FP32 value 2^k. -/
def pow2F32 (k : Int) : F32 := fpVal (f32Round ⟨false, 1, k⟩)

/-- A ledger tag names the entry (09 R296). -/
def ledgerTag (w : F32) : Option Nat := if 0x7F800001 ≤ w ∧ w ≤ 0x7F80FFFF then some (w - 0x7F800001) else none

/-- A TAU field with a ledger tag replaced by 2^−k (09 R296). -/
def tauOf (v : WoEnv) (w : F32) : Except Nat F32 :=
  match ledgerTag w with
  | none => .ok w
  | some i => match v.scaleOf i with
    | some k => .ok (pow2F32 (-k))
    | none => .error tcBadField

/-- The 16-bit random value of stochastic rounding: R54, or 08 R257 for a row of a serving batch. -/
def woRandom (v : WoEnv) (mBase seed : Nat) (m j e : Nat) : Nat :=
  let tid := fld v.wo 24 4
  match v.der.filter (·.marked) with
  | none => srRandom tid seed v.step e
  | some d =>
    let p := d.keys.getD (m - mBase) (0, 0)
    philoxWord (philox tid seed (j / 4) p.1 (p.2 % 2 ^ 32) (p.2 / 2 ^ 32)) (j % 4) % 2 ^ 16

/-- The two operand formats may meet in one product (02 R48, R69, R70). -/
def pairOk (a b : Nat) : Bool :=
  (decide (3 ≤ a) && decide (a ≤ 7) && decide (3 ≤ b) && decide (b ≤ 7)) ||
  (a == b && (a == 0 || a == 1 || a == 2 || a == 8 || a == 9 || a == 0x0B))

/-- Stops on the first error among several. -/
def firstErr : List (Option Nat) → Except Nat Unit
  | [] => .ok ()
  | some e :: _ => .error e
  | none :: t => firstErr t

/-- Fails with `e` unless the condition holds. -/
def need (b : Bool) (e : Nat) : Except Nat Unit := if b then .ok () else .error e

/-- Rows 0 to `n − 1` of a tensor can be read over elements `[lo, hi)`. -/
def readable (s : State) (x : Ctx) (t : TRef) (n lo hi : Nat) : Except Nat Unit :=
  firstErr [rowsCheck x t n lo hi false, rowsPoison s x t n lo hi]

/-- `len` bytes at an 8-byte location can be read. -/
def readablePlace (s : State) (x : Ctx) (p : Place) (disp len : Nat) : Except Nat Unit :=
  firstErr [placeCheck x p disp len false, placePoison s x p disp len]

/-- The operand vector of elements `[lo, hi)` of row `r`; `lo` is a multiple of 32. -/
def rowVec (s : State) (x : Ctx) (t : TRef) (r lo hi : Nat) : PassVec :=
  passVec t.fmt (rowRaw s x t r lo hi) (rowScales s x t r lo hi)

/-- Elements `[a, b)` of a vector, with its bound unchanged. -/
def sliceVec (p : PassVec) (a b : Nat) : PassVec :=
  { p with vals := (p.vals.drop a).take (b - a), lows := (p.lows.drop a).take (b - a) }

/-- Every second element. -/
def evens {α : Type} : List α → List α
  | a :: _ :: t => a :: evens t
  | l => l

/-- A complex operand from an interleaved vector: real and imaginary parts, each with its own 16-bit bound (02 R71). -/
def cplxOf (t : TRef) (p : PassVec) : CplxVec :=
  let part (vals lows : List (Option Dy)) : PassVec :=
    let c := tCode t
    ⟨vals, lows, if fmtMx t.fmt then p.bound else if c = 0 ∨ c = 1 then bound16 (-126) vals
      else if c = 2 then bound16 (-14) vals else p.bound⟩
  ⟨part (evens p.vals) (evens p.lows), part (evens (p.vals.drop 1)) (evens (p.lows.drop 1))⟩

/-- Number of passes of a reduction (02 R65). -/
def passesOf (k : Nat) : Nat := ceilDiv k (2 ^ 20)

/-- The FP32 result of a dot product over the whole reduction `[0, k)` of two rows (02 R65). -/
def dotRows (s : State) (x : Ctx) (a b : TRef) (i j k : Nat) : FpM F32 := do
  let rs ← (List.range (passesOf k)).mapM (fun q => do
    let lo := q * 2 ^ 20
    let hi := min k (lo + 2 ^ 20)
    winF32 (passReal (tCode a) (tCode b) (rowVec s x a i lo hi) (rowVec s x b j lo hi)))
  foldPasses rs

/-- Arrays or Bypass: 7 rows or fewer, not complex, not Old Town, not forced (03 R89). -/
def onBypass (rows : Nat) (wo : List Byte) (cplx : Bool) : Bool :=
  decide (rows ≤ 7) && !cplx && !woOldTown wo && !woForce wo

/-! ### GEMM (R164, R165) -/

/-- The fields of a GEMM. -/
structure GemmOp where
  a : TRef
  b : TRef
  c : TRef
  m : Nat
  n : Nat
  k : Nat
  mBase : Nat
  nBase : Nat
  kBase : Nat
  width : Nat
  kTotal : Nat
  mode : Nat
  tauA : F32
  tauB : F32
  epi : Epi
  window : Bool

/-- The output tensor of a GEMM; with LOC 3 its FORMAT and STRIDE are ignored (10 R342). -/
def gemmOut (x : Ctx) (wo : List Byte) : Except Nat TRef :=
  if bits (fld wo 64 6) 47 46 = 3 ∧ fld wo 64 6 ≠ locNone then
    match locPlace x (fld wo 64 6) with
    | .ok p => if 3 ≤ fld wo 71 1 then .error tcBadField else .ok ⟨p, 0, fld wo 71 1, 0, 0, 0⟩
    | .error e => .error e
  else tensorRef x wo 64

/-- The reduction range is one that R165 allows. -/
def gemmRangeOk (window : Bool) (k kBase kTotal : Nat) : Bool :=
  if window then
    let lo := kBase / 2 ^ 20 * 2 ^ 20
    let hi := min (lo + 2 ^ 20) kTotal
    decide (1 ≤ k) && decide (kBase + k ≤ hi) && decide (k < hi - lo)
  else kBase == 0 && k == kTotal

/-- Reads and checks the fields of a GEMM (R149, R160, R164, R165; 02 R74). -/
def gemmOp (s : State) (v : WoEnv) : Except Nat GemmOp := do
  let wo := v.wo
  let ops := fld wo 108 1
  let mode := ops % 4
  need (decide (ops < 16) && mode != 3 && zeroFld wo 109 3) tcBadField
  let a ← tensorRef v.x wo 32
  let b ← tensorRef v.x wo 48
  let c ← gemmOut v.x wo
  let m := fld wo 80 2
  let n := fld wo 82 2
  let kT := fld wo 104 4
  need (pairOk (tCode a) (tCode b)) tcBadFormat
  let win := tCode c == 0x0C
  let bucket := match c.place with
    | .bucket _ _ => true
    | _ => false
  need (tCode c != 0x0D || fmtMx c.fmt) tcBadFormat
  if mode = 2 then need (tCode a == 1 || tCode a == 2) tcBadFormat
  need (!(win && mode != 0)) tcBadFormat
  if woOldTown wo then need (tCode a == 1 && mode == 0 && (bucket || (tCode c ≤ 1 && !fmtMx c.fmt))) tcBadFormat
  need (decide (1 ≤ m) && decide (1 ≤ n) && decide (1 ≤ kT) && m % (bits ops 3 2 + 1) == 0) tcBadShape
  need (gemmRangeOk win (fld wo 84 4) (fld wo 96 4) kT) tcBadShape
  need (decide (fld wo 92 4 + n ≤ fld wo 100 4)) tcBadShape
  need ((fmtTscaled a.fmt || fld wo 112 4 == one32) && (fmtTscaled b.fmt || fld wo 116 4 == one32)) tcBadField
  let ta ← tauOf v (fld wo 112 4)
  let tb ← tauOf v (fld wo 116 4)
  let e ← (if win then .ok epiNone else epiLoad s v.x (fld wo 120 8))
  if woOldTown wo then need (e.round == 0 && !epiStats e && !bit e.flags 9) tcBadField
  return ⟨a, b, c, m, n, fld wo 84 4, fld wo 88 4, fld wo 92 4, fld wo 96 4, fld wo 100 4, kT, mode, ta, tb, e, win⟩

/-- Columns written for each column of the product: two for a complex one (03 R88). -/
def gemmWide (g : GemmOp) : Nat := if g.mode = 0 then 1 else 2

/-- The reduction range whose operands a GEMM reads: a WINDOW tile reads the whole pass for its bounds (R165). -/
def gemmReads (g : GemmOp) : Nat × Nat :=
  if g.window then
    let lo := g.kBase / 2 ^ 20 * 2 ^ 20
    (lo, min (lo + 2 ^ 20) g.kTotal)
  else (0, g.kTotal * gemmWide g)

/-- The drain of a GEMM. -/
def gemmDrain (v : WoEnv) (g : GemmOp) (tau : Option F32) : Drain :=
  let w := gemmWide g
  ⟨g.c, g.mBase, g.nBase * w, g.width * w, g.epi, tau, woRandom v g.mBase g.epi.seed, 0⟩

/-- The tile code a GEMM fails with before it computes. -/
def gemmCheck (s : State) (v : WoEnv) (g : GemmOp) : Except Nat Unit := do
  let (lo, hi) := gemmReads g
  readable s v.x g.a g.m lo hi
  readable s v.x g.b g.n lo hi
  if g.window then
    firstErr [rowsCheck v.x g.c g.m 0 g.n true]
  else
    match g.c.place with
    | .bucket _ _ => need (drainShapeOk { gemmDrain v g none with out := { g.c with fmt := 0 } } (g.n * gemmWide g)) tcBadShape
    | _ => match drainCheck s v.x (gemmDrain v g none) g.m (g.n * gemmWide g) with
      | some e => throw e
      | none => return ()

/-- The WINDOW records of a tile (02 R62). -/
def gemmWindows (s : State) (v : WoEnv) (g : GemmOp) : List WoWrite :=
  let (lo, hi) := gemmReads g
  let cols := (List.range g.n).map (fun j => sliceVec (rowVec s v.x g.b j lo hi) (g.kBase - lo) (g.kBase - lo + g.k))
  (List.range g.m).map (fun i =>
    let r := sliceVec (rowVec s v.x g.a i lo hi) (g.kBase - lo) (g.kBase - lo + g.k)
    (g.c.place, i * g.c.stride, (cols.map (fun y => winBytes (passReal (tCode g.a) (tCode g.b) r y))).flatten))

/-- The complex results of one output element over every pass (02 R71; 03 R88). -/
def dotCplx (s : State) (x : Ctx) (g : GemmOp) (i j : Nat) : FpM (F32 × F32) := do
  let rs ← (List.range (passesOf g.kTotal)).mapM (fun q => do
    let lo := q * 2 ^ 21
    let hi := min (2 * g.kTotal) (lo + 2 ^ 21)
    let p := cplxOf g.a (rowVec s x g.a i lo hi)
    let r := cplxOf g.b (rowVec s x g.b j lo hi)
    let w := if g.mode = 2 then passGauss (tCode g.a) p r else passCplx4 (tCode g.a) (tCode g.b) p r
    return (← winF32 w.1, ← winF32 w.2))
  return (← foldPasses (rs.map (·.1)), ← foldPasses (rs.map (·.2)))

/-- An INT32 output is taken from the exact integer sum (02 R68). -/
def gemmExact (g : GemmOp) : Bool :=
  (tCode g.a == 8 || tCode g.a == 9) && tCode g.c == 0x0A && g.mode == 0 && decide (g.kTotal ≤ 2 ^ 20) && !epiScaleBias g.epi

/-- One output row of a GEMM: FP32 results and, where R68 asks, exact sums. -/
def gemmRow (s : State) (v : WoEnv) (g : GemmOp) (i : Nat) : FpM (List F32 × Option (List Int)) := do
  if woOldTown v.wo then
    let xs := rowVals s v.x g.a i g.kTotal
    let r ← (List.range g.n).mapM (fun j => otDot xs (rowVals s v.x g.b j g.kTotal))
    return (r, none)
  else if g.mode = 0 then
    if gemmExact g then
      let ws := (List.range g.n).map (fun j =>
        passReal (tCode g.a) (tCode g.b) (rowVec s v.x g.a i 0 g.kTotal) (rowVec s v.x g.b j 0 g.kTotal))
      let r ← ws.mapM winF32
      return (r, some (ws.map (·.a)))
    else
      let r ← (List.range g.n).mapM (fun j => dotRows s v.x g.a g.b i j g.kTotal)
      return (r, none)
  else
    let r ← (List.range g.n).mapM (fun j => dotCplx s v.x g i j)
    return (r.flatMap (fun z => [z.1, z.2]), none)

/-- A drained row that feeds a bucket: its statistics and its FP32 elements (10 R342). -/
def supplyRow (s : State) (v : WoEnv) (d : Drain) (ot : Bool) (i : Nat) (ys : List F32) :
    FpM (List WoWrite × List F32) := do
  let vec := drainVecs s v.x d ys.length
  let valid := drainValid s v.x d ys.length
  let zs ← (List.zip ys (List.zip vec.1 vec.2)).mapM (fun p =>
    if ot then (if epiScaleBias d.epi then do
        let t ← otMul p.1 p.2.1
        otAdd t p.2.2
      else pure p.1)
    else scaleBias d.epi d.tau p.2.1 p.2.2 p.1)
  let cols := List.zipWith (fun ok z => if ok then some z else none) valid zs
  let st ← statWrites s v.x d i cols
  return (st, cols.map (fun c => c.getD 0))

/-- The bucket elements of a drained tile (10 R342). -/
def supplyRows (s : State) (v : WoEnv) (g : GemmOp) (d : Drain) :
    Nat → List (List F32 × Option (List Int)) → FpM (List WoWrite × List (Nat × F32))
  | _, [] => pure ([], [])
  | i, r :: t => do
    let a ← supplyRow s v d (woOldTown v.wo) i r.1
    let b ← supplyRows s v g d (i + 1) t
    return (a.1 ++ b.1, a.2.zipIdx.map (fun p => ((d.mBase + i) * d.width + d.nBase + p.2, p.1)) ++ b.2)

/-- Old Town rows of a tile. -/
def otRows (s : State) (v : WoEnv) (d : Drain) : Nat → List (List F32 × Option (List Int)) → FpM (List WoWrite)
  | _, [] => pure []
  | i, r :: t => do return (← otDrainRow s v.x d i r.1) ++ (← otRows s v d (i + 1) t)

/-- GEMM (R164, R165). -/
def gemmBody (s : State) (v : WoEnv) : FpM WoOut := do
  match gemmOp s v with
  | .error e => return woErr e
  | .ok g =>
    match gemmCheck s v g with
    | .error e => return woErr e
    | .ok _ =>
      let used := [(g.a, g.m, (gemmReads g).1, (gemmReads g).2), (g.b, g.n, (gemmReads g).1, (gemmReads g).2)]
      let byp := onBypass g.m v.wo (g.mode != 0)
      if g.window then return { woDone (gemmWindows s v g) with bypass := byp, used := used }
      let tau ← (if fmtTscaled g.a.fmt || fmtTscaled g.b.fmt then do return some (← f32Mul g.tauA g.tauB) else pure none)
      let d := gemmDrain v g tau
      let rows ← (List.range g.m).mapM (gemmRow s v g)
      let splits := if woOldTown v.wo then 0 else passesOf g.kTotal - 1
      match g.c.place with
      | .bucket grp bkt =>
        let r ← supplyRows s v g d 0 rows
        return { woDone r.1 with splits := splits, bypass := byp, used := used, supply := some (grp, bkt, r.2) }
      | _ =>
        let ws ← (if woOldTown v.wo then otRows s v d 0 rows else drainRows s v.x d 0 rows)
        return { woDone ws with splits := splits, bypass := byp, used := used }

/-! ### GROUPED_LOWRANK (R166) -/

/-- A bound version, with the entry's KIND (R142; 07 R235). -/
def versionOf (s : State) (b : Nat × Nat) : Option (Nat × AdVersion) :=
  match tblGet s.gaz.entries b.1 with
  | some e =>
    match e.cur.filter (fun a => a.version == b.2) with
    | some a => some (e.kind, a)
    | none => (s.gaz.drains.find? (fun r => r.handle == b.1 && r.ver.version == b.2)).map (fun r => (e.kind, r.ver))
  | none => none

/-- The binding that a group names: by its handle, or in a derived group table by the binding's index (R142; 08 R255). -/
def boundVersion (s : State) (v : WoEnv) (h : Nat) : Option (Nat × AdVersion) :=
  (if v.der.isSome then v.x.run.bindings[h]? else v.x.run.bindings.find? (fun b => b.1 == h)).bind (versionOf s)

/-- A part of a version as a tensor: rows at the smallest legal stride, an MX scale array at the first 64-byte boundary
after them (07 R220). -/
def partRef (a : AdVersion) (p : AdPart) : TRef :=
  let b := rowBytes (fmtCode a.fmt) p.cols
  let st := if fmtMx a.fmt then roundUp b 96 else b
  ⟨.court (a.poolAt.getD 0 + p.off), a.fmt, 0, st, if fmtMx a.fmt then roundUp (p.rows * st) 64 else 0, 0⟩

/-- The part of a version at (LAYER, PART, PROJ) (R142). -/
def partOf (a : AdVersion) (layer part proj : Nat) : Option AdPart :=
  a.parts.find? (fun p => p.layer == layer && p.part == part && (part == 5 || p.proj == proj))

/-- A group of a GROUPED_LOWRANK: first row, rows, handle. -/
abbrev GlrGroup := Nat × Nat × Nat

/-- The group table is sorted, does not overlap and stays inside the rows (R166). -/
def glrGroupsOk (rows : Nat) : Nat → List GlrGroup → Except Nat Unit
  | _, [] => .ok ()
  | lo, g :: t =>
    if g.2.1 = 0 ∨ g.1 < lo then .error tcBadField
    else if rows < g.1 + g.2.1 then .error tcBadShape
    else glrGroupsOk rows (g.1 + g.2.1) t

/-- The fields of a GROUPED_LOWRANK. -/
structure GlrOp where
  x : TRef
  y : TRef
  groups : List GlrGroup
  layer : Nat
  proj : Nat
  dIn : Nat
  dOut : Nat
  rows : Nat
  h : Nat
  epi : Epi

/-- The groups that name an adaptation, with its kind and bound version; a handle that the run does not bind fails. -/
def glrBound (s : State) (v : WoEnv) : List GlrGroup → Except Nat (List (GlrGroup × Nat × AdVersion))
  | [] => .ok []
  | g :: t => do
    if g.2.2 = 0xFFFF then glrBound s v t
    else
      match boundVersion s v g.2.2 with
      | none => throw tcBadField
      | some (kind, a) =>
        if kind ≠ 1 ∧ kind ≠ 3 then throw tcBadField
        let r ← glrBound s v t
        return (g, kind, a) :: r

/-- The group table (R166; 08 R253). -/
def glrTable (s : State) (v : WoEnv) (cnt : Nat) : Except Nat (List GlrGroup) := match v.der with
  | some d => .ok d.groups
  | none => do
    need (fld v.wo 64 8 != locNone) tcBadField
    let p ← locPlace8 v.x (fld v.wo 64 8)
    readablePlace s v.x p 0 (8 * cnt)
    let b := placeRead s v.x p 0 (8 * cnt)
    return (List.range cnt).map (fun i => (fld b (8 * i) 4, fld b (8 * i + 4) 2, fld b (8 * i + 6) 2))

/-- Reads and checks the fields of a GROUPED_LOWRANK (R149, R160, R166). -/
def glrOp (s : State) (v : WoEnv) : Except Nat GlrOp := do
  let wo := v.wo
  need (zeroFld wo 90 6 && zeroFld wo 104 24) tcBadField
  let x ← tensorRef v.x wo 32
  let y ← tensorRef v.x wo 48
  let cnt := fld wo 72 2
  let rows := fld wo 84 4
  let h := fld wo 89 1
  need (v.der.isSome || (decide (1 ≤ cnt) && decide (cnt ≤ 4096))) tcBadField
  need ((h == 1 || h == 2) && (y.fmt == 0 || y.fmt == 1)) tcBadFormat
  need (decide (1 ≤ fld wo 76 4) && decide (1 ≤ fld wo 80 4) && decide (1 ≤ rows)) tcBadShape
  let gs ← glrTable s v cnt
  glrGroupsOk rows 0 gs
  let e ← epiLoad s v.x (fld wo 96 8)
  if woOldTown wo then need (tCode x == 1) tcBadFormat
  return ⟨x, y, gs, fld wo 74 2, fld wo 88 1, fld wo 76 4, fld wo 80 4, rows, h, e⟩

/-- The drain of a group's rewritten rows. -/
def glrDrain (v : WoEnv) (g : GlrOp) (row0 : Nat) : Drain :=
  ⟨g.y, row0, 0, g.dOut, g.epi, none, woRandom v 0 g.epi.seed, row0⟩

/-- The rows of a group of a LOWRANK adaptation: y' = rne(y + rne(α × t)) (R166). -/
def glrLow (s : State) (v : WoEnv) (g : GlrOp) (a : AdVersion) (d u : TRef) (i : Nat) : FpM (List F32) := do
  let y := rowF32 s v.x g.y i g.dOut
  let dot (p q : TRef) (r c n : Nat) : FpM F32 :=
    if woOldTown v.wo then otDot (rowVals s v.x p r n) (rowVals s v.x q c n) else dotRows s v.x p q r c n
  let hs ← (List.range a.rank).mapM (fun q => do convElem g.h .rne (← dot g.x d i q g.dIn))
  let hv := passVec g.h hs []
  (y.zipIdx).mapM (fun p => do
    let t ← (if woOldTown v.wo then otDot hv.vals (rowVals s v.x u p.2 a.rank)
      else winF32 (passReal g.h (fmtCode a.fmt) hv (rowVec s v.x u p.2 0 a.rank)))
    f32Add p.1 (← f32Mul a.alpha t))

/-- The rows of a group of a SCALING adaptation: y' = rne(y × s_j) (R166). -/
def glrScale (s : State) (v : WoEnv) (g : GlrOp) (sv : List F32) (i : Nat) : FpM (List F32) :=
  (List.zip (rowF32 s v.x g.y i g.dOut) sv).mapM (fun p => f32Mul p.1 p.2)

/-- The rows a group rewrites, or none when it leaves them unchanged; the error is the tile code (R166). -/
def glrGroup (s : State) (v : WoEnv) (g : GlrOp) (b : GlrGroup × Nat × AdVersion) :
    Except Nat (Option (Bool × FpM (List (List F32)))) := do
  let (gr, kind, a) := b
  let rows := (List.range gr.2.1).map (fun i => gr.1 + i)
  if kind = 1 then
    match partOf a g.layer 1 g.proj, partOf a g.layer 2 g.proj with
    | some dp, some up =>
      let c := fmtCode a.fmt
      need (pairOk (tCode g.x) c && pairOk g.h c && !(woOldTown v.wo && c != 1)) tcBadFormat
      let d := partRef a dp
      let u := partRef a up
      readable s v.x d a.rank 0 g.dIn
      readable s v.x u g.dOut 0 a.rank
      return some (true, rows.mapM (glrLow s v g a d u))
    | _, _ => return none
  else
    match partOf a g.layer 3 g.proj with
    | some sp =>
      let t := partRef a sp
      readable s v.x t 1 0 g.dOut
      return some (false, rows.mapM (glrScale s v g (rowF32 s v.x t 0 g.dOut)))
    | none => return none

/-- The groups in order; a group that fails leaves the writes of those before it (R161, R166). -/
def glrGroups (s : State) (v : WoEnv) (g : GlrOp) : List (GlrGroup × Nat × AdVersion) → WoOut → FpM WoOut
  | [], o => pure o
  | b :: t, o => do
    match glrGroup s v g b with
    | .error e => return { o with code := e }
    | .ok none => glrGroups s v g t o
    | .ok (some (low, rows)) =>
      let rs ← rows
      let d := glrDrain v g b.1.1
      let ws ← (if woOldTown v.wo then otRows s v d 0 (rs.map (fun r => (r, none)))
        else drainRows s v.x d 0 (rs.map (fun r => (r, none))))
      glrGroups s v g t { o with writes := o.writes ++ ws, bypass := o.bypass || (low && onBypass b.1.2.1 v.wo false) }

/-- GROUPED_LOWRANK (R166). -/
def glrBody (s : State) (v : WoEnv) : FpM WoOut := do
  match glrOp s v with
  | .error e => return woErr e
  | .ok g =>
    match glrBound s v g.groups with
    | .error e => return woErr e
    | .ok bs =>
      let chk : Except Nat Unit := do
        readable s v.x g.x g.rows 0 g.dIn
        readable s v.x g.y g.rows 0 g.dOut
        firstErr (bs.map (fun b => drainCheck s v.x (glrDrain v g b.1.1) b.1.2.1 g.dOut))
      match chk with
      | .error e => return woErr e
      | .ok _ => glrGroups s v g bs { woDone [] with used := [(g.x, g.rows, 0, g.dIn)] }

end Sys2Proof.Machine
end

