-- ==== Sys2Proof/Machine/Security.lean ====
section
/-! DEFINITION. Key installation, package signers and attestation
(spec/14_security_and_attestation.md R447 to R450, R459, R463 to R469). -/

namespace Sys2Proof.Machine

/-! ### GET_COURT_KEY (R447) -/

/-- Effect of GET_COURT_KEY. -/
def getCourtKeyBody (c : Cmd) (s : State) : State × Did :=
  match keysOf s c.q.owner with
  | none => failWith s stCourtNotReady
  | some k => (s, .fin (finReply (natLe 4 (epochOf s c.q.owner) ++ natLe 2 1 ++ zeros 2 ++ padTo 1568 k.kemEk)))

/-- GET_COURT_KEY (R447). -/
def execGetCourtKey (q : QId) (cid : Nat) (s : State) : Res :=
  .next (runCmd opGetCourtKey q cid (fun _ => 16) [(12, 4)] getCourtKeyBody s)

/-! ### INSTALL_WRAPPED_KEY (R448 to R451) -/

/-- Bytes of the layout: OP 2 uses bytes 0 to 15 only (R448). -/
def wrapLay (c : Cmd) : Nat := if fld c.pb 0 1 = 2 then 16 else 1648

/-- The fields are in range (R448). -/
def wrapOk (pb : List Byte) : Bool :=
  let kind := fld pb 1 1
  decide (1 ≤ kind) && decide (kind ≤ 3) && ((kind == 1) == (fld pb 8 8 == 0)) && zeroFld pb 2 2

/-- The wrapped key, where decapsulation and authentication succeed (R449). -/
def unwrap (c : Nat) (k : CourtKeys) (pb : List Byte) : Option (List Byte) :=
  let ss := padTo 32 (Config.kemDecap k.kemDk (slice pb 16 1568))
  let kek := kdf ss "ralio-wrap" (natLe 1 c ++ slice pb 4 4 ++ slice pb 1 1 ++ slice pb 8 8)
  (Config.gcmOpen kek (slice pb 1584 12) (pb.take 16) (slice pb 1600 32) (slice pb 1632 16)).map (padTo 32)

/-- Installs a transport key: the current one becomes superseded (R449, R451). -/
def installTransport (c : Nat) (key nonce : List Byte) (s : State) : State :=
  purgeOld c { s with sec.courts := tblModify s.sec.courts c (fun k =>
    { k with old := k.cur, cur := some ⟨k.installs + 1, key, nonce, 0, 0⟩, installs := k.installs + 1 }) }

/-- Effect of OP 1 (R449, R450). -/
def installBody (c : Cmd) (s : State) : State × Did :=
  let n := c.q.owner
  let kind := fld c.pb 1 1
  let id := fld c.pb 8 8
  if fld c.pb 0 1 ≠ 1 ∨ !wrapOk c.pb ∨ !zeroFld c.pb 1596 4 then failWith s stInvalidField
  else match keysOf s n with
    | none => failWith s stCourtNotReady
    | some k =>
      if fld c.pb 4 4 ≠ epochOf s n then failWith s stStateConflict
      else if kind ≠ 1 ∧ k.keys.any (fun w => w.id == id) then failWith s stStateConflict
      else if kind = 1 ∧ k.old.isSome then failWith s stStateConflict
      else if kind ≠ 1 ∧ 256 ≤ k.keys.length then failWith s stLimitExceeded
      else match unwrap n k c.pb with
        | none => failWith s stKeyUnwrapFailed
        | some key =>
          if kind = 1 then
            let d := draw 16 s
            (installTransport n key d.1 d.2, .fin (finRes stSuccess d.1))
          else
            ({ s with sec.courts := tblModify s.sec.courts n (fun k => { k with keys := k.keys ++ [⟨kind == 3, id, key⟩] }) },
              .fin (finRes stSuccess (natLe 8 id)))

/-- A formed group of the Court names the group key (R450). -/
def groupNames (s : State) (c id : Nat) : Bool :=
  s.grps.any (fun p => p.1 / 65536 == c && p.2.state != .forming && fld p.2.pb 40 8 == id)

/-- Effect of OP 2 (R450). -/
def removeKeyBody (c : Cmd) (s : State) : State × Did :=
  let n := c.q.owner
  let kind := fld c.pb 1 1
  let id := fld c.pb 8 8
  if !wrapOk c.pb ∨ kind = 1 then failWith s stInvalidField
  else match keysOf s n with
    | none => failWith s stCourtNotReady
    | some k =>
      if fld c.pb 4 4 ≠ epochOf s n then failWith s stStateConflict
      else if !k.keys.any (fun w => w.id == id && w.group == (kind == 3)) then (s, .fin (finSt stAlreadyDone))
      else if kind = 3 ∧ groupNames s n id then failWith s stStateConflict
      else
        ({ s with sec.courts := tblModify s.sec.courts n (fun k =>
            { k with keys := k.keys.filter (fun w => !(w.id == id && w.group == (kind == 3))) }) },
          .fin (finSt stSuccess))

/-- The command's field selects this row. -/
def pbIs (s : State) (q : QId) (cid : Nat) (f : List Byte → Bool) : Bool := match findCmd s q cid with
  | none => false
  | some c => f c.pb

/-- INSTALL_WRAPPED_KEY with OP 1, or with an OP out of range (R448 to R450). -/
def execInstallWrappedKeyInstall (q : QId) (cid : Nat) (s : State) : Res :=
  .next (if pbIs s q cid (fun b => fld b 0 1 != 2) then runCmd opInstallWrappedKey q cid wrapLay [] installBody s else s)

/-- INSTALL_WRAPPED_KEY with OP 2 (R448, R450). -/
def execInstallWrappedKeyRemove (q : QId) (cid : Nat) (s : State) : Res :=
  .next (if pbIs s q cid (fun b => fld b 0 1 == 2) then runCmd opInstallWrappedKey q cid wrapLay [] removeKeyBody s else s)

/-! ### REGISTER_SIGNER (R459) -/

/-- The signers of a Court. -/
def signersOf (s : State) (c : Nat) : List (List Byte) := tblGetD s.sec.signers c []

/-- KEY_ID of a public key: the first 8 bytes of its SHA-256 (05 R139). -/
def keyIdOf (pk : List Byte) : Nat := leNat ((sha256 pk).take 8)

/-- AUTH is as R459 asks: none, or the status of the failure. -/
def signerAuth (s : State) (c : Cmd) : Option Nat :=
  if confCourt s c.q.owner then
    match transportKey s c.q.owner c.kt with
    | none => some stNotPermitted
    | some t =>
      let mac := hmac (kdf t.key "ralio-signer" t.nonce) (slice c.pb 0 1 ++ slice c.pb 8 32)
      if slice c.pb 40 16 = mac.take 16 then none else some stNotPermitted
  else if zeroFld c.pb 40 16 then none else some stInvalidField

/-- Effect of REGISTER_SIGNER. -/
def signerBody (c : Cmd) (s : State) : State × Did :=
  let n := c.q.owner
  let op := fld c.pb 0 1
  let pk := slice c.pb 8 32
  let l := signersOf s n
  if (op ≠ 1 ∧ op ≠ 2) ∨ fld c.pb 2 2 ≠ 1 then failWith s stInvalidField
  else match signerAuth s c with
    | some st => failWith s st
    | none =>
      if op = 1 then
        if l.contains pk then (s, .fin (finSt stAlreadyDone))
        else if 16 ≤ l.length then failWith s stLimitExceeded
        else ({ s with sec.signers := tblSet s.sec.signers n (l ++ [pk]) }, .fin (finSt stSuccess))
      else if !l.contains pk then (s, .fin (finSt stAlreadyDone))
      else ({ s with sec.signers := tblSet s.sec.signers n (l.filter (fun x => x != pk)) }, .fin (finSt stSuccess))

/-- REGISTER_SIGNER with OP 1, or with an OP out of range (R459). -/
def execRegisterSignerAdd (q : QId) (cid : Nat) (s : State) : Res :=
  .next (if pbIs s q cid (fun b => fld b 0 1 != 2) then
    runCmd opRegisterSigner q cid (fun _ => 56) [(1, 1), (4, 4)] signerBody s else s)

/-- REGISTER_SIGNER with OP 2 (R459). -/
def execRegisterSignerRemove (q : QId) (cid : Nat) (s : State) : Res :=
  .next (if pbIs s q cid (fun b => fld b 0 1 == 2) then
    runCmd opRegisterSigner q cid (fun _ => 56) [(1, 1), (4, 4)] signerBody s else s)

/-! ### Attestation (R463 to R468) -/

/-- The Court that owns a handle (07 R215; 13 R415). -/
def handleCourt (s : State) (h : Nat) : Option Nat :=
  (s.courts.find? (fun p => decide (p.2.unit0 ≤ h / 256) && decide (h / 256 < p.2.unit0 + p.2.units))).map (·.1)

/-- A measurement entry (R466). -/
def measEntry (type flags index version id : Nat) (hash : List Byte) : List Byte :=
  natLe 1 type ++ natLe 1 flags ++ natLe 2 index ++ natLe 4 version ++ natLe 8 id ++ padTo 32 hash

/-- The image staged in the slot that is not selected (16 R503). -/
def stagedImage (s : State) : Option FwImage :=
  if s.flash.staged && !s.flash.uncommitted then (if s.flash.select = 0 then s.flash.slotB else s.flash.slotA) else none

/-- Entries of one firmware component, running then staged (R466, R468). -/
def fwEntries (type : Nat) (run stg : Option FwComp) : List (List Byte) :=
  (match run with
    | some f => [measEntry type 0 0 f.version 0 f.hash]
    | none => []) ++
  (match stg with
    | some f => [measEntry type 1 0 f.version 0 f.hash]
    | none => [])

/-- The firmware entries of every report. -/
def firmwareEntries (s : State) : List (List Byte) :=
  let g := stagedImage s
  measEntry 1 0 0 0 0 (padTo 32 Config.bootRom) ::
  (fwEntries 2 (s.sq.running.map (·.first)) (g.map (·.first)) ++
   fwEntries 3 (s.sq.running.map (·.square)) (g.map (·.square)) ++
   fwEntries 4 s.sq.microcode (g.map (·.micro)))

/-- The bitmap of a Block set. -/
def blockBitmap (l : List Nat) : List Byte := natLe 32 ((l.map (fun g => 2 ^ g)).foldl (· ||| ·) 0)

/-- Inserts into an ascending list. -/
def insNat (x : Nat) : List Nat → List Nat
  | [] => [x]
  | y :: t => if x ≤ y then x :: y :: t else y :: insNat x t

/-- The configuration record (R467). -/
def configRec (s : State) (n : Nat) (c : Court) : List Byte :=
  let pb := padTo 64 (tblGetD s.sec.configs n [])
  let ids := ((signersOf s n).map keyIdOf).foldl (fun l x => insNat x l) []
  pb.take 32 ++ blockBitmap c.blocks ++ natLe 2 (tblGetD s.cmd.modes n 0) ++ zeros 14 ++
  padTo 128 ((ids.map (natLe 8)).flatten)

/-- COURT_FLAGS (R465). -/
def courtFlags (s : State) (n : Nat) (c : Court) : Nat := b2n c.conf + 2 * b2n c.signed + 4 * b2n (curKey s n != 0)

/-- The code of a slot state, in the order R245 lists them. -/
def slotCode : SlotState → Nat
  | .empty => 0
  | .loading => 1
  | .resident => 2
  | .cold => 3
  | .draining => 4

/-- The Court may use a model slot (07 R245). -/
def mayUseSlot (n : Nat) (m : ModelSlot) : Bool := m.owner == n || (m.owner == 16 && bit m.access n)

/-- The BASE_MODEL entries of a Court's report (R466). -/
def baseEntries (s : State) (n : Nat) : List (List Byte) :=
  (s.gaz.slots.filter (fun p => mayUseSlot n p.2 &&
    (p.2.state == .resident || p.2.state == .cold || p.2.state == .draining))).map (fun p =>
    measEntry 7 0 p.1 p.2.modelVersion (p.2.modelId + 2 ^ 32 * slotCode p.2.state) p.2.hash)

/-- The ADAPTER entry of a handle (R466). -/
def adapterEntry (h : Nat) (e : GazEntry) : Nat × List Byte :=
  match e.cur with
  | none => (0, measEntry 8 0 0 0 (h + 2 ^ 16 * e.generation) [])
  | some a =>
    let n := min a.commits 65535
    (n, measEntry 8 (if n = 0 then 0 else 2) n a.version (h + 2 ^ 16 * e.generation) a.hash)

/-- Inserts an entry by INDEX, after equal ones. -/
def insEntry (x : Nat × List Byte) : List (Nat × List Byte) → List (Nat × List Byte)
  | [] => [x]
  | y :: t => if x.1 < y.1 then x :: y :: t else y :: insEntry x t

/-- The entries of a Court's report. -/
def courtEntries (s : State) (n : Nat) (c : Court) (hs : List Nat) : List (List Byte) :=
  let kem := (keysOf s n).map (fun k => sha256 (padTo 1568 k.kemEk))
  let ads := hs.filterMap (fun h => (tblGet s.gaz.entries h).map (adapterEntry h))
  firmwareEntries s ++ [measEntry 5 0 0 0 0 (sha256 (configRec s n c)), measEntry 6 0 0 (epochOf s n) 0 (kem.getD [])] ++
  baseEntries s n ++ (ads.foldl (fun l x => insEntry x l) []).map (·.2)

/-- COURT_STATE of a Court (06 R181). -/
def courtStateCode (s : State) (n : Nat) : Nat := match courtOf s n with
  | none => 0
  | some c => match c.state with
    | .creating => 1
    | .ready => 2
    | .resetting => 3
    | .destroying => 4

/-- The entries of a device-level report. -/
def deviceEntries (s : State) : List (List Byte) :=
  firmwareEntries s ++ (List.range 16).map (fun n => match courtOf s n with
    | none => measEntry 9 0 n 0 0 []
    | some c => measEntry 9 0 n (courtStateCode s n) (courtFlags s n c) (sha256 (configRec s n c)))

/-- REPORT_LEN (R465). -/
def reportLen (entries : Nat) : Nat := 128 + 48 * entries + 7856 + 2 * 7984

/-- The 128-byte header of a report (R465). -/
def reportHeader (s : State) (b : Bak) (nonce : List Byte) (court : Nat) (ads : Bool) (entries : Nat) : List Byte :=
  let dev := court == 0xFF
  let flags := b2n dev + 2 * b2n s.flash.staged + 4 * b2n ads + 8 * b2n (anyConf s)
  let cf := match courtOf s court with
    | some c => courtFlags s court c
    | none => 0
  natLe 4 0x54544155 ++ natLe 2 1 ++ natLe 2 flags ++ natLe 2 0x1296 ++ natLe 1 0xB0 ++ natLe 1 court ++
  natLe 1 (if dev then 0 else cf) ++ natLe 1 s.flash.fuseSq ++ natLe 2 entries ++
  natLe 4 (if dev then 0 else epochOf s court) ++ natLe 4 (reportLen entries) ++ natLe 8 s.sq.time ++ padTo 32 nonce ++
  padTo 16 b.nonce ++ idHash ++ zeros 16

/-- A report: header and entries, signature, certificates (R465). -/
def report (s : State) (b : Bak) (nonce : List Byte) (court : Nat) (ads : Bool) (es : List (List Byte)) : List Byte :=
  let body := reportHeader s b nonce court ads es.length ++ es.flatten
  body ++ slhSig b.seed body ++ bakCert b ++ idCert

/-- Bytes of the ATTEST layout (R464). -/
def attestLay (c : Cmd) : Nat := 40 + roundUp (2 * fld c.pb 34 2) 8 + 16

/-- The handles that an ATTEST names. -/
def attestHandles (pb : List Byte) : List Nat := (List.range (fld pb 34 2)).map (fun i => fld pb (40 + 2 * i) 2)

/-- The fields of ATTEST are in range (R464). -/
def attestOk (c : Cmd) (court : Nat) : Bool :=
  let n := fld c.pb 34 2
  let ads := fld c.pb 33 1
  decide (ads ≤ 1) && decide (n ≤ 256) && (ads == 1 || n == 0) && (decide (court < 16) || court == 0xFF) &&
  !(court == 0xFF && ads == 1) && zeroFld c.pb (40 + 2 * n) (roundUp (2 * n) 8 - 2 * n)

/-- The first refusal among the handles named (R464). -/
def attestHandle (s : State) (court h : Nat) : Option Nat :=
  if handleCourt s h ≠ some court then some stWrongCourt
  else match tblGet s.gaz.entries h with
    | none => some stNotFound
    | some e => if e.state = .free then some stNotFound else if e.state = .loading then some stStateConflict else none

/-- Milliseconds that remain of an open activation window, plus 50 (R468; 16 R515). -/
def windowHint (s : State) : Option Nat := match s.sq.act with
  | some ⟨_, _, true, .window t⟩ => some ((t + 200000000 - s.sq.time) / 100000 + 50)
  | _ => none

/-- Effect of ATTEST at its snapshot point (R464, R468). -/
def attestBody (c : Cmd) (s : State) : State × Did :=
  let court := if c.q.owner = 16 then fld c.pb 32 1 else c.q.owner
  if !attestOk c court then failWith s stInvalidField
  else match windowHint s with
    | some ms => (s, .fin (finRes stBusyTransition (natLe 4 ms)))
    | none => match s.sec.bak with
      | none => failWith s stDeviceFault
      | some b =>
        if court = 0xFF then
          let r := report s b (slice c.pb 0 32) 0xFF false (deviceEntries s)
          (s, .fin { finReply r with result := natLe 4 r.length })
        else match courtOf s court with
          | none => failWith s stCourtNotReady
          | some k =>
            if k.state ≠ .ready then failWith s stCourtNotReady
            else match (attestHandles c.pb).findSome? (attestHandle s court) with
              | some st => failWith s st
              | none =>
                let r := report s b (slice c.pb 0 32) court (fld c.pb 33 1 == 1) (courtEntries s court k (attestHandles c.pb))
                (s, .fin { finReply r with result := natLe 4 r.length })

/-- ATTEST (R464). -/
def execAttest (q : QId) (cid : Nat) (s : State) : Res :=
  .next (runCmd opAttest q cid attestLay [(36, 4)] attestBody s)

end Sys2Proof.Machine
end

