-- ==== Sys2Proof/Machine/Power.lean ====
section
/-! DEFINITION. Power and thermal limits, sensors, clock and die faults, the status collector, pins and the TAP
(spec/16_power_reset_boot.md R518 to R521; spec/17_package_and_electrical.md R526, R530 to R535; spec/01 R24, R37, R39;
spec/12 R408; spec/15 R494, R495). -/

namespace Sys2Proof.Machine

/-! ### Fatal faults (15 R497, R498; 17 R534) -/

/-- Sets DEV_STATUS.FATAL and FAULT_N for a fault that is of device class or not. -/
def setFatal (device : Bool) (s : State) : State :=
  if s.sq.fatal then s
  else
    let s := openInterval device true s
    { s with sq.fatal := true, sq.ready := false, sq.takeover := false, sq.faultN := true }

/-- The device has power and has left the ROM's reach: it boots or runs, without a fatal fault. -/
def alive (s : State) : Bool := s.sq.powered && s.sq.vddIo && !s.sq.perst && !s.sq.fatal && decide (0 < s.sq.stage)

/-- A die code of 14 R474 that takes the 100 MHz references (01 R37). -/
def refDie (d : Nat) : Bool := decide (d < 16) || (decide (0x20 ≤ d) && decide (d ≤ 0x2B)) || d == 0x40 || d == 0x41

/-- A Junction's code (14 R474). -/
def junctionDie (d : Nat) : Bool := decide (0x30 ≤ d) && decide (d ≤ 0x33)

/-- A reference is lost: absent, or more than 1 000 ppm off (01 R37; 17 R526). -/
def refLost (ppm : Option Int) : Bool := match ppm with
  | none => true
  | some p => decide (1000 < p) || decide (p < -1000)

/-- REFCLK_SWITCH: the die leaves REFCLK0 for REFCLK1 (01 R37). -/
def execRefclkSwitch (die : Nat) (ppm : Option Int) (s : State) : Res :=
  .next (if !alive s ∨ !refDie die ∨ !refLost ppm ∨ (tblGet s.sq.refs die).isSome then s
    else postClock 0x01 die ppm { s with sq.refs := tblSet s.sq.refs die 1 })

/-- REFCLK_BOTH_LOST: the die stops, a fatal fault that is not of device class (01 R37; 15 R494, R497). -/
def execRefclkBothLost (die : Nat) (ppm : Option Int) (s : State) : Res :=
  .next (if !alive s ∨ !refDie die ∨ !refLost ppm ∨ tblGet s.sq.refs die ≠ some 1 then s
    else setFatal false (postClock 0x02 die ppm { s with sq.refs := tblSet s.sq.refs die 2 }))

/-- JUNCTION_REF_LOST: a Junction's 156.25 MHz reference is lost (17 R526). -/
def execJunctionRefLost (die : Nat) (ppm : Option Int) (s : State) : Res :=
  .next (if !alive s ∨ !junctionDie die ∨ !refLost ppm then s else setFatal false (postClock 0x04 die ppm s))

/-- PLL_UNLOCK: a die's PLL loses lock (15 R494). -/
def execPllUnlock (die : Nat) (s : State) : Res :=
  .next (if !alive s ∨ !(refDie die || junctionDie die) then s else postClock 0x03 die none s)

/-- FATAL_DIE_FAULT: a compute die, memory base die or Junction fails (15 R497). A Square that fails is a takeover. -/
def execFatalDieFault (die : Nat) (s : State) : Res :=
  .next (if !alive s ∨ !(refDie die || junctionDie die) ∨ 0x40 ≤ die then s else setFatal true s)

/-- DIE_LINK_LANE_REPAIR: a repaired lane of a die-to-die link is counted (01 R24). -/
def execDieLinkLaneRepair (s : State) : Res :=
  .next (if alive s then { s with sq.laneRepairs := s.sq.laneRepairs + 1 } else s)

/-! ### Power limits (16 R518, R519, R521) -/

/-- The duty of a compute die in 1/16: the smallest of those that power, temperature and PWRBRK_N impose (17 R533). -/
def dieDuty (s : State) (n : Nat) : Nat :=
  min (min s.pwr.duty (tblGetD s.pwr.thermal n 16)) (if s.pwr.brake then 8 else 16)

/-- 2 600 W in mW. -/
abbrev tdpMw : Nat := 2600000

/-- Notes the window's part in an excursion (R518). -/
def noteExcursion (mw : Nat) (s : State) : State :=
  if tdpMw < mw then
    match s.pwr.excStart with
    | some _ => s
    | none => { s with pwr.excStart := some s.sq.time, pwr.excursions := s.pwr.excursions + 1 }
  else match s.pwr.excStart with
    | some _ => { s with pwr.excStart := none, pwr.excEnd := some s.sq.time }
    | none => s

/-- The window calls for a lower duty: a limit of R518 does not hold. -/
def powerOver (mw : Nat) (s : State) : Bool :=
  decide (3000000 < mw) || decide (10000 * tdpMw < s.pwr.windows.sum) ||
  (match s.pwr.excStart with
    | some t => decide (t + 10 * msUnits ≤ s.sq.time) || (match s.pwr.excEnd with
      | some e => decide (t < e + 100 * msUnits)
      | none => false)
    | none => false)

/-- The limits hold with 5 % to spare (R518). -/
def powerSpare (mw : Nat) (s : State) : Bool :=
  decide (100 * mw ≤ 95 * tdpMw) && decide (100 * s.pwr.windows.sum ≤ 95 * (10000 * tdpMw))

/-- POWER_MEASURE: a 100 µs window of package power (R518). -/
def execPowerMeasure (mw : Nat) (s : State) : Res :=
  .next (if !s.sq.ready then s
    else
      let s := { s with pwr.windows := (mw :: s.pwr.windows).take 10000,
                        pwr.usPower := s.pwr.usPower + (if s.pwr.duty < 16 then 100 else 0) }
      let s := noteExcursion mw s
      if powerOver mw s then { s with pwr.duty := max 1 (s.pwr.duty - 1) }
      else if s.pwr.duty < 16 ∧ powerSpare mw s ∧ s.pwr.raisedAt + 10 * msUnits ≤ s.sq.time then
        { s with pwr.duty := s.pwr.duty + 1, pwr.raisedAt := s.sq.time }
      else s)

/-- PWRBRK_ASSERT: the board drives PWRBRK_N low (R519). -/
def execPwrbrkAssert (s : State) : Res :=
  .next (if s.pwr.brake then s else { s with pwr.brake := true, pwr.brakeAt := s.sq.time })

/-- PWRBRK_DEASSERT: the pin returns high; the duty recovers from 1/2 under R518 (R519, R521). -/
def execPwrbrkDeassert (s : State) : Res :=
  .next (if s.pwr.brake then
      { s with pwr.brake := false, pwr.usBrake := s.pwr.usBrake + (s.sq.time - s.pwr.brakeAt) / 100,
               pwr.duty := min s.pwr.duty 8, pwr.raisedAt := s.sq.time }
    else s)

/-! ### Sensors (12 R408; 16 R520; 17 R534) -/

/-- The FP32 reading is at least `c`. -/
def f32AtLeast (w : F32) (c : Int) : Bool := match f32Val w with
  | some x => !dyLt x (dyOf c 0)
  | none => false

/-- The FP32 reading in hundredths is above `c`. -/
def centiAbove (w : F32) (c : Int) : Bool := match f32Val w with
  | some x => dyLt (dyOf c 0) (dyMul x (dyOf 100 0))
  | none => false

/-- The FP32 reading in hundredths is below `c`. -/
def centiBelow (w : F32) (c : Int) : Bool := match f32Val w with
  | some x => dyLt (dyMul x (dyOf 100 0)) (dyOf c 0)
  | none => false

/-- Threshold flags of a reading: bit 0 above warning, bit 1 beyond critical (12 R408; 15 R495). -/
def sensorFlags (id : Nat) (w : F32) : Nat :=
  if id ≤ 28 ∨ (41 ≤ id ∧ id ≤ 46) then b2n (f32AtLeast w 95) + 2 * b2n (f32AtLeast w 105)
  else if id ≤ 40 then b2n (f32AtLeast w 85) + 2 * b2n (f32AtLeast w 95)
  else if id ≤ 62 then 2 * b2n (centiAbove w 84 || centiBelow w 66)
  else if id = 63 then b2n (f32AtLeast w 2600)
  else 0

/-- The state code of an Avenue: down, training, full width, half width (12 R408). -/
def avenueStateCode (s : State) (a : Nat) : Nat := match tblGet s.avs a with
  | none => 0
  | some v => match v.phase with
    | .down => 0
    | .training => 1
    | .keying => 1
    | .up => if v.width = 16 then 2 else 3

/-- The device's state code: booting, ready, takeover, fatal (12 R408). -/
def deviceStateCode (s : State) : Nat :=
  if s.sq.fatal then 3 else if s.sq.takeover then 2 else if s.sq.ready then 1 else 0

/-- The state of the sensors 65 to 91 (12 R408). -/
def stateSensor (s : State) (id : Nat) : Nat :=
  if id ≤ 72 then avenueStateCode s (id - 65)
  else if id ≤ 74 then s.sq.hostUp.getD (id - 73) 0
  else if id = 75 then deviceStateCode s
  else courtStateCode s (id - 76)

/-- The reading of a sensor in a refresh. -/
def readOf (reads : List (Nat × F32)) (id : Nat) : Option F32 := (reads.find? (fun p => p.1 == id)).map (·.2)

/-- Duty of a compute die after a 10 ms refresh at its reading (16 R520). -/
def thermalDuty (now : Nat) (w : F32) : Nat :=
  if f32AtLeast w 105 then min now 4
  else if f32AtLeast w 95 then max 4 (now - 10)
  else if f32AtLeast w 93 then now
  else min 16 (now + 1)

/-- Refresh and request rate of a stack at its reading: 1 refresh doubled, 2 request rate also halved (16 R520). -/
def stackState (w : F32) : Nat := if f32AtLeast w 95 then 2 else if f32AtLeast w 85 then 1 else 0

/-- A condition that asserts ALERT_N holds (16 R520). -/
def alertOn (reads : List (Nat × F32)) : Bool :=
  (List.range 16).any (fun i => (readOf reads (1 + i)).any (fun w => f32AtLeast w 95)) ||
  (List.range 12).any (fun i => (readOf reads (29 + i)).any (fun w => f32AtLeast w 85))

/-- Every compute die is below 93 °C and every stack below 83 °C (17 R534). -/
def alertOff (reads : List (Nat × F32)) : Bool :=
  (List.range 16).all (fun i => (readOf reads (1 + i)).all (fun w => !f32AtLeast w 93)) &&
  (List.range 12).all (fun i => (readOf reads (29 + i)).all (fun w => !f32AtLeast w 83))

/-- The numeric sensors among the readings. -/
def numericReads (reads : List (Nat × F32)) : List (Nat × F32) :=
  reads.filter (fun p => decide (1 ≤ p.1) && decide (p.1 ≤ 64))

/-- The thermal responses to a refresh (16 R520; 17 R534). -/
def thermalRespond (reads : List (Nat × F32)) (s : State) : State :=
  let duties := (List.range 16).map (fun n => match readOf reads (1 + n) with
    | some w => thermalDuty (tblGetD s.pwr.thermal n 16) w
    | none => tblGetD s.pwr.thermal n 16)
  { s with
    pwr.thermal := (duties.zipIdx.filter (fun p => p.1 != 16)).map (fun p => (p.2, p.1))
    pwr.usTemp := s.pwr.usTemp + (if duties.all (· == 16) then 0 else 10000)
    pwr.stackHot := (List.range 12).filterMap (fun i =>
      let v := match readOf reads (29 + i) with
        | some w => stackState w
        | none => tblGetD s.pwr.stackHot i 0
      if v = 0 then none else some (i, v))
    sq.alertN := alertOn reads || (s.sq.alertN && !alertOff reads) }

/-- Stores the readings and the states of a refresh (12 R408). -/
def storeSensors (reads : List (Nat × F32)) (s : State) : State :=
  let s := { s with
    pwr.sensors := reads.foldl (fun (t : Tbl Nat) (p : Nat × F32) => tblSet t p.1 (p.2 % 2 ^ 32)) s.pwr.sensors
    pwr.flags := reads.foldl (fun (t : Tbl Nat) (p : Nat × F32) => tblSet t p.1 (sensorFlags p.1 p.2)) s.pwr.flags }
  { s with pwr.sensors := ((List.range 27).map (· + 65)).foldl (fun t id => tblSet t id (stateSensor s id)) s.pwr.sensors }

/-- The sensors whose threshold flags a refresh changes, with old and new flags and the reading (12 R408). -/
def crossings (reads : List (Nat × F32)) (s : State) : List (Nat × Nat × Nat × F32) :=
  reads.filterMap (fun p =>
    let old := tblGetD s.pwr.flags p.1 0
    let new := sensorFlags p.1 p.2
    if old = new then none else some (p.1, old, new, p.2))

/-- A sensor's 8-byte entry (15 R495). -/
def sensorEntry (s : State) (id : Nat) : List Byte :=
  natLe 2 id ++ natLe 1 (b2n (decide (65 ≤ id))) ++
  (match tblGet s.pwr.sensors id with
    | some v => natLe 1 (tblGetD s.pwr.flags id 0) ++ natLe 4 v
    | none => natLe 1 4 ++ zeros 4)

/-- The 744 bytes of READ_SENSORS (15 R495). -/
def sensorsBytes (s : State) : List Byte :=
  natLe 8 s.sq.time ++ natLe 2 91 ++ zeros 6 ++ (List.range 91).flatMap (fun i => sensorEntry s (i + 1))

/-- READ_SENSORS (15 R495). -/
def execReadSensors (q : QId) (cid : Nat) (s : State) : Res :=
  .next (runCmd opReadSensors q cid (fun _ => 16) [(12, 4)] (fun _ s => (s, .fin (finReply (sensorsBytes s)))) s)

/-- THERMAL_TRIP: a die at 110 °C or more for 1 ms: every die in reset and every key lost (16 R520; 17 R534). -/
def execThermalTrip (die : Nat) (s : State) : Res :=
  .next (if !(s.sq.powered && s.sq.vddIo) ∨ !(refDie die || junctionDie die) then s
    else
      let s := setFatal false s
      { s with
        sq.thermtripN := true, sq.ready := false
        sec.courts := [], sec.bak := none
        avs := s.avs.map (fun p => (p.1, { p.2 with keyed := false, txKey := [], rxKey := [], txSalt := [], rxSalt := [],
                                                    secret := [], phase := .down })) })

/-! ### The status collector (01 R39) -/

/-- The four counts of SCOPE 3 (16 R521). -/
def throttleCounts (s : State) : List Nat :=
  [s.pwr.usPower, s.pwr.usTemp, s.pwr.excursions,
   s.pwr.usBrake + (if s.pwr.brake then (s.sq.time - s.pwr.brakeAt) / 100 else 0)]

/-- The counters of a Block in the order of 03 R101. -/
def blockCounters (k : Block) : List Nat := k.feedStall ++ k.drainStall ++ k.loadStall ++ k.bankConflict ++ [k.bypassBusy]

/-- STATUS_SAMPLE: the collector samples what originates on other dies (01 R39). -/
def execStatusSample (s : State) : Res :=
  .next (if s.sq.ready then
      { s with smp := ⟨s.sq.time, throttleCounts s, s.blocks.map (fun p => (p.1, blockCounters p.2))⟩ }
    else s)

/-! ### The TAP (17 R535; 14 R442) -/

/-- Cells of the boundary-scan chain: the balls of the control group (17 R530, R535). -/
abbrev bsrCells : Nat := 80

/-- IDCODE (17 R535). -/
abbrev idcode : Nat := 0x21296B4B

/-- Posts TAP_REFUSED: the instruction selects BYPASS (14 R442). -/
def tapRefuse (s : State) : State := postSecLimited 0x06 16 0xFF 0xFF 0 { s with tap.ir := 0xFF }

/-- An instruction that confidential Courts forbid (14 R442). -/
def tapGuard (f : State → State) (s : State) : State := if anyConf s then tapRefuse s else f s

/-- TAP_BYPASS: one bit, captured as 0. -/
def execTapBypass (s : State) : Res := .next (emit (.tdo 0 1) { s with tap.ir := 0xFF })

/-- TAP_IDCODE. -/
def execTapIdcode (s : State) : Res := .next (emit (.tdo idcode 32) { s with tap.ir := 0x01 })

/-- Captures the pins and shifts the boundary-scan register. -/
def tapScan (ir pins shift : Nat) (s : State) : State :=
  emit (.tdo (pins % 2 ^ bsrCells) bsrCells) { s with tap.ir := ir, tap.bsr := shift % 2 ^ bsrCells }

/-- TAP_SAMPLE_PRELOAD: the pins as sampled are shifted out and the next contents in. -/
def execTapSamplePreload (pins shift : Nat) (s : State) : Res := .next (tapScan 0x02 pins shift s)

/-- TAP_EXTEST: the boundary-scan register drives the pins. -/
def execTapExtest (pins shift : Nat) (s : State) : Res := .next (tapGuard (tapScan 0x00 pins shift) s)

/-- TAP_CLAMP: the pins hold what the register drives, and BYPASS is scanned. -/
def execTapClamp (s : State) : Res := .next (tapGuard (fun s => emit (.tdo 0 1) { s with tap.ir := 0x04 }) s)

/-- TAP_HIGHZ: the outputs are high-impedance, and BYPASS is scanned. -/
def execTapHighz (s : State) : Res := .next (tapGuard (fun s => emit (.tdo 0 1) { s with tap.ir := 0x05 }) s)

/-- TAP_PRIVATE: a private instruction; only its selection and its refusal are given (14 R442). -/
def execTapPrivate (ir : Nat) (s : State) : Res := .next (tapGuard (fun s => { s with tap.ir := ir % 256 }) s)

end Sys2Proof.Machine
end

