-- ==== Sys2Proof/Machine/Boot.lean ====
section
/-! DEFINITION. Rails, resets, boot, Square takeover and firmware (spec/16_power_reset_boot.md R500 to R517;
spec/17_package_and_electrical.md R528 to R534; spec/01 R31 to R34, R40; spec/04 R130, R132; spec/13 R419). -/

namespace Sys2Proof.Machine

/-! ### What a reset leaves (R506, R507) -/

/-- A host function's registers after a cold reset (06 R181; 12 R399 to R402). -/
def HostFn.fresh : HostFn :=
  { q0SqBase := 0, q0CqBase := 0, q0Size := 0, q0Ctrl := 0, q0Ready := false, q0Error := false, doorbellFault := 0,
    faultRec := (none, 0), bme := true, d3hot := false, enabled := true, msixMask := 2 ^ 64 - 1, msixPend := 0 }

/-- The 34 host functions (06 R176). -/
def freshFns : Tbl HostFn := (List.range 34).map (fun k => (k, HostFn.fresh))

/-- A physical Block as manufactured (01 R29). -/
def Block.fresh (b : Nat) : Block :=
  { role := if b < 256 then .active b else .spare, use := .idle, store := ⟨[], none, []⟩, priv := [],
    feedStall := [0, 0, 0, 0], drainStall := [0, 0, 0, 0], loadStall := [0, 0, 0, 0], bankConflict := [0, 0, 0, 0],
    bypassBusy := 0, lastVisit := 0, lapsed := false, want := none, started := 0, diagnostic := false, lastResult := 0,
    repairs := 0, slack := none, lastPass := none, unusable := false, faults := [], fixes := [], faultLimit := none,
    proposal := .none }

/-- What the plan in flash keeps of a Block: its role, its repairs and results (15 R478). -/
def Block.planned (b : Nat) (k : Block) : Block :=
  { Block.fresh b with role := k.role, lastResult := k.lastResult, repairs := k.repairs, unusable := k.unusable }

/-- A compute die as manufactured: its fused set point lies between 680 and 720 mV (15 R478). -/
def Die.fresh (n : Nat) : Die :=
  let r := 680 + Config.fuseRail n % 41
  { rail := r, railInit := r, railSteps := 0, clkSteps := 0, swaps := 0, retired := 0, slack := 0, replica := 0xFF,
    lastMeasure := 0, ro := 0, tj := 0, measurements := 0, ordinaryAt := none, urgent := false, exhausted := false,
    awaiting := false, railFault := false, change := .none, waits := [] }

/-- What the plan in flash keeps of a die (15 R478, R496). -/
def Die.planned (n : Nat) (d : Die) : Die :=
  { Die.fresh n with rail := d.rail, railSteps := d.railSteps, clkSteps := d.clkSteps, swaps := d.swaps, retired := d.retired }

/-- The dies with their plans (15 R478). -/
def plannedDies (s : State) : Tbl Die :=
  (List.range 16).map (fun n => (n, match tblGet s.age.dies n with
    | some d => Die.planned n d
    | none => Die.fresh n))

/-- The Blocks with their plans. -/
def plannedBlocks (s : State) : Tbl Block :=
  (List.range 288).map (fun b => (b, match tblGet s.blocks b with
    | some k => Block.planned b k
    | none => Block.fresh b))

/-- A cold reset: what fuses and flash hold stays, with the pins of the board; all else is as after reset
(R507; 17 R533, R534). -/
def coldReset (s : State) : State :=
  let z := State.reset
  { z with
    sq.powered := s.sq.powered, sq.vddIo := s.sq.vddIo, sq.perst := s.sq.perst, sq.thermtripN := s.sq.thermtripN
    mem.repair := s.mem.repair
    blocks := if s.blocks.isEmpty then [] else plannedBlocks s
    age.dies := if s.age.dies.isEmpty then [] else plannedDies s
    age.avail := s.age.avail, age.flash := s.age.flash
    sec.rbg := s.sec.rbg
    pwr.brake := s.pwr.brake
    flash := s.flash, tap := s.tap
    free := s.free, out := s.out, pending := s.pending }

/-! ### Rails and PERST# (R501, R506; 17 R533, R534) -/

/-- POWER_ON: the board brings the rails up with PERST# low (R501). -/
def execPowerOn (s : State) : Res :=
  .next (if s.sq.powered ∧ s.sq.vddIo then s
    else coldReset { s with sq.powered := true, sq.vddIo := true, sq.perst := true })

/-- POWER_LOSS: the rails leave regulation; volatile state is lost, the flash records stay, and an open interval ends
at its last hourly write (R501, R503; 15 R499). -/
def execPowerLoss (s : State) : Res :=
  .next (if !s.sq.powered then s
    else
      let s := coldReset { s with sq.powered := false, sq.perst := true }
      { s with age.avail := { s.age.flash with opened := none } })

/-- VDD_IO_LOSS: VDD_IO falls below 1.0 V, and every pin is high-impedance (17 R531, R534). -/
def execVddIoLoss (s : State) : Res :=
  .next { s with sq.vddIo := false, sq.ready := false, sq.thermtripN := false, sq.faultN := false, sq.alertN := false }

/-- PERST_ASSERT: a cold reset begins, whatever the device does; it is an excluded interval unless FATAL has begun one
(R506, R507; 15 R498; 17 R533, R534). -/
def execPerstAssert (s : State) : Res :=
  .next (if s.sq.perst then s
    else
      let s := if s.sq.fatal then accrue s else openInterval false true s
      coldReset { s with sq.perst := true })

/-! ### Straps (17 R528, R529; 12 R385) -/

/-- Nibble `i` of a strap field. -/
def nibble (v i : Nat) : Nat := v / 16 ^ i % 16

/-- A static address that I3C reserves (17 R529). -/
def i3cReserved (a : Nat) : Bool :=
  decide (a < 8) || a == 0x3E || a == 0x5E || a == 0x6E || a == 0x76 || decide (0x78 ≤ a)

/-- Samples the straps (17 R528, R529). -/
def sampleStraps (p : Straps) (s : State) : State :=
  let sizes := (List.range 4).map (fun i => nibble p.size i + 1)
  { s with
    sq.addr := p.addr % 65536, sq.torus := sizes
    sq.wrap := (List.range 4).map (fun i => bit p.wrap i && nibble p.size i == 15)
    sq.strapsBad := !((List.range 4).all (fun i => decide (nibble p.addr i ≤ nibble p.size i)))
    sq.i3cSa := if i3cReserved (p.i3cSa % 128) then 0 else p.i3cSa % 128
    sq.i3cInst := p.i3cInst % 16, sq.hclk := p.hclk % 4 }

/-! ### Boot (R504, R505) -/

/-- The image of a firmware slot. -/
def slotImage (f : Flash) (i : Nat) : Option FwImage := if i = 0 then f.slotA else f.slotB

/-- First stage and Square firmware of a slot pass their signature and the anti-rollback check (R505, R512). -/
def slotGood (f : Flash) (finds : BootFinds) (i : Nat) : Option FwImage :=
  match slotImage f i with
  | none => none
  | some g => if finds.sigBad.contains i ∨ g.svnSq < f.fuseSq then none else some g

/-- The slot that boots: the selected one, else the other (R505). -/
def bootSlot (f : Flash) (finds : BootFinds) : Option (Nat × FwImage) :=
  match slotGood f finds f.select with
  | some g => some (f.select, g)
  | none => (slotGood f finds (1 - f.select)).map (fun g => (1 - f.select, g))

/-- Records the counts of an image as pending and burns the fuses to them (R513). -/
def commitImage (g : FwImage) (f : Flash) : Flash :=
  { f with pendSq := g.svnSq, pendMc := g.svnMc, fuseSq := max f.fuseSq (min 64 g.svnSq),
           fuseMc := max f.fuseMc (min 64 g.svnMc), uncommitted := false, staged := false }

/-- What stage 0x02 does to the flash: SELECT names the slot that boots, a pending burn is completed, and an activation
that was cut off is committed (R505, R513, R516). -/
def bootFlash (slot : Nat) (g : FwImage) (f : Flash) : Flash :=
  let f := { f with fuseSq := max f.fuseSq (min 64 f.pendSq), fuseMc := max f.fuseMc (min 64 f.pendMc) }
  if slot ≠ f.select then { f with select := slot, uncommitted := false, staged := false }
  else if f.uncommitted then commitImage g f else f

/-- Stops the boot in a stage with FATAL set (R505). -/
def stopBoot (stage : Nat) (device : Bool) (s : State) : State := setFatal device { s with sq.stage := stage }

/-- Stage 0x04: each core rail is set to its plan (R504; 15 R478). -/
def bootPower (s : State) : State :=
  let s := { s with age.dies := plannedDies s }
  s.age.dies.foldl (fun s p => emit (.avs p.1 p.2.rail) s) s

/-- The slots mapped out at a boot, at most 16 (04 R132). -/
def bootMapped (before repair bad : List Nat) : List Nat :=
  ((repair ++ bad).foldl (fun l x => if l.contains x ∨ 384 ≤ x then l else l ++ [x]) before).take 16

/-- Stage 0x05: map-outs applied, and the device pool takes its five granules (R504; 13 R419). -/
def bootMemory (mapped : List Nat) (s : State) : State :=
  { s with mem := { State.reset.mem with
      repair := s.mem.repair, mapped := mapped,
      granules := (List.range 5).map (fun G => (G, ⟨.pool, 0, false⟩)),
      saveArea := [0, 1, 2, 3], holdBuf := some 4 } }

/-- A Block's boot slice ends with its result (R504; 15 R487). -/
def bootSlice (r : Nat × Nat × Nat) (s : State) : State :=
  match tblGet s.blocks r.1 with
  | none => s
  | some k => if gone k then s else if r.2.1 ≤ 1 then slicePassed r.1 r.2.1 r.2.2 s else s

/-- The failing Blocks of the boot slices leave service (R505; 15 R487). -/
def bootFail (r : Nat × Nat × Nat) (s : State) : State :=
  match tblGet s.blocks r.1 with
  | none => s
  | some k =>
    if gone k ∨ r.2.1 < 2 ∨ 3 < r.2.1 then s
    else
      let s := sliceFailed r.1 r.2.1 s
      match spares s (dieOf r.1) with
      | sp :: _ => if inService s r.1 then swapIn r.1 sp s else s
      | [] => s

/-- The result of a Block's boot slice: those not listed pass (R505). -/
def bootResult (finds : BootFinds) (b : Nat) : Nat × Nat × Nat := (finds.slices.find? (fun r => r.1 == b)).getD (b, 0, 0)

/-- Stage 0x06: every Block is tested, failing ones leave service, and the dies are measured (R504; 15 R476, R484). -/
def bootBlocks (finds : BootFinds) (s : State) : State :=
  let s := { s with blocks := plannedBlocks s }
  let rs := (List.range 288).map (bootResult finds)
  let s := rs.foldl (fun s r => bootSlice r s) s
  let s := finds.meas.foldl (fun s m => if m.2.slack.length = 64 then recordMeas m.1 m.2 s else s) s
  let s := rs.foldl (fun s r => bootFail r s) s
  finds.meas.foldl (fun s m => if m.2.slack.length = 64 then decideMargin m.1 s else s) s

/-- An Avenue before its first training. -/
def Avenue.fresh : Avenue :=
  { phase := .down, retryAt := none, width := 16, failed := [], spareRx := none, spareTx := none, neighbour := 0xFFFF,
    keyed := false, txKey := [], rxKey := [], txSalt := [], rxSalt := [], epoch := 0, rxEpoch := 0, txSlot := 0,
    rxSlot := 0, transcript := [], secret := [], txSeq := 0, unacked := [], rxNext := 0, nakOut := false, replaySeq := 0,
    replayN := 0, ackAt := 0, ded := [], pool := [], credSeen := [], credOut := [], credSent := [], txq := [], rrX := 1,
    rrL := 4, deficit := [], drr := [], rx := [], corrected := 0, uncorrected := 0, replays := 0, tagFails := 0,
    unreach := 0, errors := 0, tagTimes := [], limits := [] }

/-- The Avenue's dimension has size greater than 1 and the straps are consistent, so that it trains (12 R377; 17 R529). -/
def avenueUsed (s : State) (a : Nat) : Bool := !s.sq.strapsBad && decide (1 < s.sq.torus.getD (a / 2) 1)

/-- Stage 0x07 at a cold boot: the Avenues begin to train (R504; 12 R376). -/
def bootAvenues (s : State) : State :=
  { s with avs := (List.range 8).map (fun a => (a, { Avenue.fresh with phase := if avenueUsed s a then .training else .down })) }

/-- Every Avenue of a dimension of size greater than 1 is UP (R504). -/
def fabricUp (s : State) : Bool :=
  (List.range 8).all (fun a => !avenueUsed s a || (match tblGet s.avs a with
    | some v => v.phase == .up
    | none => true))

/-- Stage 0x08 and READY: the status collector starts and the shadow count is synchronised (R504). -/
def finishBoot (s : State) : State :=
  let s := { s with sq.stage := 0xFF, sq.ready := true, sq.shadow := s.sq.time, sq.beatAt := s.sq.time }
  if s.age.avail.opened.isSome then closeInterval s else s

/-- Stage 0x07: it ends at once when every Avenue is UP (R504). -/
def enterFabric (s : State) : State :=
  let s := { s with sq.stage := 7, sq.stageAt := s.sq.time }
  if fabricUp s then finishBoot s else s

/-- An Avenue has come UP: stage 0x07 may end (R504). -/
def fabricCheck (s : State) : State :=
  if s.sq.stage = 7 ∧ !s.sq.fatal ∧ fabricUp s then finishBoot s else s

/-- Stages 0x01 to 0x03: image, roles, keys; none where the boot stops (R504, R505). -/
def bootSquares (finds : BootFinds) (bak : Bool) (s : State) : Option State :=
  match bootSlot s.flash finds with
  | none => none
  | some (slot, g) =>
    if finds.sqBad.contains 0 ∧ finds.sqBad.contains 1 then none
    else
      let both := !finds.sqBad.contains 0 && !finds.sqBad.contains 1
      let s := { s with
        flash := bootFlash slot g s.flash
        sq.active := if finds.sqBad.contains 0 then 1 else 0
        sq.standby := if both then .inService else .absent
        sq.standbyFw := if both then some g else none
        sq.running := some g, sq.microcode := some g.micro }
      some (if bak then makeBak g s else s)

/-- The stages of a boot; a stage that another fault stops keeps its number (R504, R505). -/
def bootFrom (finds : BootFinds) (cold : Bool) (mapped : List Nat) (s : State) : State :=
  match finds.stop with
  | some n =>
    if n < 4 then stopBoot n true s
    else match bootSquares finds cold s with
      | none => stopBoot 2 true s
      | some s => stopBoot (min n 8) true s
  | none => match bootSquares finds cold s with
    | none => stopBoot (if finds.sqBad.contains 0 ∧ finds.sqBad.contains 1 then 1 else 2) true s
    | some s =>
      let s := bootMemory mapped (bootPower s)
      match s.sq.running with
      | none => s
      | some g =>
        if g.svnMc < s.flash.fuseMc then stopBoot 6 true s
        else
          let s := bootBlocks finds s
          enterFabric (if cold then bootAvenues s else s)

/-- PERST_DEASSERT: the straps are sampled and the device boots (R504, R505, R512; 17 R528, R529, R534). -/
def execPerstDeassert (straps : Straps) (finds : BootFinds) (s : State) : Res :=
  .next (if !s.sq.powered ∨ !s.sq.vddIo ∨ !s.sq.perst then s
    else if s.sq.thermtripN then { s with sq.perst := false }
    else
      let s := sampleStraps straps { s with sq.perst := false, sq.stage := 1, cmd.fns := freshFns }
      if straps.testMode then stopBoot 1 false s
      else bootFrom finds true (bootMapped [] s.mem.repair finds.chanBad) s)

/-- BOOT_FABRIC_TIMEOUT: stage 0x07 ends 3 s after it began (R504). -/
def execBootFabricTimeout (s : State) : Res :=
  .next (if s.sq.stage = 7 ∧ !s.sq.fatal ∧ s.sq.powered ∧ s.sq.stageAt + 3 * secUnits ≤ s.sq.time then finishBoot s else s)

/-! ### Warm reset (R507, R515) -/

/-- The control window returns to its reset values; the configuration space of the function stays (R507). -/
def HostFn.warm (h : HostFn) : HostFn :=
  { HostFn.fresh with bme := h.bme, d3hot := h.d3hot, enabled := h.enabled, msixMask := h.msixMask }

/-- What a warm reset removes: Courts, queues, Blocks and memory contents; the links and their keys, the BAK and Square
time stay (R507). -/
def warmClear (s : State) : State :=
  let z := State.reset
  { s with
    sq.ready := false, sq.stage := 2, sq.act := none
    cmd := { z.cmd with fns := s.cmd.fns.map (fun p => (p.1, HostFn.warm p.2)) }
    courts := [], pkgs := [], runs := [], barriers := [], semWait := [], runDone := []
    gaz := z.gaz, grps := [], jobs := [], ue := [], inbox := [], part := z.part, tt := z.tt, srv := z.srv
    sec.courts := [], sec.signers := [], sec.configs := [], sec.limits := [], sec.zero := []
    age.rw := []
    smp := z.smp, mgm.upd := none, mgm.spdm := [] }

/-- The warm reset that boots the selected slot (R507, R515). -/
def warmReset (finds : BootFinds) (s : State) : State :=
  let s := openInterval false false s
  let kept := s.age.dies
  let s := bootFrom finds false (bootMapped s.mem.mapped s.mem.repair []) (warmClear s)
  { s with age.dies := s.age.dies.map (fun p => (p.1, { p.2 with
      measurements := p.2.measurements + ((tblGet kept p.1).map (·.measurements)).getD 0 })) }

/-! ### Square takeover (R508; 01 R33, R34, R40) -/

/-- SQUARE_HEARTBEAT (R508). -/
def execSquareHeartbeat (s : State) : Res :=
  .next (if s.sq.ready ∧ s.sq.standby = .inService then { s with sq.beatAt := s.sq.time } else s)

/-- SQUARE_TIME_SYNC: the standby adopts the count with the mirror updates; a rebooted one that receives them is
resynchronising (01 R40; R517). -/
def execSquareTimeSync (s : State) : Res :=
  .next (if !s.sq.ready ∨ s.sq.standby = .absent then s
    else { s with sq.shadow := s.sq.time, sq.standby := if s.sq.standby = .booting then .resyncing else s.sq.standby })

/-- The shadow count may differ by this much: 1 in 5 000 since the last update, at most 20 units (01 R40). -/
def driftOk (s : State) (drift : Int) : Bool :=
  decide (drift.natAbs ≤ 20) && decide (5000 * drift.natAbs ≤ s.sq.time - s.sq.shadow)

/-- Square time of the new active Square: its shadow count and 64 units (01 R40). -/
def takeoverTime (s : State) (drift : Int) : Nat := ((s.sq.time : Int) + drift + 64).toNat

/-- The first cycle boundary at or after a time (13 R436; 01 R40). -/
def boundaryAt (s : State) (t : Nat) : Nat := s.tt.t0 + ceilDiv (t - s.tt.t0) s.tt.cycle * s.tt.cycle

/-- Slices end at a takeover, and the Timetable cycle is abandoned (15 R488; 01 R40). -/
def takeoverDrops (s : State) : State :=
  let s := (s.blocks.filter (fun p => p.2.use == .testing)).foldl (fun s p => abandonSlice p.1 2 s) s
  { s with tt.active := [], tt.t0 := boundaryAt s s.sq.time }

/-- The other Square becomes active with its time; the old one reboots as standby (R508 steps 2 to 4, 6). -/
def changeActive (drift : Int) (s : State) : State :=
  { s with sq.active := 1 - s.sq.active, sq.time := takeoverTime s drift, sq.standby := .booting,
           sq.running := s.sq.standbyFw, sq.standbyFw := s.sq.running }

/-- The command of an activation or handover retires (R515 to R517). -/
def retireAct (a : Activation) (f : CmdEnd) (s : State) : State :=
  let s := { s with sq.act := none }
  match findCmd s a.q a.cid with
  | none => s
  | some c => retire c f s

/-- VERSION of the Square firmware that an image holds. -/
def sqVersion (g : Option FwImage) : Nat := (g.map (·.square.version)).getD 0

/-- A planned takeover does not complete: the old active Square resumes, SELECT is restored, the standby boots the old
slot (R516). -/
def failWindow (a : Activation) (s : State) : State :=
  let s := closeInterval { s with sq.takeover := false, sq.standby := .booting, sq.standbyFw := s.sq.running }
  let s := if a.hot then { s with flash := { s.flash with select := 1 - s.flash.select, staged := false, uncommitted := false } }
    else s
  retireAct a (finSt stDeviceFault) s

/-- A takeover completes: retirements resume (R508 step 5). -/
def endTakeover (s : State) : State :=
  settle (startWaiting (takeoverDrops (closeInterval { s with sq.takeover := false })))

/-- An unplanned takeover may begin: three heartbeats missed, or a fatal internal check reported (R508). -/
def squareFailed (s : State) (check : Bool) : Bool := check || decide (s.sq.beatAt + 30 * msUnits ≤ s.sq.time)

/-- SQUARE_TAKEOVER: it completes the takeover in progress, or begins an unplanned one; without a standby in service
FATAL is set (R508, R515 to R517; 01 R34). -/
def execSquareTakeover (drift : Int) (check : Bool) (s : State) : Res :=
  .next (if !s.sq.ready then s
    else match s.sq.takeover, s.sq.act with
      | true, some a => (match a.phase with
        | .window t =>
          if t + 200 * msUnits < s.sq.time then failWindow a s
          else if !driftOk s drift then s
          else
            let s := endTakeover (changeActive drift s)
            if a.hot then { s with sq.act := some { a with phase := .following } } else retireAct a (finSt stSuccess) s
        | _ => endTakeover s)
      | true, none => endTakeover s
      | false, _ =>
        if !squareFailed s check then s
        else if s.sq.standby ≠ .inService then setFatal true s
        else if !driftOk s drift then s
        else openInterval true false { changeActive drift s with sq.takeover := true, sq.beatAt := takeoverTime s drift })

/-- The staged image may run: it passes the anti-rollback check again (R512). -/
def stagedRuns (s : State) : Bool := match stagedImage s with
  | some g => decide (s.flash.fuseSq ≤ g.svnSq) && decide (s.flash.fuseMc ≤ g.svnMc)
  | none => false

/-- The standby failed to boot the staged image before the window (R516). -/
def failPrepare (a : Activation) (s : State) : State :=
  retireAct a (finSt stDeviceFault) { s with sq.standby := .booting, flash := { s.flash with staged := false } }

/-- STANDBY_RESYNC_COMPLETE: a rebooted Square has resynchronised; in a hot activation the window opens (R508, R515). -/
def execStandbyResyncComplete (s : State) : Res :=
  .next (if !s.sq.ready ∨ s.sq.takeover ∨ (s.sq.standby ≠ .booting ∧ s.sq.standby ≠ .resyncing) then s
    else
      let back := { s with sq.standby := .inService, sq.beatAt := s.sq.time, sq.shadow := s.sq.time }
      match s.sq.act with
      | some a => (match a.phase with
        | .preparing =>
          if !stagedRuns s then failPrepare a s
          else
            let g := stagedImage s
            openInterval false false { back with
              sq.standbyFw := g, sq.takeover := true, sq.act := some { a with phase := .window s.sq.time }
              flash := { s.flash with select := 1 - s.flash.select, uncommitted := true } }
        | _ => { back with sq.standbyFw := s.sq.running })
      | none => { back with sq.standbyFw := s.sq.running })

/-- STANDBY_SQUARE_FAILURE (R508, R516). -/
def execStandbySquareFailure (s : State) : Res :=
  .next (if !s.sq.ready ∨ s.sq.standby = .absent then s
    else match s.sq.act with
      | some a => (match a.phase with
        | .preparing => failPrepare a s
        | .window _ => failWindow a s
        | .following => retireAct a (finSt stDeviceFault) { s with sq.standby := .absent, sq.standbyFw := none }
        | .warming => { s with sq.standby := .absent, sq.standbyFw := none })
      | none => { s with sq.standby := .absent, sq.standbyFw := none })

/-- FIRMWARE_COMMIT: the commit of a hot activation, once the old active Square runs the new image as standby
(R513, R515 step 6). -/
def execFirmwareCommit (s : State) : Res :=
  .next (if !s.sq.ready ∨ s.sq.takeover then s
    else match s.sq.act, s.sq.running with
      | some a, some g =>
        if a.phase = .following ∧ s.sq.standby = .inService then
          retireAct a (finRes stSuccess (natLe 4 (sqVersion s.sq.running))) { s with flash := commitImage g s.flash }
        else s
      | _, _ => s)

/-! ### STAGE_FIRMWARE (R509, R511) -/

/-- A component entry at an offset of the header. -/
def fwComp (b : List Byte) (off : Nat) : FwComp := ⟨fld b off 4, slice b (off + 16) 32⟩

/-- A component entry is well formed and its body has the stated hash (R509). -/
def fwCompOk (b : List Byte) (off : Nat) : Bool :=
  let o := fld b (off + 4) 4
  let n := fld b (off + 8) 4
  zeroFld b (off + 12) 4 && decide (256 ≤ o) && decide (o + n + 7856 ≤ b.length) &&
  sha256 (slice b o n) == slice b (off + 16) 32

/-- Header and component hashes are as R509 asks. -/
def fwFormOk (b : List Byte) : Bool :=
  decide (256 + 7856 ≤ b.length) && decide (b.length ≤ 2 ^ 25) && fld b 0 4 == 0x49574655 && fld b 4 2 == 1 &&
  fld b 6 2 == 0x1296 && decide (fld b 8 1 ≤ 64) && decide (fld b 9 1 ≤ 64) && zeroFld b 10 2 && fld b 12 4 == b.length &&
  fwCompOk b 16 && fwCompOk b 64 && fwCompOk b 112 && zeroFld b 168 88

/-- The issuer is known and the signature verifies (R509, R511). -/
def fwSigOk (b : List Byte) : Bool :=
  slice b 160 8 == (sha256 (padTo 32 Config.rootKey)).take 8 &&
  Config.slhVerify (padTo 32 Config.rootKey) (sha256 (b.take 256)) (b.drop (b.length - 7856))

/-- The image that a verified header describes. -/
def fwImageOf (b : List Byte) : FwImage := ⟨fld b 8 1, fld b 9 1, fwComp b 16, fwComp b 64, fwComp b 112⟩

/-- The status of an image that is not accepted, none where it is (R511, R512). -/
def fwRefused (f : Flash) (b : List Byte) : Option Nat :=
  if !fwFormOk b then some stInvalidField
  else if !fwSigOk b then some stSignatureFailed
  else if fld b 8 1 < f.fuseSq ∨ fld b 9 1 < f.fuseMc then some stRollbackRefused
  else none

/-- Writes the slot that is not selected. -/
def setStaging (g : Option FwImage) (f : Flash) : Flash := if f.select = 0 then { f with slotB := g } else { f with slotA := g }

/-- The staging slot is empty (R511). -/
def emptyStaging (s : State) : State := { s with flash := { setStaging none s.flash with staged := false } }

/-- Another staging, an activation, a HANDOVER or a PLDM update is in progress (R511; 12 R409). -/
def stagingBusy (s : State) (c : Cmd) : Bool :=
  s.sq.act.isSome || s.mgm.upd.isSome ||
  s.cmd.cmds.any (fun d => d.opcode == opStageFirmware && d.started && !(d.q == c.q && d.cid == c.cid))

/-- Effect of STAGE_FIRMWARE: at its start the slot is taken, at its end the image is verified and STAGED (R511). -/
def stageBody (image : List Byte) (whole : Bool) (c : Cmd) (s : State) : State × Did :=
  if c.progress = 0 ∧ stagingBusy s c then failWith s stStateConflict
  else
    let s := emptyStaging (modCmd c.q c.cid (fun c => { c with progress := 1 }) s)
    if !whole then (s, .stay)
    else
      let n := fld c.pb 8 8
      if 2 ^ 25 < n then failWith s stInvalidField
      else if image.length < n then failWith s stHostFault
      else match fwRefused s.flash (image.take n) with
        | some st => failWith s st
        | none =>
          let g := fwImageOf (image.take n)
          ({ s with flash := { setStaging (some g) s.flash with staged := true } }, .fin (finRes stSuccess (natLe 4 g.square.version)))

/-- STAGE_FIRMWARE (R511). -/
def execStageFirmware (q : QId) (cid : Nat) (image : List Byte) (whole : Bool) (s : State) : Res :=
  .next (runCmd opStageFirmware q cid (fun _ => 24) [(16, 8)] (stageBody image whole) s)

/-! ### ACTIVATE_FIRMWARE and HANDOVER (R514 to R517) -/

/-- What ACTIVATE_FIRMWARE refuses with STATE_CONFLICT (R514). -/
def activateRefused (s : State) (mode : Nat) : Bool :=
  (stagedImage s).isNone || s.sq.act.isSome ||
  (mode == 0 && (s.sq.standby != .inService || (stagedImage s).map (·.micro.hash) != s.sq.microcode.map (·.hash))) ||
  (mode == 1 && !s.courts.isEmpty)

/-- Effect of ACTIVATE_FIRMWARE with MODE 0: the standby stops mirroring and boots the staged slot (R515 step 1). -/
def activateHotBody (c : Cmd) (s : State) : State × Did :=
  if fld c.pb 0 1 ≠ 0 then failWith s stInvalidField
  else if activateRefused s 0 then failWith s stStateConflict
  else ({ s with sq.act := some ⟨c.q, c.cid, true, .preparing⟩, sq.standby := .booting }, .stay)

/-- ACTIVATE_FIRMWARE with MODE 0, or with a MODE out of range (R514, R515). -/
def execActivateFirmwareHot (q : QId) (cid : Nat) (s : State) : Res :=
  .next (if pbIs s q cid (fun b => fld b 0 1 != 1) && !(s.sq.act.any (fun a => a.q == q && a.cid == cid)) then
      runCmd opActivateFirmware q cid (fun _ => 8) [(1, 7)] activateHotBody s
    else s)

/-- The commands already fetched have retired (R515). -/
def onlyCmd (s : State) (q : QId) (cid : Nat) : Bool := s.cmd.cmds.all (fun c => c.q == q && c.cid == cid)

/-- Effect of ACTIVATE_FIRMWARE with MODE 1 at its start: fetching stops (R515). -/
def activateWarmBody (c : Cmd) (s : State) : State × Did :=
  if activateRefused s 1 then failWith s stStateConflict
  else ({ s with sq.act := some ⟨c.q, c.cid, false, .warming⟩ }, .stay)

/-- The warm activation's end: SELECT rewritten, the command retired, then the warm reset (R515). -/
def warmFinish (a : Activation) (finds : BootFinds) (s : State) : State :=
  let g := stagedImage s
  let s := { s with flash := { s.flash with select := 1 - s.flash.select, uncommitted := true } }
  warmReset finds (retireAct a (finRes stSuccess (natLe 4 (sqVersion g))) s)

/-- ACTIVATE_FIRMWARE with MODE 1 (R514, R515). -/
def execActivateFirmwareWarm (q : QId) (cid : Nat) (finds : BootFinds) (s : State) : Res :=
  let s := if pbIs s q cid (fun b => fld b 0 1 == 1) && !(s.sq.act.any (fun a => a.q == q && a.cid == cid)) then
      runCmd opActivateFirmware q cid (fun _ => 8) [(1, 7)] activateWarmBody s
    else s
  .next (match s.sq.act with
    | some a => if a.phase = .warming ∧ a.q = q ∧ a.cid = cid ∧ onlyCmd s q cid ∧ s.sq.ready then warmFinish a finds s else s
    | none => s)

/-- STANDBY as HANDOVER reports it (R517). -/
def standbyCode : Standby → Nat
  | .absent => 0
  | .booting => 1
  | .resyncing => 2
  | .inService => 3

/-- Effect of HANDOVER: the window opens (R517). -/
def handoverBody (c : Cmd) (s : State) : State × Did :=
  if fld c.pb 0 1 ≠ 0 then failWith s stInvalidField
  else if s.sq.standby ≠ .inService ∨ s.sq.act.isSome then failWith s stStateConflict
  else (openInterval false false { s with sq.act := some ⟨c.q, c.cid, false, .window s.sq.time⟩, sq.takeover := true }, .stay)

/-- HANDOVER with QUERY clear, or with reserved flags (R517). -/
def execHandover (q : QId) (cid : Nat) (s : State) : Res :=
  .next (if pbIs s q cid (fun b => fld b 0 1 != 1) then runCmd opHandover q cid (fun _ => 8) [(1, 7)] handoverBody s else s)

/-- Effect of HANDOVER with QUERY set (R517). -/
def handoverQueryBody (_ : Cmd) (s : State) : State × Did :=
  (s, .fin (finRes stSuccess (natLe 1 (standbyCode s.sq.standby) ++ zeros 3 ++ natLe 4 (sqVersion s.sq.standbyFw))))

/-- HANDOVER with QUERY set (R517). -/
def execHandoverQuery (q : QId) (cid : Nat) (s : State) : Res :=
  .next (if pbIs s q cid (fun b => fld b 0 1 == 1) then runCmd opHandover q cid (fun _ => 8) [(1, 7)] handoverQueryBody s else s)

end Sys2Proof.Machine
end

