-- ==== Sys2Proof/Machine/Avenues.lean ====
section
/-! DEFINITION. Avenues: routing, message streams, flits, credits, replay, encryption framing, training, keys, lanes
(spec/12_avenues_and_host_ports.md R374 to R396; spec/14_security_and_attestation.md R460). -/

namespace Sys2Proof.Machine

/-- The Avenue by number. -/
def avOf (s : State) (a : Nat) : Option Avenue := tblGet s.avs a

/-- Changes an Avenue. -/
def modAv (a : Nat) (f : Avenue → Avenue) (s : State) : State := { s with avs := tblModify s.avs a f }

/-! ### Records (R396) -/

/-- The 48 bytes of an Avenue event record (R396). -/
def avRecBytes (type a : Nat) (v : Avenue) (lane count : Nat) : List Byte :=
  natLe 1 type ++ natLe 1 a ++ natLe 1 lane ++ natLe 1 (if v.phase = .up then v.width else 0) ++ natLe 2 v.neighbour ++
  zeros 2 ++ natLe 4 count ++ zeros 4 ++ natLe 8 v.corrected ++ natLe 8 v.uncorrected ++ natLe 8 v.replays ++
  natLe 4 v.tagFails ++ zeros 4

/-- Posts an Avenue event record to the operator (R396). -/
def postAv (type a lane count : Nat) (s : State) : State := match avOf s a with
  | none => s
  | some v => postEvent 16 0x06 (avRecBytes type a v lane count) s

/-- Posts a record of type TAG_FAIL or UNREACHABLE: at most one per Avenue per second (R396). -/
def postAvLimited (type a : Nat) (s : State) : State := match avOf s a with
  | none => s
  | some v =>
    let post (n : Nat) (s : State) : State :=
      postAv type a 0xFF n (modAv a (fun v => { v with limits := tblSet v.limits type (s.sq.time, 0) }) s)
    match tblGet v.limits type with
    | none => post 1 s
    | some (t, n) =>
      if s.sq.time < t + 100000000 then modAv a (fun v => { v with limits := tblSet v.limits type (t, n + 1) }) s
      else post (n + 1) s

/-! ### Addressing and routing (R385 to R387) -/

/-- Coordinate of a device address in a dimension. -/
def coord (addr d : Nat) : Nat := addr / 16 ^ d % 16

/-- The dimension wraps: only one of size 16 may (R385). -/
def wraps (s : State) (d : Nat) : Bool := s.sq.torus.getD d 1 == 16 && s.sq.wrap.getD d false

/-- The address that the routing expects on an Avenue (R377). -/
def expectAddr (s : State) (a : Nat) : Nat :=
  let d := a / 2
  let n := s.sq.torus.getD d 1
  let c := coord s.sq.addr d
  let c' := if a % 2 = 0 then (c + 1) % n else (c + n - 1) % n
  s.sq.addr - c * 16 ^ d + c' * 16 ^ d

/-- The next hop toward a device: Avenue, and whether it crosses the wrap link; none at the destination
(R386, R387). -/
def nextHop (s : State) (dest : Nat) : Option (Nat × Bool) :=
  ((List.range 4).find? (fun d => coord s.sq.addr d != coord dest d)).map (fun d =>
    let c := coord s.sq.addr d
    let t := coord dest d
    let plus := if wraps s d then decide ((t + 16 - c) % 16 ≤ 8) else decide (c < t)
    (2 * d + (if plus then 0 else 1), wraps s d && (if plus then c == 15 else c == 0)))

/-- The number of hops between two devices (R386). -/
def hopCount (s : State) (a b : Nat) : Nat :=
  ((List.range 4).map (fun d =>
    let x := coord a d
    let y := coord b d
    if wraps s d then min ((x + 16 - y) % 16) ((y + 16 - x) % 16) else (x - y) + (y - x))).sum

/-- Dateline bit of the hop out of an Avenue (R387). -/
def datelineBit (out : Nat) (crosses : Bool) (came : Option (Nat × Nat)) : Nat :=
  if crosses then 1
  else match came with
    | some (a, vc) => if a / 2 = out / 2 then vc % 2 else 0
    | none => 0

/-! ### Message lengths (R380) -/

/-- Length of a message from its 16-byte header; none where KIND or the length breaks R380. -/
def msgLen (h : List Byte) : Option Nat :=
  let kind := fld h 7 1
  if kind = 1 ∨ kind = 2 ∨ kind = 3 ∨ kind = 6 then
    (match fld h 12 1 with
      | 0 => some 144
      | 1 => some 80
      | 2 => some 80
      | _ => none)
  else if kind = 4 ∨ kind = 5 ∨ kind = 7 ∨ kind = 8 then some 272
  else if 0x10 ≤ kind ∧ kind ≤ 0x16 then (if fld h 8 2 ≤ 4096 then some (16 + fld h 8 2) else none)
  else none

/-- What parsing a stream's bytes gives: whole messages, the bytes of an unfinished one, and whether some bytes were
discarded. -/
structure Parsed where
  msgs : List (List Byte)
  rest : List Byte
  lost : Bool
  deriving DecidableEq, Repr

/-- Cuts a stream's bytes into messages; after a message, zero bytes are padding to the flit's end (R379, R380). -/
def parseMsgs : Nat → List Byte → Parsed
  | 0, b => ⟨[], b, false⟩
  | n + 1, b =>
    if (b.take 16).all (fun x => x == 0#8) then ⟨[], [], false⟩
    else if b.length < 16 then ⟨[], b, false⟩
    else match msgLen b with
      | none => ⟨[], [], true⟩
      | some l =>
        if b.length < l then ⟨[], b, false⟩
        else
          let r := parseMsgs n (b.drop l)
          ⟨b.take l :: r.msgs, r.rest, r.lost⟩

/-! ### Sending messages -/

/-- The flits of one message on a VC to a destination: it starts a flit, and the last flit is padded (R379). -/
def flitsOf (vc dest court : Nat) (m : List Byte) : List Flit :=
  (chunks 584 (m.length + 1) m).zipIdx.map (fun p => ⟨vc, dest, if p.2 = 0 then 0 else 1023, court, padTo 584 p.1⟩)

/-- Puts a message for a destination on its way, from this device (`came` none) or from the Avenue and VC it came on;
the Avenue that is down where it cannot go (R386, R387, R389). -/
def sendRaw (tc court dest : Nat) (came : Option (Nat × Nat)) (m : List Byte) (s : State) : Option Nat × State :=
  match nextHop s dest with
  | none => (none, { s with inbox := s.inbox ++ [((came.map (·.1)).getD 8, tc, m)] })
  | some (a, x) =>
    match avOf s a with
    | none => (some a, s)
    | some v =>
      if v.phase = .down then
        (some a, postAvLimited 0x09 a (modAv a (fun v => { v with unreach := v.unreach + 1 }) s))
      else (none, modAv a (fun v => { v with txq := v.txq ++ flitsOf (2 * tc + datelineBit a x came) dest court m }) s)

/-- The UNREACHABLE message for a message that could not go out on an Avenue (R380, R389). -/
def unreachableMsg (s : State) (a : Nat) (m : List Byte) : List Byte :=
  let c := fld m 6 1
  zeros 4 ++ natLe 2 s.sq.addr ++ natLe 1 (c / 16 + 16 * (c % 16)) ++ natLe 1 0x16 ++ natLe 2 24 ++ zeros 6 ++
  m.take 16 ++ natLe 1 a ++ zeros 7

/-- Sends a message; where it meets an Avenue that is down, a device message of kind 0x10 to 0x15 is answered
UNREACHABLE (R389). -/
def sendMsg (tc court dest : Nat) (came : Option (Nat × Nat)) (m : List Byte) (s : State) : State :=
  match sendRaw tc court dest came m s with
  | (none, s) => s
  | (some a, s) =>
    if 0x10 ≤ fld m 7 1 ∧ fld m 7 1 ≤ 0x15 then (sendRaw 0 16 (fld m 4 2) none (unreachableMsg s a m) s).2 else s

/-- Court whose credit share pays for a message in transit: the source Court of a device message, else the device. -/
def transitCourt (tc : Nat) (m : List Byte) : Nat := if tc = 0 ∨ fld m 7 1 < 0x10 then 16 else fld m 6 1 % 16

/-! ### Flits on the wire (R378, R382, R383, R392) -/

/-- Dedicated buffers of a VC (R382). -/
def dedCap (vc : Nat) : Nat := if vc < 2 then 32 else 8

/-- VCs of a VC's class pool (R382). -/
def poolVcs (vc : Nat) : List Nat := if vc < 2 then [] else if vc < 8 then [2, 3, 4, 5, 6, 7] else [8, 9, 10, 11, 12, 13, 14, 15]

/-- Pool buffers that the VCs of a class hold. -/
def poolUsed (v : Avenue) (vc : Nat) : Nat := ((poolVcs vc).map (fun i => tblGetD v.pool i 0)).sum

/-- The transmitter holds a credit for a VC (R382). -/
def hasCredit (v : Avenue) (vc : Nat) : Bool :=
  decide (tblGetD v.ded vc 0 < dedCap vc) || (decide (2 ≤ vc) && decide (poolUsed v vc < 168))

/-- Takes a credit: a dedicated one, or else one of the class pool (R382). -/
def takeCredit (vc : Nat) (v : Avenue) : Avenue :=
  if tblGetD v.ded vc 0 < dedCap vc then { v with ded := tblSet v.ded vc (tblGetD v.ded vc 0 + 1) }
  else { v with pool := tblSet v.pool vc (tblGetD v.pool vc 0 + 1) }

/-- A returned credit first reduces the VC's pool buffers, the rest its dedicated ones (R382, R383). -/
def giveCredits (vc n : Nat) (v : Avenue) : Avenue :=
  let p := tblGetD v.pool vc 0
  let d := tblGetD v.ded vc 0
  { v with pool := tblSet v.pool vc (p - min n p), ded := tblSet v.ded vc (d - (n - min n p)) }

/-- Unsent credit returns of a VC. -/
def unsentCred (v : Avenue) (vc : Nat) : Nat := tblGetD v.credOut vc 0 - tblGetD v.credSent vc 0

/-- The VC with the most unsent returns (R383). -/
def credPick (v : Avenue) : Nat :=
  (List.range 16).foldl (fun m i => if unsentCred v m < unsentCred v i then i else m) 0

/-- The 64 bits of a flit header (R378). -/
def flitHdr (type vc dest seq ack credVc credN first : Nat) : Nat :=
  type + vc * 2 ^ 2 + dest * 2 ^ 6 + seq * 2 ^ 22 + ack * 2 ^ 33 + credVc * 2 ^ 44 + credN * 2 ^ 48 + first * 2 ^ 54

/-- Sends one flit: header with ACK and credits, encrypted payload, 8-byte tag; the slot is used up (R378, R392). -/
def sendFlit (a type vc dest seq first : Nat) (payload : List Byte) (s : State) : State :=
  match avOf s a with
  | none => s
  | some v =>
    let cv := credPick v
    let n := tblGetD v.credOut cv 0
    let h := natLe 8 (flitHdr type vc dest seq ((v.rxNext + 2047) % 2048) cv (n % 64) first)
    let r := Config.gcmSeal v.txKey (padTo 4 v.txSalt ++ natLe 8 v.txSlot) h (padTo 584 payload)
    emit (.avenue a (h ++ padTo 584 r.1 ++ (padTo 16 r.2).take 8))
      (modAv a (fun v => { v with txSlot := v.txSlot + 1, credSent := tblSet v.credSent cv n }) s)

/-- The Avenue may send: UP and its key not used up (R376, R392). -/
def maySend (v : Avenue) : Bool := v.phase == .up && decide (v.txSlot < 2 ^ 32)

/-- Sends a CONTROL flit with one control word: kind and parameter bytes (R379). -/
def sendControl (a kind p : Nat) (s : State) : State := match avOf s a with
  | none => s
  | some v => if maySend v then sendFlit a 2 0 0 0 1023 (natLe 1 kind ++ natLe 2 p ++ zeros 5) s else s

/-- Sends an IDLE flit, which carries ACK and credits (R379). -/
def sendIdle (a : Nat) (s : State) : State := match avOf s a with
  | none => s
  | some v => if maySend v then sendFlit a 0 0 0 0 1023 [] s else s

/-! ### The transmitter (R384, R390) -/

/-- Weight of a Court's share on the Avenues; device traffic weighs 1 (R384). -/
def creditWeight (s : State) (c : Nat) : Nat := match courtOf s c with
  | some k => k.weight
  | none => 1

/-- Flits of a TC that hold credit. -/
def tcReady (v : Avenue) (tc : Nat) : List Flit := v.txq.filter (fun f => f.vc / 2 == tc && hasCredit v f.vc)

/-- The TC to serve: TC 0, the Express TCs in turn, the Local TCs in turn (R384). -/
def pickTc (v : Avenue) : Option Nat :=
  let turn (lo n at_ : Nat) : List Nat := (List.range n).map (fun i => lo + (at_ - lo + i) % n)
  ((0 :: turn 1 3 v.rrX) ++ turn 4 4 v.rrL).find? (fun t => !(tcReady v t).isEmpty)

/-- The Court to serve in a TC, and its deficit: the one whose turn it is while it has deficit, else the next that has
a flit, with its weight added (R384). -/
def pickCourt (s : State) (v : Avenue) (tc : Nat) : Nat × Nat :=
  let ready := (tcReady v tc).map (·.court)
  let cur := tblGetD v.drr tc 0
  let d := tblGetD v.deficit (tc * 17 + cur) 0
  if ready.contains cur ∧ 0 < d then (cur, d)
  else
    let next := (((List.range 17).map (fun i => (cur + 1 + i) % 17)).find? (fun c => ready.contains c)).getD cur
    (next, tblGetD v.deficit (tc * 17 + next) 0 + creditWeight s next)

/-- Sends the next DATA flit that has credit, if there is one (R382, R384, R390). -/
def sendNext (a : Nat) (s : State) : State := match avOf s a with
  | none => s
  | some v =>
    if !maySend v ∨ 512 ≤ v.unacked.length then s
    else match pickTc v with
      | none => s
      | some tc =>
        let p := pickCourt s v tc
        match (tcReady v tc).find? (fun f => f.court == p.1) with
        | none => s
        | some f =>
          let seq := v.txSeq
          let s := modAv a (fun v => takeCredit f.vc { v with
            txq := v.txq.erase f, txSeq := (v.txSeq + 1) % 2048, unacked := v.unacked ++ [(seq, f)],
            ackAt := if v.unacked.isEmpty then s.sq.time else v.ackAt, drr := tblSet v.drr tc p.1,
            deficit := tblSet v.deficit (tc * 17 + p.1) (p.2 - 1),
            rrX := if 1 ≤ tc ∧ tc ≤ 3 then 1 + tc % 3 else v.rrX,
            rrL := if 4 ≤ tc then 4 + (tc - 3) % 4 else v.rrL }) s
          sendFlit a 1 f.vc f.dest seq f.first f.payload s

/-- Sends what an Avenue can send. -/
def pump (a : Nat) (s : State) : State := match avOf s a with
  | none => s
  | some v => forUpto v.txq.length (fun _ s => sendNext a s) s

/-- Sends what every Avenue can send. -/
def pumpAll (s : State) : State := forUpto 8 pump s

/-- Sends a message of this device and lets the Avenues run. -/
def post (tc court dest : Nat) (m : List Byte) (s : State) : State := pumpAll (sendMsg tc court dest none m s)

/-- Takes an Avenue into a retrain (R376, R395). -/
def retrain (a : Nat) (s : State) : State :=
  postAv 0x05 a 0xFF 1 (modAv a (fun v => { v with phase := .training, nakOut := false }) s)

/-- Takes an Avenue down. -/
def avDown (a : Nat) (s : State) : State := postAv 0x02 a 0xFF 1 (modAv a (fun v => { v with phase := .down }) s)

/-- Replays from a SEQ on, each flit in a new slot; the eighth replay of one SEQ retrains (R390). -/
def replayFrom (a seq : Nat) (s : State) : State := match avOf s a with
  | none => s
  | some v =>
    let fl := v.unacked.dropWhile (fun p => p.1 != seq)
    if fl.isEmpty ∨ !maySend v then s
    else
      let n := if v.replaySeq = seq then v.replayN + 1 else 1
      let s := modAv a (fun v => { v with replaySeq := seq, replayN := n, ackAt := s.sq.time }) s
      if 8 < n then retrain a (postAv 0x08 a 0xFF 1 (modAv a (fun v => { v with replayN := 0 }) s))
      else fl.foldl (fun s p => match avOf s a with
        | none => s
        | some v => if maySend v then
            sendFlit a 1 p.2.vc p.2.dest p.1 p.2.first p.2.payload (modAv a (fun v => { v with replays := v.replays + 1 }) s)
          else s) s

/-! ### The receiver (R379, R383, R390, R391) -/

/-- What a received flit turns out to be. -/
inductive Flitin where
  /-- not a flit that this row concerns; nothing has happened -/
  | no
  /-- uncorrectable, or its tag failed -/
  | bad
  /-- intact: header and payload -/
  | ok (hdr : Nat) (payload : List Byte)
  deriving DecidableEq, Repr

/-- ACK and credits of an intact header (R382, R383, R390). -/
def takeHdr (a h : Nat) (s : State) : State := match avOf s a with
  | none => s
  | some v =>
    let ack := bits h 43 33
    let i := v.unacked.findIdx (fun p => p.1 == ack)
    let left := if i < v.unacked.length then v.unacked.drop (i + 1) else v.unacked
    let cv := bits h 47 44
    let cn := bits h 53 48
    let seen := tblGetD v.credSeen cv 0
    modAv a (fun v => giveCredits cv ((cn + 64 - seen) % 64) { v with
      unacked := left, ackAt := if left.length < v.unacked.length then s.sq.time else v.ackAt,
      replayN := if left.length < v.unacked.length then 0 else v.replayN,
      credSeen := tblSet v.credSeen cv cn }) s

/-- More than 16 tag failures in one second: AUTH_FAILED, and the Avenue retrains with a new key establishment
(R391; 14 R460). -/
def tagLimit (a : Nat) (s : State) : State := match avOf s a with
  | none => s
  | some v =>
    if v.tagTimes.length ≤ 16 then s
    else
      let s := modAv a (fun v => { v with phase := .down, tagTimes := [] }) s
      let s := postSec 0x05 0xFF 0xFF a 1 v.neighbour (postAv 0x0A a 0xFF 1 s)
      modAv a (fun v => { v with phase := .training, keyed := false, nakOut := false }) s

/-- A tag failure is counted (R391). -/
def tagFailed (a : Nat) (s : State) : State :=
  let s := modAv a (fun v => { v with
    tagFails := v.tagFails + 1
    tagTimes := s.sq.time :: v.tagTimes.filter (fun t => decide (s.sq.time < t + 100000000)) }) s
  postAvLimited 0x07 a s

/-- Receives a flit of a TYPE: its slot, the FEC, the tag (R378, R390 to R392). -/
def rxFlit (a type : Nat) (flit : List Byte) (fec : FecIn) (s : State) : Flitin × State := match avOf s a with
  | none => (.no, s)
  | some v =>
    let h := fld flit 0 8
    if v.phase ≠ .up ∨ 2 ^ 32 ≤ v.rxSlot ∨ flit.length ≠ 600 ∨ h % 4 ≠ type then (.no, s)
    else
      let s := modAv a (fun v => { v with rxSlot := v.rxSlot + 1, corrected := v.corrected + fec.corrected }) s
      if !fec.ok then (.bad, modAv a (fun v => { v with uncorrected := v.uncorrected + 1 }) s)
      else match Config.gcmOpen v.rxKey (padTo 4 v.rxSalt ++ natLe 8 v.rxSlot) (flit.take 8) (slice flit 8 584) (flit.drop 592) with
        | none => (.bad, tagFailed a s)
        | some p => (.ok h (padTo 584 p), takeHdr a h s)

/-- A DATA flit is lost: one NAK asks for the replay (R390). -/
def nakData (a : Nat) (s : State) : State := match avOf s a with
  | none => s
  | some v => if v.nakOut then s else sendControl a 1 v.rxNext (modAv a (fun v => { v with nakOut := true }) s)

/-- The payload of a DATA flit continues its stream; whole messages are delivered or sent on (R379, R380, R386). -/
def deliver (a vc dest first : Nat) (payload : List Byte) (s : State) : State := match avOf s a with
  | none => s
  | some v =>
    let key := vc * 65536 + dest
    let part := tblGetD v.rx key []
    let b := if part.isEmpty then (if first < 584 then payload.drop first else []) else part ++ payload
    let r := parseMsgs (b.length + 1) b
    let s := modAv a (fun v => { v with
      rx := if r.rest.isEmpty then tblErase v.rx key else tblSet v.rx key r.rest
      errors := v.errors + b2n r.lost }) s
    r.msgs.foldl (fun s m => sendMsg (vc / 2) (transitCourt (vc / 2) m) dest (some (a, vc)) m s) s

/-- Sends on an Avenue what is waiting, or else an IDLE flit with ACK and credits. -/
def answer (a : Nat) (s : State) : State :=
  let n := s.out.length
  let s := pumpAll s
  if s.out.length = n then sendIdle a s else s

/-- DATA_FLIT: checked, acknowledged, credited, delivered (R379, R383, R390, R391). -/
def execDataFlit (av : Nat) (flit : List Byte) (fec : FecIn) (s : State) : Res :=
  .next (match rxFlit av 1 flit fec s with
    | (.no, s) => s
    | (.bad, s) => tagLimit av (nakData av s)
    | (.ok h p, s) => match avOf s av with
      | none => s
      | some v =>
        let seq := bits h 32 22
        let vc := bits h 5 2
        if seq = v.rxNext then
          let s := modAv av (fun v => { v with
            rxNext := (v.rxNext + 1) % 2048, nakOut := false, credOut := tblSet v.credOut vc (tblGetD v.credOut vc 0 + 1) }) s
          answer av (deliver av vc (bits h 21 6) (bits h 63 54) p s)
        else if (seq + 2048 - v.rxNext) % 2048 < 1024 then nakData av s
        else answer av s)

/-- IDLE_FLIT: only its header counts (R379). -/
def execIdleFlit (av : Nat) (flit : List Byte) (fec : FecIn) (s : State) : Res :=
  .next (match rxFlit av 0 flit fec s with
    | (.no, s) => s
    | (.bad, s) => tagLimit av s
    | (.ok _ _, s) => pumpAll s)

/-- The control words of a CONTROL flit: kind and the two bytes after it (R379). -/
def controlWords (p : List Byte) : List (Nat × Nat) := (List.range 73).map (fun i => (fld p (8 * i) 1, fld p (8 * i + 1) 2))

/-- The spare lane and the width that a set of failed lanes leaves, from a width; none where too few lanes work
(R375, R393, R394). -/
def laneWidth (width : Nat) (bad : List Nat) : Option Nat :=
  if width = 16 ∧ bad.length ≤ 1 then some 16 else if 8 + bad.length ≤ 17 then some 8 else none

/-- One control word (R390, R393, R394). -/
def controlWord (a : Nat) (w : Nat × Nat) (s : State) : State :=
  match w.1 with
  | 1 => replayFrom a (w.2 % 2048) s
  | 2 => modAv a (fun v => { v with spareTx := some (w.2 % 256) }) s
  | 3 => if w.2 % 256 = 8 then retrain a (modAv a (fun v => { v with width := 8 }) s) else retrain a s
  | 4 => retrain a s
  | _ => s

/-- A CONTROL flit whose first word is of a kind: its words act in order. -/
def controlFlit (kind a : Nat) (flit : List Byte) (fec : FecIn) (s : State) : State :=
  match rxFlit a 2 flit fec s with
  | (.no, s) => s
  | (.bad, s) => tagLimit a s
  | (.ok _ p, s') =>
    if (((controlWords p).find? (fun w => w.1 != 0)).map (·.1)) ≠ some kind then s
    else pumpAll ((controlWords p).foldl (fun s w => controlWord a w s) s')

/-- NAK (R390). -/
def execNak (av : Nat) (flit : List Byte) (fec : FecIn) (s : State) : Res := .next (controlFlit 1 av flit fec s)

/-- LANE_SWAP: the transmitter moves the lane to the spare (R393). -/
def execLaneSwap (av : Nat) (flit : List Byte) (fec : FecIn) (s : State) : Res := .next (controlFlit 2 av flit fec s)

/-- WIDTH: the exchange and the retrain to half width (R394). -/
def execWidth (av : Nat) (flit : List Byte) (fec : FecIn) (s : State) : Res := .next (controlFlit 3 av flit fec s)

/-- RETRAIN (R379). -/
def execRetrain (av : Nat) (flit : List Byte) (fec : FecIn) (s : State) : Res := .next (controlFlit 4 av flit fec s)

/-- REPLAY_TIMEOUT: ACK has not advanced for 2 µs while flits are outstanding (R390). -/
def execReplayTimeout (av : Nat) (s : State) : Res :=
  .next (match avOf s av with
    | none => s
    | some v => match v.unacked.head? with
      | none => s
      | some p => if s.sq.time < v.ackAt + 200 then s else replayFrom av p.1 s)

/-! ### Lanes (R393, R394) -/

/-- LANE_FAILURE: a receive lane fails; it is spared, or the Avenue goes to half width, or down. -/
def execLaneFailure (av lane : Nat) (s : State) : Res :=
  .next (match avOf s av with
    | none => s
    | some v =>
      if v.phase ≠ .up ∨ 16 < lane ∨ v.failed.contains lane then s
      else
        let bad := v.failed ++ [lane]
        let s := modAv av (fun v => { v with failed := bad }) s
        if lane = 16 ∧ v.spareRx = none then s
        else match laneWidth v.width bad with
          | none => avDown av s
          | some w =>
            if w = v.width ∧ w = 16 then
              postAv 0x03 av lane 1 (sendControl av 2 lane (modAv av (fun v => { v with spareRx := some lane }) s))
            else
              let s := postAv 0x04 av lane 1 (sendControl av 3 8 s)
              retrain av (modAv av (fun v => { v with width := 8 }) s))

/-! ### Key establishment (14 R460) -/

/-- The certificates of this device, identity then BAK. -/
def ownCerts (s : State) : List Byte := idCert ++ (match s.sec.bak with
  | some b => bakCert b
  | none => zeros 7984)

/-- Verifies a peer's identity certificate and BAK certificate, 15 968 bytes: BAK_PK of an accepted peer
(14 R460, R463). -/
def peerBak (c : List Byte) : Option (List Byte) :=
  let id := c.take 7984
  let bak := slice c 7984 7984
  let pk := slice id 32 32
  if fld id 0 4 = 0x43444955 ∧ fld id 4 2 = 1 ∧ slice id 64 8 = (sha256 Config.rootKey).take 8 ∧
      Config.slhVerify Config.rootKey (id.take 128) (id.drop 128) = true ∧
      (fld id 6 2 = 0x1296 ∨ Config.familyPart (fld id 6 2) = true) ∧
      fld bak 0 4 = 0x434B4255 ∧ fld bak 4 2 = 1 ∧ slice bak 24 32 = sha256 pk ∧
      Config.slhVerify pk (bak.take 128) (bak.drop 128) = true then
    some (slice bak 56 32)
  else none

/-- A signature by this device's BAK. -/
def bakSign (s : State) (m : List Byte) : List Byte := slhSig ((s.sec.bak.map (·.seed)).getD []) m

/-- Sends a message of the key establishment: in DATA flits on TC 0, not encrypted, tag zero (14 R460). -/
def sendKeying (a : Nat) (m : List Byte) (s : State) : State :=
  (flitsOf 0 (expectAddr s a) 16 m).foldl (fun s f => match avOf s a with
    | none => s
    | some v =>
      let h := natLe 8 (flitHdr 1 0 f.dest v.txSeq ((v.rxNext + 2047) % 2048) 0 0 f.first)
      emit (.avenue a (h ++ f.payload ++ zeros 8)) (modAv a (fun v => { v with txSeq := (v.txSeq + 1) % 2048 }) s)) s

/-- Notes the flits of a received message of the key establishment. -/
def tookKeying (a : Nat) (m : List Byte) (s : State) : State :=
  modAv a (fun v => { v with rxNext := (v.rxNext + ceilDiv m.length 584) % 2048 }) s

/-- This end is the initiator: the lower device address (14 R460). -/
def initiator (s : State) (a : Nat) : Bool := decide (s.sq.addr < expectAddr s a)

/-- The initiator sends HELLO (14 R460 step 1). -/
def sendHello (a : Nat) (s : State) : State :=
  if !initiator s a then s
  else
    let k := draw 64 s
    let kem := Config.kemKeys k.1
    let n := draw 32 k.2
    let m := padTo 1568 kem.1 ++ n.1 ++ ownCerts s
    sendKeying a m (modAv a (fun v => { v with transcript := m, secret := kem.2 }) n.2)

/-- A failed establishment: AVENUE_AUTH_FAIL, and another attempt 10 s later (14 R460). -/
def authFail (a : Nat) (s : State) : State := match avOf s a with
  | none => s
  | some v => postSec 0x05 0xFF 0xFF a 1 v.neighbour
      (modAv a (fun v => { v with retryAt := some (s.sq.time + 1000000000), transcript := [], secret := [] }) s)

/-- Step 6 of the training: the Avenue is UP; what waits goes out, replay first (R376, R395). -/
def avUp (a : Nat) (s : State) : State :=
  let s := modAv a (fun v => { v with phase := .up, retryAt := none, corrected := 0, uncorrected := 0, replays := 0, tagFails := 0 }) s
  let s := fabricCheck (postAv 0x01 a 0xFF 1 s)
  pump a (match avOf s a with
    | none => s
    | some v => match v.unacked.head? with
      | none => s
      | some p => replayFrom a p.1 s)

/-- Step 4: both Watches derive the keys and salts; direction 1 is from the initiator (14 R460; R392). -/
def loadKeys (a : Nat) (ss h : List Byte) (s : State) : State :=
  let dir (out : Bool) : List Byte := natLe 1 (if initiator s a = out then 1 else 2)
  avUp a (modAv a (fun v => { v with
    keyed := true, transcript := [], secret := [], epoch := 0, rxEpoch := 0, txSlot := 0, rxSlot := 0,
    txKey := kdf ss "ralio-avenue" (h ++ dir true), rxKey := kdf ss "ralio-avenue" (h ++ dir false),
    txSalt := (kdf ss "ralio-salt" (h ++ dir true)).take 4, rxSalt := (kdf ss "ralio-salt" (h ++ dir false)).take 4 }) s)

/-- AVENUE_HELLO: the responder verifies, encapsulates, signs and answers (14 R460 step 2). -/
def execAvenueHello (av : Nat) (msg : List Byte) (s : State) : Res :=
  .next (match avOf s av with
    | none => s
    | some v =>
      if v.phase ≠ .keying ∨ v.retryAt.isSome ∨ initiator s av then s
      else
        let s := tookKeying av msg s
        match (if msg.length = 17568 then peerBak (msg.drop 1600) else none) with
        | none => authFail av s
        | some _ =>
          let r := draw 32 s
          let e := Config.kemEncap (msg.take 1568) r.1
          let n := draw 32 r.2
          let body := padTo 1568 e.1 ++ n.1 ++ ownCerts s
          let m := body ++ bakSign s (sha256 (msg ++ body))
          sendKeying av m (modAv av (fun v => { v with transcript := msg ++ m, secret := padTo 32 e.2 }) n.2))

/-- AVENUE_KEY_RESPONSE: the initiator verifies, decapsulates, signs and loads the keys (14 R460 steps 3 and 4). -/
def execAvenueKeyResponse (av : Nat) (msg : List Byte) (s : State) : Res :=
  .next (match avOf s av with
    | none => s
    | some v =>
      if v.phase ≠ .keying ∨ v.retryAt.isSome ∨ !initiator s av ∨ v.transcript = [] then s
      else
        let s := tookKeying av msg s
        let body := msg.take 17568
        match (if msg.length = 25424 then peerBak (body.drop 1600) else none) with
        | none => authFail av s
        | some pk =>
          if Config.slhVerify pk (sha256 (v.transcript ++ body)) (msg.drop 17568) = true then
            let h := sha256 (v.transcript ++ msg)
            let ss := padTo 32 (Config.kemDecap v.secret (body.take 1568))
            loadKeys av ss h (sendKeying av (bakSign s h) s)
          else authFail av s)

/-- AVENUE_KEY_CONFIRM: the responder verifies the initiator's signature and loads the keys (14 R460 steps 3 and 4). -/
def execAvenueKeyConfirm (av : Nat) (msg : List Byte) (s : State) : Res :=
  .next (match avOf s av with
    | none => s
    | some v =>
      if v.phase ≠ .keying ∨ v.retryAt.isSome ∨ initiator s av ∨ v.transcript = [] then s
      else
        let s := tookKeying av msg s
        let h := sha256 v.transcript
        match peerBak (slice v.transcript 1600 15968) with
        | none => authFail av s
        | some pk => if Config.slhVerify pk h msg = true then loadKeys av v.secret h s else authFail av s)

/-- AVENUE_AUTH_RETRY: 10 s after a failed establishment another attempt starts (14 R460). -/
def execAvenueAuthRetry (av : Nat) (s : State) : Res :=
  .next (match avOf s av with
    | none => s
    | some v => match v.retryAt with
      | none => s
      | some t =>
        if v.phase ≠ .keying ∨ s.sq.time < t then s
        else sendHello av (modAv av (fun v => { v with retryAt := none }) s))

/-- AVENUE_KEY_ROLLOVER: at slot 2^32 a direction moves to its next key (R392; 14 R460). -/
def execAvenueKeyRollover (av : Nat) (tx : Bool) (s : State) : Res :=
  .next (match avOf s av with
    | none => s
    | some v =>
      if tx then
        if v.txSlot < 2 ^ 32 then s
        else pump av (modAv av (fun v => { v with
          txKey := kdf v.txKey "ralio-next" (natLe 4 v.epoch), epoch := (v.epoch + 1) % 2 ^ 32, txSlot := 0 }) s)
      else if v.rxSlot < 2 ^ 32 then s
      else modAv av (fun v => { v with
        rxKey := kdf v.rxKey "ralio-next" (natLe 4 v.rxEpoch), rxEpoch := (v.rxEpoch + 1) % 2 ^ 32, rxSlot := 0 }) s)

/-! ### Training (R376, R377) -/

/-- The neighbour is the one the routing expects, with the same sizes and wrap flags (R377). -/
def neighbourOk (s : State) (a : Nat) (l : AvLook) : Bool :=
  l.neighbour == expectAddr s a && l.sizes == s.sq.torus && l.wrap == s.sq.wrap

/-- The link layer as a reset of the neighbour leaves it: sequence numbers and credits start over, and what was not
acknowledged waits again. -/
def startOver (v : Avenue) : Avenue :=
  { v with txq := v.unacked.map (·.2) ++ v.txq, unacked := [], txSeq := 0, rxNext := 0, nakOut := false, ded := [],
           pool := [], credSeen := [], credOut := [], credSent := [], rx := [], replayN := 0, keyed := false }

/-- One attempt at training (R376, R377, R394). -/
def trainAv (a : Nat) (l : AvLook) (s : State) : State := match avOf s a with
  | none => s
  | some v =>
    let base := l.fresh || v.neighbour == 0xFFFF
    let bad := (if base then l.lanesBad else (v.failed ++ l.lanesBad).eraseDups).filter (fun x => decide (x < 17))
    match laneWidth (if base then 16 else v.width) bad with
    | none => avDown a (modAv a (fun v => { v with failed := bad }) s)
    | some w =>
      let spare := (bad.filter (fun x => x != 16)).head?
      let s := modAv a (fun v => { v with width := w, failed := bad, spareRx := if w = 16 then spare else none, neighbour := l.neighbour }) s
      if !neighbourOk s a l then
        postAv 0x06 a 0xFF 1 (modAv a (fun v => { v with phase := .down, retryAt := some (s.sq.time + 1000000000) }) s)
      else
        let s := if w = 16 ∧ spare.isSome ∧ v.spareRx = none then postAv 0x03 a (spare.getD 0) 1 s else s
        let s := if w = 8 ∧ (v.width = 16 ∨ base) then postAv 0x04 a 0xFF 1 s else s
        let s := if l.fresh then modAv a startOver s else s
        if v.keyed ∧ !l.fresh then avUp a (modAv a (fun v => { v with rxSlot := l.resume }) s)
        else sendHello a (modAv a (fun v => { v with phase := .keying, retryAt := none, keyed := false }) s)

/-- The Avenue domains may train: the device is powered, out of PERST# and past the start of its boot. -/
def avAwake (s : State) : Bool := s.sq.powered && !s.sq.perst && decide (7 ≤ s.sq.stage) && !s.sq.fatal

/-- AVENUE_TRAINING (R376). -/
def execAvenueTraining (av : Nat) (look : AvLook) (s : State) : Res :=
  .next (match avOf s av with
    | none => s
    | some v => if avAwake s ∧ v.phase = .training ∧ avenueUsed s av then trainAv av look s else s)

/-- AVENUE_TRAIN_RETRY: 10 s after a mismatch the Avenue trains again (R377). -/
def execAvenueTrainRetry (av : Nat) (look : AvLook) (s : State) : Res :=
  .next (match avOf s av with
    | none => s
    | some v => match v.retryAt with
      | none => s
      | some t =>
        if !avAwake s ∨ v.phase ≠ .down ∨ s.sq.time < t then s
        else trainAv av look (modAv av (fun v => { v with phase := .training, retryAt := none }) s))

/-- NEIGHBOUR_RESET: the other end has been reset, and the Avenue trains again (R376). -/
def execNeighbourReset (av : Nat) (s : State) : Res :=
  .next (match avOf s av with
    | none => s
    | some v =>
      if !avAwake s ∨ !avenueUsed s av then s
      else
        let s := if v.phase = .up then avDown av s else s
        modAv av (fun v => { v with phase := .training, retryAt := none, transcript := [], secret := [] }) s)

end Sys2Proof.Machine
end

