-- ==== Sys2Proof/Machine/MemEvents.lean ====
section
/-! DEFINITION. What reads of DRAM and SRAM find, the error records, scrubbing and channel map-out
(spec/04_memory_system.md R116, R120 to R132, R136). -/

namespace Sys2Proof.Machine

/-! ### Records (R125, R126) -/

/-- One past the last device address. -/
abbrev dpaEnd : Nat := 1152 * gib

/-- The physical slot that holds a line now (R107, R128). -/
def lineSlot (s : State) (line : Nat) : Nat := (homeOf s.mem.mapped line).2

/-- COURT and CONF of a line: its Court, 16 for the device pool or a free granule (R121). -/
def lineOwner (s : State) (line : Nat) : Nat × Bool :=
  match tblGet s.mem.granules (line / gib) with
  | some g => match g.owner with
    | .court c => (c, g.conf)
    | _ => (16, false)
  | none => (16, false)

/-- The Court address of a device address, where the Court's granule table reaches it (R103). -/
def courtAddrOf (s : State) (c dpa : Nat) : Option Nat :=
  match courtOf s c with
  | none => none
  | some k => (k.gtab.find? (fun p => p.2 == dpa / gib)).map (fun p => p.1 * gib + dpa % gib)

/-- What a memory error record says, beside its ADDRESS. -/
structure MemRec where
  type : Nat
  slot : Option Nat
  court : Nat
  count : Nat
  time : Nat
  sym : Option Nat
  flags : Nat
  deriving DecidableEq, Repr

/-- The 32 bytes of a memory error record (R125). -/
def memRecBytes (s : State) (r : MemRec) (addr : Option Nat) : List Byte :=
  natLe 1 r.type ++ natLe 1 ((r.slot.map stackOf).getD 0xFF) ++ natLe 1 ((r.slot.map channelOf).getD 0xFF) ++
  natLe 1 (if r.court < 16 then r.court else 0xFF) ++ natLe 4 (min r.count (2 ^ 32 - 1)) ++
  natLe 8 (addr.getD (2 ^ 64 - 1)) ++ natLe 8 r.time ++ natLe 1 (r.sym.getD 0xFF) ++ natLe 1 r.flags ++
  natLe 1 s.mem.mapped.length ++ zeros 5

/-- Posts a memory error record to the operator, and its Court copy where the type has one (R126). -/
def postMem (r : MemRec) (line : Option Nat) (copy : Bool) (s : State) : State :=
  let b := memRecBytes s r
  let s' := postEvent 16 0x01 (b line) s
  if copy && decide (r.court < 16) then
    postEvent r.court 0x01 (b (line.bind (courtAddrOf s r.court))) s'
  else s'

/-- A record of one event about a line. -/
def lineRec (s : State) (type line : Nat) (sym : Option Nat) (flags : Nat) : MemRec :=
  let o := lineOwner s line
  ⟨type, some (lineSlot s line), o.1, 1, s.sq.time, sym, flags + 4 * b2n o.2⟩

/-- Posts a record of type 0x02 or 0x04: one per channel per Court per second, with the events held back since (R126). -/
def postLimited (type line : Nat) (sym : Option Nat) (flags : Nat) (copy : Bool) (s : State) : State :=
  let r := lineRec s type line sym flags
  let key := (type * 384 + r.slot.getD 0) * 17 + r.court
  let post (m : MemRec) (at_ : Nat) (s : State) : State :=
    postMem m (some at_) copy
      { s with mem.recLimit := tblSet s.mem.recLimit key ⟨s.sq.time, 0, 0, 0, 0⟩ }
  match tblGet s.mem.recLimit key with
  | none => post r line s
  | some l =>
    if s.sq.time < l.last + 100000000 then
      let l' := if l.count = 0 then { l with count := 1, first := s.sq.time, line := line, sym := sym.getD 0xFF }
        else { l with count := l.count + 1 }
      { s with mem.recLimit := tblSet s.mem.recLimit key l' }
    else if l.count = 0 then post r line s
    else post { r with count := l.count + 1, time := l.first, sym := sym.map (fun _ => l.sym) } l.line s

/-- POISON_READ of a consumer: only for a line whose POISON bit is set or whose channel failed hard (R126). -/
def poisonRead (line : Option Nat) (s : State) : State :=
  match line with
  | none => s
  | some l => if linePoison s l then postLimited 0x04 l none 0 true s else s

/-! ### Map-out thresholds (R127, R129, R132) -/

/-- A channel with no errors counted. -/
def noErr : ChanErr := ⟨[], [], [], 0⟩

/-- The error counts of a slot. -/
def chanOf (s : State) (slot : Nat) : ChanErr := tblGetD s.mem.chans slot noErr

/-- Adds to the newest bucket. -/
def addNow (n : Nat) : List Nat → List Nat
  | [] => [n]
  | b :: t => (b + n) :: t

/-- A readable map-out condition holds (R127). -/
def overLimit (c : ChanErr) : Bool :=
  decide (4096 ≤ c.l2.sum) || decide (2 ≤ ((c.ue.map (·.1)).eraseDups).length) || decide (65536 < c.l1.sum)

/-- A slot is mapped out, in progress or in the queue (R129). -/
def slotQueued (s : State) (slot : Nat) : Bool :=
  s.mem.mapped.contains slot || s.mem.mapQueue.any (fun e => e.1 == slot) || (s.mem.mapNow.map (·.1)) == some slot

/-- Map-outs done, in progress and waiting. -/
def mapCount (s : State) : Nat := s.mem.mapped.length + s.mem.mapQueue.length + b2n s.mem.mapNow.isSome

/-- A slot crosses a threshold: the record, then its place in the queue and on the repair list, or MAPOUT_LIMIT
(R127, R129, R130 steps 1 and 2, R132). -/
def crossThreshold (slot : Nat) (hard : Bool) (s : State) : State :=
  let r (type : Nat) : MemRec := ⟨type, some slot, 16, 1, s.sq.time, none, 8 * b2n hard⟩
  let s := postMem (r 0x07) none false s
  if 16 ≤ mapCount s then postMem (r 0x0B) none false s
  else { s with mem.mapQueue := s.mem.mapQueue ++ [(slot, hard)]
                mem.repair := if s.mem.repair.contains slot then s.mem.repair else s.mem.repair ++ [slot] }

/-- Writes a slot's counts; a condition that comes to hold is a crossing (R127). -/
def setChan (slot : Nat) (c : ChanErr) (s : State) : State :=
  let was := overLimit (chanOf s slot)
  let s := { s with mem.chans := tblSet s.mem.chans slot c }
  if !was && overLimit c && !slotQueued s slot then crossThreshold slot false s else s

/-! ### Findings (R116, R122, R136) -/

/-- What the reads of a row found: the state after, the lines that read as poison, and a failed Block store. -/
structure Found where
  s : State
  bad : List Nat
  storeBad : Bool

/-- A DRAM line is reached: it exists and its channel has not failed hard (R131). -/
def lineReached (s : State) (line : Nat) : Bool := decide (line < dpaEnd) && !lineDown s line

/-- The four lines of the 256-byte unit of a line. -/
def unitLines (line : Nat) : List Nat := (List.range 4).map (fun i => line / 256 * 256 + 64 * i)

/-- One symbol in error: corrected, delivered and written back (R122). -/
def foundSymbol (scrub : Bool) (line sym : Nat) (s : State) : State :=
  let slot := lineSlot s line
  let c := chanOf s slot
  setChan slot { c with l2 := addNow 1 c.l2 } (postLimited 0x02 line (some sym) (b2n scrub + 2) false s)

/-- An uncorrectable line is rewritten with POISON set (R122). -/
def foundUe (scrub : Bool) (line : Nat) (s : State) : State :=
  let slot := lineSlot s line
  let c := chanOf s slot
  setChan slot { c with ue := (line, 0) :: c.ue } (postMem (lineRec s 0x03 line none (b2n scrub)) (some line) true
    (poisonLine line s))

/-- A tag check fails: the reader receives poison for the unit, the Watch is informed (R136; 14 R472). -/
def foundTag (scrub : Bool) (line : Nat) (s : State) : State :=
  let o := lineOwner s line
  let s := postMem (lineRec s 0x05 line none (b2n scrub)) (some line) true s
  { s with mem.macFails := tblSet s.mem.macFails o.1 (s.sq.time :: tblGetD s.mem.macFails o.1 []) }

/-- Applies one finding. -/
def applyFinding (scrub : Bool) (f : Finding) (r : Found) : Found :=
  match f with
  | .symbol l sym =>
    if lineReached r.s (lineOf l) && decide (sym < 68) then { r with s := foundSymbol scrub (lineOf l) sym r.s } else r
  | .uncorrectable l => if lineReached r.s (lineOf l) then { r with s := foundUe scrub (lineOf l) r.s } else r
  | .tagFail l =>
    if lineReached r.s (lineOf l) && (lineOwner r.s l).2 then
      { r with s := foundTag scrub (lineOf l) r.s, bad := r.bad ++ unitLines l }
    else r
  | .mismatch l =>
    if lineReached r.s (lineOf l) then
      { r with s := postMem (lineRec r.s 0x06 (lineOf l) none (b2n scrub)) (some (lineOf l)) true r.s,
               bad := r.bad ++ [lineOf l] }
    else r
  | .storeError => { r with storeBad := true }
  | .sramDirty l =>
    if lineReached r.s (lineOf l) then
      { r with s := postMem (lineRec r.s 0x03 (lineOf l) none 0) (some (lineOf l)) true (poisonLine (lineOf l) r.s) }
    else r
  | .sramFixed => { r with s := { r.s with mem.sramCorrected := r.s.mem.sramCorrected + 1 } }
  | .storeFixed => { r with s := { r.s with mem.sramCorrected := r.s.mem.sramCorrected + 1 } }

/-- Applies the findings of a row's reads in order. -/
def applyFindings (scrub : Bool) (fs : Findings) (s : State) : Found :=
  fs.foldl (fun r f => applyFinding scrub f r) ⟨s, [], false⟩

/-! ### The rows -/

/-- Patrol scrub reads one line (R124): what the read finds about other lines is no part of it. -/
def scrubOnly (line : Nat) (f : Finding) : Bool := match f with
  | .symbol l _ => lineOf l == lineOf line
  | .uncorrectable l => lineOf l == lineOf line
  | .tagFail l => lineOf l == lineOf line
  | _ => false

/-- SCRUB_READ (R124). -/
def scrubReadRow (line : Nat) (found : Findings) (s : State) : Host.Outcome State Fault Refusal :=
  if dpaEnd ≤ line then .fault .noSuchAddress
  else if !s.sq.ready then .next s
  else .next (applyFindings true (found.filter (scrubOnly line)) s).s

/-- ECS_COUNTER_READ: the layer-1 counter of a slot is read (R120, R126, R127). -/
def execEcsCounterRead (slot value : Nat) (s : State) : Host.Outcome State Fault Refusal :=
  if 384 ≤ slot then .fault .noSuchAddress
  else if !s.sq.ready ∨ s.mem.hardDown.contains slot ∨ s.mem.mapped.contains slot then .next s
  else
    let c := chanOf s slot
    let rise := value - c.l1Last
    let s' := if rise = 0 then s
      else postMem ⟨0x01, some slot, 16, rise, s.sq.time, none, 0⟩ none false s
    .next (setChan slot { c with l1 := addNow rise c.l1, l1Last := value } s')

/-- Shifts the hourly buckets of one channel (R127). -/
def rollChan (c : ChanErr) : ChanErr :=
  { c with l2 := (0 :: c.l2).take 24, l1 := (0 :: c.l1).take 24,
           ue := (c.ue.map (fun p => (p.1, p.2 + 1))).filter (fun p => decide (p.2 < 24)) }

/-- ERROR_BUCKET_ROLL: an hour of Square time passes (R127). -/
def execErrorBucketRoll (s : State) : Host.Outcome State Fault Refusal :=
  .next (if s.sq.ready then { s with mem.chans := s.mem.chans.map (fun p => (p.1, rollChan p.2)) } else s)

/-- The granules that map-out number i retires (R128 step 1). -/
def retiring (i : Nat) : List Nat := [1152 - 3 * i, 1153 - 3 * i, 1154 - 3 * i]

/-- The addresses of a granule, moved from `G` to `H`. -/
def shiftTo (G H a : Nat) : Nat := if a / gib = G then H * gib + a % gib else a

/-- Moves the addresses of a sparse table from granule `G` to `H`. -/
def shiftTbl {α : Type} (G H : Nat) (t : Tbl α) : Tbl α :=
  (t.filter (fun p => p.1 / gib == G)).foldl (fun u p => tblSet u (shiftTo G H p.1) p.2)
    (t.filter (fun p => p.1 / gib != G && p.1 / gib != H))

/-- Moves everything that stands in device granule `G` to the free granule `H` (R129, R130 step 3). -/
def moveGranule (G H : Nat) (s : State) : State :=
  { s with
    mem.hbm := (s.mem.hbm.filter (fun p => p.1 / gib == G)).foldl (fun m p => memPut (some 0#8) m (shiftTo G H p.1) p.2)
      (memDrop (memDrop s.mem.hbm (G * gib) ((G + 1) * gib)) (H * gib) ((H + 1) * gib))
    mem.granules := match tblGet s.mem.granules G with
      | some g => tblSet (tblErase s.mem.granules G) H g
      | none => s.mem.granules
    mem.poison := (s.mem.poison.map (shiftTo G H)).foldl (fun l x => insLine x l) []
    mem.cured := (s.mem.cured.map (shiftTo G H)).foldl (fun l x => insLine x l) []
    mem.lastUse := shiftTbl G H s.mem.lastUse
    mem.hardLost := s.mem.hardLost.map (fun e =>
      (e.1, e.2.1, e.2.2.map (fun g => if g.1 = G then (H, g.2) else g)))
    mem.saveArea := s.mem.saveArea.map (fun g => if g = G then H else g)
    mem.holdBuf := s.mem.holdBuf.map (fun g => if g = G then H else g)
    courts := s.courts.map (fun p => (p.1, { p.2 with gtab := p.2.gtab.map (fun e => (e.1, if e.2 = G then H else e.2)) }))
    gaz.slots := s.gaz.slots.map (fun p => (p.1, if p.2.owner = 16 then
      { p.2 with granules := p.2.granules.map (fun g => if g = G then H else g) } else p.2)) }

/-- The lines that stand on a slot of a granule are lost there (R131): the loss of the units that moved with it. -/
def loseUnits (slot : Nat) (now then_ : Nat) (s : State) : State :=
  { s with mem.hardLost := s.mem.hardLost ++ [(slot, s.mem.mapped, [(now, then_)])]
           mem.cured := s.mem.cured.filter (fun l => !(l / gib == now &&
             (homeOf s.mem.mapped (then_ * gib + l % gib)).2 == slot)) }

/-- CHANNEL_MAPOUT: the map-out in front of the queue starts, when its evacuation has the granules it needs
(R129, R130 step 3). -/
def execChannelMapout (s : State) : Host.Outcome State Fault Refusal :=
  .next (if !s.sq.ready ∨ s.mem.mapNow.isSome then s
    else match s.mem.mapQueue with
      | [] => s
      | (slot, hard) :: rest =>
        let gs := retiring (s.mem.mapped.length + 1)
        let held := gs.filter (fun G => (tblGet s.mem.granules G).isSome)
        let dest := (freeGranules s).filter (fun G => !gs.contains G)
        if dest.length < held.length then
          if s.mem.mapPending then s
          else postMem ⟨0x09, some slot, 16, 1, s.sq.time, none, 0⟩ none false { s with mem.mapPending := true }
        else
          let s := (held.zip dest).foldl (fun s p =>
            let s := moveGranule p.1 p.2 s
            if hard then loseUnits slot p.2 p.1 s else s) s
          { s with mem.mapQueue := rest, mem.mapNow := some (slot, hard), mem.mapPending := false })

/-- MAPOUT_DONE: the copies end and the new map is installed (R130 steps 4 to 7, R131). -/
def execMapoutDone (s : State) : Host.Outcome State Fault Refusal :=
  .next (match s.mem.mapNow with
    | none => s
    | some (slot, hard) =>
      if !s.sq.ready then s
      else
        let before := s.mem.mapped
        let s := { s with mem.mapped := before ++ [slot], mem.mapNow := none }
        let s := if hard then
            { s with mem.hardDown := s.mem.hardDown.filter (fun x => x != slot)
                     mem.cured := s.mem.cured.filter (fun l => (homeOf before l).2 != slot)
                     mem.hardLost := s.mem.hardLost ++
                       [(slot, before, (s.mem.granules.map (fun p => (p.1, p.1))))] }
          else s
        postMem ⟨0x08, some slot, 16, 1, s.sq.time, none, 8 * b2n hard⟩ none false s)

/-- The copies of CHANNEL_FAILED for every Court that owns granules (R131). -/
def channelFailedCopies (slot : Nat) (s : State) : State :=
  s.courts.foldl (fun s p =>
    if p.2.gtab.isEmpty then s
    else postEvent p.1 0x01 (memRecBytes s ⟨0x0A, some slot, p.1, 1, s.sq.time, none, 8 + 4 * b2n p.2.conf⟩ none) s) s

/-- CHANNEL_HARD_FAIL: the channel answers every access with poison, and its map-out is due (R127, R131). -/
def execChannelHardFail (slot : Nat) (s : State) : Host.Outcome State Fault Refusal :=
  if 384 ≤ slot then .fault .noSuchAddress
  else .next (if !s.sq.ready ∨ s.mem.hardDown.contains slot ∨ s.mem.mapped.contains slot then s
    else
      let s := { s with mem.hardDown := insLine slot s.mem.hardDown }
      let s := postEvent 16 0x01 (memRecBytes s ⟨0x0A, some slot, 16, 1, s.sq.time, none, 8⟩ none) s
      let s := channelFailedCopies slot s
      if slotQueued s slot then
        { s with mem.mapQueue := s.mem.mapQueue.map (fun e => if e.1 = slot then (slot, true) else e)
                 mem.mapNow := s.mem.mapNow.map (fun e => if e.1 = slot then (slot, true) else e) }
      else crossThreshold slot true s)

end Sys2Proof.Machine
end

