-- ==== Sys2Proof/Machine/PartnerStores.lean ====
section
/-! DEFINITION. Partner stores, the messages to them, and moving a store
(spec/13_placement_and_scheduling.md R423 to R430). -/

namespace Sys2Proof.Machine

/-! ### Messages (R424; 12 R380) -/

/-- A device message: kind, source Court and destination Court, epoch, SEQ and body (12 R380). -/
def devMsg (s : State) (kind court epoch seq : Nat) (body : List Byte) : List Byte :=
  zeros 4 ++ natLe 2 s.sq.addr ++ natLe 1 (court + 16 * court) ++ natLe 1 kind ++ natLe 2 body.length ++ natLe 2 epoch ++
  natLe 4 seq ++ body

/-- The next placement epoch (13: from 0xFFFF to 1). -/
def nextEpoch (e : Nat) : Nat := if e = 0xFFFF then 1 else e + 1

/-- The next SEQ (R425). -/
def seqAfter (n : Nat) : Nat := if n = 2 ^ 32 - 1 then 1 else n + 1

/-- The SEQ before one, so that 1 is next after 2^32 − 1. -/
def seqBefore (n : Nat) : Nat := if n ≤ 1 then 2 ^ 32 - 1 else n - 1

/-- DONE (R424). -/
def doneBody (origin status token ack home epoch : Nat) : List Byte :=
  natLe 2 origin ++ natLe 1 status ++ [0#8] ++ natLe 4 token ++ natLe 4 ack ++ natLe 2 home ++ natLe 2 epoch

/-- FORWARD (R424). -/
def forwardBody (origin sub home epoch src courts gib_ : Nat) (inner : List Byte) : List Byte :=
  natLe 2 origin ++ natLe 1 sub ++ [0#8] ++ natLe 2 home ++ natLe 2 epoch ++ natLe 2 src ++ natLe 1 courts ++
  natLe 2 gib_ ++ zeros 3 ++ inner

/-! ### Stores and maps (R423) -/

/-- First Court address of the partner store window (R414). -/
def storeAt (c : Court) : Nat := (1152 - c.pool - c.serve - c.store) * gib

/-- The store or stub of a Court and an origin on this device. -/
def findStore (s : State) (court origin : Nat) : Option Store :=
  s.part.stores.find? (fun t => t.court == court && t.origin == origin)

/-- Changes a store. -/
def modStore (court origin : Nat) (f : Store → Store) (s : State) : State :=
  { s with part.stores := s.part.stores.map (fun t => if t.court = court ∧ t.origin = origin then f t else t) }

/-- The partner map entry of a Court for an origin; a store not yet named is at its origin, in epoch 1 (R423). -/
def mapOf (s : State) (court origin : Nat) : PartnerMap :=
  (s.part.maps.find? (fun m => m.court == court && m.origin == origin)).getD ⟨court, origin, origin, 1, 0⟩

/-- Writes a partner map entry; false where the Court's 64 entries are taken (R423). -/
def setMap (m : PartnerMap) (s : State) : Bool × State :=
  if s.part.maps.any (fun x => x.court == m.court && x.origin == m.origin) then
    (true, { s with part.maps := s.part.maps.map (fun x => if x.court = m.court ∧ x.origin = m.origin then m else x) })
  else if 64 ≤ (s.part.maps.filter (fun x => x.court == m.court)).length then (false, s)
  else (true, { s with part.maps := s.part.maps ++ [m] })

/-! ### Sending requests (R424 to R426) -/

/-- Changes the transfer of a use. -/
def modXfer (u : ReqUse) (f : PartnerXfer → PartnerXfer) (s : State) : State :=
  { s with part.xfers := s.part.xfers.map (fun x => if x.use = u then f x else x) }

/-- The transfer of a use. -/
def xferOf (s : State) (u : ReqUse) : Option PartnerXfer := s.part.xfers.find? (fun x => x.use == u)

/-- Ends a transfer, with what it still waits for. -/
def dropXfer (u : ReqUse) (s : State) : State :=
  { s with part.xfers := s.part.xfers.filter (fun x => x.use != u), part.reqs := s.part.reqs.filter (fun r => r.use != u) }

/-- Messages of a use still await their answers. -/
def awaiting (s : State) (u : ReqUse) : Bool := s.part.reqs.any (fun r => r.use == u)

/-- Sends a PUT, GET or TIMER to a store's current home (R423 to R425); `mk` forms the body from the token. -/
def sendReq (court origin kind tc : Nat) (u : ReqUse) (off len : Nat) (mk : Nat → List Byte) (s : State) : State :=
  let m := mapOf s court origin
  let p := setMap { m with seq := seqAfter m.seq } s
  if !p.1 then modXfer u (fun x => { x with failed := true }) s
  else
    let s := p.2
    let tok := s.part.token
    let msg := devMsg s kind court m.epoch (seqAfter m.seq) (mk tok)
    let s := { s with part.token := (tok + 1) % 2 ^ 32
                      part.reqs := s.part.reqs ++ [⟨tok, u, m.home, tc, off, len, msg, none⟩] }
    sendMsg tc (if tc = 0 then 16 else court) m.home none msg s

/-- TC of a Court's device messages (12 R381). -/
def useTc (express : Bool) : Nat := if express then 1 else 4

/-- Starts writing bytes into a store, in pieces of at most 4 048 bytes (R424). -/
def putAll (court origin off : Nat) (bs : List Byte) (express : Bool) (u : ReqUse) (s : State) : State :=
  let s := dropXfer u s
  let s := { s with part.xfers := s.part.xfers ++ [⟨u, [], false, false⟩] }
  pumpAll ((chunks 4048 (bs.length + 1) bs).zipIdx.foldl (fun s p =>
    sendReq court origin 0x10 (useTc express) u (4048 * p.2) p.1.length
      (fun t => natLe 2 origin ++ zeros 2 ++ natLe 4 t ++ natLe 8 (off + 4048 * p.2) ++ p.1) s) s)

/-- Starts reading bytes from a store (R424). -/
def getAll (court origin off len : Nat) (express : Bool) (u : ReqUse) (s : State) : State :=
  let s := dropXfer u s
  let s := { s with part.xfers := s.part.xfers ++ [⟨u, [], false, false⟩] }
  pumpAll (forUpto (ceilDiv len 4048) (fun i s =>
    let n := min 4048 (len - 4048 * i)
    sendReq court origin 0x11 (useTc express) u (4048 * i) n
      (fun t => natLe 2 origin ++ zeros 2 ++ natLe 4 t ++ natLe 8 (off + 4048 * i) ++ natLe 4 n ++ zeros 4) s) s)

/-- Sends the time to live of a range, 0 to cancel it (R427; 08 R281). -/
def sendTimer (court origin off len secs : Nat) (u : ReqUse) (s : State) : State :=
  pumpAll (sendReq court origin 0x15 0 u off len
    (fun _ => natLe 2 origin ++ zeros 2 ++ natLe 4 secs ++ natLe 8 off ++ natLe 8 len) s)

/-- The bytes a transfer has gathered. -/
def xferBytes (x : PartnerXfer) (len : Nat) : List Byte := (memRange x.got 0 len).map (fun v => v.getD 0#8)

/-- The event record of a copy that could not be made: UNREACHABLE of the Avenue toward the store (R426). -/
def copyLost (s : State) (dest : Nat) : State := match nextHop s dest with
  | none => s
  | some (a, _) => postAv 0x09 a 0xFF 1 s

/-- A demotion's copy has been acknowledged: the version is COLD, unless it has come into use (07 R226). -/
def demoted (h v : Nat) (s : State) : State :=
  { s with gaz.entries := tblModify s.gaz.entries h (fun e => { e with cur := e.cur.map (fun a =>
      if a.version = v then { a with coldHeld := true, poolAt := if a.refs = 0 then none else a.poolAt,
                                     locks := if a.refs = 0 then [] else a.locks } else a) }) }

/-- The last answer of a use has arrived. -/
def useDone (u : ReqUse) (s : State) : State :=
  if awaiting s u then s
  else match u with
  | .demote h v => match xferOf s u with
    | none => s
    | some x => if x.failed then s else demoted h v (dropXfer u s)
  | _ => s

/-- The data of a use is lost (R426). -/
def useLost (u : ReqUse) (expired : Bool) (dest : Nat) (s : State) : State :=
  let s := { s with part.reqs := s.part.reqs.filter (fun r => r.use != u) }
  match u with
  | .demote _ _ => copyLost (dropXfer u s) dest
  | .park _ => copyLost (modXfer u (fun x => { x with failed := true }) s) dest
  | .timer _ => s
  | _ => modXfer u (fun x => { x with failed := true, expired := x.expired || expired }) s

/-! ### Ending a MIGRATE (R429) -/

/-- Retires the MIGRATE of a move. -/
def endMove (m : StoreMove) (f : CmdEnd) (s : State) : State := match findCmd s m.q m.cid with
  | none => s
  | some c => retire c f s

/-- A move fails before its third step: the store stays at its home and epoch (R429; 06 R205). -/
def failMove (court origin st : Nat) (s : State) : State := match findStore s court origin with
  | none => s
  | some t => match t.move with
    | none => s
    | some m =>
      let s := { s with part.reqs := s.part.reqs.filter (fun r => r.use != .adopt court && r.use != .move court) }
      endMove m (finSt st) (modStore court origin (fun t => { t with move := none }) s)

/-- A stub whose senders have all passed becomes a tombstone, and its store is cleared (R429, R430). -/
def retireStub (court origin : Nat) (s : State) : State := match findStore s court origin with
  | none => s
  | some t => match t.role with
    | .home => s
    | .stub home epoch =>
      if t.waiting ≠ [] then s
      else
        let tombs := s.part.tombs ++ [⟨origin, court, home, epoch⟩]
        let s := { s with
          part.stores := s.part.stores.filter (fun x => !(x.court == court && x.origin == origin))
          part.tombs := tombs.drop (tombs.length - 1024) }
        match courtOf s court with
        | none => s
        | some c => forUpto c.store (fun i s => match tblGet c.gtab (storeAt c / gib + i) with
          | some G => clearGranule G (.court court) c.conf s
          | none => s) s

/-- Sends a message on to the new home as FORWARDED (R429). -/
def forwardTo (court origin home epoch : Nat) (msg : List Byte) (s : State) : State :=
  sendMsg 0 16 home none (devMsg s 0x14 court epoch 0
    (forwardBody origin 1 home epoch (fld msg 4 2) (fld msg 6 1) 0 msg)) s

/-- The move is complete: the epoch is advanced, the target is home, a stub stands here (R429 steps 3 to 6). -/
def finishMove (court origin : Nat) (s : State) : State := match findStore s court origin with
  | none => s
  | some t => match t.move with
    | none => s
    | some m =>
      let e := nextEpoch t.epoch
      let s := modStore court origin (fun t => { t with
        role := .stub m.target e, waiting := t.senders.map (·.addr), move := none }) s
      let s := endMove m (finRes stSuccess (natLe 2 e)) s
      let s := t.senders.zipIdx.foldl (fun s p => sendMsg 0 16 p.1.addr none (devMsg s 0x14 court e (p.2 + 1)
        (forwardBody origin 2 m.target e s.sq.addr 0 0 [])) s) s
      let s := m.held.foldl (fun s x => forwardTo court origin m.target e (x.drop 1) s) s
      retireStub court origin s

/-- Sends one message of a move and waits for its answer. -/
def moveSend (court origin kind off len : Nat) (m : StoreMove) (epoch : Nat) (mk : Nat → List Byte) (s : State) : State :=
  let tok := s.part.token
  let msg := devMsg s kind court epoch (m.seq + 1) (mk tok)
  let s := { s with part.token := (tok + 1) % 2 ^ 32
                    part.reqs := s.part.reqs ++ [⟨tok, .move court, m.target, 0, off, len, msg, none⟩] }
  let s := modStore court origin (fun t => { t with move := t.move.map (fun m => { m with seq := m.seq + 1, open_ := 1 }) }) s
  sendMsg 0 16 m.target none msg s

/-- The next message of a move: contents in ascending OFFSET, then the ranges written meanwhile, then the timers
(R429 steps 2 and 3). -/
def moveNext (court origin : Nat) (s : State) : State := match findStore s court origin, courtOf s court with
  | some t, some c => match t.move with
    | none => s
    | some m =>
      let put (off len : Nat) (s : State) : State :=
        moveSend court origin 0x10 off len m t.epoch (fun k => natLe 2 origin ++ zeros 2 ++ natLe 4 k ++ natLe 8 off ++
          courtRead s c (storeAt c + off) len) s
      let upd (f : StoreMove → StoreMove) (s : State) : State := modStore court origin (fun t => { t with move := t.move.map f }) s
      if m.open_ ≠ 0 ∨ !m.adopted then s
      else if m.sent < c.store * gib ∧ !m.final then
        put m.sent (min 4048 (c.store * gib - m.sent)) (upd (fun m => { m with sent := m.sent + min 4048 (c.store * gib - m.sent) }) s)
      else
        let s := upd (fun m => { m with final := true }) s
        match m.dirty with
        | (off, len) :: rest =>
          let n := min 4048 len
          put off n (upd (fun m => { m with dirty := if n = len then rest else (off + n, len - n) :: rest }) s)
        | [] => match t.ranges[m.timers]? with
          | some (off, len, at_) =>
            moveSend court origin 0x15 off len m t.epoch (fun _ => natLe 2 origin ++ zeros 2 ++
              natLe 4 (ceilDiv (at_ - s.sq.time) 100000000) ++ natLe 8 off ++ natLe 8 len)
              (upd (fun m => { m with timers := m.timers + 1 }) s)
          | none => finishMove court origin s
  | _, _ => s

/-! ### Receiving at a store (R423 to R428) -/

/-- A message that has arrived for a store: its own header's fields, the address that is answered, and whether it came
as FORWARDED. -/
structure Arrival where
  src : Nat
  fwd : Bool
  tc : Nat
  courts : Nat
  kind : Nat
  epoch : Nat
  seq : Nat
  body : List Byte
  raw : List Byte
  deriving DecidableEq, Repr

/-- Reads a message that may be wrapped in FORWARDED (R424). -/
def arrivalOf (tc : Nat) (m : List Byte) : Arrival :=
  let f := fld m 7 1 == 0x14 && fld m 18 1 == 1
  let i := if f then m.drop 32 else m
  { src := if f then fld m 24 2 else fld m 4 2, fwd := f, tc := tc, courts := fld i 6 1, kind := fld i 7 1,
    epoch := fld i 10 2, seq := fld i 12 4, body := i.drop 16, raw := m }

/-- Destination Court of an arrival. -/
def arrCourt (x : Arrival) : Nat := x.courts / 16

/-- Origin named in an arrival's body. -/
def arrOrigin (x : Arrival) : Nat := fld x.body 0 2

/-- TOKEN of a PUT or GET, 0 of a TIMER (R424). -/
def arrToken (x : Arrival) : Nat := if x.kind = 0x15 then 0 else fld x.body 4 4

/-- Answers with DONE (R424). -/
def replyDone (x : Arrival) (status home epoch : Nat) (s : State) : State :=
  sendMsg x.tc (if x.tc = 0 then 16 else arrCourt x) x.src none
    (devMsg s 0x13 (arrCourt x) epoch 0 (doneBody (arrOrigin x) status (arrToken x) x.seq home epoch)) s

/-- Removes a range from a list of ranges. -/
def rangeMinus (off len : Nat) (l : List (Nat × Nat)) : List (Nat × Nat) :=
  l.flatMap (fun r =>
    if r.1 + r.2 ≤ off ∨ off + len ≤ r.1 then [r]
    else (if r.1 < off then [(r.1, off - r.1)] else []) ++
      (if off + len < r.1 + r.2 then [(off + len, r.1 + r.2 - (off + len))] else []))

/-- Two ranges meet. -/
def rangesMeet (a an b bn : Nat) : Bool := decide (a < b + bn) && decide (b < a + an)

/-- A PUT, GET or TIMER takes effect at its home (R424 to R427). -/
def storeAct (x : Arrival) (bad : List Nat) (t : Store) (c : Court) (s : State) : State :=
  let size := c.store * gib
  let done (st : Nat) (s : State) : State := replyDone x st s.sq.addr t.epoch s
  let off := fld x.body 8 8
  match x.kind with
  | 0x10 =>
    let d := x.body.drop 16
    if size < off + d.length ∨ d = [] then done 3 s
    else
      let s := courtWrite c (storeAt c + off) d s
      done 0 (modStore t.court t.origin (fun t => { t with
        written := true, expired := rangeMinus off d.length t.expired,
        move := t.move.map (fun m => { m with dirty := if m.adopted then m.dirty ++ [(off, d.length)] else m.dirty }) }) s)
  | 0x11 =>
    let n := fld x.body 16 4
    if size < off + n ∨ n = 0 ∨ 4048 < n then done 3 s
    else if t.expired.any (fun r => rangesMeet r.1 r.2 off n) ∨ (courtPoisoned s c bad (storeAt c + off) n).isSome then
      done 2 (poisonRead (courtPoisoned s c bad (storeAt c + off) n) s)
    else sendMsg x.tc (if x.tc = 0 then 16 else arrCourt x) x.src none (devMsg s 0x12 (arrCourt x) t.epoch 0
      (natLe 2 t.origin ++ zeros 2 ++ natLe 4 (arrToken x) ++ natLe 8 off ++ courtRead s c (storeAt c + off) n)) s
  | 0x15 =>
    let d := fld x.body 4 4
    let n := fld x.body 16 8
    let rest := t.ranges.filter (fun r => !(r.1 == off && r.2.1 == n))
    if d = 0 then done 0 (modStore t.court t.origin (fun t => { t with ranges := rest }) s)
    else if size < off + n then done 3 s
    else if 4096 ≤ rest.length then done 4 s
    else done 0 (modStore t.court t.origin (fun t => { t with
      ranges := rest ++ [(off, n, s.sq.time + (d + ceilDiv d 1000 + 1) * 100000000)] }) s)
  | _ => s

/-- Changes a sender of a store. -/
def modSender (court origin addr : Nat) (f : StoreSender → StoreSender) (s : State) : State :=
  modStore court origin (fun t => { t with senders := t.senders.map (fun d => if d.addr = addr then f d else d) }) s

/-- The sender of a store. -/
def senderOf (s : State) (court origin addr : Nat) : Option StoreSender :=
  (findStore s court origin).bind (fun t => t.senders.find? (fun d => d.addr == addr))

/-- Bytes that messages hold in the hold buffer (13 R419, R425). -/
def holdUsed (s : State) : Nat :=
  (s.part.stores.map (fun t => (t.senders.map (fun d => (d.early.map List.length).sum)).sum +
    ((t.move.map (fun m => (m.held.map List.length).sum)).getD 0))).sum

/-- The hold buffer takes a message. -/
def holdRoom (s : State) (m : List Byte) : Bool := s.mem.holdBuf.isSome && decide (holdUsed s + m.length ≤ gib)

/-- A message in its turn: its effect, and the sender's SEQ moves on (R425). -/
def inTurn (x : Arrival) (bad : List Nat) (s : State) : State :=
  match findStore s (arrCourt x) (arrOrigin x), courtOf s (arrCourt x) with
  | some t, some c =>
    let s := if x.kind = 0x14 then modSender t.court t.origin x.src (fun d => { d with heldDirect := false }) s
      else storeAct x bad t c s
    modSender t.court t.origin x.src (fun d => { d with seq := x.seq }) s
  | _, _ => s

/-- Processes held messages of a sender whose turn has come; `fuel` bounds their number. -/
def drainEarly (court origin addr : Nat) : Nat → State → State
  | 0, s => s
  | n + 1, s => match senderOf s court origin addr with
    | none => s
    | some d =>
      match d.early.find? (fun e =>
        let x := arrivalOf (fld e 0 1) (e.drop 1)
        x.seq == seqAfter d.seq && (x.fwd || !d.heldDirect)) with
      | none => s
      | some e =>
        let s := modSender court origin addr (fun d => { d with early := d.early.erase e }) s
        drainEarly court origin addr n (inTurn (arrivalOf (fld e 0 1) (e.drop 1)) [] s)

/-- Holds a message until its turn, or answers RETRY when the buffer is full (R425). -/
def holdEarly (x : Arrival) (t : Store) (s : State) : State :=
  let m := natLe 1 x.tc ++ x.raw
  if holdRoom s m then modSender t.court t.origin x.src (fun d => { d with early := d.early ++ [m] }) s
  else replyDone x 1 s.sq.addr t.epoch s

/-- SEQ `n` lies ahead of the expected one (R425). -/
def seqAhead (want n : Nat) : Bool :=
  let d := (n + (2 ^ 32 - 1) - want) % (2 ^ 32 - 1)
  decide (0 < d) && decide (d < 2 ^ 31)

/-- The lowest SEQ a sender's held messages carry, with one more. -/
def lowestSeq (d : StoreSender) (n : Nat) : Nat :=
  d.early.foldl (fun m e => min m (arrivalOf (fld e 0 1) (e.drop 1)).seq) n

/-- A message of a sender's numbered sequence at its home (R425, R429 step 7). -/
def numbered (x : Arrival) (bad : List Nat) (t : Store) (s : State) : State :=
  let known := t.senders.any (fun d => d.addr == x.src)
  if !known ∧ 256 ≤ t.senders.length then replyDone x 4 s.sq.addr t.epoch s
  else
    let direct := t.prev ≠ 0 ∧ !x.fwd
    let s := if known then s else modStore t.court t.origin (fun t => { t with
      senders := t.senders ++ [⟨x.src, if direct then 0 else seqBefore x.seq, [], t.prev != 0⟩] }) s
    match senderOf s t.court t.origin x.src with
    | none => s
    | some d =>
      if d.heldDirect ∧ !x.fwd then holdEarly x t s
      else
        let s := if d.seq = 0 then modSender t.court t.origin x.src (fun d => { d with seq := seqBefore (lowestSeq d x.seq) }) s else s
        let d := (senderOf s t.court t.origin x.src).getD d
        if x.seq = seqAfter d.seq then
          drainEarly t.court t.origin x.src (d.early.length + 1) (inTurn x bad s)
        else if seqAhead (seqAfter d.seq) x.seq then
          if x.kind = 0x14 then
            drainEarly t.court t.origin x.src (d.early.length + 2)
              (modSender t.court t.origin x.src (fun d => { d with early := d.early ++ [natLe 1 x.tc ++ x.raw] }) s)
          else holdEarly x t s
        else if x.kind = 0x10 then replyDone x 0 s.sq.addr t.epoch s
        else s

/-- A PUT, GET, TIMER or LAST_IN_EPOCH reaches this device (R423, R425, R428 to R430). -/
def storeArrive (x : Arrival) (bad : List Nat) (s : State) : State :=
  let court := arrCourt x
  let origin := arrOrigin x
  if x.courts % 16 ≠ court then replyDone x 4 0 0 s
  else match findStore s court origin with
    | none => match s.part.tombs.find? (fun t => t.court == court && t.origin == origin) with
      | none => if x.kind = 0x14 then s else replyDone x 5 0 0 s
      | some t =>
        if x.kind = 0x14 then forwardTo court origin t.home t.epoch x.raw s
        else sendMsg 0 16 x.src none (devMsg s 0x14 court t.epoch x.seq (forwardBody origin 2 t.home t.epoch x.src 0 0 [])) s
    | some t => match t.role with
      | .stub home epoch =>
        let s := forwardTo court origin home epoch x.raw s
        if x.kind = 0x14 then
          retireStub court origin (modStore court origin (fun t => { t with waiting := t.waiting.filter (fun a => a != x.src) }) s)
        else s
      | .home =>
        match courtOf s court with
        | none => s
        | some c =>
          if !x.fwd ∧ t.adopter = some x.src ∧ x.epoch = t.prev ∧ (x.kind = 0x10 ∨ x.kind = 0x15) then storeAct x bad t c s
          else if (!x.fwd ∧ x.epoch ≠ t.epoch) ∨ (x.fwd ∧ t.prev = 0) then replyDone x 2 s.sq.addr t.epoch s
          else if (t.move.map (·.final)).getD false then
            let m := natLe 1 x.tc ++ x.raw
            if holdRoom s m then modStore court origin (fun t => { t with move := t.move.map (fun v => { v with held := v.held ++ [m] }) }) s
            else replyDone x 1 s.sq.addr t.epoch s
          else numbered x bad t s

/-! ### Taking messages up -/

/-- Takes the oldest waiting message that fits. -/
def takeMsg (f : List Byte → Bool) (s : State) : Option (Nat × List Byte × State) :=
  match s.inbox.find? (fun p => f p.2.2) with
  | none => none
  | some p => some (p.2.1, p.2.2, { s with inbox := s.inbox.erase p })

/-- The message is of a KIND. -/
def isKind (k : Nat) (m : List Byte) : Bool := fld m 7 1 == k

/-- The message is FORWARD of a SUBKIND. -/
def isForward (k : Nat) (m : List Byte) : Bool := fld m 7 1 == 0x14 && fld m 18 1 == k

/-- PUT (R424). -/
def execPut (s : State) : Res :=
  .next (match takeMsg (isKind 0x10) s with
    | none => s
    | some (tc, m, s) => pumpAll (storeArrive (arrivalOf tc m) [] s))

/-- GET (R424); `mem` is what its read finds. -/
def getRow (mem : Findings) (s : State) : Res :=
  .next (match takeMsg (isKind 0x11) s with
    | none => s
    | some (tc, m, s) =>
      let f := applyFindings false mem s
      pumpAll (storeArrive (arrivalOf tc m) f.bad f.s))

/-- TIMER (R427). -/
def execTimer (s : State) : Res :=
  .next (match takeMsg (isKind 0x15) s with
    | none => s
    | some (tc, m, s) => pumpAll (storeArrive (arrivalOf tc m) [] s))

/-- LAST_IN_EPOCH (R429 steps 6 and 7). -/
def execLastInEpoch (s : State) : Res :=
  .next (match takeMsg (isForward 3) s with
    | none => s
    | some (tc, m, s) => pumpAll (storeArrive (arrivalOf tc m) [] s))

/-- FORWARDED (R429); a FORWARD whose SUBKIND is reserved is discarded. -/
def execForwarded (s : State) : Res :=
  .next (match takeMsg (fun m => isKind 0x14 m && !(isForward 2 m || isForward 3 m || isForward 4 m)) s with
    | none => s
    | some (tc, m, s) => if isForward 1 m then pumpAll (storeArrive (arrivalOf tc m) [] s) else s)

/-- ADOPT: this device's store of the Court takes the origin's identity, if it may (R429 step 1). -/
def execAdopt (s : State) : Res :=
  .next (match takeMsg (isForward 4) s with
    | none => s
    | some (tc, m, s) =>
      let x := arrivalOf tc m
      let court := arrCourt x
      let own := s.part.stores.find? (fun t => t.court == court && t.role == .home)
      let done (st : Nat) (s : State) : State := pumpAll (sendMsg 0 16 x.src none (devMsg s 0x13 court x.epoch 0
        (doneBody (arrOrigin x) st 0 x.seq s.sq.addr (fld x.body 6 2))) s)
      match own, courtOf s court with
      | some t, some c =>
        if x.courts % 16 ≠ court ∨ t.written ∨ t.adopted ∨ t.move.isSome ∨ c.store < fld x.body 11 2 then done 4 s
        else done 0 (modStore court t.origin (fun t => { t with
          origin := arrOrigin x, epoch := fld x.body 6 2, prev := x.epoch, adopted := true, adopter := some x.src,
          senders := [], ranges := [], expired := [] }) s)
      | _, _ => done 4 s)

/-- NOTICE: the map takes the new home and epoch, the old home gets LAST_IN_EPOCH, and a message that a tombstone
refused is sent again (R429 step 5, R430). -/
def execNotice (s : State) : Res :=
  .next (match takeMsg (isForward 2) s with
    | none => s
    | some (_, m, s) =>
      let court := fld m 6 1 / 16
      let origin := fld m 16 2
      let home := fld m 20 2
      let epoch := fld m 22 2
      let p := mapOf s court origin
      let q := seqAfter p.seq
      let last := devMsg s 0x14 court p.epoch q (forwardBody origin 3 home epoch s.sq.addr 0 0 [])
      let s := (setMap { p with home := home, epoch := epoch, seq := q } s).2
      let s := sendMsg 0 16 (fld m 4 2) none last s
      let again := s.part.reqs.filter (fun r => fld r.msg 6 1 % 16 == court && fld r.msg 16 2 == origin &&
        fld m 24 2 == s.sq.addr && fld r.msg 12 4 == fld m 12 4)
      pumpAll (again.foldl (fun s r =>
        let msg := r.msg.take 10 ++ natLe 2 epoch ++ r.msg.drop 12
        let s := { s with part.reqs := s.part.reqs.map (fun x => if x.token = r.token then { x with msg := msg, dest := home } else x) }
        sendMsg r.tc (if r.tc = 0 then 16 else court) home none msg s) s))

/-- DATA: the bytes of a GET (R424). -/
def execData (s : State) : Res :=
  .next (match takeMsg (isKind 0x12) s with
    | none => s
    | some (_, m, s) => match s.part.reqs.find? (fun r => r.token == fld m 20 4 && isKind 0x11 r.msg) with
      | none => s
      | some r =>
        let d := (m.drop 32).take r.len
        let s := modXfer r.use (fun x => { x with got := memPutBytes none x.got r.off d }) s
        useDone r.use { s with part.reqs := s.part.reqs.filter (fun x => x.token != r.token) })

/-- The request that a DONE answers: by TOKEN, a TIMER by ACK_SEQ, an ADOPT by its Court (R424). -/
def doneFor (s : State) (m : List Byte) : Option PartnerReq :=
  let court := fld m 6 1 / 16
  let tok := fld m 20 4
  let mine (r : PartnerReq) : Bool := fld r.msg 6 1 % 16 == court && fld r.msg 16 2 == fld m 16 2
  if tok ≠ 0 then s.part.reqs.find? (fun r => mine r && r.token == tok)
  else match s.part.reqs.find? (fun r => mine r && isKind 0x15 r.msg && fld r.msg 12 4 == fld m 24 4 && r.dest == fld m 4 2) with
    | some r => some r
    | none => match s.part.reqs.find? (fun r => mine r && isKind 0x15 r.msg && fld r.msg 12 4 == fld m 24 4) with
      | some r => some r
      | none => s.part.reqs.find? (fun r => mine r && r.use == .adopt court)

/-- A step of a move is answered (R429). -/
def moveAnswered (r : PartnerReq) (status : Nat) (s : State) : State :=
  let court := fld r.msg 6 1 % 16
  let origin := fld r.msg 16 2
  match r.use with
  | .adopt _ =>
    if status = 0 then moveNext court origin (modStore court origin (fun t => { t with move := t.move.map (fun m => { m with adopted := true }) }) s)
    else failMove court origin stStateConflict s
  | .move _ =>
    if status = 0 then moveNext court origin (modStore court origin (fun t => { t with move := t.move.map (fun m => { m with open_ := 0 }) }) s)
    else failMove court origin stDeviceFault s
  | _ => s

/-- The use is a step of a move. -/
def isMove (u : ReqUse) : Bool := match u with
  | .adopt _ => true
  | .move _ => true
  | _ => false

/-- DONE (R424 to R426, R428, R429). -/
def execDone (s : State) : Res :=
  .next (match takeMsg (isKind 0x13) s with
    | none => s
    | some (_, m, s) => match doneFor s m with
      | none => s
      | some r =>
        let status := fld m 18 1
        if status = 1 then
          { s with part.reqs := s.part.reqs.map (fun x => if x.token = r.token then { x with retryAt := some (s.sq.time + 1000) } else x) }
        else
          let s := { s with part.reqs := s.part.reqs.filter (fun x => x.token != r.token) }
          if isMove r.use then pumpAll (moveAnswered r status s)
          else if status = 0 then useDone r.use s
          else
            let court := fld r.msg 6 1 % 16
            let p := mapOf s court (fld r.msg 16 2)
            let moved := status == 2 && fld m 30 2 != p.epoch && fld m 30 2 != 0
            let s := if moved then (setMap { p with home := fld m 28 2, epoch := fld m 30 2 } s).2 else s
            useLost r.use (status == 2 && !moved) r.dest s)

/-- UNREACHABLE: the operation that sent the message loses its data; a NOTICE that could not be delivered removes its
sender (R426, R429; 12 R389). -/
def execUnreachable (s : State) : Res :=
  .next (match takeMsg (isKind 0x16) s with
    | none => s
    | some (_, m, s) =>
      let h := slice m 16 16
      if fld h 7 1 = 0x14 then
        match s.part.reqs.find? (fun r => r.msg.take 16 == h) with
        | some r => pumpAll (failMove (fld r.msg 6 1 % 16) (fld r.msg 16 2) stDeviceFault
            { s with part.reqs := s.part.reqs.filter (fun x => x.token != r.token) })
        | none =>
          let court := fld h 6 1 % 16
          match s.part.stores.find? (fun t => t.court == court && t.role != .home) with
          | none => s
          | some t => match t.senders[fld h 12 4 - 1]? with
            | none => s
            | some d => retireStub court t.origin (modStore court t.origin (fun t => { t with waiting := t.waiting.filter (fun a => a != d.addr) }) s)
      else match s.part.reqs.find? (fun r => r.msg.take 16 == h) with
        | none => s
        | some r =>
          let s := { s with part.reqs := s.part.reqs.filter (fun x => x.token != r.token) }
          if isMove r.use then pumpAll (failMove (fld r.msg 6 1 % 16) (fld r.msg 16 2) stDeviceFault s)
          else useLost r.use false r.dest s)

/-- PARTNER_RETRY: 10 µs after RETRY the same SEQ is sent again (R425). -/
def execPartnerRetry (token : Nat) (s : State) : Res :=
  .next (match s.part.reqs.find? (fun r => r.token == token) with
    | none => s
    | some r => match r.retryAt with
      | none => s
      | some t =>
        if s.sq.time < t then s
        else
          let s := { s with part.reqs := s.part.reqs.map (fun x => if x.token = token then { x with retryAt := none } else x) }
          post r.tc (if r.tc = 0 then 16 else fld r.msg 6 1 % 16) r.dest r.msg s)

/-- PARTNER_RANGE_EXPIRY: a marked range expires and is written to zero (R427). -/
def execPartnerRangeExpiry (court n : Nat) (s : State) : Res :=
  .next (match s.part.stores.find? (fun t => t.court == court && t.role == .home), courtOf s court with
    | some t, some c => match t.ranges[n]? with
      | none => s
      | some r =>
        if s.sq.time < r.2.2 then s
        else modStore court t.origin (fun t => { t with ranges := t.ranges.erase r, expired := t.expired ++ [(r.1, r.2.1)] })
          (courtWrite c (storeAt c + r.1) (zeros r.2.1) s)
    | _, _ => s)

/-! ### MIGRATE (R429) -/

/-- Effect of MIGRATE: the target is asked to adopt the store. -/
def migrateBody (c : Cmd) (s : State) : State × Did :=
  let court := if c.q.owner = 16 then fld c.pb 1 1 else c.q.owner
  if s.part.stores.any (fun t => t.move.any (fun m => m.q == c.q && m.cid == c.cid)) then (s, .stay)
  else if fld c.pb 0 1 ≠ 1 ∨ 16 ≤ court then failWith s stInvalidField
  else match courtOf s court, s.part.stores.find? (fun t => t.court == court && t.role == .home) with
    | none, _ => failWith s stCourtNotReady
    | some k, some t =>
      if k.state ≠ .ready then failWith s stCourtNotReady
      else if t.move.isSome ∨ fld c.pb 2 2 = s.sq.addr then failWith s stStateConflict
      else
        let e := nextEpoch t.epoch
        let s := modStore court t.origin (fun t => { t with
          move := some ⟨c.q, c.cid, fld c.pb 2 2, false, 0, [], 0, 0, 0, false, []⟩ }) s
        let tok := s.part.token
        let msg := devMsg s 0x14 court t.epoch tok (forwardBody t.origin 4 (fld c.pb 2 2) e s.sq.addr (court + 16 * court) k.store [])
        let s := { s with part.token := (tok + 1) % 2 ^ 32
                          part.reqs := s.part.reqs ++ [⟨tok, .adopt court, fld c.pb 2 2, 0, 0, 0, msg, none⟩] }
        (post 0 16 (fld c.pb 2 2) msg s, .stay)
    | _, none => failWith s stStateConflict

/-- MIGRATE (R429). -/
def execMigrate (q : QId) (cid : Nat) (s : State) : Res :=
  .next (runCmd opMigrate q cid (fun _ => 8) [(4, 4)] migrateBody s)

/-! ### Courts and stores (R414, R428) -/

/-- A store as it is when its Court is created: its origin is the device, its epoch 1 (R423). -/
def Store.fresh (court addr : Nat) : Store :=
  { court := court, origin := addr, role := .home, epoch := 1, prev := 0, written := false, adopted := false,
    adopter := none, senders := [], waiting := [], ranges := [], expired := [], move := none }

/-- Makes a Court's store (R423). -/
def newStore (court : Nat) (s : State) : State :=
  { s with part.stores := s.part.stores ++ [Store.fresh court s.sq.addr] }

/-- RESET_COURT: the store is empty, in its next epoch, with no ranges and no senders (R428). -/
def resetStore (court : Nat) (s : State) : State :=
  let f (t : Store) : Store :=
    { t with epoch := nextEpoch t.epoch, prev := 0, written := false, adopter := none, senders := [], ranges := [],
             expired := [], move := none }
  { s with part.stores := s.part.stores.map (fun t => if t.court = court ∧ t.role = .home then f t else t) }

/-- What a Court's reset or destruction ends of its own use of partner stores. -/
def dropUses (court : Nat) (s : State) : State :=
  let gone := (s.part.reqs.filter (fun r => fld r.msg 6 1 % 16 == court)).map (·.use)
  { s with part.reqs := s.part.reqs.filter (fun r => fld r.msg 6 1 % 16 != court)
           part.xfers := s.part.xfers.filter (fun x => !gone.contains x.use) }

/-- DESTROY_COURT: the store, the tombstones and the map of the Court are gone (R428, R430). -/
def destroyStore (court : Nat) (s : State) : State :=
  dropUses court { s with
    part.stores := s.part.stores.filter (fun t => t.court != court)
    part.tombs := s.part.tombs.filter (fun t => t.court != court)
    part.maps := s.part.maps.filter (fun t => t.court != court) }

end Sys2Proof.Machine
end

