-- ==== Sys2Proof/Machine/Gazetteer.lean ====
section
/-! DEFINITION. Adaptations: handles, images, the adapter pool, tiers, contracts, slot claims, versions
(spec/07_adapters.md R214 to R242, R546; spec/13_placement_and_scheduling.md R421, R431). -/

namespace Sys2Proof.Machine

/-- Square time in whole seconds (R217). -/
def nowS (s : State) : Nat := s.sq.time / 100000000

/-! ### Handles (R215, R216, R546) -/

/-- An entry of a handle that has never been assigned (R217). -/
def GazEntry.fresh : GazEntry :=
  { state := .free, kind := 0, modelId := 0, modelVersion := 0, coldAt := 0, via := ⟨0, 0⟩, cur := none, minTier := 0,
    train := 0, trainable := false, generation := 0, contractEnd := 0, holdUntil := 0, next := none, nextCmd := none }

/-- The entry of a handle. -/
def entryOf (s : State) (h : Nat) : GazEntry := tblGetD s.gaz.entries h GazEntry.fresh

/-- Changes an entry that is listed. -/
def modEntry (h : Nat) (f : GazEntry → GazEntry) (s : State) : State := { s with gaz.entries := tblModify s.gaz.entries h f }

/-- What the check of a handle finds: none, or the status (R546). -/
def handleCheck (s : State) (court h : Nat) : Option Nat := match handleOwner s h with
  | none => some stNotFound
  | some c => if c ≠ court then some stWrongCourt else if (entryOf s h).state = .free then some stNotFound else none

/-- The lowest FREE handle of a Court (R216). -/
def lowestFree (s : State) (c : Court) : Option Nat :=
  ((List.range (256 * c.units)).map (fun i => 256 * c.unit0 + i)).find? (fun h => (entryOf s h).state == .free)

/-! ### Model slots that hold a version (R222, R247, R249) -/

/-- The RESIDENT or COLD slot accessible to a Court that holds a model version. -/
def findSlot (s : State) (court mid mver : Nat) : Option Nat :=
  (s.gaz.slots.find? (fun p => (p.2.state == .resident || p.2.state == .cold) && p.2.modelId == mid &&
    p.2.modelVersion == mver && slotFor p.2 court)).map (·.1)

/-- The DRAINING slot accessible to a Court that holds a model version. -/
def findDraining (s : State) (court mid mver : Nat) : Option Nat :=
  (s.gaz.slots.find? (fun p => p.2.state == .draining && p.2.modelId == mid && p.2.modelVersion == mver &&
    slotFor p.2 court)).map (·.1)

/-- A contract of the entry is in force (R227). -/
def underContract (e : GazEntry) : Bool := e.minTier != 0

/-! ### Images (R219 to R221) -/

/-- What the header and the part table of an adapter image say. -/
structure AdImage where
  kind : Nat
  fmt : Nat
  modelId : Nat
  modelVersion : Nat
  rank : Nat
  alpha : F32
  prefixTokens : Nat
  parts : List AdPart
  len : Nat
  hash : List Byte
  deriving DecidableEq, Repr

/-- Bytes of a body of `rows` rows of `n` elements at the smallest legal stride, its scale array included (R220). -/
def bodyLen (fmt rows n : Nat) : Nat :=
  let st := rowBytes (fmtCode fmt) n
  if fmtMx fmt then
    let st := roundUp st 96
    roundUp (rows * st) 64 + rows * (st / (4 * elemBits (fmtCode fmt)))
  else rows * st

/-- The part table, with nothing yet known of the bodies (R220). -/
def adParts (img : List Byte) (n : Nat) : List AdPart :=
  (List.range n).map (fun i =>
    let o := 64 + 16 * i
    ⟨fld img o 2, fld img (o + 2) 1, fld img (o + 3) 1, fld img (o + 8) 8, 0, 0, 0⟩)

/-- The checks of an image that need no base model (R219, R220). -/
def adHeader (img : List Byte) : Option AdImage :=
  let kind := fld img 6 1
  let fmt := fld img 7 1
  let n := fld img 16 2
  let tend := 64 + 16 * n
  let rank := fld img 18 2
  let pre := fld img 24 4
  if 64 ≤ img.length ∧ fld img 0 4 = 0x50444155 ∧ fld img 4 2 = 1 ∧ 1 ≤ kind ∧ kind ≤ 4 ∧ fmtLegal fmt ∧
      fmtCode fmt ≠ 0x0C ∧ 1 ≤ n ∧ n ≤ 4096 ∧ tend ≤ img.length ∧ fld img 28 4 = img.length - tend ∧
      sha256 (img.drop 64) = slice img 32 32 ∧ (if kind = 1 then 1 ≤ rank ∧ rank ≤ 256 else rank = 0 ∧ fld img 20 4 = 0) ∧
      (if kind = 4 then 1 ≤ pre ∧ pre ≤ 65536 else pre = 0) ∧
      (List.range n).all (fun i => zeroFld img (68 + 16 * i) 4) then
    some ⟨kind, fmt, fld img 8 4, fld img 12 4, rank, fld img 20 4, pre, adParts img n, img.length, slice img 32 32⟩
  else none

/-- The tensor of a base with a ROLE at a layer and a projection. -/
def tensorAt (m : ModelSlot) (role layer proj : Nat) : Option BaseTensor :=
  m.tensors.find? (fun t => t.role == role && t.layer == layer && t.proj == proj)

/-- Width of the router column of a layer: the router's input, else the experts' (R221). -/
def routerWidth (m : ModelSlot) (layer : Nat) : Option Nat :=
  match m.tensors.find? (fun t => t.role == 2 && t.layer == layer) with
  | some t => some t.dIn
  | none => (m.tensors.find? (fun t => t.role == 1 && t.layer == layer)).map (·.dIn)

/-- Offset at which a KV body ends: the next body, or the end of the image (R220, R266). -/
def nextBody (a : AdImage) (off : Nat) : Nat :=
  (a.parts.map (·.off)).foldl (fun m o => if off < o then min m o else m) a.len

/-- A part with the shape that the base gives its body; none where R221 refuses it. -/
def partShape (a : AdImage) (m : ModelSlot) (p : AdPart) : Option AdPart :=
  let shape (fmt rows cols : Nat) : Option AdPart := some { p with rows := rows, cols := cols, len := bodyLen fmt rows cols }
  match a.kind, p.part with
  | 1, 1 => (tensorAt m 0 p.layer p.proj).bind (fun t => shape a.fmt a.rank t.dIn)
  | 1, 2 => (tensorAt m 0 p.layer p.proj).bind (fun t => shape a.fmt t.dOut a.rank)
  | 2, 4 =>
    if p.proj = 0xFF then (routerWidth m p.layer).bind (fun n => shape 0 1 n)
    else (tensorAt m 1 p.layer p.proj).bind (fun t => shape a.fmt t.dOut t.dIn)
  | 3, 3 => if a.fmt ≤ 1 then (tensorAt m 0 p.layer p.proj).bind (fun t => shape a.fmt 1 t.dOut) else none
  | 4, 5 =>
    if p.layer < m.layers ∧ (a.fmt = 1 ∨ a.fmt = 2 ∨ a.fmt = 0x83 ∨ a.fmt = 0x84) ∧ p.off < a.len then
      some { p with rows := ceilDiv a.prefixTokens 32, cols := 0, len := nextBody a p.off - p.off } else none
  | _, _ => none

/-- The parts are the ones that the kind asks for (R221). -/
def partsComplete (a : AdImage) (m : ModelSlot) : Bool :=
  let keys (k : Nat) : List (Nat × Nat) := (a.parts.filter (fun p => p.part == k)).map (fun p => (p.layer, p.proj))
  let once (l : List (Nat × Nat)) : Bool := l.eraseDups.length == l.length
  match a.kind with
  | 1 => once (keys 1) && once (keys 2) && (keys 1).all (fun k => (keys 2).contains k) && (keys 2).all (fun k => (keys 1).contains k)
  | 2 =>
    let layer := (a.parts.head?.map (·.layer)).getD 0
    let projs := ((m.tensors.filter (fun t => t.role == 1 && t.layer == layer)).map (·.proj)).eraseDups
    a.parts.all (fun p => p.layer == layer) && once (keys 4) && (keys 4).contains (layer, 0xFF) &&
    projs.all (fun p => (keys 4).contains (layer, p)) && m.reservedExperts != 0
  | 3 => once (keys 3)
  | _ => ((List.range m.layers).all (fun l => (a.parts.filter (fun p => p.layer == l)).length == 1))

/-- No two bodies overlap, and every body lies after the part table and inside the image (R220, R221). -/
def bodiesOk (a : AdImage) : Bool :=
  let tend := 64 + 16 * a.parts.length
  a.parts.all (fun p => p.off % 128 == 0 && decide (tend ≤ p.off) && decide (p.off + p.len ≤ a.len)) &&
  a.parts.zipIdx.all (fun p => a.parts.zipIdx.all (fun q =>
    p.2 == q.2 || decide (p.1.off + p.1.len ≤ q.1.off) || decide (q.1.off + q.1.len ≤ p.1.off)))

/-- The image checked against a base: with its parts' shapes, or none (R221). -/
def adCheck (a : AdImage) (m : ModelSlot) : Option AdImage :=
  match a.parts.mapM (partShape a m) with
  | none => none
  | some ps =>
    let a := { a with parts := ps }
    if partsComplete a m && bodiesOk a then some a else none

/-- The plaintext of an image, or the status: KEY_ID, sealing (R222; 14 R454, R455, R458); the state takes up a
SEAL_FAIL record. -/
def openImage (court keyId : Nat) (img : List Byte) (s : State) : Except Nat (List Byte) × State :=
  if keyId = 0 then (if confCourt s court then .error stNotPermitted else .ok img, s)
  else match ownerKey s court keyId false with
    | none => (.error stKeyUnwrapFailed, s)
    | some k =>
      let o := openObject k img sealImage court (fld img 40 8)
      match o.fail with
      | some i => (.error stKeyUnwrapFailed, sealFail court sealImage i s)
      | none =>
        if fld o.plain 8 8 = fld img 40 8 then (.ok o.plain, s)
        else (.error stKeyUnwrapFailed, sealFail court sealImage 0 s)

/-! ### The adapter pool (R223, R226; 13 R421) -/

/-- First Court address of the pool window (13 R414). -/
def poolAtOf (c : Court) : Nat := (1152 - c.pool) * gib

/-- Pool bytes that an object of `n` bytes takes. -/
def poolNeed (n : Nat) : Nat := roundUp (max 1 n) 4096

/-- Handles of a Court that are not FREE. -/
def courtHandles (s : State) (c : Court) : List (Nat × GazEntry) :=
  s.gaz.entries.filter (fun p => decide (256 * c.unit0 ≤ p.1) && decide (p.1 < 256 * (c.unit0 + c.units)) && p.2.state != .free)

/-- Version-sized space that open steps of the Court hold for next versions (09 R290). -/
def nextSpaces (s : State) (court : Nat) : List (Nat × Nat) :=
  (s.grps.filter (fun p => p.1 / 65536 == court)).flatMap (fun p => match p.2.step with
    | none => []
    | some t => t.binds.filterMap (fun b => b.nextAt.map (fun a => (a, ((entryOf s b.handle).cur.map (·.imageLen)).getD 0))))

/-- What lies in a Court's pool: address, bytes taken, and the handle where it may be moved (13 R421). -/
def poolUse (s : State) (court : Nat) (c : Court) : List (Nat × Nat × Option Nat) :=
  let hs := courtHandles s c
  hs.filterMap (fun p => p.2.cur.bind (fun v => v.poolAt.map (fun a =>
    (a, poolNeed v.imageLen, if v.refs = 0 ∧ v.locks = [] then some p.1 else none)))) ++
  hs.filterMap (fun p => p.2.next.bind (fun v => v.poolAt.map (fun a => (a, poolNeed v.imageLen, none)))) ++
  (s.gaz.drains.filter (fun d => hs.any (fun p => p.1 == d.handle))).filterMap (fun d =>
    d.ver.poolAt.map (fun a => (a, poolNeed d.ver.imageLen, none))) ++
  (nextSpaces s court).map (fun p => (p.1, poolNeed p.2, none)) ++
  (s.gaz.slots.filter (fun p => p.2.owner == court && (p.2.state == .resident || p.2.state == .draining))).map (fun p =>
    (p.2.at_, poolNeed p.2.imageLen, none))

/-- The first hole of at least `need` bytes, lowest address first, in a window that ends at `hi`; the used ranges are
sorted by address. -/
def firstHole (need hi : Nat) : Nat → List (Nat × Nat) → Option Nat
  | pos, [] => if pos + need ≤ hi then some pos else none
  | pos, (a, n) :: t => if pos + need ≤ a then some pos else firstHole need hi (max pos (a + n)) t

/-- Inserts a range into a list sorted by address. -/
def insRange (r : Nat × Nat) : List (Nat × Nat) → List (Nat × Nat)
  | [] => [r]
  | x :: t => if r.1 < x.1 then r :: x :: t else x :: insRange r t

/-- Ranges sorted by address. -/
def sortRanges (l : List (Nat × Nat)) : List (Nat × Nat) := l.foldr insRange []

/-- The lowest address of the pool at which `n` bytes fit (13 R421). -/
def poolHole (s : State) (court : Nat) (c : Court) (n : Nat) : Option Nat :=
  firstHole (poolNeed n) (1152 * gib) (poolAtOf c) (sortRanges ((poolUse s court c).map (fun u => (u.1, u.2.1))))

/-- Free bytes of the pool. -/
def poolFree (s : State) (court : Nat) (c : Court) : Nat := c.pool * gib - ((poolUse s court c).map (fun u => u.2.1)).sum

/-- The highest address at which `n` bytes fit below `hi` among sorted ranges. -/
def lastHole (n lo hi : Nat) (l : List (Nat × Nat)) : Option Nat :=
  let l := l.reverse
  let rec go : Nat → List (Nat × Nat) → Option Nat
    | top, [] => if lo + n ≤ top then some (top - n) else none
    | top, (a, k) :: t => if a + k + n ≤ top then some (top - n) else go (min top a) t
  go hi l

/-- New places of the movable versions, moved toward the top of the window, highest first (13 R421). -/
def movePlan (s : State) (court : Nat) (c : Court) : List (Nat × Nat × Nat) :=
  let use := poolUse s court c
  let fixed := sortRanges ((use.filter (fun u => u.2.2.isNone)).map (fun u => (u.1, u.2.1)))
  let mov := (sortRanges ((use.filter (fun u => u.2.2.isSome)).map (fun u => (u.1, u.2.1)))).reverse
  (mov.foldl (fun (acc : List (Nat × Nat) × List (Nat × Nat × Nat)) m =>
    match lastHole m.2 (poolAtOf c) (1152 * gib) acc.1 with
    | none => acc
    | some a =>
      let h := ((use.find? (fun u => u.1 == m.1)).bind (fun u => u.2.2)).getD 0
      (insRange (a, m.2) acc.1, acc.2 ++ [(h, m.1, a)])) (fixed, [])).2

/-- Copies a Court range to another place, POISON of whole lines with it. -/
def courtMove (c : Court) (src dst len : Nat) (s : State) : State :=
  let bad := (List.range (ceilDiv len 64)).filter (fun i => match courtDpa c (src + 64 * i) with
    | some d => linePoison s d
    | none => false)
  let s' := courtWrite c dst (courtRead s c src len) s
  bad.foldl (fun s i => match courtDpa c (dst + 64 * i) with
    | some d => poisonLine d s
    | none => s) s'

/-- Moves versions toward the top of the window where that makes a hole of `n` bytes; POOL_AT changes (13 R421). -/
def compact (court : Nat) (c : Court) (n : Nat) (s : State) : State :=
  if poolFree s court c < poolNeed n then s
  else
    let plan := movePlan s court c
    let old := s
    let s' := plan.foldl (fun s m => modEntry m.1 (fun e => { e with cur := e.cur.map (fun v => { v with poolAt := some m.2.2 }) }) s) s
    if (poolHole s' court c n).isNone then s
    else plan.foldl (fun s m =>
      let len := poolNeed (((entryOf old m.1).cur.map (·.imageLen)).getD 0)
      if m.2.1 = m.2.2 then s
      else courtMove c m.2.1 m.2.2 len s) s'

/-! ### Demotion (R225, R226) -/

/-- Kind of a cold location (R225). -/
def coldKind (at_ : Nat) : Nat := at_ / 2 ^ 62

/-- A cold location is well formed (R225; 00 R12). -/
def coldOk (at_ : Nat) : Bool := match coldKind at_ with
  | 0 => at_ == 0
  | 1 => bits at_ 61 57 == 0
  | 2 => bits at_ 61 56 == 0
  | _ => false

/-- Binding of a cold version's sealed object (14 R454). -/
def coldBinding (h v : Nat) : Nat := h + 2 ^ 32 * v

/-- The version may be demoted (R226). -/
def demotable (s : State) (h : Nat) (e : GazEntry) : Bool := match e.cur with
  | none => false
  | some v => v.poolAt.isSome && v.refs == 0 && !underContract e && coldKind e.coldAt != 0 &&
      !awaiting s (.demote h v.version) && (v.coldHeld || coldKind e.coldAt != 1 || fnWrites s e.via)

/-- The demotable versions of a Court, least recently admitted first (R226). -/
def victims (s : State) (c : Court) : List Nat :=
  let l := (courtHandles s c).filter (fun p => demotable s p.1 p.2)
  let stamp (p : Nat × GazEntry) : Nat := (p.2.cur.map (·.admitted)).getD 0
  (l.foldr (fun p acc =>
    let (a, b) := acc.span (fun q => decide (stamp q < stamp p))
    a ++ p :: b) []).map (·.1)

/-- A demoted version leaves the pool. -/
def leavePool (h : Nat) (s : State) : State :=
  modEntry h (fun e => { e with cur := e.cur.map (fun v => { v with poolAt := none, coldHeld := true, locks := [] }) }) s

/-- Demotes the current version of a handle: what its cold location does not hold is written there first, as
ciphertext for a confidential Court (R225, R226; 14 R454). -/
def demote (court : Nat) (c : Court) (h : Nat) (s : State) : State :=
  let e := entryOf s h
  match e.cur with
  | none => s
  | some v => match v.poolAt with
    | none => s
    | some a =>
      if v.coldHeld then leavePool h s
      else if (courtPoisoned s c [] a v.imageLen).isSome then s
      else
        let plain := courtRead s c a v.imageLen
        let p := if c.conf then sealColdObj court (coldBinding h v.version) plain s else (plain, s)
        if coldKind e.coldAt = 1 then leavePool h (hostWrite e.via (e.coldAt % 2 ^ 57) p.1 p.2)
        else putAll court (bits e.coldAt 55 40) (e.coldAt % 2 ^ 40) p.1 false (.demote h v.version) p.2

/-- Whether room was made: an address, a wait for a copy or a decision, or none. -/
inductive Room where
  | at_ (a : Nat)
  | wait
  | no
  deriving DecidableEq, Repr

/-- Some demotion of the Court's versions awaits its acknowledgement. -/
def demoting (s : State) (c : Court) : Bool :=
  (courtHandles s c).any (fun p => p.2.cur.any (fun v => awaiting s (.demote p.1 v.version)))

/-- Demotes versions one by one until `n` bytes fit (R226; 13 R421); `fuel` bounds the demotions. -/
def freeRoom (court : Nat) (c : Court) (n : Nat) : Nat → State → State × Room
  | 0, s => (s, .no)
  | k + 1, s =>
    match poolHole s court c n with
    | some a => (s, .at_ a)
    | none =>
      let s := compact court c n s
      match poolHole s court c n with
      | some a => (s, .at_ a)
      | none =>
        if demoting s c then (s, .wait)
        else match victims s c with
          | [] => (s, .no)
          | h :: _ =>
            let s' := demote court c h s
            if demoting s' c then (s', .wait)
            else if ((entryOf s' h).cur.bind (·.poolAt)).isSome then (s', .no)
            else freeRoom court c n k s'

/-- The victims that a proposal names: as many as together free the bytes needed (13 R431). -/
def proposeVictims (s : State) (c : Court) (short : Nat) : List Nat → List Nat
  | [] => []
  | h :: t =>
    let n := poolNeed (((entryOf s h).cur.map (·.imageLen)).getD 0)
    if short ≤ n then [h] else h :: proposeVictims s c (short - n) t

/-- A placement decision of a requester is waiting for its reply. -/
def placeAsked (s : State) (q : QId) (cid : Nat) : Bool :=
  s.cmd.assists.any (fun a => match a.purpose with
    | .place _ q' cid' => q' == q && cid' == cid
    | _ => false)

/-- Request of a DEMOTE decision: kind, bytes needed, victims (13 R431). -/
def demoteData (need : Nat) (hs : List Nat) : List Byte :=
  natLe 1 2 ++ zeros 7 ++ natLe 8 need ++ hs.flatMap (fun h => natLe 2 h)

/-- Makes room for `n` bytes in a Court's pool; in host-assisted PLACEMENT the victims are first proposed to the host
(R226; 13 R421, R431). -/
def makeRoom (court : Nat) (n : Nat) (q : QId) (cid : Nat) (s : State) : State × Room :=
  match courtOf s court with
  | none => (s, .no)
  | some c =>
    if c.pool * gib < poolNeed n then (s, .no)
    else if placeAsked s q cid then (s, .wait)
    else
      let s := if (poolHole s court c n).isNone then compact court c n s else s
      let vs := victims s c
      if (poolHole s court c n).isNone ∧ modeBit s court 0 ∧ vs ≠ [] ∧ !demoting s c then
        let hs := proposeVictims s c (poolNeed n - poolFree s court c) vs
        let r := ask court 0 (demoteData (poolNeed n) hs) (.place 2 q cid) s
        if r.1 then (r.2, .wait) else freeRoom court c n (vs.length + 1) r.2
      else freeRoom court c n (vs.length + 1) s

/-- Applies a DEMOTE decision: the proposal, or the host's handles where each may be demoted and they free enough
(13 R431). -/
def applyDemote (court : Nat) (proposal reply : List Byte) (use : Bool) (s : State) : State :=
  match courtOf s court with
  | none => s
  | some c =>
    let hs (b : List Byte) : List Nat := (List.range ((b.length - 16) / 2)).map (fun i => fld b (16 + 2 * i) 2)
    let theirs := (List.range (reply.length / 2)).map (fun i => fld reply (2 * i) 2)
    let need := fld proposal 8 8
    let freed := (theirs.map (fun h => poolNeed (((entryOf s h).cur.map (·.imageLen)).getD 0))).sum
    let ok := use && theirs.all (fun h => (victims s c).contains h) && theirs.eraseDups.length == theirs.length &&
      decide (need ≤ freed + poolFree s court c)
    ((if ok then theirs else hs proposal).filter (fun h => demotable s h (entryOf s h))).foldl (fun s h => demote court c h s) s

/-! ### Locks in the stack caches (R223, R229; 04 R109, R113) -/

/-- The stack and set of a line (04 R109). -/
def lineSet (line : Nat) : Nat := stackOf (slotOf line) * 131072 + Config.cacheSet line % 131072

/-- Ways of a Court. -/
def waysOf (c : Court) : Nat := ((List.range 16).filter (bit c.wayMask)).length

/-- Lines that a Court holds locked. -/
def courtLocks (s : State) (c : Court) : List Nat := (courtHandles s c).flatMap (fun p => (p.2.cur.map (·.locks)).getD [])

/-- Lines that all Courts hold locked. -/
def allLocks (s : State) : List Nat := s.gaz.entries.flatMap (fun p => (p.2.cur.map (·.locks)).getD [])

/-- The lines of a version in the pool, by device address. -/
def verLines (c : Court) (v : AdVersion) : List Nat := match v.poolAt with
  | none => []
  | some a => (List.range (ceilDiv v.imageLen 64)).filterMap (fun i => courtDpa c (a + 64 * i))

/-- Locks one line of a handle's current version, where its set allows it; a refusal is counted (04 R113). -/
def lockLine (c : Court) (h line : Nat) (s : State) : State :=
  let inSet (l : List Nat) : Nat := (l.filter (fun x => lineSet x == lineSet line)).length
  if inSet (allLocks s) < 8 ∧ inSet (courtLocks s c) < waysOf c / 2 then
    modEntry h (fun e => { e with cur := e.cur.map (fun v => { v with locks := insLine line v.locks }) }) s
  else { s with mem.lockRefused := s.mem.lockRefused + 1 }

/-- Locks the lines of a handle's current version (R223, R228). -/
def lockVersion (court h : Nat) (s : State) : State := match courtOf s court, (entryOf s h).cur with
  | some c, some v => ((verLines c v).filter (fun l => !v.locks.contains l)).foldl (fun s l => lockLine c h l s) s
  | _, _ => s

/-- Unlocks the lines of a handle's current version (R231). -/
def unlockVersion (h : Nat) (s : State) : State :=
  modEntry h (fun e => { e with cur := e.cur.map (fun v => { v with locks := [] }) }) s

/-- Lines a Court can lock: half of its ways in every set of every stack (R229). -/
def lockLimit (c : Court) : Nat := waysOf c / 2 * 131072 * 12

/-- SIZE_KIB of a version (R217). -/
def sizeKib (v : AdVersion) : Nat := ceilDiv v.imageLen 1024

/-- Highest tier that holds the whole current version (R217, R223). -/
def tierOf (e : GazEntry) : Nat := match e.cur with
  | none => 0
  | some v => match v.poolAt with
    | none => 1
    | some _ => if v.locks.length = ceilDiv v.imageLen 64 then 3 else 2

/-! ### Versions (R235 to R238) -/

/-- A version made from a checked image. -/
def mkVersion (a : AdImage) (number keyId at_ : Nat) (held : Bool) (stamp : Nat) : AdVersion :=
  { version := number, fmt := a.fmt, rank := a.rank, alpha := a.alpha, prefixTokens := a.prefixTokens, parts := a.parts,
    imageLen := a.len, hash := a.hash, keyId := keyId, commits := 0, poolAt := some at_, coldHeld := held, locks := [],
    refs := 0, admitted := stamp, wanted := false, fetchFail := none }

/-- The next order stamp. -/
def stampUp (s : State) : State := { s with gaz.stamp := s.gaz.stamp + 1 }

/-- Drain records in use, those that open steps have reserved included (R238; 09 R290). -/
def drainsUsed (s : State) : Nat :=
  s.gaz.drains.length + (s.grps.map (fun p => match p.2.step with
    | none => 0
    | some t => (t.binds.filter (·.drain)).length)).sum

/-- Makes a version current: the superseded one drains or is freed at once, and a contract carries over
(R227, R236, R238). -/
def installVersion (court h : Nat) (v : AdVersion) (s : State) : State :=
  let e := entryOf s h
  let s := match e.cur with
    | none => s
    | some old => if 0 < old.refs then { s with gaz.drains := s.gaz.drains ++ [⟨h, { old with locks := [] }⟩] } else s
  let s := modEntry h (fun e => { e with cur := some v }) s
  if e.minTier = 3 then lockVersion court h s else s

/-- A version change needs a drain record and none is free (R238). -/
def drainShort (s : State) (e : GazEntry) : Bool := (e.cur.any (fun v => decide (0 < v.refs))) && decide (8192 ≤ drainsUsed s)

/-- Writes an image into the pool. -/
def placeImage (court at_ : Nat) (img : List Byte) (s : State) : State := match courtOf s court with
  | none => s
  | some c => courtWrite c at_ img s

/-! ### Contracts (R227 to R231) -/

/-- A contract ends: the fields become 0 and the lines are unlocked; bound to a DRAINING model, the entry becomes
STALE_BASE (R218, R231). -/
def endContract (court h : Nat) (s : State) : State :=
  let s := unlockVersion h (modEntry h (fun e => { e with minTier := 0, contractEnd := 0, holdUntil := 0 }) s)
  let e := entryOf s h
  let s := if e.state = .ready ∧ (findSlot s court e.modelId e.modelVersion).isNone ∧
      (findDraining s court e.modelId e.modelVersion).isSome then modEntry h (fun e => { e with state := .stale }) s else s
  sweepSlots s

/-- CONTRACT_END: Square time reaches CONTRACT_END_S (R231). -/
def execContractEnd (handle : Nat) (s : State) : Res :=
  .next (let e := entryOf s handle
    if underContract e ∧ e.contractEnd ≤ nowS s then
      match handleOwner s handle with
      | some c => endContract c handle s
      | none => s
    else s)

/-! ### Bringing a version to POOL (R224) -/

/-- Outcome of an attempt to bring a version to POOL. -/
inductive Brought where
  | ok
  | wait
  | fail (st : Nat)
  deriving DecidableEq, Repr

/-- Bytes that a version takes at its cold location (14 R454). -/
def coldLen (conf : Bool) (v : AdVersion) : Nat := if conf then sealedLen v.imageLen else v.imageLen

/-- A version's bytes have come back: they are opened, and lie in the pool (R224; 14 R454, R455). -/
def fetched (court h : Nat) (c : Court) (v : AdVersion) (b : List Byte) (at_ : Nat) (s : State) : State × Brought :=
  let o := if c.conf then openColdObj s court b (coldBinding h v.version) else ⟨b.take v.imageLen, none⟩
  match o.fail with
  | some i => (sealFail court sealCold i s, .fail stMemoryError)
  | none => (modEntry h (fun e => { e with cur := e.cur.map (fun v => { v with poolAt := some at_, wanted := false }) })
      (courtWrite c at_ o.plain s), .ok)

/-- Brings the current version of a handle to POOL; `image` is what the device reads at a HOST location. -/
def bring (court h : Nat) (image : List Byte) (q : QId) (cid : Nat) (s : State) : State × Brought :=
  let e := entryOf s h
  match courtOf s court, e.cur with
  | some c, some v =>
    if v.poolAt.isSome then (s, .ok)
    else
      let u := ReqUse.fetch h v.version
      let need := coldLen c.conf v
      let data (s : State) : Option (Except Nat (List Byte)) :=
        if coldKind e.coldAt = 1 then
          (if ideEnded s e.via then some (.error stHostFault)
          else if !fnWrites s e.via then none
          else some (if image.length < need then .error stHostFault else .ok image))
        else match xferOf s u with
          | none => none
          | some x => if x.failed then some (.error stDeviceFault) else if awaiting s u then none else some (.ok (xferBytes x need))
      match data s with
      | none => ((if coldKind e.coldAt ≠ 1 ∧ (xferOf s u).isNone then getAll court (bits e.coldAt 55 40) (e.coldAt % 2 ^ 40) need false u s else s), .wait)
      | some (.error st) => (dropXfer u s, .fail st)
      | some (.ok b) => match makeRoom court v.imageLen q cid s with
        | (s, .wait) => (s, .wait)
        | (s, .no) => (dropXfer u s, .fail stNoResource)
        | (s, .at_ a) => fetched court h c v b a (dropXfer u s)
  | _, _ => (s, .fail stStateConflict)

/-- Marks a version as waited for. -/
def wantVersion (h : Nat) (s : State) : State := modEntry h (fun e => { e with cur := e.cur.map (fun v => { v with wanted := true }) }) s

/-- ADAPTER_COLD_FETCH: a version that a use waits for is fetched from its cold location (R224, R226; 13 R426). -/
def execAdapterColdFetch (handle version : Nat) (image : List Byte) (s : State) : Res :=
  .next (match handleOwner s handle, (entryOf s handle).cur with
    | some court, some v =>
      if !v.wanted ∨ v.version ≠ version then s
      else match bring court handle image ⟨court, 64⟩ handle s with
        | (s, .fail st) => modEntry handle (fun e => { e with cur := e.cur.map (fun v =>
            { v with wanted := false, fetchFail := some st }) }) s
        | (s, _) => s
    | _, _ => s)

/-! ### REGISTER_ADAPTER (R216, R222) -/

/-- The handle that a started REGISTER_ADAPTER has claimed. -/
def claimedHandle (c : Cmd) : Option Nat := c.work.head?

/-- Ends a registration that fails: the handle is FREE again (R218, R222). -/
def abandonHandle (h : Nat) (s : State) : State := modEntry h freeEntry s

/-- Claims the lowest FREE handle for a REGISTER_ADAPTER: LOADING, with the next GENERATION (R216, R218, R222). -/
def claimHandle (c : Cmd) (h : Nat) (s : State) : State :=
  let e := entryOf s h
  let e' := { GazEntry.fresh with
    state := .loading, generation := (e.generation + 1) % 65536, coldAt := fld c.pb 24 8, via := c.via, trainable := bit (fld c.pb 12 1) 0 }
  modCmd c.q c.cid (fun c => { c with work := [h] }) { s with gaz.entries := tblSet s.gaz.entries h e' }

/-- Loads and checks the image of a REGISTER_ADAPTER whose handle is claimed (R222 steps 2 to 4). -/
def registerLoad (c : Cmd) (h : Nat) (image : List Byte) (s : State) : State × Did :=
  let court := c.q.owner
  let keyId := fld c.pb 16 8
  let fail (st : Nat) (s : State) : State × Did := failWith (abandonHandle h s) st
  if image.length < fld c.pb 8 4 then fail stHostFault s
  else match openImage court keyId (image.take (fld c.pb 8 4)) s with
    | (.error st, s) => fail st s
    | (.ok img, s) => match makeRoom court img.length c.q c.cid s with
      | (s, .wait) => (s, .stay)
      | (s, .no) => fail stNoResource s
      | (s, .at_ a) => match adHeader img with
        | none => fail stInvalidField s
        | some i => match (findSlot s court i.modelId i.modelVersion).bind (fun n => tblGet s.gaz.slots n) with
          | none => fail stStateConflict s
          | some m => match adCheck i m with
            | none => fail stInvalidField s
            | some i =>
              let s := stampUp (placeImage court a img s)
              let v := mkVersion i 1 keyId a (keyId == 0 && !confCourt s court && coldKind (fld c.pb 24 8) != 0) s.gaz.stamp
              let s := modEntry h (fun e => { e with
                state := .ready, kind := i.kind, modelId := i.modelId, modelVersion := i.modelVersion, cur := some v }) s
              (s, .fin (finRes stSuccess (natLe 2 h ++ natLe 2 (entryOf s h).generation ++ natLe 4 1)))

/-- Effect of REGISTER_ADAPTER. -/
def registerBody (image : List Byte) (whole : Bool) (c : Cmd) (s : State) : State × Did :=
  let court := c.q.owner
  let keyId := fld c.pb 16 8
  match claimedHandle c with
  | some h => if whole then registerLoad c h image s else (s, .stay)
  | none =>
    if 4 ≤ fld c.pb 12 1 ∨ !coldOk (fld c.pb 24 8) then failWith s stInvalidField
    else if confCourt s court ∧ keyId = 0 then failWith s stNotPermitted
    else if keyId ≠ 0 ∧ (ownerKey s court keyId false).isNone then failWith s stKeyUnwrapFailed
    else match (courtOf s court).bind (lowestFree s) with
      | none => failWith s stLimitExceeded
      | some h =>
        let s := claimHandle c h s
        if whole then registerLoad { c with work := [h] } h image s else (s, .stay)

/-- REGISTER_ADAPTER (R222). -/
def execRegisterAdapter (q : QId) (cid : Nat) (image : List Byte) (whole : Bool) (s : State) : Res :=
  .next (runCmd opRegisterAdapter q cid (fun _ => 40) [(13, 3), (32, 8)] (registerBody image whole) s)

/-! ### REPLACE (R236, R237, R242) -/

/-- The status with which REPLACE and REBIND_ADAPTER refuse an entry in training (R237, R240). -/
def trainRefusal (e : GazEntry) (atCommit : Bool) : Option Nat :=
  if e.train = 0 then none
  else if !atCommit then some stAdapterInTraining
  else if e.train = 2 then some stStateConflict else none

/-- Loads and checks a REPLACE's image: its place in the pool, or a status, or a wait. -/
def replaceLoad (c : Cmd) (h : Nat) (image : List Byte) (s : State) : State × Except Nat (Option (AdImage × Nat)) :=
  let court := c.q.owner
  let e := entryOf s h
  if image.length < fld c.pb 4 4 then (s, .error stHostFault)
  else match openImage court (fld c.pb 16 8) (image.take (fld c.pb 4 4)) s with
    | (.error st, s) => (s, .error st)
    | (.ok img, s) => match makeRoom court img.length c.q c.cid s with
      | (s, .wait) => (s, .ok none)
      | (s, .no) => (s, .error stNoResource)
      | (s, .at_ a) =>
        if e.state = .retiring ∨ e.state = .loading then (s, .error stStateConflict)
        else match adHeader img with
        | none => (s, .error stInvalidField)
        | some i =>
          if i.kind ≠ e.kind ∨ i.modelId ≠ e.modelId ∨ i.modelVersion ≠ e.modelVersion then (s, .error stInvalidField)
          else match (findSlot s court i.modelId i.modelVersion).bind (fun n => tblGet s.gaz.slots n) with
            | none => (s, .error stStateConflict)
            | some m => match adCheck i m with
              | none => (s, .error stInvalidField)
              | some i => (placeImage court a img s, .ok (some (i, a)))

/-- Effect of REPLACE. -/
def replaceBody (image : List Byte) (c : Cmd) (s : State) : State × Did :=
  let court := c.q.owner
  let h := fld c.pb 0 2
  let e := entryOf s h
  let atCommit := bit (fld c.pb 2 1) 0
  if e.nextCmd = some (c.q, c.cid) then (s, .stay)
  else match handleCheck s court h with
    | some st => failWith s st
    | none =>
      if 2 ≤ fld c.pb 2 1 then failWith s stInvalidField
      else match trainRefusal e atCommit with
        | some st => failWith s st
        | none => match replaceLoad c h image s with
          | (s, .error st) => failWith s st
          | (s, .ok none) => (s, .stay)
          | (s, .ok (some (i, a))) =>
            let s := stampUp s
            let n := (e.cur.map (·.version)).getD 0 + 1
            let v := mkVersion i n (fld c.pb 16 8) a false s.gaz.stamp
            if e.train ≠ 0 then
              (modEntry h (fun e => { e with next := some v, nextCmd := some (c.q, c.cid), train := 2 }) s, .stay)
            else if drainShort s e then failWith s stNoResource
            else (installVersion court h v s, .fin (finRes stSuccess (zeros 4 ++ natLe 4 n)))

/-- REPLACE (R236). -/
def execReplace (q : QId) (cid : Nat) (image : List Byte) (s : State) : Res :=
  .next (runCmd opReplace q cid (fun _ => 24) [(3, 1)] (replaceBody image) s)

/-! ### RETIRE_ADAPTER (R239) -/

/-- Releases a handle's slot claims (R234). -/
def dropClaims (h : Nat) (s : State) : State :=
  { s with gaz.slots := s.gaz.slots.map (fun (p : Nat × ModelSlot) => (p.1, { p.2 with claims := p.2.claims.filter (fun x => x.2 != h) })) }

/-- Effect of RETIRE_ADAPTER. -/
def retireAdapterBody (c : Cmd) (s : State) : State × Did :=
  let h := fld c.pb 0 2
  let e := entryOf s h
  match handleCheck s c.q.owner h with
  | some st => failWith s st
  | none =>
    if e.state = .retiring then (s, .fin (finSt stAlreadyDone))
    else if e.state = .loading then failWith s stStateConflict
    else if e.train ≠ 0 then failWith s stAdapterInTraining
    else
      let s := modEntry h (fun e => { e with state := .retiring, minTier := 0, contractEnd := 0, holdUntil := 0, next := none, nextCmd := none }) s
      (sweepSlots (sweepHandle h (dropClaims h (unlockVersion h s))), .fin (finSt stSuccess))

/-- RETIRE_ADAPTER (R239). -/
def execRetireAdapter (q : QId) (cid : Nat) (s : State) : Res :=
  .next (runCmd opRetireAdapter q cid (fun _ => 8) [(2, 6)] retireAdapterBody s)

/-! ### PIN_CONTRACT and RELEASE_CONTRACT (R227 to R230) -/

/-- The sums of R229 stay within their limits with a contract of MIN_TIER on a handle. -/
def pinFits (s : State) (c : Court) (h tier : Nat) (v : AdVersion) : Bool :=
  let others := (courtHandles s c).filter (fun p => p.1 != h && underContract p.2)
  let kib := (others.map (fun p => (p.2.cur.map sizeKib).getD 0)).sum + sizeKib v
  let lines := ((others.filter (fun p => p.2.minTier == 3)).map (fun p => (p.2.cur.map (fun v => ceilDiv v.imageLen 64)).getD 0)).sum +
    (if tier = 3 then ceilDiv v.imageLen 64 else 0)
  decide (kib ≤ c.pool * 2 ^ 20) && (tier != 3 || decide (lines ≤ lockLimit c))

/-- The retirement of a PIN_CONTRACT whose version is in POOL (R228 to R230). -/
def pinFinish (c : Cmd) (h : Nat) (s : State) : State × Did :=
  let court := c.q.owner
  let e := entryOf s h
  let tier := fld c.pb 2 1
  let expiry := fld c.pb 8 4
  match courtOf s court, e.cur with
  | some k, some v =>
    if e.state = .retiring ∨ e.state = .loading then failWith s stStateConflict
    else if !pinFits s k h tier v then failWith s stNoResource
    else if expiry ≤ nowS s then
      ((if underContract e then endContract court h s else s), .fin (finRes stSuccess (zeros 4)))
    else
      let hold := max (if underContract e then e.holdUntil else 0) (min (nowS s + fld c.pb 4 4) expiry)
      let s := modEntry h (fun e => { e with minTier := tier, contractEnd := expiry, holdUntil := hold }) s
      ((if tier = 3 then lockVersion court h s else unlockVersion h s), .fin (finRes stSuccess (natLe 4 hold)))
  | _, _ => failWith s stStateConflict

/-- Effect of PIN_CONTRACT. -/
def pinBody (image : List Byte) (c : Cmd) (s : State) : State × Did :=
  let court := c.q.owner
  let h := fld c.pb 0 2
  let e := entryOf s h
  match handleCheck s court h with
  | some st => failWith s st
  | none =>
    if c.work = [] ∧ (fld c.pb 2 1 < 2 ∨ 3 < fld c.pb 2 1 ∨ 604800 < fld c.pb 4 4 ∨ fld c.pb 8 4 < nowS s + fld c.pb 4 4 ∨
        (underContract e ∧ fld c.pb 8 4 < e.holdUntil)) then failWith s stInvalidField
    else if e.state = .retiring ∨ e.state = .loading then failWith s stStateConflict
    else match courtOf s court, e.cur with
      | some k, some v =>
        if !pinFits s k h (fld c.pb 2 1) v then failWith s stNoResource
        else match bring court h image c.q c.cid s with
          | (s, .wait) => (modCmd c.q c.cid (fun c => { c with work := [1] }) s, .stay)
          | (s, .fail st) => failWith s st
          | (s, .ok) => pinFinish c h s
      | _, _ => failWith s stStateConflict

/-- PIN_CONTRACT (R228). -/
def execPinContract (q : QId) (cid : Nat) (image : List Byte) (s : State) : Res :=
  .next (runCmd opPinContract q cid (fun _ => 16) [(3, 1), (12, 4)] (pinBody image) s)

/-- Effect of RELEASE_CONTRACT. -/
def releaseBody (c : Cmd) (s : State) : State × Did :=
  let h := fld c.pb 0 2
  let e := entryOf s h
  match handleCheck s c.q.owner h with
  | some st => failWith s st
  | none =>
    if !underContract e then (s, .fin (finSt stAlreadyDone))
    else if nowS s < e.holdUntil then
      (modEntry h (fun e => { e with contractEnd := e.holdUntil }) s, .fin (finRes stSuccess (natLe 4 e.holdUntil)))
    else (endContract c.q.owner h s, .fin (finSt stSuccess))

/-- RELEASE_CONTRACT (R230). -/
def execReleaseContract (q : QId) (cid : Nat) (s : State) : Res :=
  .next (runCmd opReleaseContract q cid (fun _ => 8) [(2, 6)] releaseBody s)

/-! ### CLAIM_SLOT (R232 to R234) -/

/-- Holder of a reserved expert slot, 0xFFFF when free. -/
def claimOf (m : ModelSlot) (layer index : Nat) : Nat := tblGetD m.claims (layer * 256 + index) 0xFFFF

/-- The slot is a reserved expert slot of the base (R233, R243). -/
def isReserved (m : ModelSlot) (layer index : Nat) : Bool :=
  decide (index < m.reservedExperts) && m.tensors.any (fun t => t.role == 1 && t.layer == layer)

/-- A handle of the Court is a READY EXPERT adaptation at a layer, bound to the slot's model version (R233). -/
def claimant (s : State) (m : ModelSlot) (layer h : Nat) : Bool :=
  let e := entryOf s h
  e.state == .ready && e.kind == 2 && e.modelId == m.modelId && e.modelVersion == m.modelVersion &&
  (e.cur.any (fun v => v.parts.any (fun p => p.layer == layer)))

/-- Slots that handles of a Court hold at a layer. -/
def claimsHeld (s : State) (m : ModelSlot) (court layer : Nat) : Nat :=
  (m.claims.filter (fun p => p.1 / 256 == layer && handleOwner s p.2 == some court)).length

/-- Effect of CLAIM_SLOT. -/
def claimBody (c : Cmd) (s : State) : State × Did :=
  let court := c.q.owner
  let index := fld c.pb 1 1
  let layer := fld c.pb 2 2
  let expect := fld c.pb 4 2
  let new := fld c.pb 6 2
  let foreign (h : Nat) : Bool := h != 0xFFFF && (handleOwner s h).any (fun o => o != court)
  match tblGet s.gaz.slots (fld c.pb 0 1) with
  | none => failWith s stInvalidField
  | some m =>
    let holder := claimOf m layer index
    if !isReserved m layer index then failWith s stInvalidField
    else if foreign new ∨ foreign expect then failWith s stWrongCourt
    else if new ≠ 0xFFFF ∧ !claimant s m layer new then failWith s stStateConflict
    else if new ≠ 0xFFFF ∧ handleOwner s holder ≠ some court ∧ 16 ≤ claimsHeld s m court layer then failWith s stLimitExceeded
    else if !slotFor m court then failWith s stNotPermitted
    else if holder ≠ expect then
      (s, .fin (finRes stSlotTaken (natLe 2 (if handleOwner s holder = some court then holder else 0xFFFF))))
    else
      let claims := if new = 0xFFFF then tblErase m.claims (layer * 256 + index) else tblSet m.claims (layer * 256 + index) new
      (modSlot (fld c.pb 0 1) (fun m => { m with claims := claims }) s, .fin (finSt stSuccess))

/-- CLAIM_SLOT (R233). -/
def execClaimSlot (q : QId) (cid : Nat) (s : State) : Res :=
  .next (runCmd opClaimSlot q cid (fun _ => 8) [] claimBody s)

/-! ### REBIND_ADAPTER (R240) -/

/-- The current weights as an image of a model version, for the checks of R221. -/
def asImage (e : GazEntry) (v : AdVersion) (mver : Nat) : AdImage :=
  ⟨e.kind, v.fmt, e.modelId, mver, v.rank, v.alpha, v.prefixTokens, v.parts, v.imageLen, v.hash⟩

/-- The entry takes a new version bound to a model version; STALE_BASE becomes READY (R240). -/
def rebound (court h mver : Nat) (v : AdVersion) (s : State) : State × Did :=
  let s := installVersion court h v s
  let s := modEntry h (fun e => { e with modelVersion := mver, state := .ready }) s
  (sweepSlots s, .fin (finRes stSuccess (zeros 4 ++ natLe 4 v.version)))

/-- REBIND_ADAPTER of the weights as they stand (R240 step 1). -/
def rebindAsIs (c : Cmd) (h : Nat) (e : GazEntry) (v : AdVersion) (m : ModelSlot) (s : State) : State × Did :=
  let court := c.q.owner
  let mver := fld c.pb 4 4
  match adCheck (asImage e v mver) m with
  | none => failWith s stInvalidField
  | some i =>
    if v.refs = 0 then rebound court h mver { v with version := v.version + 1, parts := i.parts, coldHeld := v.poolAt.isNone } s
    else match v.poolAt, courtOf s court with
      | some src, some k => match makeRoom court v.imageLen c.q c.cid s with
        | (s, .wait) => (s, .stay)
        | (s, .no) => failWith s stNoResource
        | (s, .at_ a) =>
          if drainShort s e then failWith s stNoResource
          else
            let s := stampUp (courtMove k src a (poolNeed v.imageLen) s)
            rebound court h mver { v with version := v.version + 1, parts := i.parts, poolAt := some a, coldHeld := false, refs := 0, locks := [], admitted := s.gaz.stamp } s
      | _, _ => failWith s stStateConflict

/-- REBIND_ADAPTER with a new image (R240). -/
def rebindImage (c : Cmd) (h : Nat) (e : GazEntry) (image : List Byte) (s : State) : State × Did :=
  let court := c.q.owner
  let mver := fld c.pb 4 4
  let len := fld c.pb 16 4
  if image.length < len then failWith s stHostFault
  else match openImage court (fld c.pb 24 8) (image.take len) s with
    | (.error st, s) => failWith s st
    | (.ok img, s) => match makeRoom court img.length c.q c.cid s with
      | (s, .wait) => (s, .stay)
      | (s, .no) => failWith s stNoResource
      | (s, .at_ a) => match adHeader img with
        | none => failWith s stInvalidField
        | some i =>
          if i.kind ≠ e.kind ∨ i.modelId ≠ e.modelId ∨ i.modelVersion ≠ mver then failWith s stInvalidField
          else match (findSlot s court e.modelId mver).bind (fun n => tblGet s.gaz.slots n) with
            | none => failWith s stStateConflict
            | some m => match adCheck i m with
              | none => failWith s stInvalidField
              | some i =>
                if drainShort s e then failWith s stNoResource
                else
                  let s := stampUp (placeImage court a img s)
                  rebound court h mver (mkVersion i ((e.cur.map (·.version)).getD 0 + 1) (fld c.pb 24 8) a false s.gaz.stamp) s

/-- Effect of REBIND_ADAPTER. -/
def rebindBody (image : List Byte) (c : Cmd) (s : State) : State × Did :=
  let court := c.q.owner
  let h := fld c.pb 0 2
  let e := entryOf s h
  match handleCheck s court h with
  | some st => failWith s st
  | none =>
    if e.state ≠ .ready ∧ e.state ≠ .stale then failWith s stStateConflict
    else if e.train ≠ 0 then failWith s stAdapterInTraining
    else if fld c.pb 16 4 ≠ 0 then rebindImage c h e image s
    else match (findSlot s court e.modelId (fld c.pb 4 4)).bind (fun n => tblGet s.gaz.slots n), e.cur with
      | some m, some v => rebindAsIs c h e v m s
      | _, _ => failWith s stStateConflict

/-- REBIND_ADAPTER (R240). -/
def execRebindAdapter (q : QId) (cid : Nat) (image : List Byte) (s : State) : Res :=
  .next (runCmd opRebindAdapter q cid (fun _ => 32) [(2, 2), (20, 4)] (rebindBody image) s)

/-! ### QUERY_ADAPTER (R217, R241) -/

/-- STATE code of an entry (R217). -/
def gazCode : GazState → Nat
  | .free => 0
  | .loading => 1
  | .ready => 2
  | .retiring => 3
  | .stale => 4

/-- The 64 bytes of an entry (R217). -/
def entryBytes (s : State) (court h : Nat) : List Byte :=
  let e := entryOf s h
  let v (f : AdVersion → Nat) : Nat := (e.cur.map f).getD 0
  natLe 1 (gazCode e.state) ++ natLe 1 court ++ natLe 1 e.kind ++ natLe 1 (tierOf e) ++ natLe 4 (v (·.version)) ++
  natLe 4 e.modelId ++ natLe 4 e.modelVersion ++ natLe 8 (v (·.keyId)) ++
  natLe 8 ((e.cur.bind (·.poolAt)).getD (2 ^ 64 - 1)) ++ natLe 8 e.coldAt ++ natLe 4 (v sizeKib) ++ natLe 1 e.minTier ++
  natLe 1 (e.train + 4 * b2n e.trainable) ++ natLe 2 e.generation ++ natLe 4 e.contractEnd ++ natLe 4 e.holdUntil ++
  natLe 4 (v (·.refs)) ++ natLe 2 (drainingOf s h) ++ zeros 2

/-- Effect of QUERY_ADAPTER. -/
def queryBody (c : Cmd) (s : State) : State × Did :=
  let h := fld c.pb 0 2
  match handleCheck s c.q.owner h with
  | some st => failWith s st
  | none =>
    let oldest := ((s.gaz.drains.find? (fun d => d.handle == h)).map (fun d => sizeKib d.ver)).getD 0
    (s, .fin (finReply (entryBytes s c.q.owner h ++ natLe 8 (((entryOf s h).cur.map (fun v => v.locks.length)).getD 0) ++
      natLe 4 oldest ++ zeros 4)))

/-- QUERY_ADAPTER (R241). -/
def execQueryAdapter (q : QId) (cid : Nat) (s : State) : Res :=
  .next (runCmd opQueryAdapter q cid (fun _ => 24) [(2, 6), (20, 4)] queryBody s)

/-! ### Binding at an admission (R235, R247, R249; 05 R142) -/

/-- The status with which an admission refuses a handle: its range, its state, and the base it is bound to. -/
def bindCheck (s : State) (court h : Nat) : Option Nat := match handleCheck s court h with
  | some st => some st
  | none =>
    let e := entryOf s h
    if e.state ≠ .ready then some stStateConflict
    else if (findSlot s court e.modelId e.modelVersion).isSome then none
    else if underContract e ∧ (findDraining s court e.modelId e.modelVersion).isSome then none
    else some stStateConflict

/-- The slot that a use naming a slot and some handles binds (R249); the error is a status. -/
def bindSlot (s : State) (court n : Nat) (hs : List Nat) : Except Nat Nat :=
  match tblGet s.gaz.slots n with
  | none => .error stStateConflict
  | some m =>
    if !slotFor m court then .error stNotPermitted
    else if m.state = .loading ∨ m.state = .empty then .error stStateConflict
    else
      let mine := hs.filter (fun h => (entryOf s h).modelId == m.modelId)
      let vers := (mine.map (fun h => (entryOf s h).modelVersion)).eraseDups
      if 1 < vers.length then .error stStateConflict
      else if m.state = .draining then
        (match vers with
        | [] => (match m.replacedBy with
          | some r => .ok r
          | none => .error stStateConflict)
        | v :: _ =>
          if v = m.modelVersion then (if mine.all (fun h => underContract (entryOf s h)) then .ok n else .error stStateConflict)
          else match m.replacedBy.bind (fun r => (tblGet s.gaz.slots r).map (fun x => (r, x))) with
            | some (r, x) => if x.modelVersion = v then .ok r else .error stStateConflict
            | none => .error stStateConflict)
      else match vers with
        | [] => .ok n
        | v :: _ =>
          if v = m.modelVersion then .ok n
          else match s.gaz.slots.find? (fun p => p.2.state == .draining && p.2.replacedBy == some n && p.2.modelVersion == v) with
            | some p => if mine.all (fun h => underContract (entryOf s h)) then .ok p.1 else .error stStateConflict
            | none => .error stStateConflict

/-- Readiness of what a use has bound: every version in POOL, the base RESIDENT or DRAINING. -/
inductive Ready where
  | ok
  | wait
  | fail (st : Nat)
  deriving DecidableEq, Repr

/-- Takes up a failed fetch of one of the handles, if there is one. -/
def takeFetchFail (hs : List Nat) (s : State) : Option Nat × State :=
  match hs.find? (fun h => (entryOf s h).cur.any (fun v => v.fetchFail.isSome)) with
  | none => (none, s)
  | some h => (((entryOf s h).cur.bind (·.fetchFail)),
      modEntry h (fun e => { e with cur := e.cur.map (fun v => { v with fetchFail := none }) }) s)

/-- Takes up a failed reload of a slot, if there is one; a slot whose image failed a check or differed becomes EMPTY (R247). -/
def takeReloadFail (slot : Option Nat) (s : State) : Option Nat × State :=
  match slot.bind (fun n => (tblGet s.gaz.slots n).bind (fun m => m.reloadFail.map (fun f => (n, f)))) with
  | none => (none, s)
  | some (n, f) =>
    let s := modSlot n (fun m => { m with reloadFail := none }) s
    (some f, if f = stStateConflict then emptySlot n s else s)

/-- Asks for what a use needs and does not find: cold versions and a COLD base (R224, R247). -/
def demand (hs : List Nat) (slot : Option Nat) (s : State) : State × Ready :=
  match takeFetchFail hs s with
  | (some st, s) => (s, .fail st)
  | (none, s) => match takeReloadFail slot s with
    | (some st, s) => (s, .fail st)
    | (none, s) =>
      let cold := hs.filter (fun h => (entryOf s h).cur.any (fun v => v.poolAt.isNone))
      let base := match slot.bind (fun n => tblGet s.gaz.slots n) with
        | some m => m.state == .cold
        | none => false
      if cold = [] ∧ !base then (s, .ok)
      else
        let s := cold.foldl (fun s h => wantVersion h s) s
        ((match slot with
          | some n => if base then modSlot n (fun m => { m with wanted := true }) s else s
          | none => s), .wait)

/-- Binds the current versions of handles and a slot: references and stamps (R235, R226, R247). -/
def bindAll (hs : List Nat) (slot : Option Nat) (s : State) : List (Nat × Nat) × State :=
  let s := stampUp s
  let bs := hs.map (fun h => (h, ((entryOf s h).cur.map (·.version)).getD 0))
  let s := bs.foldl (fun s b => modEntry b.1 (fun e => { e with cur := e.cur.map (fun v =>
    { v with refs := v.refs + 1, admitted := s.gaz.stamp }) }) s) s
  (bs, match slot with
    | none => s
    | some n => modSlot n (fun m => { m with refs := m.refs + 1, lastUsed := s.gaz.stamp }) s)

/-- RESET_COURT and DESTROY_COURT release every entry, contract, claim, drain record and model slot of the Court
(R250). -/
def releaseGaz (court : Nat) (s : State) : State := match courtOf s court with
  | none => s
  | some c =>
    let hs := (courtHandles s c).map (·.1)
    let s := hs.foldl (fun s h => modEntry h freeEntry (dropClaims h s)) s
    let s := { s with gaz.drains := s.gaz.drains.filter (fun d => !hs.contains d.handle)
                      gaz.slots := s.gaz.slots.filter (fun p => p.2.owner != court) }
    sweepSlots s

end Sys2Proof.Machine
end

