-- ==== Sys2Proof/Machine/Bases.lean ====
section
/-! DEFINITION. Base models in the model slots: loading, eviction, pins, replacement, reload
(spec/07_adapters.md R243 to R249; spec/13_placement_and_scheduling.md R431). -/

namespace Sys2Proof.Machine

/-! ### Images (R243, R244) -/

/-- A model slot that has just been taken (R245). -/
def ModelSlot.fresh : ModelSlot :=
  { state := .empty, owner := 16, access := 0, pin := false, reloadable := false, imageAddr := 0, imageLen := 0,
    via := ⟨0, 0⟩, keyId := 0, modelId := 0, modelVersion := 0, reservedExperts := 0, layers := 0, hash := [],
    tensors := [], granules := [], at_ := 0, refs := 0, lastUsed := 0, wanted := false, reloadFail := none,
    replacedBy := none, claims := [] }

/-- The tensor directory of an image (R244). -/
def baseTensors (img : List Byte) : List BaseTensor :=
  (List.range (fld img 16 4)).map (fun i =>
    let o := 64 + 32 * i
    ⟨fld img o 2, fld img (o + 2) 1, fld img (o + 3) 1, fld img (o + 4) 1, fld img (o + 5) 1, fld img (o + 8) 4,
      fld img (o + 12) 4, fld img (o + 16) 8, fld img (o + 24) 4⟩)

/-- Bytes of a tensor's body, its scale array included (R244). -/
def tensorLen (t : BaseTensor) : Nat :=
  if fmtMx t.fmt then roundUp (t.dOut * t.stride) 64 + t.dOut * (t.stride / (4 * elemBits (fmtCode t.fmt)))
  else t.dOut * t.stride

/-- A directory entry is as R244 asks, in an image of `len` bytes with `layers` layers whose directory ends at `tend`. -/
def tensorOk (layers tend len : Nat) (t : BaseTensor) : Bool :=
  decide (t.layer < layers) && decide (t.proj ≤ 254) && decide (t.role ≤ 3) && (t.role == 1 || t.expert == 0) &&
  fmtLegal t.fmt && fmtCode t.fmt != 0x0C && t.dIn != 0 && t.dOut != 0 && t.off % 128 == 0 && decide (tend ≤ t.off) &&
  decide (rowBytes (fmtCode t.fmt) t.dIn ≤ t.stride) && (!fmtMx t.fmt || t.stride % 96 == 0) &&
  decide (t.off + tensorLen t ≤ len)

/-- What an image that passes R243 and R244 says: a slot with no place yet. -/
def baseParse (img : List Byte) : Option ModelSlot :=
  let n := fld img 16 4
  let tend := 64 + 32 * n
  let ts := baseTensors img
  let keys := ts.map (fun t => (t.layer, t.role, t.expert, t.proj))
  if 64 ≤ img.length ∧ fld img 0 4 = 0x53414255 ∧ fld img 4 2 = 1 ∧ 1 ≤ fld img 6 2 ∧ 1 ≤ n ∧ n ≤ 1048576 ∧
      fld img 20 2 ≤ 256 ∧ zeroFld img 22 2 ∧ tend ≤ img.length ∧ fld img 24 8 = img.length - tend ∧
      sha256 (img.drop 64) = slice img 32 32 ∧
      (List.range n).all (fun i => zeroFld img (70 + 32 * i) 2 && zeroFld img (92 + 32 * i) 4) ∧
      ts.all (tensorOk (fld img 6 2) tend img.length) ∧ keys.eraseDups.length = keys.length then
    some { ModelSlot.fresh with
      modelId := fld img 8 4, modelVersion := fld img 12 4, reservedExperts := fld img 20 2, layers := fld img 6 2,
      hash := slice img 32 32, tensors := ts, imageLen := img.length }
  else none

/-- Bytes of a slot's image at its host address: its sealed length where it is wrapped (R246; 14 R452, R458). -/
def slotHostLen (m : ModelSlot) : Nat := if m.keyId = 0 then m.imageLen else sealedLen m.imageLen

/-! ### Space (R245, R247; 13 R421, R431) -/

/-- Takes a slot's weights away: COLD with its descriptor kept where it was loaded RELOADABLE, EMPTY otherwise or with
`forget` (R247, R248). -/
def evictSlot (n : Nat) (forget : Bool) (s : State) : State := match tblGet s.gaz.slots n with
  | none => s
  | some m =>
    if forget ∨ !m.reloadable ∨ m.state = .draining then emptySlot n s
    else
      let s := m.granules.foldl (fun s G => clearGranule G .free false s) s
      modSlot n (fun m => { m with state := .cold, granules := [] }) s

/-- The slots of an owner that the cache may evict, least recently used first (R247). -/
def evictable (s : State) (owner : Nat) : List Nat :=
  let l := s.gaz.slots.filter (fun p => p.2.owner == owner && p.2.state == .resident && !p.2.pin && p.2.refs == 0)
  (l.foldr (fun p acc =>
    let (a, b) := acc.span (fun q => decide (q.2.lastUsed < p.2.lastUsed))
    a ++ p :: b) []).map (·.1)

/-- Request of a GRANULES decision: kind, Court (0xFFFF for the device pool), count, granules (13 R431). -/
def granuleData (court : Nat) (gs : List Nat) : List Byte :=
  natLe 1 1 ++ zeros 1 ++ natLe 2 court ++ natLe 4 gs.length ++ gs.flatMap (fun g => natLe 2 g)

/-- The granules that a decision gives: those the host chose, where each is free and in service, else the proposal
(13 R421, R431). -/
def granuleChoice (s : State) (n : Nat) (chosen : List Nat) : List Nat :=
  if chosen.length = n ∧ chosen.eraseDups.length = n ∧ chosen.all (fun g => (freeGranules s).contains g) then chosen
  else (freeGranules s).take n

/-- Where space was found: device granules, a Court address, a wait for a decision, or none. -/
inductive Space where
  | granules (gs : List Nat)
  | at_ (a : Nat)
  | wait
  | no
  deriving DecidableEq, Repr

/-- Evicts an operator's bases one by one until `n` granules are free beyond the reserve (R247). -/
def freeGranuleRoom (n : Nat) : Nat → State → State × Bool
  | 0, s => (s, decide (n ≤ spareGranules s))
  | k + 1, s =>
    if n ≤ spareGranules s then (s, true)
    else match evictable s 16 with
      | [] => (s, false)
      | v :: _ => freeGranuleRoom n k (evictSlot v false s)

/-- Evicts a Court's bases one by one until `len` bytes fit in its pool window (R245, R247; 13 R421). -/
def freeBaseRoom (court : Nat) (c : Court) (len : Nat) : Nat → State → State × Option Nat
  | 0, s => (s, poolHole s court c len)
  | k + 1, s =>
    let s := if (poolHole s court c len).isNone then compact court c len s else s
    match poolHole s court c len with
    | some a => (s, some a)
    | none => match evictable s court with
      | [] => (s, none)
      | v :: _ => freeBaseRoom court c len k (evictSlot v false s)

/-- Finds space for an image of `len` bytes of an owner; `chosen` are the granules a reply gave, `asked` says that a
reply or its absence has settled the decision (R247; 13 R431). -/
def baseRoom (owner len : Nat) (chosen : List Nat) (asked : Bool) (q : QId) (cid : Nat) (s : State) : State × Space :=
  if owner = 16 then
    let n := ceilDiv len gib
    if placeAsked s q cid then (s, .wait)
    else match freeGranuleRoom n 32 s with
      | (s, false) => (s, .no)
      | (s, true) =>
        if asked ∨ !modeBit s 16 0 then (s, .granules (granuleChoice s n chosen))
        else
          let gs := (freeGranules s).take n
          let r := ask 16 0 (granuleData 0xFFFF gs) (.place 1 q cid) s
          if r.1 then (r.2, .wait) else (r.2, .granules gs)
  else match courtOf s owner with
    | none => (s, .no)
    | some c =>
      if c.pool * gib < len then (s, .no)
      else match freeBaseRoom owner c len 32 s with
        | (s, some a) => (s, .at_ a)
        | (s, none) => (s, .no)

/-- Writes an image into device-pool granules (04 R105, R121). -/
def poolWrite (gs : List Nat) (img : List Byte) (s : State) : State :=
  let s := gs.foldl (fun s G => clearGranule G .pool false s) s
  (gs.zip (chunks gib gs.length img)).foldl (fun s p => hbmWrite (p.1 * gib) p.2 s) s

/-- Places an image for a slot and gives the slot its place. -/
def placeBase (n owner : Nat) (img : List Byte) : Space → State → State
  | .granules gs, s => modSlot n (fun m => { m with granules := gs }) (poolWrite gs img s)
  | .at_ a, s => modSlot n (fun m => { m with at_ := a }) (placeImage owner a img s)
  | _, s => s

/-! ### LOAD_BASE (R246) -/

/-- The slot that a load takes: the lowest EMPTY one, else the least recently used COLD one of the owner. -/
def takeSlot (s : State) (owner : Nat) : Option Nat :=
  match (List.range 32).find? (fun n => (tblGet s.gaz.slots n).isNone) with
  | some n => some n
  | none =>
    let cold := s.gaz.slots.filter (fun p => p.2.owner == owner && p.2.state == .cold)
    (cold.foldl (fun (best : Option (Nat × ModelSlot)) p => match best with
      | none => some p
      | some b => if p.2.lastUsed < b.2.lastUsed then some p else some b) none).map (·.1)

/-- The fields and keys of a load are as R246 asks: none, or the status. -/
def loadRefusal (s : State) (c : Cmd) : Option Nat :=
  let owner := c.q.owner
  let keyId := fld c.pb 24 8
  if 4 ≤ fld c.pb 18 1 ∨ (owner ≠ 16 ∧ fld c.pb 16 2 ≠ 0) ∨ fld c.pb 8 8 < 64 then some stInvalidField
  else if owner = 16 then (if keyId = 0 then none else some stNotPermitted)
  else if keyId = 0 then (if confCourt s owner then some stNotPermitted else none)
  else if (ownerKey s owner keyId false).isNone then some stKeyUnwrapFailed
  else none

/-- Claims a slot for a load: LOADING (R245, R246). -/
def claimModelSlot (c : Cmd) (n : Nat) (s : State) : State :=
  let s := emptySlot n s
  let m := { ModelSlot.fresh with state := .loading, owner := c.q.owner, via := c.via }
  modCmd c.q c.cid (fun c => { c with work := [n] }) { s with gaz.slots := tblSet s.gaz.slots n m }

/-- The plaintext of a base image under its KEY_ID, or the status (14 R455, R458). -/
def openBase (owner keyId : Nat) (img : List Byte) (s : State) : Except Nat (List Byte) × State :=
  if keyId = 0 then (.ok img, s) else openImage owner keyId img s

/-- The descriptor of a slot that has been loaded by a command. -/
def loadedSlot (c : Cmd) (m : ModelSlot) (stamp : Nat) (x : ModelSlot) : ModelSlot :=
  { x with state := .resident, access := if c.q.owner = 16 then fld c.pb 16 2 else 0, pin := bit (fld c.pb 18 1) 0,
           reloadable := bit (fld c.pb 18 1) 1, imageAddr := fld c.pb 0 8, imageLen := m.imageLen, keyId := fld c.pb 24 8,
           modelId := m.modelId, modelVersion := m.modelVersion, reservedExperts := m.reservedExperts,
           layers := m.layers, hash := m.hash, tensors := m.tensors, lastUsed := stamp }

/-- Frees space, copies the image and checks it (R246); `also` checks what REPLACE_BASE asks of the image. A wait
answers nothing; success gives the slot. -/
def loadSlot (c : Cmd) (n : Nat) (image : List Byte) (also : ModelSlot → Bool) (s : State) : State × Option (Except CmdEnd Unit) :=
  let owner := c.q.owner
  let fail (f : CmdEnd) (s : State) : State × Option (Except CmdEnd Unit) := (emptySlot n s, some (.error f))
  if image.length < fld c.pb 8 8 then fail (finSt stHostFault) s
  else match openBase owner (fld c.pb 24 8) (image.take (fld c.pb 8 8)) s with
    | (.error st, s) => fail (finSt st) s
    | (.ok img, s) => match baseRoom owner img.length (c.work.drop 2) (decide (2 ≤ c.work.length)) c.q c.cid s with
      | (s, .wait) => (s, none)
      | (s, .no) => fail (finSt stNoResource) s
      | (s, place) => match baseParse img with
        | none => fail (finSt stInvalidField) s
        | some m =>
          if !also m then fail (finSt stInvalidField) s
          else match s.gaz.slots.find? (fun p => p.1 != n && p.2.owner == owner && p.2.state != .loading &&
              p.2.modelId == m.modelId && p.2.modelVersion == m.modelVersion) with
            | some d => fail (finRes stStateConflict (natLe 1 d.1)) s
            | none =>
              let s := stampUp (placeBase n owner img place s)
              (modSlot n (loadedSlot c m s.gaz.stamp) s, some (.ok ()))

/-- Effect of LOAD_BASE. -/
def loadBaseBody (image : List Byte) (whole : Bool) (c : Cmd) (s : State) : State × Did :=
  let go (c : Cmd) (n : Nat) (s : State) : State × Did :=
    if !whole then (s, .stay)
    else match loadSlot c n image (fun _ => true) s with
      | (s, none) => (s, .stay)
      | (s, some (.error f)) => (s, .fin f)
      | (s, some (.ok _)) => (s, .fin (finRes stSuccess (natLe 1 n)))
  match c.work with
  | n :: _ => go c n s
  | [] => match loadRefusal s c with
    | some st => failWith s st
    | none => match takeSlot s c.q.owner with
      | none => failWith s stNoResource
      | some n => go { c with work := [n] } n (claimModelSlot c n s)

/-- LOAD_BASE (R246). -/
def execLoadBase (q : QId) (cid : Nat) (image : List Byte) (whole : Bool) (s : State) : Res :=
  .next (runCmd opLoadBase q cid (fun _ => 32) [(19, 5)] (loadBaseBody image whole) s)

/-! ### EVICT_BASE, PIN_BASE (R248) -/

/-- Whether an owner may name a slot: none, or the status (R193, R248). -/
def slotRefusal (s : State) (owner n : Nat) : Option Nat :=
  if 32 ≤ n then some stInvalidField
  else match tblGet s.gaz.slots n with
    | none => some stStateConflict
    | some m =>
      if owner = 16 then (if m.owner ≠ 16 then some stNotPermitted else if m.state = .loading then some stStateConflict else none)
      else if m.owner ≠ owner then some (if m.owner = 16 then stNotPermitted else stWrongCourt)
      else if m.state = .loading then some stStateConflict else none

/-- Effect of EVICT_BASE. -/
def evictBody (c : Cmd) (s : State) : State × Did :=
  let n := fld c.pb 0 1
  let forget := bit (fld c.pb 1 1) 0
  if 2 ≤ fld c.pb 1 1 then failWith s stInvalidField
  else match slotRefusal s c.q.owner n with
    | some st => failWith s st
    | none => match tblGet s.gaz.slots n with
      | none => failWith s stStateConflict
      | some m =>
        if m.refs ≠ 0 then failWith s stStateConflict
        else ((if m.state = .cold ∧ !forget then s else evictSlot n forget s), .fin (finSt stSuccess))

/-- EVICT_BASE (R248). -/
def execEvictBase (q : QId) (cid : Nat) (s : State) : Res :=
  .next (runCmd opEvictBase q cid (fun _ => 8) [(2, 6)] evictBody s)

/-- Effect of PIN_BASE. -/
def pinBaseBody (c : Cmd) (s : State) : State × Did :=
  let n := fld c.pb 0 1
  if 2 ≤ fld c.pb 1 1 then failWith s stInvalidField
  else match slotRefusal s c.q.owner n with
    | some st => failWith s st
    | none => (modSlot n (fun m => { m with pin := fld c.pb 1 1 == 1 }) s, .fin (finSt stSuccess))

/-- PIN_BASE (R248). -/
def execPinBase (q : QId) (cid : Nat) (s : State) : Res :=
  .next (runCmd opPinBase q cid (fun _ => 8) [(2, 6)] pinBaseBody s)

/-! ### REPLACE_BASE (R249) -/

/-- Adaptations READY on the old version without a contract become STALE_BASE (R249). -/
def staleOld (old : ModelSlot) (s : State) : State :=
  { s with gaz.entries := s.gaz.entries.map (fun (p : Nat × GazEntry) =>
      if p.2.state == .ready && p.2.modelId == old.modelId && p.2.modelVersion == old.modelVersion && !underContract p.2 &&
        (handleOwner s p.1).any (fun c => slotFor old c) then (p.1, { p.2 with state := .stale }) else p) }

/-- The new version takes over from the old one at retirement (R249). -/
def supersede (new old : Nat) (s : State) : State := match tblGet s.gaz.slots old with
  | none => s
  | some m =>
    let s := modSlot new (fun x => { x with owner := m.owner, access := m.access, pin := m.pin }) s
    let s := modSlot old (fun x => { x with state := .draining, replacedBy := some new }) s
    sweepSlots (staleOld m s)

/-- The old slot of a REPLACE_BASE can be superseded: none, or the status. -/
def oldRefusal (s : State) (owner n : Nat) : Option Nat := match slotRefusal s owner n with
  | some st => some st
  | none => match tblGet s.gaz.slots n with
    | some m => if m.state = .draining then some stStateConflict else none
    | none => some stStateConflict

/-- Effect of REPLACE_BASE. -/
def replaceBaseBody (image : List Byte) (whole : Bool) (c : Cmd) (s : State) : State × Did :=
  let old := fld c.pb 19 1
  let go (c : Cmd) (n : Nat) (s : State) : State × Did :=
    if !whole then (s, .stay)
    else match oldRefusal s c.q.owner old with
      | some st => failWith (emptySlot n s) st
      | none => match tblGet s.gaz.slots old with
        | none => failWith (emptySlot n s) stStateConflict
        | some m => match loadSlot c n image (fun x => x.modelId == m.modelId && x.modelVersion != m.modelVersion) s with
          | (s, none) => (s, .stay)
          | (s, some (.error f)) => (s, .fin f)
          | (s, some (.ok _)) => (supersede n old s, .fin (finRes stSuccess (natLe 1 n)))
  match c.work with
  | n :: _ => go c n s
  | [] => match loadRefusal s c with
    | some st => failWith s st
    | none => match oldRefusal s c.q.owner old with
      | some st => failWith s st
      | none => match takeSlot { s with gaz.slots := tblModify s.gaz.slots old (fun m => { m with state := .resident }) } c.q.owner with
        | none => failWith s stNoResource
        | some n => go { c with work := [n] } n (claimModelSlot c n s)

/-- REPLACE_BASE (R249). -/
def execReplaceBase (q : QId) (cid : Nat) (image : List Byte) (whole : Bool) (s : State) : Res :=
  .next (runCmd opReplaceBase q cid (fun _ => 32) [(20, 4)] (replaceBaseBody image whole) s)

/-! ### Reload of a COLD base (R247) -/

/-- A reload has failed: the use that waits takes the status up, and the slot then stays COLD or, for an image that fails a
check or differs, becomes EMPTY (R247). -/
def reloadFailed (n st : Nat) (s : State) : State :=
  modSlot n (fun m => { m with wanted := false, reloadFail := some st, granules := [] }) s

/-- Effect of a reload with the image as read. -/
def reloadSlot (n : Nat) (m : ModelSlot) (image : List Byte) (s : State) : State :=
  let len := slotHostLen m
  if image.length < len then reloadFailed n stHostFault s
  else match openBase m.owner m.keyId (image.take len) s with
    | (.error st, s) =>
      if (ownerKey s m.owner m.keyId false).isNone then reloadFailed n st s else reloadFailed n stStateConflict s
    | (.ok img, s) => match baseRoom m.owner img.length m.granules (m.granules != []) ⟨16, 64⟩ n s with
      | (s, .wait) => s
      | (s, .no) => reloadFailed n stNoResource s
      | (s, place) => match baseParse img with
        | none => reloadFailed n stStateConflict s
        | some x =>
          if x.modelId ≠ m.modelId ∨ x.modelVersion ≠ m.modelVersion ∨ x.hash ≠ m.hash then reloadFailed n stStateConflict s
          else modSlot n (fun m => { m with state := .resident, wanted := false, reloadFail := none }) (placeBase n m.owner img place s)

/-- BASE_RELOAD: a COLD base that a use waits for is reloaded from IMAGE_ADDR (R247). -/
def execBaseReload (slot : Nat) (image : List Byte) (s : State) : Res :=
  .next (match tblGet s.gaz.slots slot with
    | none => s
    | some m => if m.state = .cold ∧ m.wanted ∧ s.sq.ready ∧ hostReads s m.via then reloadSlot slot m image s else s)

end Sys2Proof.Machine
end

