-- ==== Sys2Proof/Machine/Packages.lean ====
section
/-! DEFINITION. Graph packages, runs, semaphore and DMA commands, counters
(spec/05_work_orders.md R137 to R142, R548 to R552; spec/06_command_protocol.md R197 to R200;
spec/13_placement_and_scheduling.md R420, R438; spec/04_memory_system.md R132; spec/16_power_reset_boot.md R521). -/

namespace Sys2Proof.Machine

/-! ### Package images (R137 to R141) -/

/-- A section: kind, offset, length. -/
structure PkgSec where
  kind : Nat
  off : Nat
  len : Nat
  deriving DecidableEq, Repr

/-- The section directory (R138). -/
def pkgSecs (img : List Byte) : List PkgSec :=
  (List.range (fld img 6 2)).map (fun i => ⟨fld img (64 + 16 * i) 2, fld img (72 + 16 * i) 8, fld img (68 + 16 * i) 4⟩)

/-- The section of a kind. -/
def secOf (l : List PkgSec) (k : Nat) : Option PkgSec := l.find? (fun e => e.kind == k)

/-- The directory is well formed (R138). -/
def dirOk (img : List Byte) (l : List PkgSec) : Bool :=
  let dend := 64 + 16 * l.length
  decide (1 ≤ l.length) && decide (l.length ≤ 4) && decide (dend ≤ img.length) && (secOf l 1).isSome &&
  (List.range l.length).all (fun i => zeroFld img (66 + 16 * i) 2) &&
  (l.map (·.kind)).eraseDups.length == l.length &&
  l.all (fun e => decide (1 ≤ e.kind) && decide (e.kind ≤ 4) && e.off % 128 == 0 && decide (dend ≤ e.off) &&
    decide (e.off + e.len ≤ img.length)) &&
  l.zipIdx.all (fun a => l.zipIdx.all (fun b =>
    a.2 == b.2 || decide (a.1.off + a.1.len ≤ b.1.off) || decide (b.1.off + b.1.len ≤ a.1.off)))

/-- PACKAGE_HASH of the image (R137). -/
def pkgHash (img : List Byte) (l : List PkgSec) : List Byte :=
  sha256 (slice img 64 (16 * l.length) ++ ((l.filter (fun e => e.kind != 4)).map (fun e => slice img e.off e.len)).flatten)

/-- The stream table, with offsets counted from the start of the image (R140). -/
def pkgStreams (img : List Byte) (sec : PkgSec) (n : Nat) : List PkgStream :=
  (List.range n).map (fun i =>
    let o := sec.off + 16 * i
    ⟨fld img o 1 == 1, fld img (o + 2) 2, fld img (o + 4) 4, sec.off + fld img (o + 8) 8⟩)

/-- The work orders follow the table, contiguous and in stream order, from offset `pos` on (R140). -/
def streamsFollow (base hi : Nat) : Nat → Bool → List PkgStream → Bool
  | _, _, [] => true
  | pos, first, t :: r =>
    (if first then decide (base + pos ≤ t.at_) else t.at_ == base + pos) && decide (t.at_ + 128 * t.count ≤ base + hi) &&
    streamsFollow base hi (t.at_ - base + 128 * t.count) false r

/-- The STREAMS section is as R140 asks. -/
def streamsOk (img : List Byte) (sec : PkgSec) (n : Nat) : Bool :=
  decide (16 * n ≤ sec.len) &&
  (List.range n).all (fun i =>
    let o := sec.off + 16 * i
    decide (fld img o 1 ≤ 1) && zeroFld img (o + 1) 1 && (fld img o 1 == 1 || zeroFld img (o + 2) 2) &&
    decide (1 ≤ fld img (o + 4) 4) && decide (fld img (o + 4) 4 ≤ 16777215) && fld img (o + 8) 8 % 128 == 0) &&
  streamsFollow sec.off sec.len (16 * n) true (pkgStreams img sec n)

/-- The symbol table (R141). -/
def pkgSymbols (img : List Byte) (sec : Option PkgSec) : List PkgSymbol := match sec with
  | none => []
  | some e => (List.range (e.len / 32)).map (fun i =>
      let o := e.off + 32 * i
      ⟨fld img (o + 24) 8, fld img o 4, bit (fld img (o + 4) 4) 0, fld img (o + 8) 8, fld img (o + 16) 8⟩)

/-- The SYMBOLS section is as R141 asks. -/
def symbolsOk (img : List Byte) (sec : Option PkgSec) (n : Nat) : Bool :=
  ((sec.map (·.len)).getD 0) == 32 * n &&
  (match sec with
  | none => true
  | some e => (List.range n).all (fun i =>
      let o := e.off + 32 * i
      let kind := fld img o 4
      decide (1 ≤ kind) && decide (kind ≤ 4) && decide (fld img (o + 4) 4 ≤ 1) &&
      (kind != 2 || zeroFld img (o + 16) 8) &&
      (kind != 3 || (zeroFld img (o + 21) 3 && decide (1 ≤ fld img (o + 18) 1) && decide (fld img (o + 18) 1 ≤ 5)))))

/-- The package contains a VIADUCT_PAIR (R137). -/
def hasPair (img : List Byte) (ts : List PkgStream) : Bool :=
  ts.any (fun t => (List.range t.count).any (fun j => fld img (t.at_ + 128 * j) 1 == 9))

/-- A package as its image gives it, with addresses counted from the start of the image; none where it is malformed
(R137, R138, R140, R141, R197). -/
def pkgParse (img : List Byte) : Option Package :=
  let l := pkgSecs img
  let ns := fld img 8 2
  if 64 ≤ img.length ∧ fld img 0 4 = 0x4B504855 ∧ fld img 4 2 = 1 ∧ 1 ≤ ns ∧ ns ≤ 4096 ∧ fld img 10 2 ≤ 4096 ∧
      fld img 12 4 ≤ 1048576 ∧ zeroFld img 18 2 ∧ dirOk img l ∧ pkgHash img l = slice img 32 32 ∧
      fld img 24 8 = ((secOf l 2).map (·.len)).getD 0 ∧ symbolsOk img (secOf l 3) (fld img 12 4) then
    match secOf l 1 with
    | none => none
    | some st =>
      let ts := pkgStreams img st ns
      if streamsOk img st ns ∧ (!hasPair img ts ∨ 2 ≤ fld img 16 2) then
        some { court := 0, placeAt := 0, len := img.length, sems := fld img 10 2, minBlocks := fld img 16 2, streams := ts,
               symbols := pkgSymbols img (secOf l 3), constAt := ((secOf l 2).map (·.off)).getD 0, constLen := fld img 24 8,
               hash := slice img 32 32, signer := none }
      else none
  else none

/-- FEATURES of the device (00 R4). -/
abbrev featureBits : Nat := 0x7F

/-- KEY_ID of the signer whose signature over PACKAGE_HASH verifies, if there is one (R139; 14 R459). -/
def pkgSigner (s : State) (court : Nat) (img : List Byte) : Option Nat :=
  match secOf (pkgSecs img) 4 with
  | none => none
  | some e =>
    let id := fld img (e.off + 8) 8
    if e.len = 7872 ∧ fld img e.off 2 = 1 ∧ zeroFld img (e.off + 2) 6 then
      match (signersOf s court).find? (fun pk => keyIdOf pk == id) with
      | none => none
      | some pk => if Config.slhVerify pk (slice img 32 32) (slice img (e.off + 16) 7856) then some id else none
    else none

/-- The package with its addresses in the Court's memory. -/
def placePkg (court at_ : Nat) (signer : Option Nat) (p : Package) : Package :=
  let moved := p.streams.map (fun (t : PkgStream) => { t with at_ := at_ + t.at_ })
  { p with court := court, placeAt := at_, streams := moved, constAt := at_ + p.constAt, signer := signer }

/-- The lowest free package handle of a Court; a Court holds at most 64 (R197). -/
def freePkg (s : State) (court : Nat) : Option Nat :=
  ((List.range 64).map (fun k => 1 + 64 * court + k)).find? (fun h => (tblGet s.pkgs h).isNone)

/-- The plaintext of what the host supplies under a purpose: sealed for a confidential Court; none when it fails
authentication, with its SEAL_FAIL record (14 R454, R455). -/
def fromHost (c : Cmd) (purpose binding : Nat) (b : List Byte) (s : State) : Option (List Byte) × State :=
  if confCourt s c.q.owner then
    let o := openHost s c.q.owner c.kt b purpose binding
    match o.fail with
    | some i => (none, sealFail c.q.owner purpose i s)
    | none => (some o.plain, s)
  else (some b, s)

/-- The checks of a package against the Court, in the order R197 lists them: none, or the status. -/
def pkgRefusal (s : State) (k : Court) (court at_ : Nat) (want : Bool) (img : List Byte) (p : Package) : Option Nat :=
  if featureBits < fld img 20 4 then some stNotSupported
  else if k.blocks.length < p.minBlocks then some stNoResource
  else if (want || k.signed) && (pkgSigner s court img).isNone then some stSignatureFailed
  else if (freePkg s court).isNone then some stLimitExceeded
  else if !courtRangeOk k at_ img.length then some stAddressFault
  else none

/-- Effect of LOAD_PACKAGE. -/
def loadPackageBody (image : List Byte) (c : Cmd) (s : State) : State × Did :=
  let court := c.q.owner
  let at_ := fld c.pb 16 8
  let len := fld c.pb 8 8
  if 2 ≤ fld c.pb 24 4 ∨ at_ % 128 ≠ 0 then failWith s stInvalidField
  else if image.length < len then failWith s stHostFault
  else match fromHost c sealPackage 0 (image.take len) s with
    | (none, s) => failWith s stMemoryError
    | (some img, s) => match pkgParse img, courtOf s court with
      | some p, some k => match pkgRefusal s k court at_ (bit (fld c.pb 24 4) 0) img p with
        | some st => failWith s st
        | none =>
          let h := (freePkg s court).getD 0
          let s := courtWrite k at_ img s
          ({ s with pkgs := tblSet s.pkgs h (placePkg court at_ (pkgSigner s court img) p) }, .fin (finRes stSuccess (natLe 4 h)))
      | _, _ => failWith s stInvalidField

/-- LOAD_PACKAGE (R197). -/
def execLoadPackage (q : QId) (cid : Nat) (image : List Byte) (s : State) : Res :=
  .next (runCmd opLoadPackage q cid (fun _ => 32) [(28, 4)] (loadPackageBody image) s)

/-- The package that a handle names in a Court (R550). -/
def pkgOf (s : State) (court h : Nat) : Option Package := match tblGet s.pkgs h with
  | some p => if p.court = court then some p else none
  | none => none

/-- An unretired command uses the package: a run, a step whose PLAN names it, or a sequence (R549). -/
def pkgUsed (s : State) (h : Nat) : Bool :=
  s.runs.any (fun p => p.2.pkg == h) ||
  s.cmd.cmds.any (fun c => c.started && (c.opcode == opRun || c.opcode == opStep || c.opcode == opDistilStep || c.opcode == opServe) &&
    (pkgOf s c.q.owner h).isSome && fld c.pb 0 4 == h)

/-- Effect of UNLOAD_PACKAGE. -/
def unloadBody (c : Cmd) (s : State) : State × Did :=
  let h := fld c.pb 0 4
  if (pkgOf s c.q.owner h).isNone then failWith s stInvalidField
  else if pkgUsed s h then failWith s stStateConflict
  else ({ s with pkgs := tblErase s.pkgs h }, .fin (finSt stSuccess))

/-- UNLOAD_PACKAGE (R549). -/
def execUnloadPackage (q : QId) (cid : Nat) (s : State) : Res :=
  .next (runCmd opUnloadPackage q cid (fun _ => 8) [(4, 4)] unloadBody s)

/-! ### Resolving symbols (R142) -/

/-- What a use resolves its symbols against. -/
structure SymEnv where
  court : Nat
  pkg : Package
  /-- address of the buffer of a symbol -/
  bufs : List (Nat × Nat)
  /-- factor on the bytes that a buffer must cover (08 R252) -/
  factor : Nat
  /-- handle of each binding -/
  handles : List Nat
  /-- bound model slot -/
  base : Option Nat

/-- The part of a version that an ADAPTER symbol names (R142). -/
def symPart (v : AdVersion) (layer part proj : Nat) : Option AdPart :=
  v.parts.find? (fun p => p.layer == layer && p.part == part && (part == 5 || p.proj == proj))

/-- What a symbol resolves to, with the bytes covered; none where it cannot be resolved (R142). -/
def resolveOne (s : State) (e : SymEnv) (i : Nat) (y : PkgSymbol) : Option SymRange :=
  let fits (at_ size : Nat) (slot : Option Nat) : Option SymRange := if y.size ≤ size then some ⟨at_, y.size, y.writable, slot⟩ else none
  match y.kind with
  | 1 => if y.value ≤ e.pkg.constLen then fits (e.pkg.constAt + y.value) (e.pkg.constLen - y.value) none else none
  | 2 => match e.bufs.find? (fun b => b.1 == i), courtOf s e.court with
    | some b, some k => if courtRangeOk k b.2 (y.size * e.factor) then some ⟨b.2, y.size * e.factor, y.writable, none⟩ else none
    | _, _ => none
  | 3 => match e.handles[bits y.value 31 24]? with
    | none => none
    | some h => match (entryOf s h).cur with
      | none => none
      | some v => (symPart v (bits y.value 15 0) (bits y.value 23 16) (bits y.value 39 32)).bind (fun p =>
          fits (v.poolAt.getD 0 + p.off) p.len none)
  | 4 => match e.base.bind (fun n => (tblGet s.gaz.slots n).map (fun m => (n, m))) with
    | none => none
    | some (n, m) => match m.tensors[y.value]? with
      | none => none
      | some t => if m.owner = 16 then fits t.off (tensorLen t) (some n) else fits (m.at_ + t.off) (tensorLen t) none
  | _ => none

/-- Every symbol resolved, or the index of the first that cannot be (R142). -/
def resolveSyms (s : State) (e : SymEnv) : Except Nat (List SymRange) :=
  e.pkg.symbols.zipIdx.foldl (fun acc p => match acc with
    | .error i => .error i
    | .ok l => match resolveOne s e p.2 p.1 with
      | some r => .ok (l ++ [r])
      | none => .error p.2) (.ok [])

/-- The first binding that is refused: its index and the status (R142). -/
def firstBadBinding (s : State) (court : Nat) (hs : List Nat) : Option (Nat × Nat) :=
  hs.zipIdx.findSome? (fun p => (bindCheck s court p.1).map (fun st => (p.2, st)))

/-- Asks for the cold versions and COLD bases of several uses (R142; 07 R224, R247). -/
def demandAll (hs : List Nat) : List Nat → State → State × Ready
  | [], s => demand hs none s
  | n :: t, s => match demand [] (some n) s with
    | (s, .fail st) => (s, .fail st)
    | (s, .wait) => match demandAll hs t s with
      | (s, .fail st) => (s, .fail st)
      | (s, _) => (s, .wait)
    | (s, .ok) => demandAll hs t s

/-- The slots that the bound handles stand on. -/
def handleSlots (s : State) (court : Nat) (hs : List Nat) : List Nat :=
  (hs.filterMap (fun h => findSlot s court (entryOf s h).modelId (entryOf s h).modelVersion)).eraseDups

/-- A stream of a run that has just been admitted (R140, R150). -/
def RunStream.fresh (express : Bool) (tag count at_ : Nat) : RunStream :=
  { express := express, ttTag := tag, count := count, at_ := at_, derived := [],
    via := ⟨false, 0, 0, 0, 0⟩, next := 0, head := .blocked, chain := [], chainSince := 0, held := [], heldSince := 0,
    saved := [], preempted := false }

/-- Admits a run: it takes the next number and its streams begin (R142, R150). -/
def admitRun (k : Run) (s : State) : State :=
  settle { s with runs := tblSet s.runs s.nextRun k, nextRun := s.nextRun + 1 }

/-! ### RUN (06 R198, R199) -/

/-- Bytes of a RUN's parameter block. -/
def runLay (c : Cmd) : Nat := 40 + 16 * fld c.pb 20 2 + 4 * fld c.pb 22 2 + 16

/-- The buffer entries of a RUN. -/
def runBufs (pb : List Byte) : List (Nat × Nat) :=
  (List.range (fld pb 20 2)).map (fun i => (fld pb (40 + 16 * i) 4, fld pb (48 + 16 * i) 8))

/-- The bindings of a RUN. -/
def runHandles (pb : List Byte) : List Nat :=
  (List.range (fld pb 22 2)).map (fun i => fld pb (40 + 16 * fld pb 20 2 + 4 * i) 2)

/-- The fields of a RUN are as R198 and R548 ask. -/
def runFieldsOk (pb : List Byte) : Bool :=
  let bs := runBufs pb
  decide (fld pb 20 2 ≤ 4096) && decide (fld pb 22 2 ≤ 256) && fld pb 8 8 % 16 == 0 &&
  (bs.map (·.1)).eraseDups.length == bs.length &&
  (List.range bs.length).all (fun i => zeroFld pb (44 + 16 * i) 4) &&
  (List.range (fld pb 22 2)).all (fun i => zeroFld pb (42 + 16 * bs.length + 4 * i) 2) &&
  (fld pb 6 2 == 0xFFFF || decide (fld pb 6 2 < 32))

/-- The slot that a RUN's BASE_SLOT binds: none where it names none or one that the Court cannot use, so that its BASE
symbols stay unresolved (R142; 07 R245, R249). -/
def runBase (s : State) (court n : Nat) (hs : List Nat) : Except Nat (Option Nat) :=
  if n = 0xFFFF then .ok none
  else match tblGet s.gaz.slots n with
    | none => .ok none
    | some m =>
      if !slotFor m court ∨ m.state = .loading then .ok none
      else match bindSlot s court n hs with
        | .ok r => .ok (some r)
        | .error st => .error st

/-- A run of the command is admitted. -/
def runOfCmd (s : State) (c : Cmd) : Option Nat := (s.runs.find? (fun p => p.2.owner == .cmd c.q c.cid)).map (·.1)

/-- Effect of RUN. -/
def runBody (c : Cmd) (s : State) : State × Did :=
  let court := c.q.owner
  let hs := runHandles c.pb
  if (runOfCmd s c).isSome then (s, .stay)
  else if !runFieldsOk c.pb then failWith s stInvalidField
  else match pkgOf s court (fld c.pb 0 4), courtOf s court with
    | some p, some k =>
      if 4096 < fld c.pb 4 2 + p.sems then failWith s stInvalidField
      else if !courtRangeOk k (fld c.pb 8 8) (16 * fld c.pb 16 4) then failWith s stAddressFault
      else match firstBadBinding s court hs with
        | some (i, st) => (s, .fin (finRes st (natLe 4 i)))
        | none => match runBase s court (fld c.pb 6 2) hs with
          | .error st => failWith s st
          | .ok base =>
            let e : SymEnv := ⟨court, p, runBufs c.pb, 1, hs, base⟩
            match resolveSyms s e with
            | .error i => (s, .fin (finRes stSymbolUnresolved (natLe 4 i)))
            | .ok _ => match demandAll hs (base.toList ++ handleSlots s court hs).eraseDups s with
              | (s, .fail st) => failWith s st
              | (s, .wait) => (s, .stay)
              | (s, .ok) => match resolveSyms s e with
                | .error i => (s, .fin (finRes stSymbolUnresolved (natLe 4 i)))
                | .ok ys =>
                  let b := bindAll hs base s
                  (admitRun { owner := .cmd c.q c.cid, court := court, pkg := fld c.pb 0 4, semBase := fld c.pb 4 2,
                              baseSlot := base.getD 0xFFFF, statusAt := fld c.pb 8 8, statusEntries := fld c.pb 16 4,
                              step := fld c.pb 24 8, symbols := ys, bindings := b.1,
                              streams := p.streams.map (fun t => RunStream.fresh t.express t.ttTag t.count t.at_),
                              retired := 0 } b.2, .stay)
    | _, _ => failWith s stInvalidField

/-- RUN (06 R198). -/
def execRun (q : QId) (cid : Nat) (s : State) : Res :=
  .next (runCmd opRun q cid runLay [(32, 8)] runBody s)

/-! ### SET_SEMAPHORE, DMA (06 R200) -/

/-- A stream of an unretired run holds an amount of a Court semaphore. -/
def semHeld (s : State) (court i : Nat) : Bool :=
  s.runs.any (fun p => p.2.court == court && p.2.streams.any (fun t => tblGetD t.held i 0 != 0))

/-- Effect of SET_SEMAPHORE. -/
def setSemBody (c : Cmd) (s : State) : State × Did :=
  let i := fld c.pb 0 2
  if 4096 ≤ i then failWith s stInvalidField
  else if semHeld s c.q.owner i then failWith s stStateConflict
  else (settle (serveWaiters (semSet c.q.owner i (fld c.pb 4 4) s)), .fin (finSt stSuccess))

/-- SET_SEMAPHORE (06 R200). -/
def execSetSemaphore (q : QId) (cid : Nat) (s : State) : Res :=
  .next (runCmd opSetSemaphore q cid (fun _ => 8) [(2, 2)] setSemBody s)

/-- The fields of a DMA command are in range: none, or the status (06 R200; 04 R104). -/
def dmaRefusal (s : State) (c : Cmd) : Option Nat :=
  let len := fld c.pb 16 8
  if len = 0 ∨ 2 ^ 40 < len ∨ 3 ≤ fld c.pb 24 1 then some stInvalidField
  else match courtOf s c.q.owner with
    | none => some stCourtNotReady
    | some k => if courtRangeOk k (fld c.pb 8 8) len then none else some stAddressFault

/-- Notes how far a DMA command has come. -/
def dmaAt (c : Cmd) (n : Nat) (s : State) : State × Did :=
  if fld c.pb 16 8 ≤ n then (s, .fin (finSt stSuccess))
  else (modCmd c.q c.cid (fun c => { c with progress := n }) s, .stay)

/-- Effect of DMA_WRITE with the next host bytes it reads. -/
def dmaWriteBody (data : List Byte) (mem : Findings) (c : Cmd) (s : State) : State × Did :=
  let len := fld c.pb 16 8
  let at_ := fld c.pb 8 8
  match dmaRefusal s c, courtOf s c.q.owner with
  | some st, _ => failWith s st
  | none, none => failWith s stCourtNotReady
  | none, some k =>
    let s := (applyFindings false mem s).s
    if k.conf then
      if data.length < sealedLen len then (s, .stay)
      else
        let o := openHost s c.q.owner c.kt (data.take (sealedLen len)) sealData at_
        let s := courtWrite k at_ (o.plain.take len) s
        match o.fail with
        | some i => failWith (sealFail c.q.owner sealData i s) stMemoryError
        | none => if o.plain.length = len then (s, .fin (finSt stSuccess)) else failWith (sealFail c.q.owner sealData 0 s) stMemoryError
    else
      let part := data.take (len - c.progress)
      dmaAt c (c.progress + part.length) (courtWrite k (at_ + c.progress) part s)

/-- DMA_WRITE (06 R200, R205; 14 R454, R455). -/
def dmaWriteRow (q : QId) (cid : Nat) (data : List Byte) (mem : Findings) (s : State) : Res :=
  .next (runCmd opDmaWrite q cid (fun _ => 32) [(25, 7)] (dmaWriteBody data mem) s)

/-- Bytes of a Court range before its first line that delivers poison. -/
def cleanLen (s : State) (k : Court) (bad : List Nat) (at_ len : Nat) : Nat :=
  match (List.range ((at_ + len + 63) / 64 - at_ / 64)).find? (fun i => (courtPoisoned s k bad (lineOf at_ + 64 * i) 64).isSome) with
  | none => len
  | some i => min len (lineOf at_ + 64 * i - at_)

/-- Effect of DMA_READ of the next `n` bytes. -/
def dmaReadBody (n : Nat) (mem : Findings) (c : Cmd) (s : State) : State × Did :=
  let len := fld c.pb 16 8
  let at_ := fld c.pb 8 8
  match dmaRefusal s c, courtOf s c.q.owner with
  | some st, _ => failWith s st
  | none, none => failWith s stCourtNotReady
  | none, some k =>
    if !fnWrites s c.via then (s, .stay)
    else
    let f := applyFindings false mem s
    let s := f.s
    let used (a m : Nat) (s : State) : State := if fld c.pb 24 1 = 2 then courtLastUse k a m s else s
    if k.conf then
      if n < len then (s, .stay)
      else match courtPoisoned s k f.bad at_ len with
        | some l => failWith (poisonRead (some l) s) stMemoryError
        | none =>
          let p := sealHost c.q.owner c.kt sealData at_ (courtRead s k at_ len) s
          (used at_ len (hostWrite c.via (fld c.pb 0 8) p.1 p.2), .fin (finSt stSuccess))
    else
      let a := at_ + c.progress
      let m := min n (len - c.progress)
      let ok := cleanLen s k f.bad a m
      let s' := if ok = 0 then s else used a ok (hostWrite c.via (fld c.pb 0 8 + c.progress) (courtRead s k a ok) s)
      if ok < m then failWith (poisonRead (courtPoisoned s k f.bad a m) s') stMemoryError
      else dmaAt c (c.progress + m) s'

/-- DMA_READ (06 R200, R205; 04 R123; 14 R453). -/
def dmaReadRow (q : QId) (cid : Nat) (len : Nat) (mem : Findings) (s : State) : Res :=
  .next (runCmd opDmaRead q cid (fun _ => 32) [(25, 7)] (dmaReadBody len mem) s)

/-! ### READ_COUNTERS (06 R200; 13 R438; 16 R521) -/

/-- SCOPE 1: a record of 144 bytes for each Block of the Court (03 R101; 06 R200). -/
def stallRecords (s : State) (k : Court) : List Byte :=
  (k.blocks.map (fun g =>
    let vals := ((physOf s g).bind (fun b => tblGet s.smp.counters b)).getD []
    natLe 2 g ++ zeros 6 ++ padTo 136 ((vals.map (natLe 8)).flatten))).flatten

/-- Effect of READ_COUNTERS. -/
def readCountersBody (c : Cmd) (s : State) : State × Did :=
  let scope := fld c.pb 0 1
  let court := if c.q.owner = 16 then fld c.pb 1 1 else c.q.owner
  let words (l : List Nat) : State × Did := (s, .fin (finReply ((l.map (natLe 8)).flatten)))
  if 4 ≤ scope then failWith s stInvalidField
  else if scope = 3 then
    (if c.q.owner = 16 then words (s.smp.throttle ++ List.replicate (4 - s.smp.throttle.length) 0 ++ [s.smp.at_])
    else failWith s stNotPermitted)
  else if scope = 1 ∧ anyConf s then failWith s stNotPermitted
  else if 16 ≤ court then failWith s stInvalidField
  else if !ownerReady s court then failWith s stCourtNotReady
  else match courtOf s court with
    | none => failWith s stCourtNotReady
    | some k =>
      if scope = 0 then words [k.satCount, k.nonfinCount, s.sq.time]
      else if scope = 2 then words [k.slotLate, k.slotOverrun, k.slotShort, s.sq.time]
      else (s, .fin (finReply (stallRecords s k)))

/-- READ_COUNTERS (06 R200). -/
def execReadCounters (q : QId) (cid : Nat) (s : State) : Res :=
  .next (runCmd opReadCounters q cid (fun _ => 24) [(2, 6)] readCountersBody s)

/-! ### Maintenance (04 R132; 13 R420) -/

/-- Effect of SET_MAPOUT_RESERVE. -/
def setReserveBody (c : Cmd) (s : State) : State × Did :=
  let r := fld c.pb 0 1
  if r % 3 ≠ 0 ∨ 48 < r then failWith s stInvalidField
  else ({ s with mem.reserve := r }, .fin (finSt stSuccess))

/-- SET_MAPOUT_RESERVE (13 R420). -/
def execSetMapoutReserve (q : QId) (cid : Nat) (s : State) : Res :=
  .next (runCmd opSetMapoutReserve q cid (fun _ => 8) [(1, 7)] setReserveBody s)

/-- CLEAR_REPAIR_LIST: the list in flash is emptied; the slots mapped out stay so until the next cold boot (04 R132). -/
def execClearRepairList (q : QId) (cid : Nat) (s : State) : Res :=
  .next (runCmd opClearRepairList q cid (fun _ => 0) [] (fun _ s => ({ s with mem.repair := [] }, .fin (finSt stSuccess))) s)

end Sys2Proof.Machine
end

