-- ==== Sys2Proof/Machine/Groups.lean ====
section
/-! DEFINITION. Collective groups: members, ranks, routes inside a group, frames, formation, homes, DISSOLVE_GROUP and
GROUP_STATUS (spec/10_collective_reduction.md R325 to R333, R336, R337, R340, R347; spec/14 R461). -/

namespace Sys2Proof.Machine

/-! ### Groups and their fields (R325 to R327) -/

/-- A group by its key. -/
def grpOf (s : State) (key : Nat) : Option Group := tblGet s.grps key

/-- Changes a group. -/
def modGrp (key : Nat) (f : Group → Group) (s : State) : State := { s with grps := tblModify s.grps key f }

/-- The open or held step of a group. -/
def stepOf (s : State) (key : Nat) : Option (Group × TrainStep) :=
  (grpOf s key).bind (fun g => g.step.map (fun t => (g, t)))

/-- Changes the step of a group. -/
def modStep (key : Nat) (f : TrainStep → TrainStep) (s : State) : State :=
  modGrp key (fun g => { g with step := g.step.map f }) s

/-- Changes a bucket of a group's step. -/
def modBucket (key b : Nat) (f : BucketRun → BucketRun) (s : State) : State :=
  modStep key (fun t => { t with buckets := tblModify t.buckets b f }) s

/-- Changes a shard of a group's step, by its position. -/
def modShard (key i : Nat) (f : ShardRun → ShardRun) (s : State) : State :=
  modStep key (fun t => { t with shards := t.shards.modify i f }) s

/-- Court of a group's key. -/
def grpCourt (key : Nat) : Nat := key / 65536

/-- FABRIC_TAG (R327). -/
def grpTag (pb : List Byte) : Nat := fld pb 4 4
/-- BUCKETS (R327). -/
def grpBuckets (pb : List Byte) : Nat := fld pb 22 2
/-- SHARDS (R327). -/
def grpShards (pb : List Byte) : Nat := fld pb 24 4
/-- WINDOW (R327). -/
def grpWindow (pb : List Byte) : Nat := fld pb 3 1
/-- The helpers (R327). -/
def grpHelpers (pb : List Byte) : List Nat := (List.range (fld pb 20 2)).map (fun i => fld pb (64 + 2 * i) 2)

/-- CLASS of a bucket (R327). -/
def bucketClass (pb : List Byte) (b : Nat) : Nat := fld pb (bucketsAt pb + 8 * b + 4) 1

/-- Canonical rank of a member (R326). -/
def rankOf (pb : List Byte) (addr : Nat) : Nat :=
  relCoord pb addr 3 * 4096 + relCoord pb addr 2 * 256 + relCoord pb addr 1 * 16 + relCoord pb addr 0

/-- The device at given relative coordinates, packed as a rank is (R326). -/
def addrOf (pb : List Byte) (rank : Nat) : Nat :=
  ((List.range 4).map (fun i => (rank / 16 ^ i % 16 + fld pb 16 2 / 16 ^ i % 16) % 16 * 16 ^ i)).sum

/-- Number of box members. -/
def boxCount (pb : List Byte) : Nat := boxN pb 0 * boxN pb 1 * boxN pb 2 * boxN pb 3

/-- Ranks of the box members, ascending. -/
def boxRanks (pb : List Byte) : List Nat :=
  (List.range (boxN pb 3)).flatMap (fun d => (List.range (boxN pb 2)).flatMap (fun c =>
    (List.range (boxN pb 1)).flatMap (fun b => (List.range (boxN pb 0)).map (fun a => d * 4096 + c * 256 + b * 16 + a))))

/-- Members of a group (R325). -/
def memberCount (pb : List Byte) : Nat := boxCount pb + fld pb 20 2

/-- Every member's device address: the box in rank order, then the helpers. -/
def memberAddrs (pb : List Byte) : List Nat := (boxRanks pb).map (addrOf pb) ++ grpHelpers pb

/-- The terminal's device address (R326). -/
def terminalOf (pb : List Byte) : Nat :=
  addrOf pb ((boxN pb 3 - 1) * 4096 + (boxN pb 2 - 1) * 256 + (boxN pb 1 - 1) * 16 + (boxN pb 0 - 1))

/-- Address of the lowest-ranked box member. -/
def firstOf (pb : List Byte) : Nat := addrOf pb 0

/-- The device is a member. -/
def isMember (pb : List Byte) (addr : Nat) : Bool := inBox pb addr || (grpHelpers pb).contains addr

/-! ### Routes inside the box (R340, R347) -/

/-- The member one step along a dimension; `plus` is the direction of rising coordinates. -/
def boxStep (pb : List Byte) (addr i : Nat) (plus : Bool) : Nat :=
  let r := relCoord pb addr i
  let r' := if plus then (r + 1) % 16 else (r + 15) % 16
  addrOf pb (rankOf pb addr - r * 16 ^ i + r' * 16 ^ i)

/-- The member reached by one step from `addr` toward relative coordinate `t` in dimension `i`: the shorter way round
where the dimension spans all 16 coordinates, else inside the box (R340). -/
def boxToward (pb : List Byte) (addr i t : Nat) : Nat :=
  let r := relCoord pb addr i
  boxStep pb addr i (if boxN pb i = 16 then decide ((t + 16 - r) % 16 ≤ 8) else decide (r < t))

/-- The member to which a box member sends its combined vote: along the lowest dimension in which it is not yet at the
terminal's coordinate; none for the terminal (R347). -/
def voteParent (pb : List Byte) (addr : Nat) : Option Nat :=
  ((List.range 4).find? (fun i => relCoord pb addr i != boxN pb i - 1)).map (fun i => boxToward pb addr i (boxN pb i - 1))

/-- The member from which a member receives what fans out from `root`, along dimensions 3, 2, 1 and 0 in turn (R340). -/
def fanParent (pb : List Byte) (root addr : Nat) : Option Nat :=
  ((List.range 4).find? (fun i => relCoord pb addr i != relCoord pb root i)).map (fun i =>
    boxToward pb addr i (relCoord pb root i))

/-- The neighbours of a box member inside the box. -/
def boxNeighbours (pb : List Byte) (addr : Nat) : List Nat :=
  ((List.range 4).flatMap (fun i => [boxStep pb addr i true, boxStep pb addr i false])).eraseDups.filter
    (fun a => inBox pb a && a != addr)

/-- Box members whose vote reaches the terminal through a member (R347). -/
def voteChildren (pb : List Byte) (addr : Nat) : List Nat :=
  (boxNeighbours pb addr).filter (fun a => voteParent pb a == some addr)

/-- Box members to which a member forwards what fans out from `root` (R340). -/
def fanChildren (pb : List Byte) (root addr : Nat) : List Nat :=
  (boxNeighbours pb addr).filter (fun a => fanParent pb root a == some addr)

/-- VOTE frames of each piece that a member combines: those of its children, and at the terminal those of the helpers
(R347). -/
def votesDue (pb : List Byte) (addr : Nat) : Nat :=
  (voteChildren pb addr).length + (if addr = terminalOf pb then fld pb 20 2 else 0)

/-- The entry member of a sender: the sender itself inside the box, else the box member fewest hops from it, the lower
rank winning a tie (R340). -/
def entryFor (s : State) (pb : List Byte) (addr : Nat) : Nat :=
  if inBox pb addr then addr
  else ((boxRanks pb).foldl (fun (best : Option (Nat × Nat)) r =>
    let h := hopCount s addr (addrOf pb r)
    match best with
    | none => some (h, r)
    | some (hb, rb) => if h < hb then some (h, r) else some (hb, rb)) none).elim addr (fun p => addrOf pb p.2)

/-! ### Frames (R337; 14 R461) -/

/-- KIND REDUCE. -/
abbrev frReduce : Nat := 1
/-- KIND RESULT. -/
abbrev frResult : Nat := 2
/-- KIND BROADCAST. -/
abbrev frBroadcast : Nat := 3
/-- KIND VOTE. -/
abbrev frVote : Nat := 4
/-- KIND OUTCOME. -/
abbrev frOutcome : Nat := 5
/-- KIND REPAIR. -/
abbrev frRepair : Nat := 6
/-- KIND FORM. -/
abbrev frForm : Nat := 7
/-- KIND LEAVE. -/
abbrev frLeave : Nat := 8

/-- A group frame's header fields besides FABRIC_TAG. -/
structure FrameHdr where
  bucket : Nat
  kind : Nat
  block : Nat
  fmt : Nat
  flags : Nat
  stage : Nat
  deriving DecidableEq, Repr

/-- The 16 bytes of a frame header (R337). -/
def frameHdr (tag step : Nat) (h : FrameHdr) : List Byte :=
  natLe 4 tag ++ natLe 3 h.bucket ++ natLe 1 h.kind ++ natLe 4 h.block ++ natLe 1 h.fmt ++ natLe 1 h.flags ++
  natLe 1 h.stage ++ natLe 1 (step % 256)

/-- Reads a frame header (R337). -/
def hdrOf (m : List Byte) : FrameHdr := ⟨fld m 4 3, fld m 7 1, fld m 8 4, fld m 12 1, fld m 13 1, fld m 14 1⟩

/-- The XTS tweak of a frame's payload (14 R461). -/
def frameTweak (step rank : Nat) (h : FrameHdr) : List Byte :=
  natLe 5 (step % 2 ^ 40) ++ natLe 3 h.bucket ++ natLe 4 h.block ++ natLe 1 h.kind ++ natLe 1 h.stage ++ natLe 2 rank

/-- A payload encrypted (`seal`) or decrypted under the group key in a confidential Court (14 R461). -/
def frameCrypt (s : State) (key : Nat) (pb : List Byte) (enc : Bool) (step rank : Nat) (h : FrameHdr)
    (p : List Byte) : List Byte :=
  if confCourt s (grpCourt key) then
    match ownerKey s (grpCourt key) (fld pb 40 8) true with
    | none => p
    | some k =>
      let d := kdf k "ralio-group-data" (natLe 4 (grpTag pb))
      let t := kdf k "ralio-group-tweak" (natLe 4 (grpTag pb))
      if enc then Config.xtsSeal d t (frameTweak step rank h) p else Config.xtsOpen d t (frameTweak step rank h) p
  else p

/-- Sends a frame of a group: `rank` is the sender's, whose tweak encrypts the payload (R337; 14 R461). -/
def sendFrame (key : Nat) (pb : List Byte) (step rank dest : Nat) (h : FrameHdr) (p : List Byte) (s : State) : State :=
  post (fld pb 2 1) (grpCourt key) dest (frameHdr (grpTag pb) step h ++ frameCrypt s key pb true step rank h p) s

/-- The 256-byte pieces of a record, each with its number (R337). -/
def piecesOf (b : List Byte) : List (Nat × List Byte) :=
  (List.range (ceilDiv b.length 256)).map (fun i => (i, padTo 256 (slice b (256 * i) 256)))

/-- Sends a record of a kind that has no bucket: BUCKET carries the sender's rank. -/
def sendRecord (key : Nat) (pb : List Byte) (step kind : Nat) (dests : List Nat) (b : List Byte) (s : State) : State :=
  let rank := rankOf pb s.sq.addr
  (piecesOf b).foldl (fun s e =>
    dests.foldl (fun s d => sendFrame key pb step rank d ⟨rank, kind, e.1, 0, 0, 0⟩ e.2 s) s) s

/-- A group by FABRIC_TAG. -/
def grpByTag (s : State) (tag : Nat) : Option (Nat × Group) := s.grps.find? (fun p => grpTag p.2.pb == tag)

/-- Counts a discarded frame as an error of the Avenue it came on (R337). -/
def frameError (av : Nat) (s : State) : State := modAv av (fun v => { v with errors := v.errors + 1 }) s

/-- Takes the oldest waiting frame that fits, with the Avenue it came on. -/
def takeFrame (f : List Byte → Bool) (s : State) : Option (Nat × List Byte × State) :=
  match s.inbox.find? (fun p => f p.2.2) with
  | none => none
  | some p => some (p.1, p.2.2, { s with inbox := s.inbox.erase p })

/-- The step to which a frame belongs: its FABRIC_TAG names a formed group and its STEP_LO is that of the step open here
(R337). -/
def frameStep (s : State) (m : List Byte) : Option (Nat × Group × TrainStep) := match grpByTag s (fld m 0 4) with
  | none => none
  | some (key, g) => match g.step with
    | none => none
    | some t => if g.state ≠ .forming ∧ t.number % 256 = fld m 15 1 then some (key, g, t) else none

/-! ### Formation (R327 to R329) -/

/-- Bytes of a FORM_GROUP parameter block. -/
def formLay (c : Cmd) : Nat := bucketsAt c.pb + 8 * grpBuckets c.pb + 16

/-- The parameter block without its reply fields. -/
def formPb (c : Cmd) : List Byte := c.pb.take (formLay c - 16)

/-- SHA-256 of the parameter block with HOME_GIB taken as zero (R328). -/
def formHash (pb : List Byte) : List Byte := sha256 (pb.take 32 ++ zeros 4 ++ pb.drop 36)

/-- The fields of a FORM_GROUP are in range, and this device is a member (R325, R327, R328). -/
def formOk (s : State) (k : Court) (pb : List Byte) : Bool :=
  decide (fld pb 2 1 ≤ 7) && decide (1 ≤ grpWindow pb) && decide (grpWindow pb ≤ 32) && grpTag pb != 0 &&
  fld pb 8 8 != 0 && decide (fld pb 20 2 ≤ 16) && decide (1 ≤ grpBuckets pb) && decide (grpBuckets pb ≤ 4096) &&
  decide (1 ≤ grpShards pb) && decide (grpShards pb ≤ 65536) && decide (1 ≤ fld pb 28 4) && decide (fld pb 28 4 ≤ 60000) &&
  decide (fld pb 32 4 ≤ k.gtab.length) &&
  zeroFld pb (64 + 2 * fld pb 20 2) (bucketsAt pb - (64 + 2 * fld pb 20 2)) &&
  (List.range (grpBuckets pb)).all (fun b => decide (1 ≤ bucketElems pb b) && decide (bucketElems pb b ≤ 2 ^ 24) &&
    decide (bucketClass pb b ≤ 1) && zeroFld pb (bucketsAt pb + 8 * b + 5) 3) &&
  (List.range 4).all (fun i => s.sq.torus.getD i 1 == 16 ||
    decide (fld pb 16 2 / 16 ^ i % 16 + boxN pb i ≤ s.sq.torus.getD i 1)) &&
  (grpHelpers pb).all (fun a => !inBox pb a) && (grpHelpers pb).eraseDups.length == fld pb 20 2 &&
  isMember pb s.sq.addr && decide (memberCount pb ≤ 65536)

/-- Contexts that a Court's groups hold on each Junction (R343). -/
def contextsUsed (s : State) (court : Nat) : Nat :=
  ((s.grps.filter (fun p => grpCourt p.1 == court)).map (fun p => grpWindow p.2.pb + 1)).sum

/-- The first refusal of a FORM_GROUP, in the order R328 lists the causes. -/
def formRefusal (s : State) (court : Nat) (k : Court) (pb : List Byte) : Option Nat :=
  if !formOk s k pb then some stInvalidField
  else if (grpOf s (grpKey court (fld pb 0 2))).isSome ∨ (grpByTag s (grpTag pb)).isSome then some stStateConflict
  else if 8 ≤ (s.grps.filter (fun p => grpCourt p.1 == court)).length then some stLimitExceeded
  else if k.contexts < contextsUsed s court + grpWindow pb + 1 then some stNoResource
  else if k.conf ∧ fld pb 40 8 = 0 then some stNotPermitted
  else if fld pb 40 8 ≠ 0 ∧ (ownerKey s court (fld pb 40 8) true).isNone then some stKeyUnwrapFailed
  else none

/-- Bytes of home state that a bucket needs (R332). -/
def homeNeed (pb : List Byte) (b : Nat) : Nat :=
  roundUp (ceilDiv (bucketElems pb b * (if bucketClass pb b = 0 then 129 else 97)) 8) 4096

/-- A member comes before another as a home: helpers before box members, then hops to the terminal ascending, capacity
descending, rank ascending (R332); a member is (address, capacity). -/
def homeBefore (s : State) (pb : List Byte) (x y : Nat × Nat) : Bool :=
  let hx := inBox pb x.1
  let hy := inBox pb y.1
  if hx ≠ hy then !hx
  else
    let nx := hopCount s x.1 (terminalOf pb)
    let ny := hopCount s y.1 (terminalOf pb)
    if nx ≠ ny then decide (nx < ny)
    else if x.2 ≠ y.2 then decide (y.2 < x.2)
    else decide (rankOf pb x.1 < rankOf pb y.1)

/-- The home of one bucket and the capacities left, or none (R332). -/
def homeOne (s : State) (pb : List Byte) (need : Nat) (caps : Tbl Nat) : Option (Nat × Tbl Nat) :=
  ((caps.filter (fun p => decide (need ≤ p.2))).foldl (fun best x => match best with
    | none => some x
    | some y => if homeBefore s pb x y then some x else some y) none).map (fun p => (p.1, tblSet caps p.1 (p.2 - need)))

/-- The home of every bucket, from the offers in GiB by device address (R332). -/
def assignHomes (s : State) (pb : List Byte) (offers : Tbl Nat) : Option (List Nat) :=
  ((List.range (grpBuckets pb)).foldl (fun acc b => acc.bind (fun a =>
    (homeOne s pb (homeNeed pb b) a.2).map (fun r => (a.1 ++ [r.1], r.2))))
    (some ([], offers.map (fun p => (p.1, p.2 * gib))))).map (·.1)

/-- A table that the host supplies names members only and keeps within their offers (R333). -/
def tableOk (pb : List Byte) (offers : Tbl Nat) (t : List Nat) : Bool :=
  t.length == grpBuckets pb &&
  (t.zipIdx.foldl (fun (acc : Option (Tbl Nat)) e => acc.bind (fun caps => match tblGet caps e.1 with
    | none => none
    | some c => if homeNeed pb e.2 ≤ c then some (tblSet caps e.1 (c - homeNeed pb e.2)) else none))
    (some (offers.map (fun p => (p.1, p.2 * gib))))).isSome

/-- The offers heard, in GiB. -/
def offersOf (g : Group) : Tbl Nat := g.offers.map (fun p => (p.1, p.2.2))

/-- Every member's hash and offer has been received. -/
def offersFull (g : Group) : Bool := g.offers.length == memberCount g.pb

/-- The formation record of a member: hash, HOME_GIB, and the length of the home table that follows it. -/
def formRecord (pb : List Byte) (table : List Nat) : List Byte :=
  padTo 256 (formHash pb ++ natLe 4 (fld pb 32 4) ++ natLe 2 table.length) ++ (table.map (natLe 2)).flatten

/-- Every other member. -/
def otherMembers (s : State) (pb : List Byte) : List Nat := (memberAddrs pb).filter (fun a => a != s.sq.addr)

/-- A member that withholds its formation frames until its host has answered: the lowest-ranked box member with PLACEMENT
host-assisted (R333). -/
def formHolds (s : State) (key : Nat) (pb : List Byte) : Bool :=
  s.sq.addr == firstOf pb && modeBit s (grpCourt key) 0

/-- Retires a command whose reply fields end its layout. -/
def finishCmd (c : Cmd) (lay : Nat) (f : CmdEnd) (s : State) : State :=
  let p := writeReply c (lay - 16) f s
  retire c p.1 p.2

/-- Removes a group. -/
def dropGrp (key : Nat) (s : State) : State :=
  { s with grps := tblErase s.grps key
           cmd.assists := s.cmd.assists.filter (fun a => a.purpose != .homes key) }

/-- The formation fails here: the FORM_GROUP completes with a status and nothing is formed (R328, R329). -/
def formFail (key st : Nat) (s : State) : State := match grpOf s key with
  | none => s
  | some g =>
    let s := dropGrp key s
    match g.by_.bind (fun b => findCmd s b.1 b.2) with
    | none => s
    | some c => finishCmd c (formLay c) (finSt st) s

/-- The group is FORMED with a home table, and FORM_GROUP retires (R328, R333). -/
def formDone (key : Nat) (homes : List Nat) (s : State) : State := match grpOf s key with
  | none => s
  | some g =>
    let s := modGrp key (fun g => { g with state := .formed, by_ := none, homes := homes, offers := [], table := none }) s
    match g.by_.bind (fun b => findCmd s b.1 b.2) with
    | none => s
    | some c =>
      let res := natLe 2 (rankOf g.pb s.sq.addr) ++ natLe 2 (rankOf g.pb (terminalOf g.pb)) ++ natLe 4 (memberCount g.pb)
      finishCmd c (formLay c) { finReply ((homes.map (natLe 2)).flatten) with result := res } s

/-- Ends the formation once every member has answered, hashes agree and homes are assigned (R328, R332, R333). -/
def formSettle (key : Nat) (s : State) : State := match grpOf s key with
  | none => s
  | some g =>
    if g.state ≠ .forming then s
    else if g.offers.any (fun p => p.2.1 != formHash g.pb) then formFail key stStateConflict s
    else if !offersFull g then s
    else match assignHomes s g.pb (offersOf g) with
      | none => formFail key stNoResource s
      | some homes =>
        if formHolds s key g.pb ∧ !g.asked then
          let s := modGrp key (fun g => { g with asked := true }) s
          let r := ask (grpCourt key) 0 ((homes.map (natLe 2)).flatten) (.homes key) s
          if r.1 then r.2
          else formDone key homes (sendRecord key g.pb (fld g.pb 8 8) frForm (otherMembers s g.pb) (formRecord g.pb []) r.2)
        else if formHolds s key g.pb then s
        else match g.table with
          | none => formDone key homes s
          | some t => if t.length < grpBuckets g.pb then s else formDone key (t.take (grpBuckets g.pb)) s

/-- The host has answered about the home table, or its deadline has passed: the table supplied, if it is good, or else the
computed one, goes out with the formation frames (R333). -/
def homesAnswered (key : Nat) (table : Option (List Nat)) (s : State) : State := match grpOf s key with
  | none => s
  | some g => match assignHomes s g.pb (offersOf g) with
    | none => formFail key stNoResource s
    | some homes =>
      let given := table.filter (tableOk g.pb (offersOf g))
      formDone key (given.getD homes)
        (sendRecord key g.pb (fld g.pb 8 8) frForm (otherMembers s g.pb) (formRecord g.pb (given.getD [])) s)

/-- Effect of FORM_GROUP. -/
def formBody (c : Cmd) (s : State) : State × Did :=
  let court := c.q.owner
  let pb := formPb c
  let key := grpKey court (fld pb 0 2)
  if (grpOf s key).any (fun g => g.by_ == some (c.q, c.cid)) then (s, .stay)
  else match courtOf s court with
    | none => failWith s stCourtNotReady
    | some k => match formRefusal s court k pb with
      | some st => failWith s st
      | none =>
        let g : Group := { pb := pb, state := .forming, by_ := some (c.q, c.cid),
                           offers := [(s.sq.addr, formHash pb, fld pb 32 4)], table := none, asked := false, homes := [],
                           nextStep := fld pb 8 8, committed := fld pb 8 8 - 1, step := none, added := 0, promoted := 0,
                           timeouts := 0 }
        let s := { s with grps := tblSet s.grps key g }
        let s := if formHolds s key pb then s
          else sendRecord key pb (fld pb 8 8) frForm (otherMembers s pb) (formRecord pb []) s
        (formSettle key s, .stay)

/-- FORM_GROUP (R327, R328). -/
def execFormGroup (q : QId) (cid : Nat) (s : State) : Res :=
  .next (runCmd opFormGroup q cid formLay [(36, 4), (48, 16)] formBody s)

/-- A waiting FORM_GROUP that an abort or its deadline ends: nothing is formed, and the other members are told (R329). -/
def withdrawForm (key : Nat) (s : State) : State := match grpOf s key with
  | none => s
  | some g =>
    sendRecord key g.pb (fld g.pb 8 8) frLeave (otherMembers s g.pb) (zeros 256) (dropGrp key s)

/-- The group in formation to which a FORM or LEAVE frame belongs: its FORM_GROUP waits here (R329). -/
def formingFor (s : State) (m : List Byte) : Option (Nat × Group) :=
  (grpByTag s (fld m 0 4)).filter (fun p => p.2.state == .forming)

/-- A FORM frame of a member that is expected: the first piece gives hash and offer, later ones the home table. -/
def takeForm (key : Nat) (g : Group) (m : List Byte) (s : State) : State :=
  let h := hdrOf m
  let from_ := addrOf g.pb h.bucket
  let p := frameCrypt s key g.pb false (fld g.pb 8 8) h.bucket h (m.drop 16)
  if h.block = 0 then
    let n := fld p 36 2
    let s := modGrp key (fun g => { g with offers := tblSet g.offers from_ (p.take 32, fld p 32 4)
                                           table := if n = 0 then g.table else some [] }) s
    formSettle key s
  else
    let new := (List.range 128).map (fun i => fld p (2 * i) 2)
    formSettle key (modGrp key (fun g => { g with table := g.table.map (fun t => t ++ new) }) s)

/-- FORM_FRAME: a hash and an offer of another member; with the last one FORM_GROUP retires (R328, R332). -/
def execFormFrame (s : State) : Res := match takeFrame (isKind frForm) s with
  | none => .next s
  | some (av, m, s) => match formingFor s m with
    | none => .next (frameError av s)
    | some (key, g) =>
      if isMember g.pb (addrOf g.pb (hdrOf m).bucket) then .next (takeForm key g m s) else .next (frameError av s)

/-- LEAVE_FRAME: a waiting FORM_GROUP completes with STATE_CONFLICT; a formed group is BROKEN (R329, R330). -/
def execLeaveFrame (s : State) : Res := match takeFrame (isKind frLeave) s with
  | none => .next s
  | some (av, m, s) => match grpByTag s (fld m 0 4) with
    | none => .next (frameError av s)
    | some (key, g) =>
      if g.state = .forming then .next (formFail key stStateConflict s)
      else .next (modGrp key (fun g => { g with state := .broken }) s)

/-! ### GROUP_STATUS (R331) -/

/-- STATE code of a group (R331). -/
def grpStateCode (g : Group) : Nat :=
  if g.state = .broken then 4
  else match g.step with
    | none => 1
    | some t => if t.phase = .held then 3 else 2

/-- The reply of GROUP_STATUS (R331, R333). -/
def grpStatusBytes (s : State) (g : Group) : List Byte :=
  let held := g.step.filter (fun t => t.phase == .held)
  g.pb.take 2 ++ natLe 1 (grpStateCode g) ++ natLe 1 (grpWindow g.pb) ++ natLe 4 (memberCount g.pb) ++ natLe 8 g.nextStep ++
  natLe 8 ((held.map (·.number)).getD 0) ++ natLe 2 (rankOf g.pb s.sq.addr) ++ natLe 2 (rankOf g.pb (terminalOf g.pb)) ++
  natLe 4 (grpTag g.pb) ++ natLe 8 g.added ++ natLe 8 g.promoted ++ natLe 4 g.timeouts ++ zeros 12 ++
  (g.homes.map (natLe 2)).flatten

/-- Effect of GROUP_STATUS: a number that names no group of the Court, or one still in formation, is a group that is not
formed. -/
def grpStatusBody (c : Cmd) (s : State) : State × Did := match grpOf s (grpKey c.q.owner (fld c.pb 0 2)) with
  | none => failWith s stStateConflict
  | some g => if g.state = .forming then failWith s stStateConflict else (s, .fin (finReply (grpStatusBytes s g)))

/-- GROUP_STATUS (R331). -/
def execGroupStatus (q : QId) (cid : Nat) (s : State) : Res :=
  .next (runCmd opGroupStatus q cid (fun _ => 24) [(2, 6)] grpStatusBody s)

end Sys2Proof.Machine
end

