-- ==== Sys2Proof/Machine/UpdateEngine.lean ====
section
/-! DEFINITION. The Update Engine: its program, the shards it updates, RESULT and BROADCAST frames
(spec/09_training.md R287, R300 to R309, R318, R319; spec/10_collective_reduction.md R339, R340). -/

namespace Sys2Proof.Machine

/-! ### Programs (R306, R307) -/

/-- An instruction of the Update Engine (R306). -/
structure UeInstr where
  op : Nat
  dst : Nat
  a : Nat
  b : Nat
  c : Nat
  deriving DecidableEq, Repr

/-- An operand code that is not reserved (R306). -/
def ueCodeOk (c : Nat) : Bool := decide (c < 0x10) || (decide (0x20 ≤ c) && decide (c ≤ 0x41))

/-- Reads an instruction; none where it holds a reserved OP, operand code or byte (R306). -/
def ueInstr (w : List Byte) : Option UeInstr :=
  let i : UeInstr := ⟨fld w 0 1, fld w 1 1, fld w 2 1, fld w 3 1, fld w 4 1⟩
  if i.op ≤ 12 ∧ i.dst < 16 ∧ ueCodeOk i.a ∧ ueCodeOk i.b ∧ ueCodeOk i.c ∧ zeroFld w 5 3 then some i else none

/-- A register file of +0 (R306). -/
def ueZero : List (List F32) := List.replicate 16 (List.replicate 32 0)

/-- The 32 lanes of an operand (R306). -/
def ueLanes (v : List (List F32)) (h : List F32) (code : Nat) : List F32 :=
  if code < 0x10 then v.getD code (List.replicate 32 0)
  else if code < 0x40 then List.replicate 32 (h.getD (code - 0x20) 0)
  else List.replicate 32 (if code = 0x40 then 0 else 0x3F800000)

/-- The smaller of two words; NaN when either is NaN (R307). -/
def f32Min (a b : F32) : F32 := if f32IsNan a || f32IsNan b then nan32 else if f32Lt b a then b else a

/-- −1.0, +0 or 1.0 by the sign of a value (R307). -/
def f32Sign (a : F32) : F32 := match f32Val a with
  | none => nan32
  | some x => if x.mag = 0 then 0 else if x.neg then 0xBF800000 else 0x3F800000

/-- The first word where the third is at least zero, otherwise the second (R307). -/
def f32Sel (a b c : F32) : F32 := match f32Val c with
  | none => b
  | some x => if x.neg ∧ x.mag ≠ 0 then b else a

/-- One lane of an instruction (R307). -/
def ueLane (op : Nat) (a b c : F32) : FpM F32 := match op with
  | 2 => f32Add a b
  | 3 => f32Sub a b
  | 4 => f32Mul a b
  | 5 => do f32Add (← f32Mul a b) c
  | 6 => f32Div a b
  | 7 => f32Sqrt a
  | 8 => pure (f32Max a b)
  | 9 => pure (f32Min a b)
  | 10 => pure (f32Abs a)
  | 11 => pure (f32Sign a)
  | 12 => pure (f32Sel a b c)
  | _ => pure a

/-- The registers after one instruction other than END (R306, R307). -/
def ueStep (i : UeInstr) (h : List F32) (v : List (List F32)) : FpM (List (List F32)) := do
  let a := ueLanes v h i.a
  let b := ueLanes v h i.b
  let c := ueLanes v h i.c
  let r ← (List.range 32).mapM (fun k => ueLane i.op (a.getD k 0) (b.getD k 0) (c.getD k 0))
  return v.set i.dst r

/-- Runs a program to END or past its last instruction (R306). -/
def ueRun (h : List F32) : List UeInstr → List (List F32) → FpM (List (List F32))
  | [], v => pure v
  | i :: t, v => if i.op = 0 then pure v else do ueRun h t (← ueStep i h v)

/-- The instructions of a program's bytes up to END, or none where one is reserved (R306). -/
def ueProgram : Nat → List Byte → Option (List UeInstr)
  | 0, _ => some []
  | n + 1, b =>
    if b.length < 8 then some []
    else match ueInstr (b.take 8) with
      | none => if fld b 0 1 = 0 then some [] else none
      | some i => if i.op = 0 then some [] else (ueProgram n (b.drop 8)).map (fun t => i :: t)

/-- The register file of a Junction's Update Engine. -/
def ueOf (s : State) (j : Nat) : UeState :=
  tblGetD s.ue j ⟨ueZero, List.replicate 32 0, true, ⟨0, 0⟩⟩

/-- One instruction word on a Junction's Update Engine: `op` is the row's operation (R307). -/
def ueRow (op j word : Nat) (s : State) : State :=
  if 4 ≤ j then s
  else match ueInstr (natLe 8 word) with
    | none => s
    | some i =>
      if i.op ≠ op then s
      else
        let u := ueOf s j
        if op = 0 then { s with ue := tblSet s.ue j { u with ended := true } }
        else
          let r := runFp (ueStep i u.h u.v)
          let k : Counts := ⟨u.counts.sat + r.2.sat, u.counts.nonfin⟩
          { s with ue := tblSet s.ue j { u with v := r.1, ended := false, counts := k } }

/-- UE_END (R307). -/
def execUeEnd (j word : Nat) (s : State) : Res := .next (ueRow 0 j word s)
/-- UE_MOV (R307). -/
def execUeMov (j word : Nat) (s : State) : Res := .next (ueRow 1 j word s)
/-- UE_ADD (R307). -/
def execUeAdd (j word : Nat) (s : State) : Res := .next (ueRow 2 j word s)
/-- UE_SUB (R307). -/
def execUeSub (j word : Nat) (s : State) : Res := .next (ueRow 3 j word s)
/-- UE_MUL (R307). -/
def execUeMul (j word : Nat) (s : State) : Res := .next (ueRow 4 j word s)
/-- UE_MADD (R307). -/
def execUeMadd (j word : Nat) (s : State) : Res := .next (ueRow 5 j word s)
/-- UE_DIV (R307). -/
def execUeDiv (j word : Nat) (s : State) : Res := .next (ueRow 6 j word s)
/-- UE_SQRT (R307). -/
def execUeSqrt (j word : Nat) (s : State) : Res := .next (ueRow 7 j word s)
/-- UE_MAX (R307). -/
def execUeMax (j word : Nat) (s : State) : Res := .next (ueRow 8 j word s)
/-- UE_MIN (R307). -/
def execUeMin (j word : Nat) (s : State) : Res := .next (ueRow 9 j word s)
/-- UE_ABS (R307). -/
def execUeAbs (j word : Nat) (s : State) : Res := .next (ueRow 10 j word s)
/-- UE_SIGN (R307). -/
def execUeSign (j word : Nat) (s : State) : Res := .next (ueRow 11 j word s)
/-- UE_SEL (R307). -/
def execUeSel (j word : Nat) (s : State) : Res := .next (ueRow 12 j word s)

/-! ### The hyperparameter block (R305) -/

/-- HOME of a hyperparameter block. -/
def hypHome (h : List Byte) : Nat := fld h 2 2
/-- NORM_LIMIT. -/
def hypLimit (h : List Byte) : F32 := fld h 4 4
/-- BINDING. -/
def hypBinding (h : List Byte) : Nat := fld h 8 1
/-- ELEMENT_OFFSET. -/
def hypOffset (h : List Byte) : Nat := fld h 16 8
/-- BUCKET_OFFSET. -/
def hypBucketOff (h : List Byte) : Nat := fld h 24 8
/-- COMMIT_AT. -/
def hypCommitAt (h : List Byte) : Nat := fld h 32 8
/-- COPY_DISP. -/
def hypDisp (h : List Byte) : Nat := fld h 48 8
/-- H0 to H31. -/
def hypScalars (h : List Byte) : List F32 := (List.range 32).map (fun i => fld h (64 + 4 * i) 4)

/-- The block's own fields are as R305 asks. -/
def hypOk (h : List Byte) : Bool :=
  fld h 0 2 == 1 && (match f32Val (hypLimit h) with
    | none => false
    | some x => !x.neg || x.mag == 0) &&
  zeroFld h 13 3 && hypBucketOff h % 32 == 0 && hypCommitAt h % 64 == 0 && hypDisp h % 4096 == 0 &&
  zeroFld h 56 8 && zeroFld h 192 64

/-! ### Addresses of a shard (R305) -/

/-- Address of a copy of a paired area. -/
def copyAt (d : ShardRun) (next : Bool) (a : SymRange) : Nat :=
  a.at_ + (if next then 1 - d.current else d.current) * hypDisp d.hyper

/-- Where the shard's replica-format elements of the bound or the next version lie, in Court memory or in the adaptation
(R300, R301, R305). -/
def replicaAt (d : ShardRun) (next : Bool) : Option Nat :=
  if d.cls = 0 then
    (match d.home, d.work with
      | true, some w => some (copyAt d next w)
      | _, _ => d.replica.map (fun p => if next then p.2 else p.1))
  else match d.home, d.replica with
    | false, some p => some (if next then p.2 else p.1)
    | _, _ => d.weights.map (copyAt d next)

/-- 16-bit elements at a Court address, as raw patterns. -/
def raw16 (s : State) (c : Court) (a n : Nat) : List Nat :=
  let b := courtRead s c a (2 * n)
  (List.range n).map (fun i => fld b (2 * i) 2)

/-- FP32 words at a Court address. -/
def raw32 (s : State) (c : Court) (a n : Nat) : List F32 :=
  let b := courtRead s c a (4 * n)
  (List.range n).map (fun i => fld b (4 * i) 4)

/-- The FP32 word of a 16-bit pattern. -/
def f32Of16 (fmt raw : Nat) : F32 := elemToF32 (elemVal fmt raw)

/-- The FP32 words of a block of a moment: 32 elements of a code and their scale (R303). -/
def momentOf (s : State) (c : Court) (code : Nat) (a n j : Nat) : List F32 :=
  let b := courtRead s c (a + 32 * j) 32
  let x := fld (courtRead s c (a + n + j) 1) 0 1
  (List.range 32).map (fun i =>
    if x = 255 then nan32 else elemToF32 ((elemVal code (fld b i 1)).map (fun v => dyScale v ((x : Int) - 127))))

/-- The ranges that the home reads for block `j` (R308). -/
def homeReads (d : ShardRun) (j : Nat) : List (Nat × Nat) :=
  (d.weights.toList.map (fun a => (copyAt d false a + (if d.cls = 0 then 128 else 64) * j, if d.cls = 0 then 128 else 64))) ++
  ((d.m1.toList ++ d.m2.toList).flatMap (fun a =>
    [(copyAt d false a + 32 * j, 32), (copyAt d false a + d.elements + j, 1)])) ++
  (d.rem.toList.map (fun a => (copyAt d false a + 64 * j, 64))) ++
  (if d.cls = 0 then ((replicaAt d false).toList ++ d.replica.toList.map (·.1)).map (fun a => (a + 64 * j, 64)) else [])

/-- Some of the ranges delivers poison (04 R123). -/
def rangesPoison (s : State) (c : Court) (bad : List Nat) (l : List (Nat × Nat)) : Option Nat :=
  l.findSome? (fun r => courtPoisoned s c bad r.1 r.2)

/-! ### One block (R300, R301, R303, R308, R309) -/

/-- The guard of a block: every element finite, and the squared norm within NORM_LIMIT (R309). -/
def guardOk (limit : F32) (g : List F32) : Bool :=
  !g.any f32IsNan &&
  (match f32Val limit with
    | none => false
    | some x => x.mag == 0 ||
        !f32Lt (fpVal (f32Mul limit limit)) (fpVal (do treeSum (← g.mapM (fun x => f32Mul x x)))))

/-- A value is finite and not negative. -/
def notNeg (x : F32) : Bool := match f32Val x with
  | none => false
  | some v => !v.neg || v.mag == 0

/-- The exit check of a block (R308 step 4). -/
def exitOk (v1 v2 v3 : List F32) : Bool :=
  !v1.any f32IsNan && !v2.any f32IsNan && v3.all notNeg

/-- y' of a replica from its y and the broadcast δ (R300). -/
def applyDelta (fmt : Nat) (shift : Int) (y delta : Nat) : FpM Nat := do
  convElem fmt .rne (← f32Add (f32Of16 fmt y) (← f32Mul (f32Of16 2 delta) (pow2F32 (-shift))))

/-- δ of an element (R300). -/
def deltaOf (fmt : Nat) (shift : Int) (w : F32) (y : Nat) : FpM Nat := do
  let q ← convElem fmt .rne w
  let d ← f32Sub (f32Of16 fmt q) (f32Of16 fmt y)
  convElem 2 .rne (← f32Mul d (pow2F32 shift))

/-- What the home writes for a block: addresses and bytes, and the pattern of each element that it broadcasts. -/
structure BlockOut where
  writes : List (Nat × List Byte)
  cast : List Nat
  deriving DecidableEq, Repr

/-- The bytes of 16-bit patterns. -/
def bytes16 (l : List Nat) : List Byte := (l.map (natLe 2)).flatten

/-- The writes of one moment block (R303). -/
def momentOut (d : ShardRun) (code j : Nat) (a : Option SymRange) (v : List F32) : FpM (List (Nat × List Byte)) := do
  let r ← encBlock code (fun _ => .rne) (v.map some)
  return a.toList.flatMap (fun a =>
    [(copyAt d true a + 32 * j, (r.2.map (natLe 1)).flatten), (copyAt d true a + d.elements + j, natLe 1 r.1)])

/-- Encodes the program's outputs for block `j` (R300, R301, R303). -/
def blockOut (s : State) (c : Court) (d : ShardRun) (j : Nat) (v1 v2 v3 : List F32) : FpM BlockOut := do
  let m ← momentOut d 0x0B j d.m1 v2
  let r ← momentOut d 0x0D j d.m2 v3
  if d.cls = 0 then
    let at_ := (replicaAt d false).getD 0
    let ys := raw16 s c (at_ + 64 * j) 32
    let ds ← (v1.zip ys).mapM (fun p => deltaOf d.fmt d.shift p.1 p.2)
    let y' ← (ys.zip ds).mapM (fun p => applyDelta d.fmt d.shift p.1 p.2)
    let own ← (match d.work, d.replica with
      | some _, some p => do
        let z ← ((raw16 s c (p.1 + 64 * j) 32).zip ds).mapM (fun e => applyDelta d.fmt d.shift e.1 e.2)
        pure [(p.2 + 64 * j, bytes16 z)]
      | _, _ => pure [])
    let w := d.weights.toList.map (fun a => (copyAt d true a + 128 * j, (v1.map (natLe 4)).flatten))
    return ⟨w ++ [((replicaAt d true).getD 0 + 64 * j, bytes16 y')] ++ own ++ m ++ r, ds⟩
  else
    let ws ← v1.mapM (fun t => convElem 1 .rne t)
    let rs ← (v1.zip ws).mapM (fun p => do convElem 1 .rne (← f32Sub p.1 (f32Of16 1 p.2)))
    let w := d.weights.toList.map (fun a => (copyAt d true a + 64 * j, bytes16 ws))
    let e := d.rem.toList.map (fun a => (copyAt d true a + 64 * j, bytes16 rs))
    let own := d.replica.toList.map (fun p => (p.2 + 64 * j, bytes16 ws))
    return ⟨w ++ e ++ own ++ m ++ r, ws⟩

/-- The registers at entry of block `j` with gradient `g` (R300, R301, R303, R306). -/
def entryRegs (s : State) (c : Court) (d : ShardRun) (j : Nat) (g : List F32) : FpM (List (List F32)) := do
  let wa := (d.weights.map (copyAt d false)).getD 0
  let v1 ← (if d.cls = 0 then pure (raw32 s c (wa + 128 * j) 32)
    else
      let ra := (d.rem.map (copyAt d false)).getD 0
      ((raw16 s c (wa + 64 * j) 32).zip (raw16 s c (ra + 64 * j) 32)).mapM (fun p => f32Add (f32Of16 1 p.1) (f32Of16 1 p.2)))
  let v2 := momentOf s c 0x0B ((d.m1.map (copyAt d false)).getD 0) d.elements j
  let v3 := momentOf s c 0x0D ((d.m2.map (copyAt d false)).getD 0) d.elements j
  return [g, v1, v2, v3] ++ List.replicate 12 (List.replicate 32 0)

/-- FP32 words of host-supplied state: words `[o, o + 32)`. -/
def hostWords (b : List Byte) (o : Nat) : List F32 := (List.range 32).map (fun i => fld b (4 * (o + i)) 4)

/-- Raises cause bits of a step (R312). -/
def raiseCause (key n : Nat) (s : State) : State := modStep key (fun t => { t with cause := t.cause ||| n }) s

/-- Adds Update Engine counts to the Court and to the shard (R307; 02 R72). -/
def ueCounts (key i : Nat) (k : Counts) (s : State) : State :=
  addCounts (grpCourt key) k (modShard key i (fun d => { d with counts := ⟨d.counts.sat + k.sat, d.counts.nonfin + k.nonfin⟩ }) s)

/-- Block `j` of a shard is settled: written, or refused. -/
def blockSettled (key i j : Nat) (ok : Bool) (s : State) : State :=
  modShard key i (fun d => { d with blocks := insLine j d.blocks, refused := d.refused || !ok }) s

/-- The home sends a block to the receivers: into the fan-out where it is a box member, else to its entry member. FLAGS
carries NONFINITE for a block that was not written (R308 step 6; 10 R340). -/
def broadcastBlock (key : Nat) (pb : List Byte) (step : Nat) (d : ShardRun) (j : Nat) (ok : Bool) (cast : List Nat)
    (s : State) : State :=
  let h : FrameHdr := ⟨d.bucket, frBroadcast, hypBucketOff d.hyper / 32 + j, if d.cls = 0 then 2 else 1, if ok then 0 else 2, 0⟩
  let dests := if inBox pb s.sq.addr then fanChildren pb s.sq.addr s.sq.addr else [entryFor s pb s.sq.addr]
  dests.foldl (fun s a => sendFrame key pb step (rankOf pb s.sq.addr) a h (padTo 64 (bytes16 cast)) s) s

/-! ### The end of a shard (R308, R311) -/

/-- Digest of the next copies of a shard (R308). -/
def shardDigest (s : State) (c : Court) (step : Nat) (d : ShardRun) : Nat :=
  fld (sha256 (natLe 8 step ++ natLe 4 d.shard ++ courtRead s c ((replicaAt d true).getD 0) (2 * d.elements))) 0 8

/-- A commit record with the fields that the Update Engine writes (R308, R311). -/
def preparedRec (old : List Byte) (step digest : Nat) (d : ShardRun) : List Byte :=
  slice old 0 8 ++ natLe 8 step ++ natLe 8 digest ++ slice old 24 9 ++ natLe 1 (if d.home then 0 else 1) ++ slice old 34 2 ++
  natLe 4 d.shard ++ natLe 8 (hypDisp d.hyper) ++ slice old 48 16

/-- Once every block of a shard is settled, the commit record is written, if every one was written, and the UPDATE retires
(R308). -/
def finishShard (key i : Nat) (s : State) : State := match stepOf s key, courtOf s (grpCourt key) with
  | some (_, t), some c => match t.shards[i]? with
    | none => s
    | some d =>
      if 32 * d.blocks.length < d.elements ∨ (streamOf s d.run d.stream).any (fun p => match p.2.head with
          | .sent _ => false
          | _ => true) then s
      else
        let s := if d.refused then s
          else
            let x := shardDigest s c t.number d
            let a := hypCommitAt d.hyper
            let s := courtWrite c a (preparedRec (courtRead s c a 64) t.number x d) s
            modShard key i (fun d => { d with digest := some x }) s
        finishWo d.run d.stream ⟨tcOk, 0, false, false, d.counts.sat, d.counts.nonfin, 0xFFFF⟩ s
  | _, _ => s

/-- The home's work on block `j` of its shard `i` with the reduced gradient `g` (R308); `host` holds the outputs that the
host supplied in place of the program's (R319). -/
def homeBlock (key i j : Nat) (g : List F32) (host : Option (List F32 × List F32 × List F32)) (bad : List Nat)
    (s : State) : State := match stepOf s key, courtOf s (grpCourt key) with
  | some (gr, t), some c => match t.shards[i]? with
    | none => s
    | some d =>
      let refuse (s : State) : State :=
        broadcastBlock key gr.pb t.number d j false (List.replicate 32 0) (blockSettled key i j false (raiseCause key 1 s))
      match rangesPoison s c bad (homeReads d j) with
      | some l => refuse (poisonRead (some l) s)
      | none =>
        let g := match t.clip with
          | none => g
          | some f => fpVal (g.mapM (fun x => f32Mul x f))
        if !guardOk (hypLimit d.hyper) g then refuse s
        else
          let r := runFp (match host with
            | some h => pure [g, h.1, h.2.1, h.2.2]
            | none => do ueRun (hypScalars d.hyper) ((ueProgram 64 d.prog).getD []) (← entryRegs s c d j g))
          let u : UeState := ⟨r.1, hypScalars d.hyper, true, r.2⟩
          let s := if host.isSome then s else { s with ue := tblSet s.ue (d.bucket % 4) u }
          let s := ueCounts key i r.2 s
          let v (n : Nat) := r.1.getD n []
          if !exitOk (v 1) (v 2) (v 3) then refuse s
          else
            let o := runFp (blockOut s c d j (v 1) (v 2) (v 3))
            let s := o.1.writes.foldl (fun s w => courtWrite c w.1 w.2 s) (ueCounts key i o.2 s)
            broadcastBlock key gr.pb t.number d j true o.1.cast (blockSettled key i j true s)
  | _, _ => s

/-! ### Reduced blocks at the home (R318, R319; 10 R339, R340) -/

/-- The reduction of a step's buckets, its UPDATEs or its clipping are host-assisted (06 R211). -/
def stepMode (t : TrainStep) (func : Nat) : Bool := bit t.modes func

/-- The ledger entry of a bucket: the one that its REDUCE_SEND names, if it consults one, or the entry with the bucket's
number on a device that contributes nothing to it (R295, R299). -/
def bucketEntry (t : TrainStep) (b : Nat) : Option Nat := match tblGet t.buckets b with
  | none => some b
  | some r => if r.begun then r.entry else some b

/-- The exponent k of a bucket (R295). -/
def bucketK (t : TrainStep) (b : Nat) : Int := ((bucketEntry t b).bind (tblGet t.scales)).getD 0

/-- A bucket on a device that has not yet begun it. -/
def BucketRun.fresh : BucketRun :=
  { wire := 0, k := 0, entry := none, wo := none, begun := false, supplied := [], mine := [], came := [], passed := 0,
    results := [], got := 0, amax := 0, mark := false, prom := false }

/-- Makes sure that a bucket holds its contexts (10 R344). -/
def openBucket (key b : Nat) (s : State) : State :=
  modStep key (fun t => if (tblGet t.buckets b).isSome then t
    else { t with buckets := tblSet t.buckets b BucketRun.fresh }) s

/-- Notes progress of a group's contexts (10 R348). -/
def progressed (key : Nat) (s : State) : State := modStep key (fun t => { t with progress := s.sq.time }) s

/-- Blocks of a bucket at its home that its shards may now take: unless the host still has to supply a clip factor or the
new state (R318, R319). -/
def mayUpdate (t : TrainStep) : Bool :=
  (!stepMode t 3 || t.clip.isSome) && (!stepMode t 2 || !t.hostState.isEmpty)

/-- Position of each shard's data in what the host supplies: FP32 words before it, in record order (R319). -/
def hostOffsets : Nat → List ShardRun → List Nat
  | _, [] => []
  | o, d :: t => o :: hostOffsets (o + 3 * d.elements) t

/-- The shards of this home, with their positions, in the order in which they registered. -/
def homeShards (t : TrainStep) : List (ShardRun × Nat) := t.shards.zipIdx.filter (fun p => p.1.home)

/-- Host-supplied V1, V2 and V3 of block `j` of shard `i` (R319). -/
def hostBlock (t : TrainStep) (i j : Nat) : Option (List F32 × List F32 × List F32) :=
  if t.hostState.isEmpty then none
  else
    let hs := homeShards t
    match (hs.zip (hostOffsets 0 (hs.map (·.1)))).find? (fun e => e.1.2 == i) with
    | none => none
    | some e =>
      let n := e.1.1.elements
      some (hostWords t.hostState (e.2 + 32 * j), hostWords t.hostState (e.2 + n + 32 * j),
        hostWords t.hostState (e.2 + 2 * n + 32 * j))

/-- The blocks of a bucket that wait for shard `i`: the shard's block number, the bucket's, and g. -/
def waitingBlocks (t : TrainStep) (i : Nat) : List (Nat × Nat × List F32) := match t.shards[i]? with
  | none => []
  | some d =>
    let o := hypBucketOff d.hyper / 32
    let rs := ((tblGet t.buckets d.bucket).map (·.results)).getD []
    rs.filterMap (fun e => if o ≤ e.1 ∧ e.1 < o + d.elements / 32 ∧ !d.blocks.contains (e.1 - o)
      then some (e.1 - o, e.1, e.2.elems) else none)

/-- The home's shard `i` takes every block that waits for it (R308, R340). -/
def takeBlocks (key : Nat) (bad : List Nat) (i : Nat) (s : State) : State := match stepOf s key with
  | none => s
  | some (_, t) => match t.shards[i]? with
    | none => s
    | some d =>
      if !d.home ∨ !mayUpdate t then s
      else
        let s := (waitingBlocks t i).foldl (fun s e =>
          modBucket key d.bucket (fun r => { r with results := tblErase r.results e.2.1 })
            (homeBlock key i e.1 e.2.2 (hostBlock t i e.1) bad s)) s
        finishShard key i s

/-- Every shard of this home takes what waits for it. -/
def takeAll (key : Nat) (bad : List Nat) (s : State) : State := match stepOf s key with
  | none => s
  | some (_, t) => settle ((List.range t.shards.length).foldl (fun s i => takeBlocks key bad i s) s)

/-- The step is abandoned here: its plan ends, with the status of this device's own failure (R312, R313). -/
def abandonStep (key st : Nat) (s : State) : State := match stepOf s key with
  | none => s
  | some (_, t) =>
    if t.phase ≠ .opened then s
    else
      let own := t.own.getD st
      modStep key (fun t => { t with cause := t.cause ||| 2, own := some own, ended := true }) (abortRun t.run s)

/-- Buckets whose home this device is. -/
def homeBuckets (s : State) (g : Group) : List Nat :=
  (List.range (grpBuckets g.pb)).filter (fun b => g.homes[b]? == some s.sq.addr)

/-- Writes byte strings to a Court's assist data area, each on a 64-byte boundary, sealed for a confidential Court: their
offsets, or none where there is no ring or no room (R318; 06 R210; 14 R454). -/
def areaPut (court func : Nat) (bs : List (List Byte)) (s : State) : Option (List Nat) × State :=
  match (assistKey s court).bind (fun k => (tblGet s.cmd.assistRings k).map (fun r => (k, r))) with
  | none => (none, s)
  | some (k, r) =>
    let p := bs.foldl (fun (p : List (List Byte) × State) b =>
      if confCourt s court then
        let e := sealHost court (curKey s court) sealAssist (r.nextId + 2 ^ 32 * func) b p.2
        (p.1 ++ [e.1], e.2)
      else (p.1 ++ [b], p.2)) ([], s)
    let total := (p.1.map (fun b => roundUp b.length 64)).sum
    if r.dataBytes < total then (none, s)
    else
      let at_ := if r.dataAt + total ≤ r.dataBytes then r.dataAt else 0
      let w := p.1.foldl (fun (w : List Nat × Nat × State) b =>
        (w.1 ++ [w.2.1], w.2.1 + roundUp b.length 64, hostWrite r.via (r.dataBase + w.2.1) b w.2.2)) ([], at_, p.2)
      (some w.1, { w.2.2 with cmd.assistRings := tblModify w.2.2.cmd.assistRings k (fun r => { r with dataAt := at_ + total }) })

/-- The reduced bucket as FP32 words in element order (R318). -/
def bucketWords (g : Group) (t : TrainStep) (b : Nat) : List F32 :=
  (((List.range (bucketBlocks g.pb b)).map (fun q =>
    ((tblGet (((tblGet t.buckets b).map (·.results)).getD []) q).map (·.elems)).getD (List.replicate 32 0))).flatten).take
    (bucketElems g.pb b)

/-- Every bucket of this home is reduced (R318). -/
def homeReduced (s : State) (g : Group) (t : TrainStep) : Bool :=
  (homeBuckets s g).all (fun b => decide (bucketBlocks g.pb b ≤ ((tblGet t.buckets b).map (·.got)).getD 0))

/-- The registered shards of this home cover its buckets (R319). -/
def homeCovered (s : State) (g : Group) (t : TrainStep) : Bool :=
  (homeBuckets s g).all (fun b => decide (32 * bucketBlocks g.pb b ≤
    ((t.shards.filter (fun d => d.bucket == b)).map (·.elements)).sum))

/-- Posts the CLIP or the UPDATE record of a step, once what it lists is complete (R318, R319). -/
def askHome (key : Nat) (s : State) : State := match stepOf s key with
  | none => s
  | some (g, t) =>
    let bs := homeBuckets s g
    let func := if stepMode t 3 && t.clip.isNone then 3 else 2
    if t.phase ≠ .opened ∨ t.asked ∨ mayUpdate t ∨ bs = [] ∨ !homeReduced s g t ∨ (func = 2 ∧ !homeCovered s g t) then s
    else
      let scaled (b : Nat) : List F32 := match t.clip with
        | none => bucketWords g t b
        | some f => fpVal ((bucketWords g t b).mapM (fun x => f32Mul x f))
      match areaPut (grpCourt key) func (bs.map (fun b => ((scaled b).map (natLe 4)).flatten)) s with
      | (none, s) =>
        let s := if (assistKey s (grpCourt key)).isSome then s else (ask (grpCourt key) func [] (.clip key) s).2
        abandonStep key stAssistTimeout s
      | (some offs, s) =>
        let at_ (b : Nat) : Nat := ((bs.zip offs).find? (fun e => e.1 == b)).elim 0 (·.2)
        let data := if func = 3 then (bs.map (fun b => natLe 4 b ++ natLe 4 (bucketElems g.pb b) ++ natLe 8 (at_ b))).flatten
          else ((homeShards t).map (fun e => natLe 4 e.1.shard ++ natLe 4 e.1.bucket ++ natLe 8 (hypBucketOff e.1.hyper) ++
            natLe 4 e.1.elements ++ zeros 4 ++ natLe 8 (at_ e.1.bucket + 4 * hypBucketOff e.1.hyper))).flatten
        let s := modStep key (fun t => { t with asked := true }) s
        (ask (grpCourt key) func data (if func = 3 then .clip key else .update key) s).2

/-- The reply to a CLIP record: accept, or a factor, with the buckets as read back from the data area (R318). -/
def clipAnswered (key disp : Nat) (data back : List Byte) (s : State) : State := match stepOf s key with
  | none => s
  | some (g, _) =>
    let c : F32 := if disp = 0 then 0x3F800000 else fld data 0 4
    let good := disp = 0 ∨ (disp = 1 ∧ data.length = 4 ∧ notNeg c ∧ (f32Val c).any (fun x => x.mag != 0))
    if !good then abandonStep key stAssistTimeout s
    else
      let bs := homeBuckets s g
      let put (p : Nat × State) (b : Nat) : Nat × State :=
        let n := bucketElems g.pb b
        let w (e : Nat) : F32 := if e < n then fld back (p.1 + 4 * e) 4 else 0
        (p.1 + roundUp (4 * n) 64, (List.range (bucketBlocks g.pb b)).foldl (fun s q =>
          modBucket key b (fun r => { r with results := tblSet r.results q ⟨(List.range 32).map (fun k => w (32 * q + k)),
            false, false, false⟩ }) s) p.2)
      let s := if back.isEmpty then s else (bs.foldl put (0, s)).2
      let s := modStep key (fun t => { t with clip := some c, asked := false }) s
      takeAll key [] (askHome key s)

/-- The reply to an UPDATE record: the new state of every shard (R319). -/
def updateAnswered (key disp : Nat) (data : List Byte) (s : State) : State := match stepOf s key with
  | none => s
  | some (_, t) =>
    if disp ≠ 1 ∨ data.length < 12 * ((homeShards t).map (fun e => e.1.elements)).sum then abandonStep key stAssistTimeout s
    else takeAll key [] (modStep key (fun t => { t with hostState := data }) s)

/-- The home takes block `q` of S: g = rne(S × 2^−k) where the bucket is scaled (R295; 10 R334, R339). -/
def homeTake (key b q : Nat) (x : RedBlock) (scaled : Bool) (s : State) : State := match stepOf s key with
  | none => s
  | some (_, t) =>
    let r := runFp (if scaled then x.elems.mapM (fun e => f32Mul e (pow2F32 (-(bucketK t b)))) else pure x.elems)
    let s := addCounts (grpCourt key) ⟨r.2.sat, 0⟩ (openBucket key b s)
    let s := if x.nonfin then raiseCause key 1 s else s
    modBucket key b (fun u => { u with results := tblSet u.results q { x with elems := r.1 }, got := u.got + 1 }) (progressed key s)

/-! ### The UPDATE work order (R287, R302, R305, R306; 05 R172) -/

/-- A location of an UPDATE as a range of Court memory; the error is a tile code. -/
def ueArea (x : Ctx) (w : Nat) : Except Nat SymRange := match locPlace8 x w with
  | .error e => .error e
  | .ok (.court a) => .ok ⟨a, 2 ^ 41, true, none⟩
  | .ok (.sym r off) => if r.slot.isSome then .error tcAddressFault else .ok ⟨r.at_ + off, r.size - off, r.writable, none⟩
  | .ok _ => .error tcBadField

/-- An area that may be none. -/
def ueAreaOpt (x : Ctx) (w : Nat) : Except Nat (Option SymRange) :=
  if w = locNone then .ok none else (ueArea x w).map some

/-- Both copies of a paired area can be written (R305). -/
def pairedOk (x : Ctx) (disp len : Nat) (a : SymRange) : Except Nat Unit :=
  firstErr [placeCheck x (.sym a 0) 0 len true, placeCheck x (.sym a 0) disp len true]

/-- The program's bytes, as far as they can be read, up to 64 instructions (R306). -/
def loadProgram (s : State) (x : Ctx) (a : SymRange) : Except Nat (List Byte) := do
  let n := min 512 (a.size / 8 * 8)
  let b := placeRead s x (.sym a 0) 0 n
  match ueProgram 64 b with
  | none => .error tcBadField
  | some l =>
    let len := 8 * min 64 (l.length + 1)
    readablePlace s x (.sym a 0) 0 len
    return b.take len

/-- The replica that a shard writes: format, and addresses in the bound version and in the next one (R300, R305). -/
def shardReplica (s : State) (v : WoEnv) (t : TrainStep) (hyp : List Byte) (n : Nat) :
    Except Nat (Nat × Option (Nat × Nat)) := do
  let b := hypBinding hyp
  if b = 0xFF then return (1, none)
  else match v.x.run.bindings[b]?, t.binds[b]? with
    | some bd, some tb => match versionOf s bd with
      | none => .error tcBadField
      | some (_, a) => match partOf a (fld hyp 10 2) (fld hyp 9 1) (fld hyp 12 1) with
        | none => .error tcBadField
        | some p =>
          need (decide (hypOffset hyp + n ≤ p.rows * p.cols)) tcBadShape
          let o := p.off + 2 * hypOffset hyp
          return (a.fmt, tb.nextAt.map (fun na => (a.poolAt.getD 0 + o, na + o)))
    | _, _ => .error tcBadField

/-- The shard that an UPDATE registers; the error is the tile code it fails with. -/
def updateShard (s : State) (v : WoEnv) (g : Group) (t : TrainStep) (r i : Nat) : Except Nat ShardRun := do
  let wo := v.wo
  let b := fld wo 84 4
  let n := fld wo 92 4
  let cls := fld wo 96 1
  let shift := toSigned 8 (fld wo 97 1)
  need (fld wo 80 2 == fld g.pb 0 2 && zeroFld wo 82 2 && zeroFld wo 98 30 && decide (b < grpBuckets g.pb) &&
    decide (fld wo 88 4 < grpShards g.pb) && n % 32 == 0 && n != 0 && decide (cls ≤ 1) && decide (-64 ≤ shift) &&
    decide (shift ≤ 63) && bucketClass g.pb b == cls && !t.shards.any (fun d => d.shard == fld wo 88 4)) tcBadField
  let ha ← ueArea v.x (fld wo 72 8)
  readablePlace s v.x (.sym ha 0) 0 256
  let hyp := placeRead s v.x (.sym ha 0) 0 256
  need (hypOk hyp && g.homes[b]? == some (hypHome hyp) &&
    decide (hypBucketOff hyp + n ≤ 32 * bucketBlocks g.pb b)) tcBadField
  let home := hypHome hyp == s.sq.addr
  let rep ← shardReplica s v t hyp n
  need (cls == 1 || hypBinding hyp != 0xFF) tcBadField
  need (if cls = 0 then rep.1 == 1 || rep.1 == 2 else rep.1 == 1) tcBadFormat
  let disp := hypDisp hyp
  readablePlace s v.x (.court (hypCommitAt hyp)) 0 64
  let cur := fld (placeRead s v.x (.court (hypCommitAt hyp)) 0 64) 32 1 % 2
  let base : ShardRun :=
    { run := r, stream := i, shard := fld wo 88 4, bucket := b, elements := n, cls := cls, shift := shift,
      fmt := if cls = 0 then rep.1 else 1, home := home, prog := [], hyper := hyp, weights := none, m1 := none, m2 := none,
      rem := none, work := none, replica := rep.2, current := cur, blocks := [], counts := ⟨0, 0⟩, refused := false,
      digest := none }
  if home then
    let big := if cls = 0 then 4 * n else 2 * n
    need (decide (big ≤ disp)) tcBadField
    let pa ← ueArea v.x (fld wo 32 8)
    let prog ← loadProgram s v.x pa
    let w ← ueArea v.x (fld wo 40 8)
    let m1 ← ueArea v.x (fld wo 48 8)
    let m2 ← ueArea v.x (fld wo 56 8)
    let rem ← ueAreaOpt v.x (fld wo 64 8)
    let work ← ueAreaOpt v.x (fld hyp 40 8)
    need (rem.isSome == (cls == 1) && (cls == 0 || work.isNone) && (cls == 1 || work.isSome || rep.2.isSome)) tcBadField
    pairedOk v.x disp big w
    pairedOk v.x disp (33 * n / 32) m1
    pairedOk v.x disp (33 * n / 32) m2
    (rem.toList ++ work.toList).forM (pairedOk v.x disp (2 * n))
    return { base with prog := prog, weights := some w, m1 := some m1, m2 := some m2, rem := rem, work := work }
  else if hypBinding hyp = 0xFF then
    need (decide (2 * n ≤ disp)) tcBadField
    let w ← ueArea v.x (fld wo 40 8)
    pairedOk v.x disp (2 * n) w
    return { base with weights := some w }
  else
    need rep.2.isSome tcBadField
    return base

/-- The home asks its host for a reduced bucket when the first UPDATE of it registers, in host-assisted REDUCE
(10 R351). -/
def askBucket (key b : Nat) (s : State) : State := match stepOf s key with
  | none => s
  | some (_, t) =>
    let r := tblGetD t.buckets b BucketRun.fresh
    let k := if t.rewarm then 0 else bucketK t b
    let data := natLe 4 b ++ natLe 1 r.wire ++ zeros 3 ++ natLe 1 ((k % 256).toNat) ++ zeros 7 ++ natLe 8 0
    let a := ask (grpCourt key) 1 data (.bucket key b true) s
    if a.1 then a.2 else abandonStep key stAssistTimeout a.2

/-- Registers a shard: a home takes the blocks that wait for it (R308; 05 R172). -/
def registerShard (key : Nat) (d : ShardRun) (bad : List Nat) (s : State) : State := match stepOf s key with
  | none => s
  | some (_, t) =>
    let first := d.home && stepMode t 1 && !t.shards.any (fun e => e.bucket == d.bucket)
    let s := openBucket key d.bucket (modStep key (fun t => { t with shards := t.shards ++ [d] }) s)
    let s := if first then askBucket key d.bucket s else s
    askHome key (takeBlocks key bad t.shards.length s)

/-! ### RESULT and BROADCAST frames -/

/-- The payload of a block in a FORMAT (R337). -/
def payloadOf (fmt : Nat) (x : RedBlock) : List Byte :=
  if fmt = 0 ∨ x.promoted then (x.elems.map (natLe 4)).flatten
  else bytes16 (x.elems.map (fun e => fpVal (convElem fmt .rne e)))

/-- Reads a block from a frame's header and payload (R337 to R339). -/
def blockOf (h : FrameHdr) (p : List Byte) : RedBlock :=
  let es := (List.range 32).map (fun i =>
    if h.fmt = 0 then (if f32IsNan (fld p (4 * i) 4) then nan32 else fld p (4 * i) 4) else f32Of16 h.fmt (fld p (2 * i) 2))
  ⟨es, bit h.flags 0, bit h.flags 1, bit h.flags 2⟩

/-- FLAGS of a block (R337). -/
def blockFlags (x : RedBlock) : Nat := b2n x.promoted + 2 * b2n x.nonfin + 4 * b2n x.sat

/-- A RESULT frame is one that this home still expects. -/
def resultDue (s : State) (g : Group) (t : TrainStep) (h : FrameHdr) : Bool :=
  g.homes[h.bucket]? == some s.sq.addr && decide (h.block < bucketBlocks g.pb h.bucket) && h.stage == 0 &&
  !(tblGet (((tblGet t.buckets h.bucket).map (·.results)).getD []) h.block).isSome

/-- RESULT_FRAME: a reduced block reaches the home and its Update Engine (R308; 10 R340). -/
def resultFrameRow (mem : Findings) (s : State) : Res := match takeFrame (isKind frResult) s with
  | none => .next s
  | some (av, m, s) => match frameStep s m with
    | none => .next (frameError av s)
    | some (key, g, t) =>
      let h := hdrOf m
      if !resultDue s g t h then .next (frameError av s)
      else
        let f := applyFindings false mem s
        let p := frameCrypt f.s key g.pb false t.number (rankOf g.pb (terminalOf g.pb)) h (m.drop 16)
        let s := homeTake key h.bucket h.block (blockOf h p) (h.fmt != 0 || bit h.flags 0) f.s
        .next (takeAll key f.bad (askHome key s))

/-- A receiver's work on one broadcast block (R287, R300, R301, R308). -/
def receiverBlock (key i j : Nat) (ok : Bool) (cast : List Nat) (s : State) : State :=
  match stepOf s key, courtOf s (grpCourt key) with
  | some (_, t), some c => match t.shards[i]? with
    | none => s
    | some d =>
      match replicaAt d true, (if d.cls = 0 then replicaAt d false else some 0) with
      | some na, some ca =>
        let poison := if d.cls = 0 then courtPoisoned s c [] (ca + 64 * j) 64 else none
        if !ok then finishShard key i (blockSettled key i j false s)
        else match poison with
        | some l => finishShard key i (blockSettled key i j false (raiseCause key 1 (poisonRead (some l) s)))
        | none =>
          let r := runFp (if d.cls = 0 then ((raw16 s c (ca + 64 * j) 32).zip cast).mapM (fun p => applyDelta d.fmt d.shift p.1 p.2)
            else pure cast)
          let s := ueCounts key i r.2 (courtWrite c (na + 64 * j) (bytes16 r.1) s)
          finishShard key i (blockSettled key i j true s)
      | _, _ => s
  | _, _ => s

/-- A BROADCAST frame can be taken now: some UPDATE of its bucket has registered, or none will any more. -/
def broadcastReady (s : State) (m : List Byte) : Bool := match frameStep s m with
  | none => true
  | some (_, _, t) => t.ended || t.phase != .opened || t.shards.any (fun d => d.bucket == (hdrOf m).bucket)

/-- The receivers on this device of a block: shard and block number. -/
def receivers (t : TrainStep) (h : FrameHdr) : List (Nat × Nat) :=
  t.shards.zipIdx.filterMap (fun e =>
    let o := hypBucketOff e.1.hyper / 32
    if e.1.bucket = h.bucket ∧ !e.1.home ∧ o ≤ h.block ∧ h.block < o + e.1.elements / 32 ∧ !e.1.blocks.contains (h.block - o)
    then some (e.2, h.block - o) else none)

/-- BROADCAST_FRAME: a receiver writes the block to its next buffer and adds it to its digest; the frame fans out
(R308; 10 R340). -/
def execBroadcastFrame (s : State) : Res := match takeFrame (fun m => isKind frBroadcast m && broadcastReady s m) s with
  | none => .next s
  | some (av, m, s) => match frameStep s m with
    | none => .next (frameError av s)
    | some (key, g, t) =>
      let h := hdrOf m
      match g.homes[h.bucket]? with
      | none => .next (frameError av s)
      | some home =>
        let rank := rankOf g.pb home
        let p := frameCrypt s key g.pb false t.number rank h (m.drop 16)
        let s := (fanChildren g.pb (entryFor s g.pb home) s.sq.addr).foldl (fun s a => sendFrame key g.pb t.number rank a h p s) s
        let cast := (List.range 32).map (fun i => fld p (2 * i) 2)
        .next (settle ((receivers t h).foldl (fun s e => receiverBlock key e.1 e.2 (!bit h.flags 1) cast s) (progressed key s)))

end Sys2Proof.Machine
end

