-- ==== Sys2Proof/Machine/Reduce.lean ====
section
/-! DEFINITION. Rank-order reduction: contributions, the Roundabouts' fold, promotion, REDUCE frames
(spec/10_collective_reduction.md R334 to R342, R351; spec/09_training.md R295, R297). -/

namespace Sys2Proof.Machine

/-! ### Arithmetic of a block (R334, R338, R339) -/

/-- An element rounded into a wire format, back as FP32, and whether the rounded value exceeds the format's max
(R334, R338). -/
def wireRound (wire : Nat) (x : F32) : F32 × Bool :=
  if wire = 0 then (x, false)
  else
    let r := runFp (convElem wire .rne x)
    (f32Of16 wire r.1, decide (0 < r.2.sat))

/-- One addition of the fold: rne per element, then W, or the promotion of the block; the flag says that this addition
promoted it (R334, R338, R339). -/
def blockAdd (wire : Nat) (p v : RedBlock) : RedBlock × Bool :=
  let sums := (p.elems.zip v.elems).map (fun e => fpVal (f32Add e.1 e.2))
  let nan := p.nonfin || v.nonfin || sums.any f32IsNan
  let sat := p.sat || v.sat
  if p.promoted || v.promoted then (⟨sums, true, nan, sat⟩, false)
  else
    let w := sums.map (wireRound wire)
    if w.any (·.2) then (⟨sums, true, nan, sat⟩, true) else (⟨w.map (·.1), false, nan, sat⟩, false)

/-- The largest finite magnitude of some words, times 2^−k (R339). -/
def amaxOf (k : Int) (xs : List F32) : F32 :=
  let fin := (xs.filter (fun x => !f32IsNan x)).map f32Abs
  fpVal (f32Mul (fin.foldl f32Max 0) (pow2F32 (-k)))

/-! ### The fold (R334, R336) -/

/-- Key of a block of a stage in a bucket's tables. -/
def stageKey (stage q : Nat) : Nat := stage * 2 ^ 20 + q

/-- The terminal has a block of S: amax and mark, and the block goes to the home (R336, R339). -/
def terminalTake (key b q : Nat) (x : RedBlock) (s : State) : State := match stepOf s key with
  | none => s
  | some (g, t) =>
    let r := tblGetD t.buckets b BucketRun.fresh
    let marked := x.promoted || x.nonfin || x.sat
    let s := modBucket key b (fun u =>
      { u with passed := u.passed + 1, mark := u.mark || marked, prom := u.prom || x.promoted, amax := f32Max u.amax (amaxOf r.k x.elems) }) s
    match g.homes[b]? with
    | none => s
    | some home =>
      if home = s.sq.addr then homeTake key b q x (r.wire != 0) s
      else
        sendFrame key g.pb t.number (rankOf g.pb s.sq.addr) home
          ⟨b, frResult, q, if x.promoted then 0 else r.wire, blockFlags x, 0⟩ (payloadOf r.wire x) s

/-- The fold of block `q` at a stage, as far as this device can take it: its own operand, added to the partial that has
arrived unless it is the first of the chain; the result goes to the next device of the chain, or into the next stage
(R334, R336). `fuel` is the number of stages left. -/
def foldAt : Nat → Nat → Nat → Nat → Nat → State → State
  | 0, _, _, _, _, s => s
  | fuel + 1, key, b, stage, q, s => match stepOf s key with
    | none => s
    | some (g, t) =>
      let r := tblGetD t.buckets b BucketRun.fresh
      let k := stageKey stage q
      let me := relCoord g.pb s.sq.addr stage
      match tblGet r.mine k, (if me = 0 then none else tblGet r.came k) with
      | some v, p =>
        if me ≠ 0 ∧ p.isNone then s
        else
          let o := match p with
            | none => (v, false)
            | some p => blockAdd r.wire p v
          let s := modBucket key b (fun u => { u with mine := tblErase u.mine k, came := tblErase u.came k }) (progressed key s)
          let s := if p.isNone then s else modGrp key (fun g => { g with added := g.added + 1 }) s
          let s := if o.2 then modStep key (fun t => { t with promoted := t.promoted + 1 })
              (modGrp key (fun g => { g with promoted := g.promoted + 1 }) s)
            else s
          if me + 1 < boxN g.pb stage then
            let s := modBucket key b (fun u => { u with passed := u.passed + 1 }) s
            sendFrame key g.pb t.number (rankOf g.pb s.sq.addr) (boxStep g.pb s.sq.addr stage true)
              ⟨b, frReduce, q, if o.1.promoted then 0 else r.wire, blockFlags o.1, stage⟩ (payloadOf r.wire o.1) s
          else if stage < 3 then
            foldAt fuel key b (stage + 1) q
              (modBucket key b (fun u => { u with mine := tblSet u.mine (stageKey (stage + 1) q) o.1 }) s)
          else terminalTake key b q o.1 s
      | none, _ => s

/-- A block of this device's contribution enters stage 0 (R341, R342). -/
def enterBlock (key b q : Nat) (x : RedBlock) (s : State) : State :=
  foldAt 4 key b 0 q (modBucket key b (fun u => { u with mine := tblSet u.mine (stageKey 0 q) x }) s)

/-! ### Contributions (R295, R297, R341, R342, R351) -/

/-- An element of a contribution: rne(x × 2^k) in the wire format, as FP32, and whether its cast saturated (R295). -/
def castOne (wire : Nat) (k : Int) (x : F32) : FpM (F32 × Bool) :=
  if wire = 0 then pure (if f32IsNan x then nan32 else x, false)
  else do
    let y ← withSat (f32Mul x (pow2F32 k))
    let q ← withSat (convElem wire .rne y.1)
    return (f32Of16 wire q.1, y.2 || q.2)

/-- A block of cast elements, those beyond the bucket's end +0 (R334, R339). -/
def castBlock (es : List (F32 × Bool)) : RedBlock :=
  let vs := es.map (·.1)
  ⟨(vs ++ List.replicate (32 - vs.length) 0).take 32, false, vs.any f32IsNan, es.any (·.2)⟩

/-- The fields of a REDUCE_SEND. -/
structure SendOp where
  bucket : Nat
  elems : Nat
  wire : Nat
  k : Int
  entry : Option Nat
  src : Option TRef
  deriving DecidableEq, Repr

/-- Wire format of a ledger entry (R293). -/
def entryWire (s : State) (c : Court) (t : TrainStep) (e : Nat) : Nat := fld (courtRead s c (t.ledgerAt + 129 + 128 * e) 1) 0 1

/-- Reads and checks the fields of a REDUCE_SEND of a MODE (R295, R297, R341; 05 R171). -/
def sendOp (s : State) (v : WoEnv) (mode : Nat) (g : Group) (t : TrainStep) : Except Nat SendOp := do
  let wo := v.wo
  let b := fld wo 52 4
  let e := fld wo 64 4
  let wire := if t.rewarm then 0 else fld wo 60 1
  need (fld wo 48 2 == fld g.pb 0 2 && zeroFld wo 50 2 && zeroFld wo 62 2 && zeroFld wo 68 60 && decide (b < grpBuckets g.pb) &&
    fld wo 56 4 == bucketElems g.pb b && decide (fld wo 60 1 ≤ 2) && fld wo 61 1 == mode && inBox g.pb s.sq.addr &&
    !(tblGet t.buckets b).any (·.begun)) tcBadField
  need (wire == 0 || (decide (e < t.entries) && tblGetD t.kinds e 0 == 1 && entryWire s v.x.court t e == wire)) tcBadField
  let src ← tensorOpt v.x wo 32
  need (src.isSome == (mode == 0)) tcBadField
  match src with
  | none => pure ()
  | some a =>
    need (tCode a != 0x0C && !fmtTscaled a.fmt) tcBadFormat
    readable s v.x a 1 0 (bucketElems g.pb b)
  return ⟨b, bucketElems g.pb b, wire, if wire = 0 then 0 else tblGetD t.scales e 0, if fld wo 60 1 = 0 then none else some e, src⟩

/-- The bucket is open on this device under a REDUCE_SEND (R341, R342). -/
def beginBucket (key : Nat) (o : SendOp) (wo : Option (Nat × Nat)) (s : State) : State :=
  modBucket key o.bucket (fun r => { r with wire := o.wire, k := o.k, entry := o.entry, wo := wo, begun := true })
    (openBucket key o.bucket s)

/-- The contribution is handed to the host in place of the Junction (R351). -/
def handBucket (key b : Nat) (blocks : List RedBlock) (s : State) : State := match stepOf s key with
  | none => s
  | some (g, t) =>
    let r := tblGetD t.buckets b BucketRun.fresh
    let bytes := ((blocks.map (payloadOf r.wire)).flatten).take ((if r.wire = 0 then 4 else 2) * bucketElems g.pb b)
    let s := modBucket key b (fun r => { r with passed := blocks.length, mark := r.mark || blocks.any (fun x => x.nonfin || x.sat) }) s
    match areaPut (grpCourt key) 1 [bytes] s with
    | (none, s) =>
      let s := if (assistKey s (grpCourt key)).isSome then s else (ask (grpCourt key) 1 [] (.bucket key b false) s).2
      abandonStep key stAssistTimeout s
    | (some offs, s) =>
      let data := natLe 4 b ++ natLe 1 r.wire ++ zeros 3 ++ natLe 1 ((r.k % 256).toNat) ++ zeros 7 ++ natLe 8 (offs.getD 0 0)
      (ask (grpCourt key) 1 data (.bucket key b false) s).2

/-- A contribution that is complete block by block goes into the reduction (R341, R351). -/
def contribute (key b : Nat) (blocks : List RedBlock) (s : State) : State := match stepOf s key with
  | none => s
  | some (_, t) =>
    let r := tblGetD t.buckets b BucketRun.fresh
    let a := amaxOf r.k ((blocks.map (·.elems)).flatten)
    let s := modBucket key b (fun u => { u with amax := f32Max u.amax a }) (progressed key s)
    if stepMode t 1 then handBucket key b blocks s
    else blocks.zipIdx.foldl (fun s e => enterBlock key b e.2 e.1 s) s

/-- The blocks of a LAYER contribution (R341). -/
def layerBlocks (s : State) (x : Ctx) (o : SendOp) (a : TRef) : FpM (List RedBlock) := do
  let es ← (rowF32 s x a 0 o.elems).mapM (castOne o.wire o.k)
  return (List.range (ceilDiv o.elems 32)).map (fun q => castBlock ((es.drop (32 * q)).take 32))

/-- Effect of a LAYER REDUCE_SEND whose fields are right, with the counts of its casts (R341). -/
def sendLayer (key : Nat) (v : WoEnv) (o : SendOp) (s : State) : State × Counts := match o.src with
  | none => (s, ⟨0, 0⟩)
  | some a =>
    let r := runFp (layerBlocks s v.x o a)
    (takeAll key [] (askHome key (contribute key o.bucket r.1 (beginBucket key o none s))), r.2)

/-- The elements that a GEMM supplies are ones that its bucket still lacks (R342). -/
def supplyOk (g : Group) (t : TrainStep) (b : Nat) (es : List (Nat × F32)) : Bool := match tblGet t.buckets b with
  | none => false
  | some r => r.wo.isSome && es.all (fun e => decide (e.1 < bucketElems g.pb b) && (tblGet r.supplied e.1).isNone) &&
      (es.map (·.1)).eraseDups.length == es.length

/-- The elements of block `q` that have been supplied, in order. -/
def suppliedBlock (n : Nat) (r : BucketRun) (q : Nat) : Option (List (F32 × Bool)) :=
  (List.range (min 32 (n - 32 * q))).mapM (fun i => tblGet r.supplied (32 * q + i))

/-- Every element of a TILE bucket has been supplied: its REDUCE_SEND retires (R342). -/
def tileDone (key b : Nat) (s : State) : State := match stepOf s key with
  | none => s
  | some (g, t) =>
    let r := tblGetD t.buckets b BucketRun.fresh
    match r.wo with
    | none => s
    | some (run, i) =>
      if r.supplied.length < bucketElems g.pb b then s
      else
        let blocks := (List.range (bucketBlocks g.pb b)).map (fun q => castBlock ((suppliedBlock (bucketElems g.pb b) r q).getD []))
        let s := modBucket key b (fun u => { u with wo := none }) s
        let s := if stepMode t 1 then handBucket key b blocks s else s
        finishWo run i ⟨tcOk, 0, false, false, 0, 0, 0xFFFF⟩ s

/-- A GEMM's drained elements supply a TILE bucket; a block enters stage 0 when its last element has come (R342). -/
def supplyBucket (key b : Nat) (es : List (Nat × F32)) (s : State) : State × Counts := match stepOf s key with
  | none => (s, ⟨0, 0⟩)
  | some (g, t) =>
    let r := tblGetD t.buckets b BucketRun.fresh
    let c := runFp (es.mapM (fun e => do return (e.1, ← castOne r.wire r.k e.2)))
    let a := amaxOf r.k (c.1.map (fun e => e.2.1))
    let s := modBucket key b (fun u =>
      { u with supplied := c.1.foldl (fun m e => tblSet m e.1 e.2) u.supplied, amax := f32Max u.amax a }) (progressed key s)
    let qs := (es.map (fun e => e.1 / 32)).eraseDups
    let s := if stepMode t 1 then s else qs.foldl (fun s q => match stepOf s key with
      | none => s
      | some (_, t) => match suppliedBlock (bucketElems g.pb b) (tblGetD t.buckets b BucketRun.fresh) q with
        | none => s
        | some l => enterBlock key b q (castBlock l) s) s
    (takeAll key [] (askHome key (tileDone key b s)), c.2)

/-- The reply to a bucket's record: a contribution is accepted; at the home, S as the host supplies it (R351). -/
def bucketAnswered (key b : Nat) (home : Bool) (disp : Nat) (data : List Byte) (s : State) : State :=
  match stepOf s key with
  | none => s
  | some (g, t) =>
    let n := bucketElems g.pb b
    if !home then (if disp = 0 then settle s else abandonStep key stAssistTimeout s)
    else if disp ≠ 1 ∨ data.length < 4 * n then abandonStep key stAssistTimeout s
    else
      let w (e : Nat) : F32 := if n ≤ e then 0 else if f32IsNan (fld data (4 * e) 4) then nan32 else fld data (4 * e) 4
      let xs := (List.range (bucketBlocks g.pb b)).map (fun q => (List.range 32).map (fun i => w (32 * q + i)))
      let scaled := !t.rewarm && (tblGet t.buckets b).all (fun r => !r.begun || r.wire != 0)
      let k := if scaled then bucketK t b else 0
      let a := amaxOf k xs.flatten
      let bad := xs.any (fun l => l.any f32IsNan)
      let s := modBucket key b (fun u => { u with amax := f32Max u.amax a, mark := u.mark || bad }) s
      let s := xs.zipIdx.foldl (fun s e => homeTake key b e.2 ⟨e.1, false, e.1.any f32IsNan, false⟩ scaled s) s
      takeAll key [] (askHome key s)

/-! ### REDUCE frames (R336 to R339) -/

/-- A REDUCE frame fits its group: bucket, block, stage and FORMAT (R336, R337). -/
def reduceFits (s : State) (g : Group) (t : TrainStep) (h : FrameHdr) : Bool :=
  let r := tblGetD t.buckets h.bucket BucketRun.fresh
  decide (h.bucket < grpBuckets g.pb) && decide (h.block < bucketBlocks g.pb h.bucket) && decide (h.stage ≤ 3) &&
  inBox g.pb s.sq.addr && relCoord g.pb s.sq.addr h.stage != 0 &&
  (List.range h.stage).all (fun i => relCoord g.pb s.sq.addr i == boxN g.pb i - 1) &&
  (h.fmt == 0 || !r.begun || h.fmt == r.wire) && (tblGet r.came (stageKey h.stage h.block)).isNone

/-- A REDUCE frame can be taken: it is to be discarded, or its bucket holds contexts here or may take them (R344). -/
def reduceReady (s : State) (m : List Byte) : Bool := match frameStep s m with
  | none => true
  | some (_, g, t) => !reduceFits s g t (hdrOf m) || bucketFits s.sq.addr g t (hdrOf m).bucket

/-- REDUCE_FRAME: the partial is added into the stage fold in canonical order and sent on, or promoted (R334 to R339). -/
def execReduceFrame (s : State) : Res := match takeFrame (fun m => isKind frReduce m && reduceReady s m) s with
  | none => .next s
  | some (av, m, s) => match frameStep s m with
    | none => .next (frameError av s)
    | some (key, g, t) =>
      let h := hdrOf m
      if !reduceFits s g t h then .next (frameError av s)
      else
        let p := frameCrypt s key g.pb false t.number (rankOf g.pb s.sq.addr - 16 ^ h.stage) h (m.drop 16)
        let s := openBucket key h.bucket (progressed key s)
        let s := modBucket key h.bucket (fun u => { u with came := tblSet u.came (stageKey h.stage h.block) (blockOf h p) }) s
        .next (takeAll key [] (askHome key (foldAt 4 key h.bucket h.stage h.block s)))

end Sys2Proof.Machine
end

