-- ==== Sys2Proof/Machine/Training.lean ====
section
/-! DEFINITION. Training steps: STEP, the opening, the scale ledger, tagged tensors, commit, skip and hold
(spec/09_training.md R286 to R299, R311 to R317; spec/11_distillation.md R355 to R357). -/

namespace Sys2Proof.Machine

/-! ### The scale ledger (R292 to R298) -/

/-- Court address of a ledger entry. -/
def entryAt (ledgerAt i : Nat) : Nat := ledgerAt + 128 + 128 * i

/-- The 128 bytes of a ledger entry. -/
def ledgerEntry (s : State) (c : Court) (ledgerAt i : Nat) : List Byte := courtRead s c (entryAt ledgerAt i) 128

/-- T of a wire format (R295). -/
def wireTop (wf : Nat) : Int := if wf = 4 then 7 else 14

/-- The exponent k for an amax (R295). -/
def scaleFor (wf headroom backoff : Nat) (h : Option F32) : Int := match h.bind f32Val with
  | none => 0
  | some x =>
    if x.mag = 0 then 0 else max (-126) (min 126 (wireTop wf - dyLog2 x - headroom - backoff))

/-- The largest finite value among the valid history values (R295). -/
def histMax (e : List Byte) : Option F32 :=
  let l := ((List.range (min 16 (fld e 2 1))).map (fun i => fld e (64 + 4 * i) 4)).filter (fun x => !f32IsNan x)
  match l with
  | [] => none
  | x :: t => some (t.foldl f32Max x)

/-- SCALE_EXP of an entry at an opening (R295). -/
def entryScale (headroom : Nat) (e : List Byte) : Int := scaleFor (fld e 1 1) headroom (fld e 4 1) (histMax e)

/-- The step is a rewarm step: it runs without a ledger (R294). -/
def isRewarm (hdr : List Byte) (group number : Nat) (force : Bool) : Bool :=
  force || fld hdr 0 4 != 0x47444C55 || fld hdr 4 2 != 1 || fld hdr 10 1 == 0 || fld hdr 8 2 != group ||
  fld hdr 16 8 + 1 != number

/-- Writes SCALE_EXP of every entry at the opening (R290, R295). -/
def writeScales (c : Court) (ledgerAt : Nat) (ks : List (Nat × Int)) (s : State) : State :=
  ks.foldl (fun s k => courtWrite c (entryAt ledgerAt k.1 + 7) (natLe 1 ((k.2 % 256).toNat)) s) s

/-- What the outcome of a step says about an entry: its amax, its mark, and a promotion (R298, R299). -/
structure EntryNews where
  amax : F32
  mark : Bool
  prom : Bool
  deriving DecidableEq, Repr

/-- A history with a value in slot NEXT: FILL, NEXT and HISTORY after; an amax that is not finite is not written
(R298). -/
def pushAmax (e : List Byte) (a : F32) : Nat × Nat × List Byte :=
  let fill := fld e 2 1
  let nx := fld e 3 1 % 16
  if f32IsNan a then (fill, nx, e.drop 64)
  else (min 16 (fill + 1), (nx + 1) % 16, (slice e 64 (4 * nx)) ++ natLe 4 a ++ e.drop (68 + 4 * nx))

/-- FLAGS of an entry after a step (R293). -/
def newsFlags (n : EntryNews) : Nat := b2n n.mark + 2 * b2n (n.mark && n.prom)

/-- An entry after a commit with the ledger present (R298). -/
def entryCommit (e : List Byte) (n : EntryNews) : List Byte :=
  let h := pushAmax e n.amax
  let bo := fld e 4 1
  let cl := fld e 5 1
  let full := decide (16 ≤ cl + 1)
  let bo' := if n.mark then min 15 (bo + 1) else if full then bo - 1 else bo
  let cl' := if n.mark ∨ full then 0 else cl + 1
  let ov := if n.mark then min (2 ^ 32 - 1) (fld e 8 4 + 1) else fld e 8 4
  e.take 2 ++ natLe 1 h.1 ++ natLe 1 h.2.1 ++ natLe 1 bo' ++ natLe 1 cl' ++ natLe 1 (newsFlags n) ++ slice e 7 1 ++ natLe 4 ov ++
  slice e 12 52 ++ h.2.2

/-- An entry after the commit of a rewarm step (R298). -/
def entryRewarm (e : List Byte) (n : EntryNews) : List Byte :=
  let ov := if n.mark then min (2 ^ 32 - 1) (fld e 8 4 + 1) else fld e 8 4
  let fin := !f32IsNan n.amax
  e.take 2 ++ natLe 1 (if fin then 1 else fld e 2 1) ++ natLe 1 (if fin then 1 else fld e 3 1) ++ natLe 1 (b2n n.mark) ++ [0#8] ++
  natLe 1 (newsFlags n) ++ slice e 7 1 ++ natLe 4 ov ++ slice e 12 52 ++
  (if fin then natLe 4 n.amax ++ e.drop 68 else e.drop 64)

/-- A marked entry after a step that did not commit with NONFINITE set (R298). -/
def entrySkip (e : List Byte) (n : EntryNews) : List Byte :=
  if n.mark then
    e.take 4 ++ natLe 1 (min 15 (fld e 4 1 + 1)) ++ [0#8] ++ natLe 1 (newsFlags n) ++ slice e 7 1 ++
    natLe 4 (min (2 ^ 32 - 1) (fld e 8 4 + 1)) ++ e.drop 12
  else e

/-! ### Vote records (10 R346) -/

/-- Bytes of a vote record: with its header and bucket entries, or the shard entries alone (10 R346, R349). -/
def voteLen (pb : List Byte) (full : Bool) : Nat :=
  if full then 32 + 32 * grpShards pb + 8 * grpBuckets pb else 32 * grpShards pb

/-- The neutral shard entry (10 R346). -/
def neutralShard : List Byte := List.replicate 8 0xFF#8 ++ zeros 16 ++ [0xFF#8, 0xFF#8] ++ zeros 6

/-- The neutral record of a step (10 R346). -/
def neutralRec (pb : List Byte) (step : Nat) (full : Bool) : List Byte :=
  let sh := (List.replicate (grpShards pb) neutralShard).flatten
  if full then natLe 8 step ++ zeros 24 ++ sh ++ zeros (8 * grpBuckets pb) else sh

/-- Two headers combined: CAUSE by OR, VOTERS and PROMOTED by saturating sum (10 R346). -/
def combineHdr (a b : List Byte) : List Byte :=
  a.take 8 ++ natLe 1 (fld a 8 1 ||| fld b 8 1) ++ zeros 3 ++ natLe 4 (min (2 ^ 32 - 1) (fld a 12 4 + fld b 12 4)) ++
  natLe 4 (min (2 ^ 32 - 1) (fld a 16 4 + fld b 16 4)) ++ zeros 12

/-- Two shard entries combined (10 R335, R346). -/
def combineShard (a b : List Byte) : List Byte :=
  let low := if fld b 24 2 < fld a 24 2 then b else a
  natLe 8 (min (fld a 0 8) (fld b 0 8)) ++ natLe 8 (max (fld a 8 8) (fld b 8 8)) ++ slice low 16 10 ++
  natLe 2 (min 65535 (fld a 26 2 + fld b 26 2)) ++ zeros 4

/-- Two bucket entries combined: AMAX by maximum, MARK by OR (10 R346). -/
def combineBucket (a b : List Byte) : List Byte :=
  natLe 4 (f32Max (fld a 0 4) (fld b 0 4)) ++ natLe 1 (fld a 4 1 ||| fld b 4 1) ++ zeros 3

/-- Two 32-byte units of vote records at an offset, combined (10 R346). -/
def combineUnit (full : Bool) (shards o : Nat) (a b : List Byte) : List Byte :=
  if full ∧ o = 0 then combineHdr a b
  else if o < (if full then 32 else 0) + 32 * shards then combineShard a b
  else ((List.range (a.length / 8)).map (fun i => combineBucket (slice a (8 * i) 8) (slice b (8 * i) 8))).flatten

/-- A record with a 256-byte piece of another combined into it (10 R347). -/
def combinePiece (full : Bool) (shards i : Nat) (acc piece : List Byte) : List Byte :=
  let here := slice acc (256 * i) 256
  let new := ((List.range (ceilDiv here.length 32)).map (fun u =>
    combineUnit full shards (256 * i + 32 * u) (slice here (32 * u) 32) (slice piece (32 * u) 32))).flatten
  acc.take (256 * i) ++ new ++ acc.drop (256 * i + 256)

/-- A whole record combined into another. -/
def combineRecs (full : Bool) (shards : Nat) (acc r : List Byte) : List Byte :=
  (piecesOf r).foldl (fun a p => combinePiece full shards p.1 a p.2) acc

/-- The shard entry of a shard in a record. -/
def recShard (full : Bool) (r : List Byte) (i : Nat) : List Byte := slice r ((if full then 32 else 0) + 32 * i) 32

/-- The bucket entry of a bucket in a full record. -/
def recBucket (pb r : List Byte) (b : Nat) : List Byte := slice r (32 + 32 * grpShards pb + 8 * b) 8

/-- This device's shard entries (10 R346). -/
def ownShards (s : State) (g : Group) (t : TrainStep) : List Byte :=
  ((List.range (grpShards g.pb)).map (fun i => match (t.shards.find? (fun d => d.shard == i)).bind (·.digest) with
    | none => neutralShard
    | some x => natLe 8 x ++ natLe 8 x ++ natLe 8 x ++ natLe 2 (rankOf g.pb s.sq.addr) ++ natLe 2 1 ++ zeros 4)).flatten

/-- This device's vote (R313; 10 R346). -/
def ownVote (s : State) (g : Group) (t : TrainStep) : List Byte :=
  natLe 8 t.number ++ natLe 1 t.cause ++ zeros 3 ++ natLe 4 1 ++ natLe 4 t.promoted ++ zeros 12 ++ ownShards s g t ++
  ((List.range (grpBuckets g.pb)).map (fun b => match tblGet t.buckets b with
    | none => zeros 8
    | some r => natLe 4 r.amax ++ natLe 1 (b2n r.mark + 2 * b2n r.prom) ++ zeros 3)).flatten

/-! ### STEP (R288, R289) -/

/-- Bytes of a STEP's parameter block. -/
def stepLay (c : Cmd) : Nat := 48 + 16 * fld c.pb 38 2 + 4 * fld c.pb 40 2

/-- The buffer entries of a STEP (R288). -/
def stepBufs (pb : List Byte) : List (Nat × Nat) :=
  (List.range (fld pb 38 2)).map (fun i => (fld pb (48 + 16 * i) 4, fld pb (56 + 16 * i) 8))

/-- The bindings of a STEP: handle and TRAIN (R288). -/
def stepBinds (pb : List Byte) : List (Nat × Bool) :=
  (List.range (fld pb 40 2)).map (fun i =>
    let o := 48 + 16 * fld pb 38 2 + 4 * i
    (fld pb o 2, bit (fld pb (o + 2) 1) 0))

/-- The opcode is STEP or DISTIL_STEP: both are a STEP of the group (11 R356). -/
def isStepOp (op : Nat) : Bool := op == opStep || op == opDistilStep

/-- Key of the group that a STEP names. -/
def stepKey (c : Cmd) : Nat := grpKey c.q.owner (fld c.pb 4 2)

/-- The STEP of a group that has passed its start checks and is unretired. -/
def stepCmd (s : State) (key : Nat) : Option Cmd :=
  s.cmd.cmds.find? (fun c => isStepOp c.opcode && c.work == [1] && stepKey c == key)

/-- Key of a Court's distillation job. -/
def jobKey (court j : Nat) : Nat := court * 4 + j

/-- The fields of a STEP are in range (R288). -/
def stepFieldsOk (pb : List Byte) : Bool :=
  let bs := stepBufs pb
  decide (fld pb 7 1 ≤ 1) && (fld pb 6 1 == 0xFF || decide (fld pb 6 1 < 32)) && fld pb 16 8 % 4096 == 0 &&
  fld pb 24 8 % 16 == 0 && decide (fld pb 38 2 ≤ 4096) && decide (fld pb 40 2 ≤ 256) &&
  (bs.map (·.1)).eraseDups.length == bs.length &&
  (List.range bs.length).all (fun i => zeroFld pb (52 + 16 * i) 4) &&
  (List.range (fld pb 40 2)).all (fun i =>
    let o := 48 + 16 * bs.length + 4 * i
    decide (fld pb (o + 2) 1 ≤ 1) && zeroFld pb (o + 3) 1)

/-- The plan is one that a training step takes: no WRITABLE BASE or ADAPTER symbol, and of the upper bits of a BASE
symbol's VALUE only bit 63, in a DISTIL_STEP (R288; 11 R357). -/
def planTrains (p : Package) (distil : Bool) : Bool :=
  p.symbols.all (fun y => !(y.writable && (y.kind == 3 || y.kind == 4)) &&
    (y.kind != 4 || (bits y.value 62 32 == 0 && (distil || !bit y.value 63))))

/-- The first-stage checks of a STEP: none, or the outcome (R289; 11 R356). -/
def stepRefusal (s : State) (c : Cmd) (distil : Bool) : Option CmdEnd :=
  let court := c.q.owner
  let key := stepKey c
  match grpOf s key with
  | none => some (finSt stStateConflict)
  | some g =>
    if g.state ≠ .formed then some (finSt stStateConflict)
    else if fld c.pb 8 8 ≠ g.nextStep then some (finRes stStateConflict (natLe 8 g.nextStep))
    else if (stepCmd s key).isSome ∨ g.step.any (fun t => t.phase == .held) then some (finSt stStateConflict)
    else if distil ∧ (tblGet s.jobs (jobKey court (fld c.pb 42 2))).isNone then some (finSt stStateConflict)
    else if distil ∧ (4 ≤ fld c.pb 42 2 ∨
        (tblGet s.jobs (jobKey court (fld c.pb 42 2))).any (fun j => j.group != fld c.pb 4 2)) then some (finSt stInvalidField)
    else match pkgOf s court (fld c.pb 0 4) with
      | none => some (finSt stInvalidField)
      | some p =>
        if !stepFieldsOk c.pb ∨ 4096 < fld c.pb 36 2 + p.sems ∨ !planTrains p distil then some (finSt stInvalidField) else none

/-- Effect of STEP and DISTIL_STEP: the first-stage checks; the step then waits to open (R289). -/
def stepBody (distil : Bool) (c : Cmd) (s : State) : State × Did :=
  if c.work = [1] then (s, .stay)
  else match stepRefusal s c distil with
    | some f => (s, .fin f)
    | none => (modCmd c.q c.cid (fun c => { c with work := [1] }) s, .stay)

/-- STEP (R288). -/
def execStep (q : QId) (cid : Nat) (s : State) : Res :=
  .next (runCmd opStep q cid stepLay [(42, 6)] (stepBody false) s)

/-- DISTIL_STEP (11 R356). -/
def execDistilStep (q : QId) (cid : Nat) (s : State) : Res :=
  .next (runCmd opDistilStep q cid stepLay [(44, 4)] (stepBody true) s)

/-! ### The end of a step (R298, R314, R315) -/

/-- Retires the STEP of a group with the fields of R315. -/
def retireStep (t : TrainStep) (status cause promoted shards : Nat) (s : State) : State :=
  match (if t.posted then none else findCmd s t.q t.cid) with
  | none => s
  | some c =>
    let res := natLe 8 t.number ++ natLe 1 cause ++ natLe 1 t.cause ++ natLe 2 (min 65535 promoted) ++ natLe 4 shards
    let cut := status = stAborted ∨ status = stTimeout
    retire c { finRes status res with notes := if t.rewarm then noteRewarm else 0, withdrawn := cut } s

/-- What the combined vote and this device's own tensors say about an entry; none where the step did not use it. -/
def entryNews (g : Group) (t : TrainStep) (r : List Byte) (e : Nat) : Option EntryNews :=
  if tblGetD t.kinds e 0 = 2 then
    (tblGet t.amax e).map (fun a => ⟨a, t.marked.contains e, false⟩)
  else
    ((List.range (grpBuckets g.pb)).filter (fun b => bucketEntry t b == some e)).foldl (fun acc b =>
      let x := recBucket g.pb r b
      let n : EntryNews := ⟨fld x 0 4, bit (fld x 4 1) 0, bit (fld x 4 1) 1⟩
      match acc with
      | none => some n
      | some m => some ⟨f32Max m.amax n.amax, m.mark || n.mark, m.prom || n.prom⟩) none

/-- Rewrites the ledger entries that a step used. -/
def writeEntries (s : State) (c : Court) (g : Group) (t : TrainStep) (r : List Byte)
    (f : List Byte → EntryNews → List Byte) : State :=
  (List.range t.entries).foldl (fun s e => match entryNews g t r e with
    | none => s
    | some n => courtWrite c (entryAt t.ledgerAt e) (f (ledgerEntry s c t.ledgerAt e) n) s) s

/-- LEDGER_WRITE: the ledger at the step's outcome (R298). -/
def writeLedger (g : Group) (t : TrainStep) (r : List Byte) (committed : Bool) (s : State) : State :=
  match courtOf s t.q.owner with
  | none => s
  | some c =>
    let h := courtRead s c t.ledgerAt 64
    if committed then
      let s := writeEntries s c g t r (if t.rewarm then entryRewarm else entryCommit)
      let s := if t.rewarm then courtWrite c (t.ledgerAt + 8) (g.pb.take 2 ++ [1#8]) s else s
      courtWrite c (t.ledgerAt + 16) (natLe 8 t.number) s
    else
      let s := if bit (fld r 8 1) 0 then writeEntries s c g t r entrySkip else s
      courtWrite c (t.ledgerAt + 24) (natLe 8 (fld h 24 8 + 1)) s

/-- Retires the AT_COMMIT replacement that waits on a handle, which takes effect now (07 R237). -/
def applyNext (court h : Nat) (s : State) : State :=
  let e := entryOf s h
  match e.next, e.nextCmd with
  | some v, some (q, cid) =>
    let n := (e.cur.map (·.version)).getD 0 + 1
    let s := modEntry h (fun e => { e with next := none, nextCmd := none }) s
    let short := drainShort s e
    let s := if short then s else installVersion court h { v with version := n } s
    match findCmd s q cid with
    | none => s
    | some c => retire c (if short then finSt stNoResource else finRes stSuccess (zeros 4 ++ natLe 4 n)) s
  | _, _ => s

/-- A step's bindings end: TRAIN returns to 0, versions and slots are released (R314). -/
def releaseBinds (t : TrainStep) (s : State) : State :=
  let s := t.binds.foldl (fun s b => if b.train then modEntry b.handle (fun e => { e with train := 0 }) s else s) s
  let s := t.binds.foldl (fun s b => dropVersion b.handle b.version s) s
  (t.base.toList ++ t.teacher.toList).foldl (fun s n => refSlot n (-1) s) s

/-- The reserved next version of a trained handle becomes current (R314; 07 R237). -/
def commitVersion (court : Nat) (b : TrainBind) (s : State) : State :=
  match (entryOf s b.handle).cur, b.nextAt with
  | some v, some a =>
    if b.train ∧ v.version = b.version then
      let new : AdVersion :=
        { v with version := v.version + 1, commits := v.commits + 1, poolAt := some a, coldHeld := false, locks := [],
                 refs := 0, wanted := false, fetchFail := none }
      installVersion court b.handle new s
    else s
  | _, _ => s

/-- Writes the Square's fields of a shard's commit record at the outcome, in one line write (R311, R314). -/
def commitRecord (c : Court) (committed : Bool) (d : ShardRun) (s : State) : State :=
  let a := hypCommitAt d.hyper
  let r := courtRead s c a 64
  if committed then
    courtWrite c a (slice r 8 8 ++ zeros 8 ++ slice r 16 8 ++ slice r 16 8 ++ natLe 1 (1 - fld r 32 1 % 2) ++ r.drop 33) s
  else courtWrite c a (r.take 8 ++ zeros 8 ++ r.drop 16) s

/-- Ends the step in its group. -/
def endStep (key : Nat) (s : State) : State :=
  let gone (p : AssistPurpose) : Bool := match p with
    | .clip k => k == key
    | .update k => k == key
    | .bucket k _ _ => k == key
    | .resync k => k == key
    | _ => false
  { modGrp key (fun g => { g with step := none }) s with cmd.assists := s.cmd.assists.filter (fun a => !gone a.purpose) }

/-- The waiting AT_COMMIT replacements of a step's handles take effect (07 R237). -/
def applyNexts (court : Nat) (t : TrainStep) (s : State) : State :=
  (t.binds.filter (·.train)).foldl (fun s b => applyNext court b.handle s) s

/-- Commit (R314): records, versions, step number, ledger; the STEP retires (R315). -/
def commitStep (key : Nat) (r : List Byte) (s : State) : State :=
  match stepOf s key, courtOf s (grpCourt key) with
  | some (g, t), some c =>
    let done := t.shards.filter (fun d => d.digest.isSome)
    let s := done.foldl (fun s d => commitRecord c true d s) s
    let s := releaseBinds t s
    let s := t.binds.foldl (fun s b => commitVersion (grpCourt key) b s) s
    let s := writeLedger g t r true s
    let s := modGrp key (fun g => { g with nextStep := t.number + 1, committed := t.number }) (endStep key s)
    let s := applyNexts (grpCourt key) t s
    let div := (t.verdict.getD 0) % 8 / 4 == 1
    let st := if div then stReplicaDiverged else if t.rewarm then stScaleRewarm else stSuccess
    retireStep t st (8 + (if div then 4 else 0)) (fld r 16 4) done.length s
  | _, _ => s

/-- Skip (R314): prepared records and reserved space are dropped; the STEP retires (R315). A device whose opening failed
has nothing to undo (R289). -/
def skipStep (key : Nat) (r : List Byte) (s : State) : State :=
  match stepOf s key, courtOf s (grpCourt key) with
  | some (g, t), some c =>
    let s := t.shards.foldl (fun s d => commitRecord c false d s) s
    let s := releaseBinds t s
    let s := if !t.posted ∧ t.entries ≠ 0 then writeLedger g t r false s else s
    let s := applyNexts (grpCourt key) t (endStep key s)
    retireStep t (t.own.getD stStepSkipped) (fld r 8 1 % 4) (fld r 16 4) 0 s
  | _, _ => s

/-- The step stays held: its command retires, its next copies and prepared records are kept (R317; 10 R348). -/
def holdStep (key status cause : Nat) (r : List Byte) (s : State) : State := match stepOf s key with
  | none => s
  | some (g, t) =>
    let s := releaseBinds t s
    let s := if !t.posted ∧ t.entries ≠ 0 then writeLedger g t r false s else s
    let s := applyNexts (grpCourt key) t s
    let s := modStep key (fun t => { t with phase := .held, base := none, teacher := none, posted := true }) s
    retireStep t status cause (fld r 16 4) 0 s

/-- Discards a held step, as a skip (R317). -/
def discardHeld (key : Nat) (s : State) : State := match stepOf s key, courtOf s (grpCourt key) with
  | some (_, t), some c =>
    if t.phase = .held then endStep key (t.shards.foldl (fun s d => commitRecord c false d s) s) else s
  | _, _ => s

/-! ### Vote and outcome (R313, R314, R317; 10 R346 to R350) -/

/-- Copies of a shard that a complete vote counts: every box member, and the home where it is a helper (10 R347). -/
def holdersDue (g : Group) (t : TrainStep) (i : Nat) : Nat :=
  boxCount g.pb + (match (t.shards.find? (fun d => d.shard == i)).bind (fun d => g.homes[d.bucket]?) with
    | none => 0
    | some h => if inBox g.pb h then 0 else 1)

/-- The reduced CAUSE as the terminal decides it (10 R347). -/
def decideCause (g : Group) (t : TrainStep) (r : List Byte) : Nat :=
  let cause := fld r 8 1
  if cause ≠ 0 then cause
  else if fld r 12 4 ≠ memberCount g.pb then 2
  else if (List.range (grpShards g.pb)).any (fun i =>
      let n := fld (recShard true r i) 26 2
      n != 0 && n != holdersDue g t i) then 2
  else 0

/-- The shards of a record whose digests disagree (10 R347). -/
def diverged (pb : List Byte) (full : Bool) (r : List Byte) : List Nat :=
  (List.range (grpShards pb)).filter (fun i =>
    let e := recShard full r i
    fld e 26 2 != 0 && fld e 0 8 != fld e 8 8)

/-- The phase in which a step takes its second vote and its repairs. -/
def inRepair (t : TrainStep) : Bool := t.phase == .repairing

/-- The shard's own copy has still to be overwritten by the canonical one (10 R349, R350). -/
def repairNeeds (s : State) (g : Group) (t : TrainStep) (r : List Byte) (p : Nat × Nat) : Bool :=
  match t.shards.find? (fun d => d.shard == p.1) with
  | none => false
  | some d => p.2 != rankOf g.pb s.sq.addr && (t.resync || d.digest != some (fld (recShard true r p.1) 16 8))

/-- Every repair of this device's copies is complete (10 R349). -/
def repairsDone (t : TrainStep) : Bool :=
  t.repaired.all (fun p => match t.shards.find? (fun d => d.shard == p.1) with
    | none => true
    | some d => decide (d.elements ≤ 32 * p.2.length))

/-- The REPAIR frames of a shard from its canonical copy (10 R349). -/
def sendRepair (key : Nat) (g : Group) (t : TrainStep) (shard : Nat) (s : State) : State :=
  match t.shards.find? (fun d => d.shard == shard), courtOf s (grpCourt key) with
  | some d, some c =>
    let me := s.sq.addr
    let box := if inBox g.pb me then fanChildren g.pb me me else [entryFor s g.pb me]
    let home := (g.homes[d.bucket]?).toList.filter (fun h => !inBox g.pb h && h != me)
    (List.range (d.elements / 32)).foldl (fun s q =>
      let b := courtRead s c ((replicaAt d true).getD 0 + 64 * q) 64
      (box ++ home).foldl (fun s a => sendFrame key g.pb t.number (rankOf g.pb me) a ⟨shard, frRepair, q, d.fmt, 0, 0⟩ b s) s) s
  | _, _ => s

/-- What a complete vote of this member's subtree leads to (10 R347): it goes on toward the terminal, or the terminal
sends the outcome, which it applies itself. `own` applies an outcome. -/
def voteUp (own : State → State) (key : Nat) (s : State) : State := match stepOf s key with
  | none => s
  | some (g, t) =>
    let me := s.sq.addr
    let full := !inRepair t
    let cast := if full then t.phase == .voted else t.second
    let pieces := ceilDiv (voteLen g.pb full) 256
    if !cast ∨ t.sentUp ∨ (List.range pieces).any (fun i => tblGetD t.votes i 0 != (if inBox g.pb me then votesDue g.pb me else 0)) then s
    else
      let s := modStep key (fun t => { t with sentUp := true }) s
      if me = terminalOf g.pb then
        let cause := decideCause g t t.acc
        let r := if full then t.acc.take 8 ++ natLe 1 cause ++ t.acc.drop 9 else t.acc
        let s := modStep key (fun t => { t with outcome := r }) s
        own (sendRecord key g.pb t.number frOutcome (fanChildren g.pb me me ++ grpHelpers g.pb) r s)
      else
        let up := if inBox g.pb me then (voteParent g.pb me).toList else [terminalOf g.pb]
        sendRecord key g.pb t.number frVote up t.acc s

/-- Casts the second vote once this device's copies are repaired (10 R349). -/
def secondVote (own : State → State) (key : Nat) (s : State) : State := match stepOf s key with
  | none => s
  | some (g, t) =>
    if t.second ∨ !inRepair t ∨ t.repair = [] ∨ !repairsDone t then s
    else
      let r := combineRecs false (grpShards g.pb) t.acc (ownShards s g t)
      voteUp own key (modStep key (fun t => { t with second := true, acc := r, votedAt := s.sq.time }) s)

/-- The repair of the diverged shards starts: canonical copies are sent, and the second vote follows (10 R349). -/
def beginRepair (own : State → State) (key : Nat) (first : List Byte) (ranks : List (Nat × Nat)) (s : State) : State :=
  match stepOf s key with
  | none => s
  | some (g, t) =>
    let todo := ranks.filter (repairNeeds s g t first)
    let s := modStep key (fun t => { t with repair := ranks, repaired := todo.foldl (fun m p => tblSet m p.1 []) [],
                                            acc := neutralRec g.pb t.number false, votes := [], sentUp := false, second := false,
                                            outcome := [], outGot := [] }) s
    let mine := ranks.filter (fun p => p.2 == rankOf g.pb s.sq.addr)
    secondVote own key (mine.foldl (fun s p => sendRepair key g t p.1 s) s)

/-- The canonical ranks that a decision of the host names, in the shard entries of a record (10 R350). -/
def decidedRanks (pb r : List Byte) : List (Nat × Nat) :=
  (diverged pb false r).filterMap (fun i =>
    let k := fld (recShard false r i) 24 2
    if k = 0xFFFF then none else some (i, k))

/-- The request of a RESYNC decision (10 R350). -/
def resyncData (pb r : List Byte) : List Byte :=
  ((diverged pb true r).map (fun i =>
    let e := recShard true r i
    natLe 4 i ++ slice e 26 2 ++ slice e 24 2 ++ slice e 0 8 ++ slice e 8 8)).flatten

/-- The step is held under repair: with RESYNC in hardware mode the lowest rank's copy is canonical; else the
lowest-ranked box member asks its host, and the others wait (R317; 10 R349, R350). -/
def startRepair (own : State → State) (key : Nat) (r : List Byte) (s : State) : State := match stepOf s key with
  | none => s
  | some (g, t) =>
    let s := modStep key (fun t => { t with phase := .repairing, verdict := some 4, repair := [], first := r, outGot := [], votedAt := s.sq.time }) s
    if !t.resync then
      beginRepair own key r ((diverged g.pb true r).map (fun i => (i, fld (recShard true r i) 24 2))) s
    else if s.sq.addr = firstOf g.pb then
      let a := ask (grpCourt key) 9 (resyncData g.pb r) (.resync key) s
      if a.1 then a.2 else holdStep key stReplicaDiverged 4 r a.2
    else s

/-- An outcome has arrived whole; `n` bounds the outcomes that a single member can take one after another (R314, R317;
10 R347, R349, R350). -/
def applyOutcome : Nat → Nat → State → State
  | 0, _, s => s
  | n + 1, key, s => match stepOf s key with
    | none => s
    | some (g, t) =>
      let r := t.outcome
      match t.phase with
      | .voted =>
        if fld r 8 1 ≠ 0 then skipStep key r s
        else if diverged g.pb true r = [] then commitStep key r s
        else startRepair (applyOutcome n key) key r s
      | .repairing =>
        if t.repair = [] then
          let ranks := decidedRanks g.pb r
          if ranks = [] then holdStep key stReplicaDiverged 4 t.first s else beginRepair (applyOutcome n key) key t.first ranks s
        else if (diverged g.pb false r).all (fun i => !t.repair.any (fun p => p.1 == i)) then commitStep key t.first s
        else holdStep key stReplicaDiverged 4 t.first s
      | _ => s

/-- Casts this device's vote (R313). -/
def castVote (key : Nat) (s : State) : State := match stepOf s key with
  | none => s
  | some (g, t) =>
    if t.phase ≠ .opened then s
    else
      let r := combineRecs true (grpShards g.pb) t.acc (ownVote s g t)
      voteUp (applyOutcome 4 key) key
        (modStep key (fun t => { t with phase := .voted, ended := true, acc := r, votedAt := s.sq.time }) s)

/-- Takes up the end of the plan's run (R312, R313). -/
def takePlanEnd (key : Nat) (s : State) : State :=
  match takeRun s (.training (grpCourt key) (key % 65536)) with
  | none => s
  | some (code, s) =>
    modStep key (fun t =>
      if code = 0 then { t with ended := true }
      else { t with ended := true, cause := t.cause ||| 2, own := some (t.own.getD (runStatus code)) }) s

/-- VOTE_CAST: every work order of the plan has retired, or the step has been abandoned (R313; 10 R346). -/
def execVoteCast (court group : Nat) (s : State) : Res :=
  let key := grpKey court group
  let s := takePlanEnd key s
  match stepOf s key with
  | none => .next s
  | some (_, t) => if t.phase = .opened ∧ t.ended then .next (castVote key s) else .next s

/-- A VOTE frame is one that can be combined now, or is to be discarded. -/
def voteReady (s : State) (m : List Byte) : Bool := match frameStep s m with
  | none => true
  | some (_, g, t) =>
    t.phase != .held && !t.sentUp && inBox g.pb s.sq.addr &&
    decide (tblGetD t.votes (hdrOf m).block 0 < votesDue g.pb s.sq.addr)

/-- VOTE_FRAME: a piece of a vote is combined on its way to the terminal (10 R346, R347). -/
def execVoteFrame (s : State) : Res := match takeFrame (fun m => isKind frVote m && voteReady s m) s with
  | none => .next s
  | some (av, m, s) => match frameStep s m with
    | none => .next (frameError av s)
    | some (key, g, t) =>
      let h := hdrOf m
      let p := frameCrypt s key g.pb false t.number h.bucket h (m.drop 16)
      let full := !inRepair t
      let s := modStep key (fun t => { t with acc := combinePiece full (grpShards g.pb) h.block t.acc p
                                              votes := tblSet t.votes h.block (tblGetD t.votes h.block 0 + 1) }) s
      .next (voteUp (applyOutcome 4 key) key s)

/-- An OUTCOME frame is one that is due here, or is to be discarded. -/
def outcomeReady (s : State) (m : List Byte) : Bool := match frameStep s m with
  | none => true
  | some (_, g, t) =>
    ((t.phase == .voted && t.sentUp) || (inRepair t && (t.sentUp || t.repair == []))) &&
    !t.outGot.contains (hdrOf m).block && decide (256 * (hdrOf m).block < voteLen g.pb (!inRepair t))

/-- OUTCOME_FRAME: a piece of the outcome; the last one makes the member commit, skip or hold (R314; 10 R347). -/
def execOutcomeFrame (s : State) : Res := match takeFrame (fun m => isKind frOutcome m && outcomeReady s m) s with
  | none => .next s
  | some (av, m, s) => match frameStep s m with
    | none => .next (frameError av s)
    | some (key, g, t) =>
      let h := hdrOf m
      let root := addrOf g.pb h.bucket
      let p := frameCrypt s key g.pb false t.number h.bucket h (m.drop 16)
      let s := if inBox g.pb s.sq.addr then
          (fanChildren g.pb root s.sq.addr).foldl (fun s a => sendFrame key g.pb t.number h.bucket a h p s) s
        else s
      let len := voteLen g.pb (!inRepair t)
      let old := padTo len t.outcome
      let new := (old.take (256 * h.block) ++ p ++ old.drop (256 * h.block + 256)).take len
      let got := h.block :: t.outGot
      let s := modStep key (fun t => { t with outcome := new, outGot := got }) s
      .next (if got.length = ceilDiv len 256 then settle (applyOutcome 4 key s) else s)

/-- A REPAIR frame can be taken: its repair has begun here, or it is to be discarded. -/
def repairReady (s : State) (m : List Byte) : Bool := match frameStep s m with
  | none => true
  | some (_, _, t) => inRepair t && t.repair.any (fun p => p.1 == (hdrOf m).bucket)

/-- A block of a canonical copy overwrites this device's (10 R349). -/
def repairBlock (key : Nat) (shard q : Nat) (p : List Byte) (s : State) : State :=
  match stepOf s key, courtOf s (grpCourt key) with
  | some (_, t), some c => match t.shards.zipIdx.find? (fun e => e.1.shard == shard), tblGet t.repaired shard with
    | some (d, i), some got =>
      if got.contains q ∨ d.elements / 32 ≤ q then s
      else
        let s := courtWrite c ((replicaAt d true).getD 0 + 64 * q) p s
        let s := (match d.home, d.cls, d.work, d.replica with
          | true, 0, some _, some a => courtWrite c (a.2 + 64 * q) p s
          | true, 1, _, some a => courtWrite c (a.2 + 64 * q) p s
          | _, _, _, _ => s)
        let s := modStep key (fun t => { t with repaired := tblSet t.repaired shard (q :: got) }) s
        if 32 * (got.length + 1) < d.elements then s
        else
          let x := shardDigest s c t.number d
          let a := hypCommitAt d.hyper
          let s := courtWrite c a (preparedRec (courtRead s c a 64) t.number x d) s
          modShard key i (fun d => { d with digest := some x }) s
    | _, _ => s
  | _, _ => s

/-- REPAIR_FRAME: a block of a shard's canonical copy; it fans out, and overwrites this device's copy where it diverged
(10 R349). -/
def execRepairFrame (s : State) : Res := match takeFrame (fun m => isKind frRepair m && repairReady s m) s with
  | none => .next s
  | some (av, m, s) => match frameStep s m with
    | none => .next (frameError av s)
    | some (key, g, t) =>
      let h := hdrOf m
      let rank := ((t.repair.find? (fun p => p.1 == h.bucket)).map (·.2)).getD 0
      let p := frameCrypt s key g.pb false t.number rank h (m.drop 16)
      let root := entryFor s g.pb (addrOf g.pb rank)
      let s := if inBox g.pb s.sq.addr then
          (fanChildren g.pb root s.sq.addr).foldl (fun s a => sendFrame key g.pb t.number rank a h p s) s
        else s
      .next (settle (secondVote (applyOutcome 4 key) key (repairBlock key h.bucket h.block p s)))

/-- The lowest-ranked box member has its host's answer to RESYNC: the decision goes to every member in OUTCOME frames
(10 R350). -/
def resyncAnswered (key disp : Nat) (data : List Byte) (s : State) : State := match stepOf s key with
  | none => s
  | some (g, t) =>
    let shards := diverged g.pb true t.first
    let named := (List.range (data.length / 8)).map (fun i => (fld data (8 * i) 4, fld data (8 * i + 4) 2))
    let holds (p : Nat × Nat) : Bool :=
      inBox g.pb (addrOf g.pb p.2) || ((t.shards.find? (fun d => d.shard == p.1)).bind (fun d => g.homes[d.bucket]?)) == some (addrOf g.pb p.2)
    let good := disp = 1 ∧ shards.all (fun i => named.any (fun p => p.1 == i && holds p))
    let rank (i : Nat) : Nat := if good then ((named.find? (fun p => p.1 == i)).map (·.2)).getD 0xFFFF else 0xFFFF
    let r := ((List.range (grpShards g.pb)).map (fun i =>
      let e := recShard true t.first i
      if shards.contains i then e.take 24 ++ natLe 2 (rank i) ++ e.drop 26 else e)).flatten
    let me := s.sq.addr
    let s := sendRecord key g.pb t.number frOutcome (fanChildren g.pb me me ++ grpHelpers g.pb) r s
    settle (applyOutcome 4 key (modStep key (fun t => { t with outcome := r }) s))

/-! ### The opening (R289, R290) -/

/-- A CHECKPOINT of the group is unretired, and does not itself wait for this STEP (R323). -/
def checkpointRuns (s : State) (key : Nat) (c : Cmd) : Bool :=
  s.cmd.cmds.any (fun d => d.started && d.opcode == opCheckpoint && grpKey d.q.owner (fld d.pb 0 2) == key &&
    d.work != [qKey c.q, c.cid])

/-- A step of a command, before anything is bound. -/
def TrainStep.fresh (c : Cmd) (g : Group) (modes now : Nat) : TrainStep :=
  { q := c.q, cid := c.cid, number := fld c.pb 8 8, job := if c.opcode = opDistilStep then some (fld c.pb 42 2) else none,
    phase := .opened, modes := modes, resync := bit modes 9, rewarm := false, ledgerAt := 0, entries := 0, run := 0, binds := [],
    base := none, teacher := none, cause := 0, own := none, ended := false, scales := [], kinds := [], amax := [], marked := [],
    buckets := [], shards := [], promoted := 0, progress := now, votedAt := 0,
    acc := neutralRec g.pb (fld c.pb 8 8) true, votes := [], sentUp := false, outcome := [], outGot := [], first := [], posted := false, verdict := none,
    repair := [], repaired := [], second := false, clip := none, asked := false, hostState := [] }

/-- The new step of a command in its group. -/
def setStep (key : Nat) (c : Cmd) (s : State) : State := match grpOf s key with
  | none => s
  | some g₀ => modGrp key (fun g => { g with
      step := some (TrainStep.fresh c g₀ (tblGetD s.cmd.modes (grpCourt key) 0) s.sq.time) }) s

/-- A step that never opens: the device still casts an ABANDONED vote for its number (R289, R313). -/
def voteOnly (key : Nat) (c : Cmd) (st : Nat) (s : State) : State :=
  castVote key (modStep key (fun t => { t with cause := 2, own := some st, ended := true }) (setStep key c s))

/-- A second-stage failure: the ABANDONED vote is cast, and the STEP retires at once with its status (R289). -/
def openFail (key : Nat) (c : Cmd) (st : Nat) (s : State) : State :=
  let s := retire c (finRes st (natLe 8 (fld c.pb 8 8) ++ natLe 1 0 ++ natLe 1 2)) s
  castVote key (modStep key (fun t => { t with cause := 2, own := some st, ended := true, posted := true }) (setStep key c s))

/-- The slot that holds a job's recorded teacher, unless it is DRAINING (11 R355). -/
def teacherSlot (s : State) (court : Nat) (c : Cmd) : Except Nat (Option Nat) :=
  if c.opcode ≠ opDistilStep then .ok none
  else match tblGet s.jobs (jobKey court (fld c.pb 42 2)) with
    | none => .error stStateConflict
    | some j => match findSlot s court j.modelId j.modelVersion with
      | none => .error stStateConflict
      | some n => .ok (some n)

/-- The first refusal of a step's bindings (R289). -/
def bindsRefusal (s : State) (court : Nat) (bs : List (Nat × Bool)) : Option Nat :=
  match firstBadBinding s court (bs.map (·.1)) with
  | some (_, st) => some st
  | none =>
    let tr := (bs.filter (·.2)).map (·.1)
    if tr.any (fun h => !(entryOf s h).trainable) then some stNotPermitted
    else if tr.any (fun h => (entryOf s h).train != 0) ∨ tr.eraseDups.length ≠ tr.length then some stAdapterInTraining
    else none

/-- The base slot that a step binds (R290). -/
def stepBase (s : State) (court : Nat) (c : Cmd) : Except Nat (Option Nat) :=
  if fld c.pb 6 1 = 0xFF then .ok none
  else (bindSlot s court (fld c.pb 6 1) ((stepBinds c.pb).map (·.1))).map some

/-- Every symbol of a plan resolved; a BASE symbol with bit 63 set lies in the teacher slot (R288; 11 R357). -/
def stepSyms (s : State) (e : SymEnv) (teacher : Option Nat) : Option (List SymRange) :=
  e.pkg.symbols.zipIdx.mapM (fun p =>
    if p.1.kind = 4 ∧ bit p.1.value 63 then resolveOne s { e with base := teacher } p.2 { p.1 with value := p.1.value % 2 ^ 32 }
    else resolveOne s e p.2 p.1)

/-- Whether the next-version spaces were reserved. -/
inductive Reserved where
  | ok
  | wait
  | no
  deriving DecidableEq, Repr

/-- Reserves next-version space for the TRAIN bindings from position `i` on, and a drain record where other uses
reference the version (R290). -/
def reserveNext (key : Nat) (c : Cmd) : Nat → Nat → State → State × Reserved
  | 0, _, s => (s, .ok)
  | n + 1, i, s => match (stepOf s key).bind (fun p => p.2.binds[i]?.map (fun b => (p.2, b))) with
    | none => (s, .ok)
    | some (t, b) =>
      if !b.train then reserveNext key c n (i + 1) s
      else match (entryOf s b.handle).cur with
        | none => (s, .no)
        | some v =>
          let others := decide ((t.binds.filter (fun x => x.handle == b.handle)).length < v.refs)
          if others ∧ 8192 ≤ drainsUsed s then (s, .no)
          else match makeRoom (grpCourt key) v.imageLen c.q c.cid s with
            | (s, .wait) => (s, .wait)
            | (s, .no) => (s, .no)
            | (s, .at_ a) =>
              let put (x : TrainBind) : TrainBind := { x with nextAt := some a, drain := others }
              reserveNext key c n (i + 1) (modStep key (fun t => { t with binds := t.binds.modify i put }) s)

/-- Undoes the bindings of a step that does not open. -/
def unopen (key : Nat) (s : State) : State := match stepOf s key with
  | none => s
  | some (_, t) => endStep key (releaseBinds t s)

/-- The ledger and the tile status array can be reached (R289). -/
def stepAddrOk (s : State) (k : Court) (c : Cmd) : Bool :=
  let a := fld c.pb 16 8
  courtRangeOk k a 128 && (courtPoisoned s k [] a 64).isNone &&
  (let n := 128 * fld (courtRead s k a 64) 6 2
   courtRangeOk k (a + 128) n && (courtPoisoned s k [] (a + 128) n).isNone) &&
  courtRangeOk k (fld c.pb 24 8) (16 * fld c.pb 32 4)

/-- The current image of each trained handle goes into its next-version space, so that parts no shard covers keep their
values. -/
def copyNexts (k : Court) (t : TrainStep) (s : State) : State :=
  t.binds.foldl (fun s b => match b.nextAt, (entryOf s b.handle).cur with
    | some a, some v => courtMove k (v.poolAt.getD 0) a v.imageLen s
    | _, _ => s) s

/-- The step opens: ledger, scales, and the plan's run (R290, R294, R295). -/
def startPlan (key : Nat) (k : Court) (c : Cmd) (p : Package) (base : Option Nat) (ys : List SymRange)
    (bs : List (Nat × Nat)) (s : State) : State := match stepOf s key with
  | none => s
  | some (_, t) =>
    let a := fld c.pb 16 8
    let h := courtRead s k a 64
    let n := fld h 6 2
    let rewarm := isRewarm h (fld c.pb 4 2) (fld c.pb 8 8) (bit (fld c.pb 7 1) 0)
    let es := (List.range n).map (fun i => (i, ledgerEntry s k a i))
    let ks := if rewarm then [] else es.map (fun e => (e.1, entryScale (fld h 11 1) e.2))
    let s := writeScales k a ks (copyNexts k t s)
    let s := modStep key (fun t => { t with
      rewarm := rewarm, ledgerAt := a, entries := n, scales := ks, kinds := es.map (fun e => (e.1, fld e.2 0 1)),
      run := s.nextRun, progress := s.sq.time }) s
    admitRun { owner := .training (grpCourt key) (key % 65536), court := grpCourt key, pkg := fld c.pb 0 4,
               semBase := fld c.pb 36 2, baseSlot := base.getD 0xFFFF, statusAt := fld c.pb 24 8,
               statusEntries := fld c.pb 32 4, step := fld c.pb 8 8, symbols := ys, bindings := bs,
               streams := p.streams.map (fun t => RunStream.fresh t.express t.ttTag t.count t.at_), retired := 0 } s

/-- Binds, reserves, and opens a step whose needs are resident, or fails its opening (R289, R290). -/
def bindStep (key : Nat) (k : Court) (c : Cmd) (p : Package) (base teacher : Option Nat) (ys : List SymRange) (s : State) : State :=
  let bs := stepBinds c.pb
  let b := bindAll (bs.map (·.1)) base s
  let s := teacher.toList.foldl (fun s n => modSlot n (fun m => { m with refs := m.refs + 1, lastUsed := s.gaz.stamp }) s) b.2
  let tb := (b.1.zip bs).map (fun e => (⟨e.1.1, e.1.2, e.2.2, none, false⟩ : TrainBind))
  let s := modStep key (fun t => { t with binds := tb, base := base, teacher := teacher }) (setStep key c s)
  let s := tb.foldl (fun s x => if x.train then modEntry x.handle (fun e => { e with train := 1 }) s else s) s
  match reserveNext key c (tb.length + 1) 0 s with
  | (s, .wait) => unopen key s
  | (s, .no) => openFail key c stNoResource (unopen key s)
  | (s, .ok) =>
    if stepAddrOk s k c then startPlan key k c p base ys b.1 s else openFail key c stAddressFault (unopen key s)

/-- STEP_OPEN: the second-stage checks, the bindings and the ledger of a step that has passed its start checks (R289,
R290). -/
def execStepOpen (court group : Nat) (s : State) : Res :=
  let key := grpKey court group
  match grpOf s key, stepCmd s key, courtOf s court with
  | some g, some c, some k =>
    if g.step.isSome ∨ checkpointRuns s key c ∨ !s.sq.ready ∨ s.sq.takeover then .next s
    else if g.state ≠ .formed then .next (openFail key c stStateConflict s)
    else match pkgOf s court (fld c.pb 0 4), bindsRefusal s court (stepBinds c.pb), stepBase s court c, teacherSlot s court c with
      | none, _, _, _ => .next (openFail key c stInvalidField s)
      | _, some st, _, _ => .next (openFail key c st s)
      | _, _, .error st, _ => .next (openFail key c st s)
      | _, _, _, .error st => .next (openFail key c st s)
      | some p, none, .ok base, .ok teacher =>
        let hs := (stepBinds c.pb).map (·.1)
        let e : SymEnv := ⟨court, p, stepBufs c.pb, 1, hs, base⟩
        match stepSyms s e teacher with
        | none => .next (openFail key c stSymbolUnresolved s)
        | some _ => match demandAll hs (base.toList ++ teacher.toList ++ handleSlots s court hs).eraseDups s with
          | (s, .fail st) => .next (openFail key c st s)
          | (s, .wait) => .next s
          | (s, .ok) => match stepSyms s e teacher with
            | none => .next (openFail key c stSymbolUnresolved s)
            | some ys => .next (bindStep key k c p base teacher ys s)
  | _, _, _ => .next s

/-! ### Tagged tensors (R296, R297) -/

/-- The amax of a tensor from the records at its entry's STATS location (R296). -/
def statsAmax (s : State) (x : Ctx) (e : List Byte) : Except Nat F32 := do
  let p ← locPlace8 x (fld e 16 8)
  let rows := fld e 28 4
  let groups := fld e 32 2
  let rowAt (m : Nat) : Nat := m * fld e 24 4
  (List.range rows).forM (fun m => readablePlace s x p (rowAt m) (32 * groups))
  return ((List.range rows).flatMap (fun m => (List.range groups).map (fun g =>
    fld (placeRead s x p (rowAt m + 32 * g) 8) 4 4))).foldl f32Max 0

/-- The TENSOR entry of a tag, or BAD_FIELD (R294, R296). -/
def tensorEntry (s : State) (c : Court) (t : TrainStep) (i : Nat) : Except Nat (List Byte) :=
  if i < t.entries ∧ tblGetD t.kinds i 0 = 2 then .ok (ledgerEntry s c t.ledgerAt i) else .error tcBadField

/-- The exponent k of a tagged CONVERT: SCALE_EXP, or in a rewarm step the scale of the tensor's own amax
(R296, R297). -/
def convExp (s : State) (x : Ctx) (t : TrainStep) (i : Nat) : Except Nat Int := do
  let e ← tensorEntry s x.court t i
  let a ← statsAmax s x e
  if t.rewarm then return scaleFor (fld e 1 1) (fld (courtRead s x.court t.ledgerAt 64) 11 1) 0 (some a)
  else return tblGetD t.scales i 0

/-- The exponent that a tagged TAU takes (R296, R297). -/
def tauExp (t : TrainStep) (i : Nat) : Option Int :=
  if tblGetD t.kinds i 0 = 2 then tblGet t.scales i else none

/-- A tagged CONVERT has run: the amax of its tensor, its mark, and in a rewarm step its scale (R296 to R298). -/
def noteConvert (key i : Nat) (x : Ctx) (k : Counts) (s : State) : State := match stepOf s key with
  | none => s
  | some (_, t) => match convExp s x t i, (tensorEntry s x.court t i).bind (statsAmax s x) with
    | .ok e, .ok a => modStep key (fun t => { t with
        amax := tblSet t.amax i (f32Max (tblGetD t.amax i 0) a), scales := tblSet t.scales i e,
        marked := if 0 < k.sat + k.nonfin then insLine i t.marked else t.marked }) s
    | _, _ => s

/-! ### Timeouts (10 R348) -/

/-- The work orders of a step that wait for the group are abandoned: CONTEXT_LOST (10 R348; 05 R160). -/
def loseContexts (key : Nat) (s : State) : State := match stepOf s key with
  | none => s
  | some (_, t) =>
    let st := runStatus tcContextLost
    modStep key (fun t => { t with cause := t.cause ||| 2, own := some (t.own.getD st), ended := true }) (abortRun t.run s)

/-- PROGRESS_TIMEOUT: a step that makes no progress, or whose outcome does not come (10 R348). -/
def execProgressTimeout (court group : Nat) (s : State) : Res :=
  let key := grpKey court group
  match stepOf s key with
  | none => .next s
  | some (g, t) =>
    let limit := fld g.pb 28 4 * msUnits
    let count (s : State) : State := modGrp key (fun g => { g with timeouts := (g.timeouts + 1) % 2 ^ 32 }) s
    match t.phase with
    | .opened =>
      if s.sq.time < t.progress + limit ∨ t.buckets.all (fun b => bucketOver s.sq.addr g t b.1) then .next s else .next (castVote key (loseContexts key (count s)))
    | .voted =>
      if s.sq.time < t.votedAt + limit then .next s
      else if t.cause ≠ 0 then
        .next (settle (skipStep key (natLe 8 t.number ++ natLe 1 t.cause ++ zeros 7 ++ natLe 4 t.promoted ++
          zeros (voteLen g.pb true - 20)) (count s)))
      else
        let s := modGrp key (fun g => { g with state := .broken }) (count s)
        let s := postAv 0x09 (((nextHop s (terminalOf g.pb)).map (·.1)).getD 0) 0xFF 1 s
        .next (settle (holdStep key stDeviceFault 0 (zeros (voteLen g.pb true)) s))
    | .repairing =>
      if s.sq.time < t.votedAt + limit then .next s
      else .next (settle (holdStep key stReplicaDiverged 4 t.first (count s)))
    | .held => .next s

end Sys2Proof.Machine
end

