-- ==== Sys2Proof/Machine/Checkpoint.lean ====
section
/-! DEFINITION. CHECKPOINT and RESTORE, DISSOLVE_GROUP, and distillation jobs
(spec/09_training.md R321 to R324; spec/10_collective_reduction.md R330; spec/11_distillation.md R352 to R355). -/

namespace Sys2Proof.Machine

/-! ### The image of a checkpoint (R322) -/

/-- A section of a checkpoint image: KIND, destination and bytes. -/
structure CkSection where
  kind : Nat
  dest : Nat
  body : List Byte
  deriving DecidableEq, Repr

/-- The directory and the sections, each on a 128-byte boundary of the image, from offset 128 on. -/
def ckBody (l : List CkSection) : List Byte :=
  let dir := l.flatMap (fun x => natLe 2 x.kind ++ zeros 2 ++ natLe 4 x.body.length ++ natLe 8 x.dest)
  let last := l.length - 1
  padTo (roundUp dir.length 128) dir ++
  (l.zipIdx.flatMap (fun p => if p.2 = last then p.1.body else padTo (roundUp p.1.body.length 128) p.1.body))

/-- The header of an image, padded to the directory. -/
def ckHeader (valid : Bool) (group rank sections step : Nat) (body : List Byte) : List Byte :=
  padTo 128 (natLe 4 0x504B4355 ++ natLe 2 1 ++ natLe 1 (b2n valid) ++ [0#8] ++ natLe 2 group ++ natLe 2 rank ++
    natLe 4 sections ++ natLe 8 step ++ natLe 8 (128 + body.length) ++ sha256 body)

/-- Reads the sections of an image from its directory; none where one is wrong. -/
def ckSections (img : List Byte) : Nat → Nat → Nat → Option (List CkSection)
  | 0, _, _ => some []
  | n + 1, i, at_ =>
    let e := slice img (128 + 16 * i) 16
    let len := fld e 4 4
    let kind := fld e 0 2
    let body := slice img at_ len
    let lenOk := if kind = 1 then decide (128 ≤ len) && len == 128 + 128 * fld body 6 2
      else if kind = 2 then len == 64 else if kind = 3 then decide (0 < len) else decide (64 ≤ len)
    if e.length = 16 ∧ 1 ≤ kind ∧ kind ≤ 4 ∧ zeroFld e 2 2 ∧ at_ + len ≤ img.length ∧ lenOk ∧
        (kind ≠ 4 ∨ fld e 8 8 < 65536) ∧ (kind ≠ 2 ∨ fld body 32 1 < 2) then
      (ckSections img n (i + 1) (roundUp (at_ + len) 128)).map (fun t => ⟨kind, fld e 8 8, body⟩ :: t)
    else none

/-- What the device takes from an image: RANK, STEP and the sections; none where R324 answers INVALID_FIELD. -/
def ckParse (img : List Byte) : Option (Nat × Nat × List CkSection) :=
  let len := fld img 24 8
  let n := fld img 12 4
  if 128 ≤ img.length ∧ fld img 0 4 = 0x504B4355 ∧ fld img 4 2 = 1 ∧ fld img 6 1 = 1 ∧ zeroFld img 7 1 ∧ 128 ≤ len ∧
      len ≤ img.length ∧ sha256 (slice img 128 (len - 128)) = slice img 32 32 ∧ 128 + 16 * n ≤ len then
    (ckSections (img.take len) n 0 (128 + roundUp (16 * n) 128)).map (fun l => (fld img 10 2, fld img 16 8, l))
  else none

/-! ### CHECKPOINT (R321 to R323) -/

/-- Bytes of a CHECKPOINT's parameter block. -/
def ckLay (c : Cmd) : Nat := 40 + 24 * fld c.pb 2 2

/-- An entry of a CHECKPOINT. -/
def ckEntry (pb : List Byte) (i : Nat) : List Byte := slice pb (40 + 24 * i) 24

/-- The entries of a CHECKPOINT. -/
def ckEntries (pb : List Byte) : List (List Byte) := (List.range (fld pb 2 2)).map (ckEntry pb)

/-- The fields of a CHECKPOINT are in range (R321). -/
def ckFieldsOk (pb : List Byte) : Bool :=
  decide (fld pb 2 2 ≤ 4096) && fld pb 8 8 % 4096 == 0 && fld pb 24 8 % 4096 == 0 &&
  (ckEntries pb).all (fun e =>
    zeroFld e 1 1 && zeroFld e 4 4 &&
    (fld e 0 1 == 2 || (fld e 0 1 == 1 && fld e 2 2 == 0xFFFF && fld e 8 8 % 64 == 0 &&
      decide (0 < fld e 16 8) && decide (fld e 16 8 < 2 ^ 32))))

/-- The commit records that the entries name, each once. -/
def ckRecords (pb : List Byte) : List Nat :=
  (((ckEntries pb).filter (fun e => fld e 0 1 == 1)).map (fun e => fld e 24 8)).eraseDups

/-- The handles of the adaptation entries. -/
def ckHandles (pb : List Byte) : List Nat := ((ckEntries pb).filter (fun e => fld e 0 1 == 2)).map (fun e => fld e 2 2)

/-- Court address of the copy of an area that its commit record selects (R311, R322). -/
def ckAreaAt (s : State) (k : Court) (e : List Byte) : Nat :=
  let r := courtRead s k (fld e 24 8) 64
  fld e 8 8 + (fld r 32 1 % 2) * fld r 40 8

/-- Bytes of the ledger as its header says them. -/
def ckLedgerLen (s : State) (k : Court) (pb : List Byte) : Nat := 128 + 128 * fld (courtRead s k (fld pb 24 8) 64) 6 2

/-- The Court ranges that a CHECKPOINT reads, those that say where others lie first. -/
def ckRanges (s : State) (k : Court) (pb : List Byte) : List (Nat × Nat) :=
  (fld pb 24 8, 128) :: (ckRecords pb).map (fun a => (a, 64)) ++ (fld pb 24 8, ckLedgerLen s k pb) ::
  ((ckEntries pb).filter (fun e => fld e 0 1 == 1)).map (fun e => (ckAreaAt s k e, fld e 16 8))

/-- The current version of a handle as an adapter image: the bytes in the pool under a header of the entry, with the
hash of the bodies as they are (07 R219). -/
def ckAdapter (s : State) (k : Court) (h : Nat) : List Byte :=
  let e := entryOf s h
  match e.cur with
  | none => []
  | some v =>
    let b := courtRead s k (v.poolAt.getD 0) v.imageLen
    b.take 8 ++ natLe 4 e.modelId ++ natLe 4 e.modelVersion ++ slice b 16 16 ++ sha256 (b.drop 64) ++ b.drop 64

/-- The sections of a checkpoint: the ledger as it stands, the commit records without what is prepared, then the entries
in order (R322, R323). -/
def ckImage (s : State) (k : Court) (pb : List Byte) : List CkSection :=
  ⟨1, fld pb 24 8, courtRead s k (fld pb 24 8) (ckLedgerLen s k pb)⟩ ::
  (ckRecords pb).map (fun a =>
    let r := courtRead s k a 64
    ⟨2, a, r.take 8 ++ zeros 8 ++ r.drop 16⟩) ++
  (ckEntries pb).map (fun e =>
    if fld e 0 1 = 1 then ⟨3, ckAreaAt s k e, courtRead s k (ckAreaAt s k e) (fld e 16 8)⟩
    else ⟨4, fld e 2 2, ckAdapter s k (fld e 2 2)⟩)

/-- The ranges of the adaptations' images in the pool. -/
def ckPools (s : State) (pb : List Byte) : List (Nat × Nat) :=
  (ckHandles pb).filterMap (fun h => (entryOf s h).cur.bind (fun v => v.poolAt.map (fun a => (a, v.imageLen))))

/-- The first refusal of the handles that a CHECKPOINT names. -/
def ckHandleRefusal (s : State) (court : Nat) (hs : List Nat) : Option Nat :=
  hs.findSome? (fun h => match handleCheck s court h with
    | some st => some st
    | none => if (entryOf s h).cur.isNone then some stStateConflict else none)

/-- The STEP for which a CHECKPOINT that starts now waits, as its command's `work` holds it (R323). -/
def ckAwaits (s : State) (key : Nat) : List Nat := match stepCmd s key with
  | none => []
  | some c => [qKey c.q, c.cid]

/-- The STEP that the CHECKPOINT waits for is unretired. -/
def ckWaits (s : State) (c : Cmd) : Bool := match c.work with
  | [k, cid] => (findCmd s (qOfKey k) cid).isSome
  | _ => false

/-- Writes an image: its header invalid while the rest is written, then valid; as a sealed object for a confidential
Court (R322; 14 R454). -/
def ckWrite (c : Cmd) (k : Court) (g : Group) (l : List CkSection) (s : State) : State :=
  let rank := rankOf g.pb s.sq.addr
  let body := ckBody l
  let hdr (v : Bool) : List Byte := ckHeader v (fld c.pb 0 2) rank l.length g.committed body
  let dst := fld c.pb 8 8
  if k.conf then
    let p := sealHost c.q.owner c.kt sealCheckpoint (fld c.pb 0 2 + 65536 * rank) (hdr true ++ body) s
    hostWrite c.via dst p.1 p.2
  else hostWrite c.via dst (hdr true) (hostWrite c.via (dst + 128) body (hostWrite c.via dst (hdr false) s))

/-- The image has no valid header: what a CHECKPOINT leaves while it is written, and after an abort (R322; 06 R205). -/
def ckInvalid (c : Cmd) (s : State) : State := hostWrite c.via (fld c.pb 8 8) (zeros 128) s

/-- Effect of CHECKPOINT. -/
def checkpointBody (mem : Findings) (whole : Bool) (c : Cmd) (s : State) : State × Did :=
  let court := c.q.owner
  let key := grpKey court (fld c.pb 0 2)
  match grpOf s key, courtOf s court with
  | some g, some k =>
    if !ckFieldsOk c.pb then failWith s stInvalidField
    else if g.state = .forming then failWith s stStateConflict
    else
      let c := if c.progress = 0 then { c with work := ckAwaits s key } else c
      let s := modCmd c.q c.cid (fun d => { d with work := c.work, progress := max 1 d.progress }) s
      if ckWaits s c then (s, .stay)
      else match ckHandleRefusal s court (ckHandles c.pb) with
        | some st => failWith s st
        | none => match demand (ckHandles c.pb) none s with
          | (s, .fail st) => failWith s st
          | (s, .wait) => (s, .stay)
          | (s, .ok) =>
            let f := applyFindings false mem s
            let s := f.s
            if !(ckRanges s k c.pb).all (fun r => courtRangeOk k r.1 r.2) then failWith s stAddressFault
            else match rangesPoison s k f.bad (ckRanges s k c.pb ++ ckPools s c.pb) with
              | some e => failWith (poisonRead (some e) s) stMemoryError
              | none =>
                let l := ckImage s k c.pb
                let n := 128 + (ckBody l).length
                let need := if k.conf then sealedLen n else n
                if fld c.pb 16 8 < need then (s, .fin (finRes stInvalidField (natLe 8 need)))
                else if !fnWrites s c.via then (s, .stay)
                else if !whole then (modCmd c.q c.cid (fun d => { d with progress := 2 }) (ckInvalid c s), .stay)
                else (ckWrite c k g l s, .fin (finRes stSuccess (natLe 8 need ++ natLe 8 g.committed)))
  | _, _ => failWith s stStateConflict

/-- CHECKPOINT (R321); `mem` is what its reads find, and without `whole` the image is only begun. -/
def checkpointRow (q : QId) (cid : Nat) (mem : Findings) (whole : Bool) (s : State) : Res :=
  .next (runCmd opCheckpoint q cid ckLay [(4, 4), (32, 8)] (checkpointBody mem whole) s)

/-! ### RESTORE (R324) -/

/-- A STEP, CHECKPOINT or RESTORE of a group is unretired, other than the command named. -/
def groupBusy (s : State) (key : Nat) (q : QId) (cid : Nat) : Bool :=
  (stepCmd s key).isSome ||
  s.cmd.cmds.any (fun d => d.started && !(d.q == q && d.cid == cid) &&
    ((d.opcode == opCheckpoint && grpKey d.q.owner (fld d.pb 0 2) == key) ||
     (d.opcode == opRestore && grpKey d.q.owner (fld d.pb 16 2) == key)))

/-- An adaptation section checked against its handle: the image, or none where the handle is not READY or the image
fails (R324; 07 R221, R236). -/
def ckAdapterOk (s : State) (court : Nat) (x : CkSection) : Option AdImage :=
  let e := entryOf s x.dest
  if handleCheck s court x.dest ≠ none ∨ e.state ≠ .ready ∨ e.train ≠ 0 then none
  else match adHeader x.body with
    | none => none
    | some i =>
      if i.kind ≠ e.kind ∨ i.modelId ≠ e.modelId ∨ i.modelVersion ≠ e.modelVersion then none
      else match (findSlot s court i.modelId i.modelVersion).bind (fun n => tblGet s.gaz.slots n) with
        | none => none
        | some m => adCheck i m

/-- Replaces the adaptations of the sections, one after another (R236). -/
def ckReplaceAll (c : Cmd) : List (Nat × AdImage × List Byte) → State → State × Reserved
  | [], s => (s, .ok)
  | (h, i, img) :: t, s => match makeRoom c.q.owner img.length c.q c.cid s with
    | (s, .wait) => (s, .wait)
    | (s, .no) => (s, .no)
    | (s, .at_ a) =>
      let e := entryOf s h
      if drainShort s e then (s, .no)
      else
        let s := stampUp s
        let v := mkVersion i ((e.cur.map (·.version)).getD 0 + 1) 0 a false s.gaz.stamp
        ckReplaceAll c t (installVersion c.q.owner h v (placeImage c.q.owner a img s))

/-- Writes the sections of Court memory at their destinations. -/
def ckPlace (k : Court) (l : List CkSection) (s : State) : State :=
  l.foldl (fun s x => if x.kind = 4 then s else courtWrite k x.dest x.body s) s

/-- The effect of a RESTORE whose image has passed its checks (R324). -/
def ckRestore (c : Cmd) (key step : Nat) (k : Court) (l : List CkSection) (ads : List (Nat × AdImage × List Byte))
    (s : State) : State × Did :=
  match ckReplaceAll c ads s with
  | (_, .no) => failWith s stNoResource
  | (_, .wait) =>
    ((makeRoom c.q.owner ((ads.map (fun a => poolNeed a.2.2.length)).sum) c.q c.cid s).1, .stay)
  | (s, .ok) =>
    let s := ckPlace k l (discardHeld key s)
    (modGrp key (fun g => { g with committed := step, nextStep := (step + 1) % 2 ^ 64 }) s, .fin (finSt stSuccess))

/-- Effect of RESTORE with the image as read. -/
def restoreBody (image : List Byte) (whole : Bool) (c : Cmd) (s : State) : State × Did :=
  let court := c.q.owner
  let group := fld c.pb 16 2
  let key := grpKey court group
  match grpOf s key, courtOf s court with
  | some g, some k =>
    if g.state = .forming ∨ groupBusy s key c.q c.cid then failWith s stStateConflict
    else if !whole then (s, .stay)
    else if image.length < fld c.pb 8 8 then failWith s stHostFault
    else
      let rank := rankOf g.pb s.sq.addr
      match fromHost c sealCheckpoint (group + 65536 * rank) (image.take (fld c.pb 8 8)) s with
      | (none, s) => failWith s stMemoryError
      | (some img, s) => match ckParse img with
        | none => failWith s stInvalidField
        | some (r, step, l) =>
          if r ≠ rank then failWith s stInvalidField
          else
            let ads := l.filter (fun x => x.kind == 4)
            match ads.mapM (fun x => (ckAdapterOk s court x).map (fun i => (x.dest, i, x.body))) with
            | none => failWith s stStateConflict
            | some as =>
              if !(l.all (fun x => x.kind == 4 || courtRangeOk k x.dest x.body.length)) then failWith s stAddressFault
              else ckRestore c key step k l as s
  | _, _ => failWith s stStateConflict

/-- RESTORE (R324); without `whole` it only starts. -/
def execRestore (q : QId) (cid : Nat) (image : List Byte) (whole : Bool) (s : State) : Res :=
  .next (runCmd opRestore q cid (fun _ => 24) [(18, 6)] (restoreBody image whole) s)

/-! ### DISSOLVE_GROUP (10 R330) -/

/-- Dissolves a group: a held step is discarded, its contexts are released with it, and every member gets a LEAVE
frame. -/
def dissolve (key : Nat) (s : State) : State :=
  let s := discardHeld key s
  match grpOf s key with
  | none => s
  | some g => sendRecord key g.pb g.committed frLeave (otherMembers s g.pb) (zeros 256) (dropGrp key s)

/-- Effect of DISSOLVE_GROUP. -/
def dissolveBody (c : Cmd) (s : State) : State × Did :=
  let key := grpKey c.q.owner (fld c.pb 0 2)
  match grpOf s key with
  | none => failWith s stStateConflict
  | some g =>
    if g.state = .forming ∨ groupBusy s key c.q c.cid then failWith s stStateConflict
    else (dissolve key s, .fin (finSt stSuccess))

/-- DISSOLVE_GROUP (10 R330). -/
def execDissolveGroup (q : QId) (cid : Nat) (s : State) : Res :=
  .next (runCmd opDissolveGroup q cid (fun _ => 8) [(2, 6)] dissolveBody s)

/-! ### Distillation jobs (11 R352 to R355) -/

/-- Some compute die holds two Blocks of a set of global indices (11 R353, R354). -/
def pairDie (s : State) (gs : List Nat) : Bool :=
  let ds := (gs.filterMap (physOf s)).map dieOf
  ds.any (fun d => decide (2 ≤ ds.count d))

/-- The fields of a DISTIL_JOB OPEN are in range (11 R352). -/
def jobFieldsOk (pb : List Byte) : Bool :=
  let wide (n : Nat) : Bool := n % 64 == 0 && decide (64 ≤ n) && decide (n ≤ 65536)
  let temp := fld pb 8 4
  fld pb 0 1 == 1 && decide (fld pb 1 1 ≤ 3) && decide (fld pb 2 1 < 32) && decide (fld pb 6 2 ≤ 256) &&
  decide (0 < temp) && decide (temp < 0x7F800000) && decide (64 ≤ fld pb 12 4) && decide (fld pb 12 4 ≤ 1048576) &&
  wide (fld pb 16 4) && wide (fld pb 20 4)

/-- Effect of DISTIL_JOB with OPEN (11 R353). -/
def jobOpenBody (c : Cmd) (s : State) : State × Did :=
  let court := c.q.owner
  let slot := fld c.pb 2 1
  let job := jobKey court (fld c.pb 1 1)
  let m := (tblGet s.gaz.slots slot).getD ModelSlot.fresh
  if !jobFieldsOk c.pb then failWith s stInvalidField
  else if (tblGet s.jobs job).isSome then failWith s stStateConflict
  else if (tblGet s.gaz.slots slot).isNone ∨ m.state = .empty ∨ m.state = .loading ∨ m.state = .draining then
    failWith s stStateConflict
  else if (grpOf s (grpKey court (fld c.pb 4 2))).all (fun g => g.state != .formed) then failWith s stStateConflict
  else if !slotFor m court ∨ (confCourt s court ∧ m.owner ≠ court) then failWith s stNotPermitted
  else if !pairDie s (((courtOf s court).map (·.blocks)).getD []) then failWith s stNoResource
  else
    let j : DistilJob := ⟨slot, fld c.pb 4 2, fld c.pb 6 2, fld c.pb 8 4, fld c.pb 12 4, fld c.pb 16 4, fld c.pb 20 4,
      m.modelId, m.modelVersion⟩
    ({ s with jobs := tblSet s.jobs job j }, .fin (finRes stSuccess (natLe 4 m.modelVersion)))

/-- A DISTIL_STEP of a job is unretired. -/
def jobBusy (s : State) (court j : Nat) : Bool :=
  s.cmd.cmds.any (fun d => d.opcode == opDistilStep && d.work == [1] && d.q.owner == court && fld d.pb 42 2 == j)

/-- Effect of DISTIL_JOB with END (11 R354). -/
def jobEndBody (c : Cmd) (s : State) : State × Did :=
  let court := c.q.owner
  let j := fld c.pb 1 1
  if 4 ≤ j then failWith s stInvalidField
  else if jobBusy s court j then failWith s stStateConflict
  else if (tblGet s.jobs (jobKey court j)).isNone then failWith s stAlreadyDone
  else ({ s with jobs := tblErase s.jobs (jobKey court j) }, .fin (finSt stSuccess))

/-- DISTIL_JOB with OP 1, or with an OP out of range (11 R352, R353). -/
def execDistilJobOpen (q : QId) (cid : Nat) (s : State) : Res :=
  .next (if pbIs s q cid (fun b => fld b 0 1 != 2) then runCmd opDistilJob q cid (fun _ => 32) [(3, 1), (24, 8)] jobOpenBody s else s)

/-- DISTIL_JOB with OP 2 (11 R352, R354). -/
def execDistilJobEnd (q : QId) (cid : Nat) (s : State) : Res :=
  .next (if pbIs s q cid (fun b => fld b 0 1 == 2) then runCmd opDistilJob q cid (fun _ => 32) [(3, 1), (24, 8)] jobEndBody s else s)

end Sys2Proof.Machine
end

