-- ==== Sys2Proof/Machine/Viaduct.lean ====
section
/-! DEFINITION. VIADUCT_PAIR: the state records, LN, pass 1 with its finalisation and Top-k, and pass 2
(spec/11_distillation.md R358 to R369; spec/05_work_orders.md R173). -/

namespace Sys2Proof.Machine

/-- First byte of the inbox in the student Block's store (R360). -/
abbrev inboxAt : Nat := 0xBC0000

/-! ### LN (R365) -/

/-- The FP32 value nearest to 1/3. -/
def lnC3 : F32 := 0x3EAAAAAB

/-- 2 × Σ z^(2k+1) / (2k+1) for z = p/q, in units of 2^−128, `n` terms from term k, where `zp` is z^(2k+1). -/
def atanhSum (p q : Nat) : Nat → Nat → Nat → Nat
  | 0, _, _ => 0
  | n + 1, k, zp => 2 * zp / (2 * k + 1) + atanhSum p q n (k + 1) (zp * p * p / (q * q))

/-- LT[i]: the FP32 value nearest to ln(1 + i/128), from ln((1 + z)/(1 − z)) with z = i / (256 + i) (R365). -/
def lnT (i : Nat) : F32 :=
  if i = 0 then 0 else (encMag fmtF32 .rne (atanhSum i (256 + i) 48 0 (2 ^ 128 * i / (256 + i))) (-128)).1

/-- LN of R365, exactly as written there, for an argument of at least 1. -/
def f32Ln (x : F32) : FpM F32 := do
  if f32IsNan x then return nan32
  let m := x % 2 ^ 23
  let n : Int := ((x / 2 ^ 23 % 256 : Nat) : Int) - 127
  let i := m / 2 ^ 16
  let d ← f32Round (dyOf ((m % 2 ^ 16 : Nat) : Int) (-23))
  let c ← f32Round (dyOf ((128 + i : Nat) : Int) (-7))
  let u ← f32Div d c
  let a ← f32Mul u lnC3
  let b ← f32Sub half32 a
  let e ← f32Mul u b
  let f ← f32Sub one32 e
  let p ← f32Mul u f
  let g ← f32Mul (← f32OfInt n) expG
  f32Add g (← f32Add (lnT i) p)

/-! ### State records (R363) -/

/-- A state record. -/
structure ViaRec where
  next : Nat
  nan : Bool
  sat : Bool
  final : Bool
  step : Nat
  tMax : F32
  tSum : F32
  cross : F32
  sMax : F32
  sSum : F32
  tLse : F32
  sLse : F32
  loss : F32
  count : Nat
  /-- list entries (A, B, INDEX) -/
  list : List (F32 × F32 × Nat)
  deriving DecidableEq, Repr

/-- Bytes of a record with TOPK. -/
def viaRecLen (topk : Nat) : Nat := 64 + 16 * topk

/-- An initialised record of a step. -/
def viaRecNew (base step : Nat) : ViaRec := ⟨base, false, false, false, step, 0, 0, 0, 0, 0, 0, 0, 0, 0, []⟩

/-- Reads a record from its bytes. -/
def viaRecOf (b : List Byte) : ViaRec :=
  let fl := fld b 6 1
  ⟨fld b 0 4, bit fl 0, bit fl 1, bit fl 2, fld b 8 8, fld b 16 4, fld b 20 4, fld b 24 4, fld b 28 4, fld b 32 4,
   fld b 36 4, fld b 40 4, fld b 44 4, fld b 48 4,
   (List.range (fld b 4 2)).map (fun e => (fld b (64 + 16 * e) 4, fld b (68 + 16 * e) 4, fld b (72 + 16 * e) 4))⟩

/-- The bytes of a record, unused list entries zero. -/
def viaRecBytes (topk : Nat) (r : ViaRec) : List Byte :=
  padTo (viaRecLen topk)
    (natLe 4 r.next ++ natLe 2 r.list.length ++ natLe 1 (b2n r.nan + 2 * b2n r.sat + 4 * b2n r.final) ++ [0#8] ++
     natLe 8 r.step ++ natLe 4 r.tMax ++ natLe 4 r.tSum ++ natLe 4 r.cross ++ natLe 4 r.sMax ++ natLe 4 r.sSum ++
     natLe 4 r.tLse ++ natLe 4 r.sLse ++ natLe 4 r.loss ++ natLe 4 r.count ++ zeros 12 ++
     (r.list.map (fun e => natLe 4 e.1 ++ natLe 4 e.2.1 ++ natLe 4 e.2.2 ++ zeros 4)).flatten)

/-! ### The work order (R358, R362) -/

/-- What a VIADUCT_PAIR sees of the job and of its stream's chain. -/
structure PairEnv where
  v : WoEnv
  /-- V of the job -/
  vocab : Nat
  /-- reduction extents of the two heads -/
  dT : Nat
  dS : Nat
  /-- number of the open step -/
  stepNo : Nat
  /-- the pair the previous VIADUCT_PAIR of the stream left bound, if it is this pair -/
  bind : Option ViaBind

/-- The fields of a VIADUCT_PAIR. -/
structure PairOp where
  ht : TRef
  wt : TRef
  hs : TRef
  ws : TRef
  base : Nat
  n : Nat
  rows : Nat
  topk : Nat
  temp : F32
  pass : Nat
  /-- Block-store address of the records -/
  stateAt : Nat
  grad : Option Place
  /-- this work order starts a chain -/
  fresh : Bool

/-- The student Block's view of the context (R359). -/
def studentCtx (x : Ctx) : Ctx := { x with blocks := x.blocks.drop 1 }

/-- The private ranges that a pair's records and inbox make (R361). -/
def privRanges (stateAt rows topk : Nat) : List (Nat × Nat) :=
  (inboxAt, 0x40000) :: (if topk = 0 then []
    else (List.range rows).map (fun m => (stateAt + m * viaRecLen topk + 64, 16 * topk)))

/-- TEMP is positive and finite (R173). -/
def tempOk (w : F32) : Bool := decide (0 < w) && decide (w < 0x7F800000)

/-- Reads and checks the fields of a VIADUCT_PAIR against its job (R149, R173, R358, R362). -/
def pairOp (job : DistilJob) (p : PairEnv) : Except Nat PairOp := do
  let wo := p.v.wo
  let xs := studentCtx p.v.x
  need (zeroFld wo 113 3) tcBadField
  let temp := fld wo 108 4
  let topk := fld wo 106 2
  need (tempOk temp && decide (topk ≤ 256) && temp == job.temp && topk == job.topk) tcBadField
  let pass := fld wo 112 1
  let g := fld wo 122 6
  need ((pass == 1 && g == locNone) || (pass == 2 && g != locNone)) tcBadField
  let ht ← tensorRef p.v.x wo 32
  let wt ← tensorRef p.v.x wo 48
  let hs ← tensorRef xs wo 64
  let ws ← tensorRef xs wo 80
  let st ← locPlace xs (fld wo 116 6)
  let grad ← (if g = locNone then .ok none else (locPlace xs g).map some)
  let base := fld wo 96 4
  let n := fld wo 100 4
  let rows := fld wo 104 2
  need (base % 64 == 0 && n % 64 == 0 && decide (64 ≤ n) && decide (n ≤ 8192) &&
    decide (base + n ≤ 64 * ceilDiv p.vocab 64)) tcBadShape
  need (decide (1 ≤ rows) && decide (rows ≤ 4096)) tcBadShape
  let fresh := pass == 1 && base == 0
  match st with
  | .store _ a =>
    need (decide (a + rows * viaRecLen topk ≤ inboxAt)) tcBadShape
    need (pairOk (tCode ht) (tCode wt) && pairOk (tCode hs) (tCode ws)) tcBadFormat
    need (fresh || p.bind.isSome) tcBadField
    return ⟨ht, wt, hs, ws, base, n, rows, topk, temp, pass, a, grad, fresh⟩
  | _ => throw tcBadShape

/-- The record of a row as it stands. -/
def pairRec (s : State) (p : PairEnv) (o : PairOp) (m : Nat) : ViaRec :=
  viaRecOf (placeRead s (studentCtx p.v.x) (.store ((p.v.x.blocks.getD 1 288)) (o.stateAt + m * viaRecLen o.topk)) 0
    (viaRecLen o.topk))

/-- The records admit the work order: the step, the order of ranges, finalisation (R362, R363, R366). -/
def recOk (p : PairEnv) (o : PairOp) (r : ViaRec) : Bool :=
  o.fresh || (r.step == p.stepNo && (if o.pass = 1 then !r.final && r.next == o.base else r.final))

/-- The columns of the range that lie in the vocabulary. -/
def pairCols (p : PairEnv) (o : PairOp) : Nat := min (o.base + o.n) p.vocab - o.base

/-- The operands of a side can be read. -/
def sideOk (s : State) (x : Ctx) (h w : TRef) (rows cols d : Nat) : Except Nat Unit := do
  readable s x h rows 0 d
  readable s x w cols 0 d

/-- The first refusal or poison of a pair's accesses (R160, R361). -/
def pairCheck (s : State) (p : PairEnv) (o : PairOp) : Except Nat Unit := do
  let xs := studentCtx p.v.x
  let b := p.v.x.blocks.getD 1 288
  let priv := (privRanges o.stateAt o.rows o.topk).map (fun r => (b, r))
  let hide (x : Ctx) : Ctx := { x with priv := x.priv ++ priv }
  if o.pass = 1 ∨ o.topk = 0 then
    sideOk s (hide p.v.x) o.ht o.wt o.rows (pairCols p o) p.dT
  sideOk s (hide xs) o.hs o.ws o.rows (pairCols p o) p.dS
  match o.grad with
  | none => pure ()
  | some g => firstErr [placeCheck (hide xs) g 0 (2 * o.rows * o.n) true]
  if p.v.x.storeBad then throw (memErr none)

/-! ### Pass 1 (R364, R366, R367) -/

/-- MAX and EXPSUM. -/
def statLse : StatSel := ⟨true, false, true, false, false⟩

/-- Offers a column to a row's list (R367). -/
def offer (k : Nat) (e : F32 × F32 × Nat) (l : List (F32 × F32 × Nat)) : List (F32 × F32 × Nat) :=
  let enters := decide (l.length < k) || (match l.getLast? with
    | none => false
    | some z => f32Lt z.1 e.1)
  if !enters then l
  else
    let l := if l.length < k then l else l.dropLast
    l.takeWhile (fun z => !f32Lt z.1 e.1) ++ [e] ++ l.dropWhile (fun z => !f32Lt z.1 e.1)

/-- Every header statistic made NaN (R369). -/
def recNan (r : ViaRec) : ViaRec :=
  { r with nan := true, tMax := nan32, tSum := nan32, cross := nan32, sMax := nan32, sSum := nan32 }

/-- Folds one 64-column group of valid logits into a row's record; a NaN leaves every statistic NaN (R364, R367, R369). -/
def foldGroup (o : PairOp) (g : Nat) (ts ss : List F32) (r : ViaRec) : FpM ViaRec := do
  if ts.isEmpty then return r
  let n := r.count + ts.length
  let w ← withSat do
    let as ← ts.mapM (fun t => f32Div t o.temp)
    let bs ← ss.mapM (fun t => f32Div t o.temp)
    let gs ← groupRec statLse g (bs.map some)
    let sn := gs.getD ⟨0, 0, 0, 0, 0, 0, 0, 0, false, false⟩
    let sp : GroupRec := ⟨r.sMax, 0, r.sSum, 0, 0, 0, r.count, 0, false, false⟩
    let sc ← (if r.count = 0 then pure sn else combineRec statLse sp sn)
    let r := { r with sMax := sc.max, sSum := sc.expsum, count := n }
    if o.topk ≠ 0 then
      return { r with list := ((List.zip as bs).zipIdx).foldl (fun l e => offer o.topk (e.1.1, e.1.2, 64 * g + e.2) l) r.list }
    let gt ← groupRec statLse g (as.map some)
    let tn := gt.getD ⟨0, 0, 0, 0, 0, 0, 0, 0, false, false⟩
    let lanes ← (List.zip as bs).mapM (fun e => do
      let x ← f32Exp (← f32Sub e.1 tn.max)
      f32Mul x (← f32Sub e.1 e.2))
    let x ← treeSum (lanes ++ List.replicate (64 - lanes.length) 0)
    if n = ts.length then return { r with tMax := tn.max, tSum := tn.expsum, cross := x }
    let m := f32Max r.tMax tn.max
    let al ← f32Exp (← f32Sub r.tMax m)
    let be ← f32Exp (← f32Sub tn.max m)
    let tsum ← f32Add (← f32Mul r.tSum al) (← f32Mul tn.expsum be)
    let cr ← f32Add (← f32Mul r.cross al) (← f32Mul x be)
    return { r with tMax := m, tSum := tsum, cross := cr }
  let z := { w.1 with sat := w.1.sat || w.2 }
  return if r.nan || ts.any f32IsNan || ss.any f32IsNan then recNan z else z

/-- T_MAX, T_SUM and CROSS from the list (R367). -/
def listStats (r : ViaRec) : FpM ViaRec := do
  let top := (r.list.head?.map (·.1)).getD 0
  let c ← r.list.foldlM (fun (c : F32 × F32) e => do
    let w ← f32Exp (← f32Sub e.1 top)
    let t ← f32Add c.1 w
    let d ← f32Mul w (← f32Sub e.1 e.2.1)
    return (t, ← f32Add c.2 d)) (0, 0)
  return { r with tMax := top, tSum := c.1, cross := c.2 }

/-- Finalisation of a row (R366, R369). -/
def finalise (o : PairOp) (r : ViaRec) : FpM ViaRec := do
  let w ← withSat do
    let r ← (if o.topk = 0 then pure r else listStats r)
    let tl ← f32Add r.tMax (← f32Ln r.tSum)
    let sl ← f32Add r.sMax (← f32Ln r.sSum)
    let q ← f32Div r.cross r.tSum
    let kl ← f32Sub q (← f32Sub tl sl)
    let t2 ← f32Mul o.temp o.temp
    let loss ← f32Mul t2 kl
    return { r with tLse := tl, sLse := sl, loss := loss, final := true }
  let z := { w.1 with sat := w.1.sat || w.2 }
  return if r.nan then { recNan z with tLse := nan32, sLse := nan32, loss := nan32 } else z

/-- The logits of row `m` in columns `[c0, c1)` of the range, the weight row counted from VOCAB_BASE. -/
def logits (s : State) (x : Ctx) (h w : TRef) (m c0 c1 d : Nat) : FpM (List F32) :=
  (List.range (c1 - c0)).mapM (fun j => dotRows s x h w m (c0 + j) d)

/-- Pass 1 of one row. -/
def passOneRow (s : State) (p : PairEnv) (o : PairOp) (m : Nat) : FpM ViaRec := do
  let xs := studentCtx p.v.x
  let cols := pairCols p o
  let r0 := if o.fresh then viaRecNew o.base p.stepNo else pairRec s p o m
  let r ← (List.range (o.n / 64)).foldlM (fun r k => do
    let hi := min (64 * k + 64) cols
    let ts ← logits s p.v.x o.ht o.wt m (64 * k) hi p.dT
    let ss ← logits s xs o.hs o.ws m (64 * k) hi p.dS
    foldGroup o (o.base / 64 + k) ts ss r) r0
  let r := { r with next := o.base + o.n }
  if p.vocab ≤ o.base + o.n then finalise o r else return r

/-! ### Pass 2 (R368, R369) -/

/-- One gradient element as a BF16 word. -/
def gradElem (o : PairOp) (r : ViaRec) (j : Nat) (a b : F32) : FpM Nat := do
  let q ← f32Exp (← f32Sub b r.sLse)
  let pj ← (if o.topk = 0 then do f32Exp (← f32Sub a r.tLse)
    else match r.list.find? (fun e => e.2.2 == j) with
      | some e => do f32Exp (← f32Sub e.1 r.tLse)
      | none => pure 0)
  let g ← f32Mul o.temp (← f32Sub q pj)
  convElem 1 .rne g

/-- Pass 2 of one row: the BF16 words of its range. -/
def passTwoRow (s : State) (p : PairEnv) (o : PairOp) (m : Nat) : FpM (List Nat) := do
  let xs := studentCtx p.v.x
  let cols := pairCols p o
  let r := pairRec s p o m
  let zs := List.replicate (o.n - cols) 0
  if r.nan then
    countNonfin cols
    return List.replicate cols 0x7FC0 ++ zs
  let ss ← logits s xs o.hs o.ws m 0 cols p.dS
  let ts ← (if o.topk = 0 then logits s p.v.x o.ht o.wt m 0 cols p.dT else pure (List.replicate cols 0))
  let gs ← ((List.zip ts ss).zipIdx).mapM (fun e => do
    let a ← f32Div e.1.1 o.temp
    let b ← f32Div e.1.2 o.temp
    gradElem o r (o.base + e.2) a b)
  return gs ++ zs

/-! ### The bodies -/

/-- A VIADUCT_PAIR: its outcome, and the binding it leaves with the private ranges of its student Block. -/
def pairBody (s : State) (job : DistilJob) (p : PairEnv) : FpM (WoOut × Option (ViaBind × List (Nat × Nat))) := do
  match pairOp job p with
  | .error e => return (woErr e, none)
  | .ok o =>
    match pairCheck s p o with
    | .error e => return (woErr e, none)
    | .ok _ =>
      if !(List.range o.rows).all (fun m => recOk p o (pairRec s p o m)) then return (woErr tcBadField, none)
      let b := p.v.x.blocks.getD 1 288
      let via : ViaBind := ⟨woChain p.v.wo, (p.bind.map (·.since)).getD s.sq.time, o.stateAt, o.rows, o.topk⟩
      let byp := onBypass o.rows p.v.wo false
      let splits := max (passesOf p.dT) (passesOf p.dS) - 1
      let out ← (if o.pass = 1 then do
          let rs ← (List.range o.rows).mapM (passOneRow s p o)
          pure (rs.zipIdx.map (fun e => (Place.store b (o.stateAt + e.2 * viaRecLen o.topk), 0, viaRecBytes o.topk e.1)))
        else do
          let rs ← (List.range o.rows).mapM (passTwoRow s p o)
          pure (match o.grad with
            | none => []
            | some g => rs.zipIdx.map (fun e => (g, 2 * e.2 * o.n, (e.1.map (natLe 2)).flatten))))
      return ({ woDone out with splits := splits, bypass := byp }, some (via, privRanges o.stateAt o.rows o.topk))

end Sys2Proof.Machine
end

