-- ==== Sys2Proof/Machine/Blockwork.lean ====
section
/-! DEFINITION. What ATTENTION, NORM, ELEMENTWISE and COPY work orders compute
(spec/05_work_orders.md R167 to R170, R544, R545; spec/03_matrix_engine.md R79, R80, R94, R95). -/

namespace Sys2Proof.Machine

/-! ### ATTENTION (R167, R544) -/

/-- The fields of an ATTENTION. -/
structure AttnOp where
  q : TRef
  o : TRef
  hq : Nat
  hkv : Nat
  hd : Nat
  rows : Nat
  kvLen : Nat
  qPos : Nat
  fmt : Nat
  mask : Nat
  sm : F32
  epi : Epi
  /-- tree mask of each row -/
  tree : List Nat
  lse : Option Place
  /-- Court address of each page, and its first tentative position where it is TENTATIVE -/
  pages : List (Nat × Option Nat)

/-- Numbers the tentative positions of a page list (08 R267). -/
def tentPages : Nat → List Nat → List (Nat × Option Nat)
  | _, [] => []
  | k, e :: t => (e % 2 ^ 41, if bit e 63 then some k else none) :: tentPages (if bit e 63 then k + 32 else k) t

/-- Bytes of the K part, or the V part, of a page with its scales (R167; assumption 20). -/
def kvHalf (g : AttnOp) : Nat :=
  let n := 32 * g.hkv * g.hd
  if fmtMx g.fmt then n + n / 32 else 2 * n

/-- Row of the step at which a work order's rows begin: 0 but for one that the Square derived (08 R253). -/
def row0Of (v : WoEnv) : Nat := (v.der.map (·.row0)).getD 0

/-- The tree mask of each row of an ATTENTION (R167; 08 R267). -/
def attnTree (s : State) (v : WoEnv) (p : Option Place) (rows : Nat) : Except Nat (List Nat) := match v.der, p with
  | some d, _ => .ok d.tree
  | none, none => .ok []
  | none, some p => do
    readablePlace s v.x p 0 (16 * rows)
    let b := placeRead s v.x p 0 (16 * rows)
    return (List.range rows).map (fun i => fld b (16 * i) 16)

/-- Reads and checks the fields of an ATTENTION (R149, R160, R167, R544). -/
def attnOp (s : State) (v : WoEnv) : Except Nat AttnOp := do
  let wo := v.wo
  need (zeroFld wo 90 2 && zeroFld wo 120 8 && decide (fld wo 89 1 < 4)) tcBadField
  let q ← tensorRef v.x wo 32
  let q := { q with row0 := row0Of v }
  let o ← tensorRef v.x wo 48
  let hq := fld wo 72 2
  let hkv := fld wo 74 2
  let hd := fld wo 76 2
  let rows := fld wo 78 2
  let kf := fld wo 88 1
  need (decide (1 ≤ hq) && decide (1 ≤ hkv) && hq % hkv == 0 && (hd == 64 || hd == 128 || hd == 256) &&
    decide (1 ≤ rows)) tcBadShape
  need (kf == 1 || kf == 2 || kf == 0x83 || kf == 0x84) tcBadFormat
  need (pairOk (tCode q) (fmtCode kf) && tCode o != 0x0C) tcBadFormat
  let mask := fld wo 89 1
  let tp ← (if v.der.isSome then .ok none else locOpt8 v.x (fld wo 104 8))
  need (v.der.isSome || bit mask 1 == tp.isSome) tcBadField
  let lse ← locOpt8 v.x (fld wo 112 8)
  let e ← epiLoad s v.x (fld wo 96 8)
  need (!epiStats e) tcBadField
  let kvLen := fld wo 80 4
  let n := ceilDiv kvLen 32
  let pgs ← (if n = 0 then .ok [] else if let some d := v.der then .ok (tentPages 0 d.pages) else do
    need (fld wo 64 8 != locNone) tcBadField
    let p ← locPlace8 v.x (fld wo 64 8)
    readablePlace s v.x p 0 (8 * n)
    let b := placeRead s v.x p 0 (8 * n)
    let es := (List.range n).map (fun i => fld b (8 * i) 8)
    need (es.all (fun e => bits e 62 41 == 0)) tcBadField
    .ok (tentPages 0 es))
  let tree ← attnTree s v tp rows
  return ⟨q, o, hq, hkv, hd, rows, kvLen, fld wo 84 4, kf, mask, fld wo 92 4, e, tree, lse, pgs⟩

/-- The drain of an ATTENTION. -/
def attnDrain (v : WoEnv) (g : AttnOp) : Drain :=
  ⟨g.o, 0, 0, g.hq * g.hd, g.epi, none, woRandom v 0 g.epi.seed, row0Of v⟩

/-- The tile code an ATTENTION fails with before it computes. -/
def attnCheck (s : State) (v : WoEnv) (g : AttnOp) : Except Nat Unit := do
  readable s v.x g.q g.rows 0 (g.hq * g.hd)
  firstErr (g.pages.map (fun p => placeCheck v.x (.court p.1) 0 (2 * kvHalf g) false))
  firstErr (g.pages.map (fun p => placePoison s v.x (.court p.1) 0 (2 * kvHalf g)))
  match g.lse with
  | some p => firstErr [placeCheck v.x p (8 * row0Of v * g.hq) (8 * g.rows * g.hq) true]
  | none => pure ()
  match drainCheck s v.x (attnDrain v g) g.rows (g.hq * g.hd) with
  | some e => throw e
  | none => return ()

/-- Row `i` may see position `j` (R167; 08 R267). -/
def attnValid (g : AttnOp) (tree : Nat) (i j : Nat) : Bool :=
  decide (j < g.kvLen) && (!bit g.mask 0 || decide (j ≤ g.qPos + i)) &&
  (match (g.pages.getD (j / 32) (0, none)).2 with
    | none => true
    | some k0 => bit g.mask 1 && decide (k0 + j % 32 < 128) && bit tree (k0 + j % 32))

/-- K of position `j` for KV head `h`, as a vector along the head dimension. -/
def attnK (s : State) (x : Ctx) (g : AttnOp) (j h : Nat) : PassVec :=
  let a := (g.pages.getD (j / 32) (0, none)).1
  let row := (j % 32) * g.hkv + h
  if fmtMx g.fmt then
    let b := courtRead s x.court (a + row * g.hd) g.hd
    let sc := courtRead s x.court (a + 32 * g.hkv * g.hd + row * (g.hd / 32)) (g.hd / 32)
    passVec g.fmt ((List.range g.hd).map (elemRaw (fmtCode g.fmt) b)) (sc.map (fun y => y.toNat))
  else
    let b := courtRead s x.court (a + row * g.hd * 2) (g.hd * 2)
    passVec g.fmt ((List.range g.hd).map (elemRaw (fmtCode g.fmt) b)) []

/-- Element `d` of V at position `j` for KV head `h`, as raw bits. -/
def attnV (s : State) (x : Ctx) (g : AttnOp) (j h d : Nat) : Nat :=
  let a := (g.pages.getD (j / 32) (0, none)).1 + kvHalf g
  let w := if fmtMx g.fmt then 1 else 2
  fld (courtRead s x.court (a + (((j % 32) * g.hkv + h) * g.hd + d) * w) w) 0 w

/-- The scale of V's 32-position block on a page for KV head `h` and column `d` (assumption 20). -/
def attnVScale (s : State) (x : Ctx) (g : AttnOp) (pg h d : Nat) : Nat :=
  let a := (g.pages.getD pg (0, none)).1 + kvHalf g + 32 * g.hkv * g.hd
  fld (courtRead s x.court (a + h * g.hd + d) 1) 0 1

/-- Running state of one row and head: o, and MAX and EXPSUM of R. -/
structure AttnAcc where
  o : List F32
  rec_ : GroupRec

/-- The probabilities of a group in P_FMT: raw elements and scales of the two 32-position blocks (R544). -/
def attnProbs (g : AttnOp) (es : List (Option F32)) : FpM (List Nat × List Nat) := do
  let c := fmtCode g.fmt
  if fmtMx g.fmt then
    let enc (l : List (Option F32)) : FpM (Nat × List Nat) :=
      if l.all Option.isNone then pure (127, l.map (fun _ => 0)) else encBlock c (fun _ => .rne) l
    let a ← enc (es.take 32)
    let b ← enc (es.drop 32)
    return (a.2 ++ b.2, [a.1, b.1])
  else
    let r ← es.mapM (fun e => match e with
      | some z => convElem c .rne z
      | none => pure 0)
    return (r, [])

/-- One group of 64 positions of a row and head (R167). -/
def attnGroup (s : State) (x : Ctx) (g : AttnOp) (qv : PassVec) (tree i kh grp : Nat) (acc : Option AttnAcc) :
    FpM (Option AttnAcc) := do
  let lanes := (List.range 64).map (fun l => 64 * grp + l)
  if !(lanes.any (attnValid g tree i)) then return acc
  let sc ← lanes.mapM (fun j => do
    if attnValid g tree i j then
      let d ← winF32 (passReal (tCode g.q) (fmtCode g.fmt) qv (attnK s x g j kh))
      return some (← f32Mul g.sm d)
    else return none)
  let sel : StatSel := ⟨true, false, true, false, false⟩
  match ← groupRec sel grp sc with
  | none => return acc
  | some G =>
    let es ← sc.mapM (fun z => match z with
      | none => pure none
      | some z => do return some (← f32Exp (← f32Sub z G.max)))
    let p ← attnProbs g es
    let pv := passVec g.fmt p.1 p.2
    let t ← (List.range g.hd).mapM (fun d => do
      let raw := lanes.map (fun j => if attnValid g tree i j then attnV s x g j kh d else 0)
      let scv := if fmtMx g.fmt then [2 * grp, 2 * grp + 1].map (fun pg =>
        if decide (pg < g.pages.length) then attnVScale s x g pg kh d else 127) else []
      winF32 (passReal (fmtCode g.fmt) (fmtCode g.fmt) pv (passVec g.fmt raw scv)))
    match acc with
    | none => return some ⟨t, G⟩
    | some a =>
      let m := f32Max a.rec_.max G.max
      let ea ← f32Exp (← f32Sub a.rec_.max m)
      let eb ← f32Exp (← f32Sub G.max m)
      let o ← (List.zip a.o t).mapM (fun q => do
        let u ← f32Mul q.1 ea
        let w ← f32Mul q.2 eb
        f32Add u w)
      let R ← combineRec sel a.rec_ G
      return some ⟨o, R⟩

/-- One row and head: its output elements and its LSE entry. -/
def attnHead (s : State) (x : Ctx) (g : AttnOp) (tree i h : Nat) : FpM (List F32 × F32 × F32) := do
  let hd := g.hd
  let qv := passVec g.q.fmt (rowRaw s x g.q i (h * hd) (h * hd + hd)) (rowScales s x g.q i (h * hd) (h * hd + hd))
  let acc ← (List.range (ceilDiv g.kvLen 64)).foldlM
    (fun acc grp => attnGroup s x g qv tree i (h / (g.hq / g.hkv)) grp acc) (none : Option AttnAcc)
  match acc with
  | none => return (List.replicate hd 0, 0, 0)
  | some a =>
    let o ← a.o.mapM (fun z => f32Div z a.rec_.expsum)
    return (o, a.rec_.max, a.rec_.expsum)

/-- ATTENTION (R167, R544). -/
def attnBody (s : State) (v : WoEnv) : FpM WoOut := do
  match attnOp s v with
  | .error e => return woErr e
  | .ok g =>
    match attnCheck s v g with
    | .error e => return woErr e
    | .ok _ =>
      let rows ← (List.range g.rows).mapM (fun i => do
        (List.range g.hq).mapM (fun h => attnHead s v.x g (g.tree.getD i 0) i h))
      let lse := match g.lse with
        | none => []
        | some p => rows.zipIdx.flatMap (fun r => r.1.zipIdx.map (fun h =>
            (p, 8 * ((row0Of v + r.2) * g.hq + h.2), natLe 4 h.1.2.1 ++ natLe 4 h.1.2.2)))
      let ws ← drainRows s v.x (attnDrain v g) 0 (rows.map (fun r => (r.flatMap (·.1), none)))
      return { woDone (lse ++ ws) with used := [(g.q, g.rows, 0, g.hq * g.hd)] }

/-! ### NORM (R168) -/

/-- The fields of a NORM. -/
structure NormOp where
  x : TRef
  y : TRef
  stats : Option Place
  gamma : Place
  beta : Option Place
  rows : Nat
  cols : Nat
  mode : Nat
  eps : F32
  epi : Epi

/-- Reads and checks the fields of a NORM (R149, R160, R168). -/
def normOp (s : State) (v : WoEnv) : Except Nat NormOp := do
  let wo := v.wo
  need (zeroFld wo 97 3 && zeroFld wo 112 16 && decide (fld wo 96 1 ≤ 1)) tcBadField
  let x ← tensorRef v.x wo 32
  let y ← tensorRef v.x wo 48
  need (tCode x != 0x0C && tCode y != 0x0C) tcBadFormat
  need (decide (1 ≤ fld wo 92 4)) tcBadShape
  let st ← locOpt8 v.x (fld wo 64 8)
  need (fld wo 72 8 != locNone) tcBadField
  let ga ← locPlace8 v.x (fld wo 72 8)
  let be ← locOpt8 v.x (fld wo 80 8)
  let e ← epiLoad s v.x (fld wo 104 8)
  return ⟨x, y, st, ga, be, fld wo 88 4, fld wo 92 4, fld wo 96 1, fld wo 100 4, e⟩

/-- The drain of a work order whose output has `cols` columns and starts at logical row and column 0. -/
def plainDrain (v : WoEnv) (t : TRef) (cols : Nat) (e : Epi) : Drain :=
  ⟨t, 0, 0, cols, e, none, woRandom v 0 e.seed, 0⟩

/-- The tile code a NORM fails with before it computes. -/
def normCheck (s : State) (v : WoEnv) (g : NormOp) : Except Nat Unit := do
  readable s v.x g.x g.rows 0 g.cols
  readablePlace s v.x g.gamma 0 (4 * g.cols)
  match g.beta with
  | some p => readablePlace s v.x p 0 (4 * g.cols)
  | none => pure ()
  match g.stats with
  | some p => readablePlace s v.x p 0 (32 * g.rows)
  | none => pure ()
  match drainCheck s v.x (plainDrain v g.y g.cols g.epi) g.rows g.cols with
  | some e => throw e
  | none => return ()

/-- The folded record a NORM row uses: the one given, or the fold of the row's own group records (R168). -/
def normRec (s : State) (v : WoEnv) (g : NormOp) (i : Nat) (xs : List F32) : FpM GroupRec :=
  match g.stats with
  | some p => pure (recOf (placeRead s v.x p (32 * i) 32))
  | none => do
    let sel : StatSel := ⟨true, true, false, g.mode == 0, g.mode == 1⟩
    let gs ← rowGroups sel 0 xs.length (xs.map some)
    match ← foldRecs sel gs with
    | some r => return r
    | none => return recOf (zeros 32)

/-- One row of a NORM (R168). -/
def normRow (s : State) (v : WoEnv) (g : NormOp) (i : Nat) : FpM (List F32) := do
  let xs := rowF32 s v.x g.x i g.cols
  let r ← normRec s v g i xs
  let n ← f32OfInt r.count
  let ga := vecF32 s v.x g.gamma 0 g.cols
  let inv (q : F32) : FpM F32 := do
    let a ← f32Div q n
    let b ← f32Add a g.eps
    let c ← f32Sqrt b
    f32Div one32 c
  if g.mode = 0 then
    let k ← inv r.sumsq
    (List.zip xs ga).mapM (fun p => do
      let a ← f32Mul p.1 k
      f32Mul a p.2)
  else
    let k ← inv r.m2
    let be := match g.beta with
      | some p => vecF32 s v.x p 0 g.cols
      | none => List.replicate g.cols 0
    (List.zip xs (List.zip ga be)).mapM (fun p => do
      let a ← f32Sub p.1 r.mean
      let b ← f32Mul a k
      let c ← f32Mul b p.2.1
      f32Add c p.2.2)

/-- NORM (R168). -/
def normBody (s : State) (v : WoEnv) : FpM WoOut := do
  match normOp s v with
  | .error e => return woErr e
  | .ok g =>
    match normCheck s v g with
    | .error e => return woErr e
    | .ok _ =>
      let rows ← (List.range g.rows).mapM (normRow s v g)
      let ws ← drainRows s v.x (plainDrain v g.y g.cols g.epi) 0 (rows.map (fun r => (r, none)))
      return { woDone ws with used := [(g.x, g.rows, 0, g.cols)] }

/-! ### ELEMENTWISE (R169) -/

/-- The fields of an ELEMENTWISE. -/
structure EltOp where
  x : TRef
  y : Option TRef
  z : TRef
  rows : Nat
  cols : Nat
  op : Nat
  pass : Nat
  scalar : F32
  epi : Epi

/-- A positive power of two. -/
def isPow2 (w : F32) : Bool := match f32Val w with
  | some d => !d.neg && d.mag != 0 && d.mag == 2 ^ Nat.log2 d.mag
  | none => false

/-- Format rules of an ELEMENTWISE operation: WINDOW only where the operation takes it (R145, R169). -/
def eltFormats (op pass : Nat) (x z : TRef) (y : Option TRef) : Except Nat Unit :=
  let yc := (y.map tCode).getD 0
  if op ≤ 7 then need (tCode x != 0x0C && tCode z != 0x0C && yc != 0x0C) tcBadFormat
  else if op = 8 then do
    need (tCode x == 0x0C && tCode z == 0x0C) tcBadFormat
    need y.isSome tcBadField
    need (yc == 0x0C) tcBadFormat
  else if op = 9 then do
    need (tCode x == 0x0C && tCode z != 0x0C) tcBadFormat
    need (pass == 0 || y.isSome) tcBadField
    need (pass == 0 || yc == 0) tcBadFormat
  else need (tCode x == 0x0C && tCode z != 0x0C && (y.isNone || yc == 0x0C)) tcBadFormat

/-- Reads and checks the fields of an ELEMENTWISE (R149, R160, R169; 09 R296). -/
def eltOp (s : State) (v : WoEnv) : Except Nat EltOp := do
  let wo := v.wo
  need (zeroFld wo 90 2 && zeroFld wo 104 24) tcBadField
  let x ← tensorRef v.x wo 32
  let y ← tensorOpt v.x wo 48
  let z ← tensorRef v.x wo 64
  let op := fld wo 88 1
  let pass := fld wo 89 1
  need (op == 9 || pass == 0) tcBadField
  eltFormats op pass x z y
  need (!(op == 1 || op == 2 || op == 3 || op == 5) || y.isSome) tcBadField
  let sc ← (match ledgerTag (fld wo 92 4), op == 7 with
    | some i, true => (v.convOf i).map pow2F32
    | _, _ => .ok (fld wo 92 4))
  if op = 7 then
    need (fmtTscaled z.fmt) tcBadFormat
    need (isPow2 sc) tcBadField
  let e ← (if op = 8 then .ok epiNone else epiLoad s v.x (fld wo 96 8))
  return ⟨x, y, z, fld wo 80 4, fld wo 84 4, op, pass, sc, e⟩

/-- The tile code an ELEMENTWISE fails with before it computes. -/
def eltCheck (s : State) (v : WoEnv) (g : EltOp) : Except Nat Unit := do
  readable s v.x g.x g.rows 0 g.cols
  match g.y with
  | some y => readable s v.x y g.rows 0 g.cols
  | none => pure ()
  if g.op = 8 then firstErr [rowsCheck v.x g.z g.rows 0 g.cols true]
  else match drainCheck s v.x (plainDrain v g.z g.cols g.epi) g.rows g.cols with
    | some e => throw e
    | none => return ()

/-- SILU (R169). -/
def silu (x : F32) : FpM F32 := do
  let e ← f32Exp (f32Neg x)
  let d ← f32Add one32 e
  let r ← f32Div one32 d
  f32Mul x r

/-- RELU (R169). -/
def relu (x : F32) : F32 := if f32IsNan x then nan32 else if f32Lt 0 x then x else 0

/-- z of operations 1 to 7 (R169). -/
def eltVal (op : Nat) (sc x y : F32) : FpM F32 :=
  match op with
  | 1 => f32Add x y
  | 2 => f32Mul x y
  | 3 => do f32Add (← f32Mul sc x) y
  | 4 => silu x
  | 5 => do f32Mul (← silu x) y
  | 6 => pure (relu x)
  | _ => f32Mul x sc

/-- WINDOW records of a row (02 R62). -/
def rowWins (s : State) (x : Ctx) (t : TRef) (r n : Nat) : List WinRec :=
  let b := placeRead s x t.place (r * t.stride) (16 * n)
  (List.range n).map (fun j => winOf (slice b (16 * j) 16))

/-- Two records of one pass may be added: equal EMAX and no-bound flags (R169). -/
def winsAgree (a b : WinRec) : Bool := a.emax == b.emax

/-- One output row of operations 9 and 10 (R169). -/
def eltWinRow (s : State) (v : WoEnv) (g : EltOp) (i : Nat) : FpM (List F32) := do
  let ws := rowWins s v.x g.x i g.cols
  if g.op = 9 then
    let rs ← ws.mapM winF32
    match g.pass, g.y with
    | 0, _ => return rs
    | _, some y => (List.zip (rowF32 s v.x y i g.cols) rs).mapM (fun p => f32Add p.1 p.2)
    | _, none => return rs
  else
    match g.y with
    | none => ws.mapM winF32
    | some y => (List.zip ws (rowWins s v.x y i g.cols)).mapM (fun p => winF32 (winAdd p.1 p.2))

/-- ELEMENTWISE (R169). -/
def eltBody (s : State) (v : WoEnv) : FpM WoOut := do
  match eltOp s v with
  | .error e => return woErr e
  | .ok g =>
    match eltCheck s v g with
    | .error e => return woErr e
    | .ok _ =>
      let used := (g.x, g.rows, 0, g.cols) :: (match g.y with
        | some y => [(y, g.rows, 0, g.cols)]
        | none => [])
      let pairs := match g.y with
        | some y => (List.range g.rows).flatMap (fun i => List.zip (rowWins s v.x g.x i g.cols) (rowWins s v.x y i g.cols))
        | none => []
      if (g.op = 8 ∨ g.op = 10) ∧ !(pairs.all (fun p => winsAgree p.1 p.2)) then return woErr tcBadShape
      if g.op = 8 then
        let ws := (List.range g.rows).map (fun i =>
          (g.z.place, i * g.z.stride,
            ((List.zip (rowWins s v.x g.x i g.cols) ((g.y.map (fun y => rowWins s v.x y i g.cols)).getD [])).map
              (fun p => winBytes (winAdd p.1 p.2))).flatten))
        return { woDone ws with used := used }
      let rows ← (List.range g.rows).mapM (fun i =>
        if 9 ≤ g.op then eltWinRow s v g i
        else
          let ys := match g.y with
            | some y => rowF32 s v.x y i g.cols
            | none => List.replicate g.cols 0
          (List.zip (rowF32 s v.x g.x i g.cols) ys).mapM (fun p => eltVal g.op g.scalar p.1 p.2))
      let ws ← drainRows s v.x (plainDrain v g.z g.cols g.epi) 0 (rows.map (fun r => (r, none)))
      return { woDone ws with splits := if g.op = 9 then g.pass else 0, used := used }

/-! ### COPY (R170, R545) -/

/-- The fields of a COPY. -/
structure CopyOp where
  src : TRef
  dst : TRef
  rows : Nat
  rowBytes : Nat
  mode : Nat
  cont : Bool
  index : Option Place

/-- Reads and checks the fields of a COPY (R149, R160, R170). -/
def copyOp (v : WoEnv) : Except Nat CopyOp := do
  let wo := v.wo
  need (zeroFld wo 76 4 && zeroFld wo 88 40) tcBadField
  let a ← tensorRef v.x wo 32
  let b ← tensorRef v.x wo 48
  let mode := fld wo 72 1
  need (decide (fld wo 73 1 ≤ 1) && (mode == 1 || fld wo 73 1 == 0)) tcBadField
  need (mode == 3 || fld wo 74 2 == 0xFFFF) tcBadField
  let ix ← locOpt8 v.x (fld wo 80 8)
  need ((mode == 2) == ix.isSome) tcBadField
  let loc1 := match b.place with
    | .store _ _ => true
    | _ => false
  need (!(mode == 1 || mode == 3) || loc1) tcBadField
  return ⟨{ a with row0 := row0Of v }, b, fld wo 64 4, fld wo 68 4, mode, fld wo 73 1 == 1, ix⟩

/-- Rows moved by a COPY without skew: source row of each destination row. -/
def copyRows (s : State) (v : WoEnv) (g : CopyOp) : List Nat :=
  match g.index with
  | some p => (List.range g.rows).map (fun i => fld (placeRead s v.x p (4 * (g.src.row0 + i)) 4) 0 4)
  | none => (List.range g.rows).map (fun i => g.src.row0 + i)

/-- COPY without skew, into `dst` (R170). -/
def copyMove (s : State) (v : WoEnv) (g : CopyOp) (dst : Place) : WoOut :=
  let chk : Except Nat Unit := do
    match g.index with
    | some p => readablePlace s v.x p (4 * g.src.row0) (4 * g.rows)
    | none => pure ()
    let rs := copyRows s v g
    firstErr (rs.map (fun r => placeCheck v.x g.src.place (r * g.src.stride) g.rowBytes false))
    firstErr ((List.range g.rows).map (fun i => placeCheck v.x dst (i * g.dst.stride) g.rowBytes true))
    firstErr (rs.map (fun r => placePoison s v.x g.src.place (r * g.src.stride) g.rowBytes))
  match chk with
  | .error e => woErr e
  | .ok _ =>
    woDone ((copyRows s v g).zipIdx.map (fun p =>
      (dst, p.2 * g.dst.stride, placeRead s v.x g.src.place (p.1 * g.src.stride) g.rowBytes)))

/-- Slot width in bytes and elements per slot of a skewed stream (03 R79). -/
def skewSlot (code : Nat) : Nat × Nat := match elemBits code with
  | 16 => (2, 1)
  | 4 => (1, 2)
  | _ => (1, 1)

/-- The bytes of slot `k` for a source row (03 R79; R545). -/
def skewBytes (code : Nat) (row : List Byte) (k : Nat) : List Byte :=
  let n := row.length * 8 / elemBits code
  let el (i : Nat) : Nat := if i < n then elemRaw code row i else 0
  match elemBits code with
  | 16 => natLe 2 (el k)
  | 4 => natLe 1 (el (2 * k) + 16 * el (2 * k + 1))
  | _ => natLe 1 (el k)

/-- COPY SKEW: lines 0 to ROWS + 62 of one panel (R545; 03 R79, R80). -/
def copySkew (s : State) (v : WoEnv) (g : CopyOp) : WoOut :=
  let code := tCode g.dst
  let w := (skewSlot code).1
  let pitch := 64 * w
  let chk : Except Nat Unit := do
    need (decide (elemBits code ≤ 16)) tcBadFormat
    need (decide (g.rowBytes ≤ (if elemBits code = 6 then 48 else 64 * w))) tcBadShape
    firstErr [placeCheck v.x g.dst.place 0 ((g.rows + 63) * pitch) true]
    firstErr ((List.range g.rows).map (fun i => placeCheck v.x g.src.place (i * g.src.stride) g.rowBytes false))
    firstErr ((List.range g.rows).map (fun i => placePoison s v.x g.src.place (i * g.src.stride) g.rowBytes))
  match chk with
  | .error e => woErr e
  | .ok _ =>
    let rows := (List.range g.rows).map (fun i => placeRead s v.x g.src.place (i * g.src.stride) g.rowBytes)
    woDone ((List.range (g.rows + 63)).flatMap (fun t => (List.range 64).flatMap (fun k =>
      if t < k then (if g.cont then [] else [(g.dst.place, t * pitch + k * w, zeros w)])
      else [(g.dst.place, t * pitch + k * w,
        if t - k < g.rows then skewBytes code (rows.getD (t - k) []) k else zeros w)])))

/-- COPY PLAIN, SKEW and GATHER (R170). -/
def copyBody (s : State) (v : WoEnv) : FpM WoOut := do
  match copyOp v with
  | .error e => return woErr e
  | .ok g => return if g.mode = 1 then copySkew s v g else copyMove s v g g.dst.place

/-- COPY REMOTE into the Block bound to DST_STREAM (R170). -/
def copyRemoteBody (b : Nat) (s : State) (v : WoEnv) : FpM WoOut := do
  match copyOp v with
  | .error e => return woErr e
  | .ok g => match g.dst.place with
    | .store _ a => return copyMove s v g (.store b a)
    | _ => return woErr tcBadField

end Sys2Proof.Machine
end

