-- ==== Sys2Proof/Machine/ServeBase.lean ====
section
/-! DEFINITION. Serving plans, sequences, KV pages and stream rings
(spec/08_serving.md R251, R252, R264, R266, R273, R276 to R279; spec/13_placement_and_scheduling.md R414, R421;
spec/14_security_and_attestation.md R457). -/

namespace Sys2Proof.Machine

/-! ### Serving plans (R252) -/

/-- NAME_HASH of a reserved name: the first 8 bytes of its SHA-256 (R252). -/
def reservedName (n : String) : Nat := leNat ((sha256 (ascii n)).take 8)

/-- The reserved names of R252. -/
def reservedNames : List Nat :=
  [reservedName "serve.tokens", reservedName "serve.positions", reservedName "serve.expert_mask",
   reservedName "serve.logits", reservedName "serve.draft", reservedName "serve.kv"]

/-- Index and SIZE of a plan's BUFFER symbol with a reserved name. -/
def planSym (p : Package) (name : String) : Option (Nat × Nat) :=
  let h := reservedName name
  (p.symbols.zipIdx.find? (fun e => e.1.kind == 2 && e.1.name == h)).map (fun e => (e.2, e.1.size))

/-- The symbol has the SIZE given, where the plan has it. -/
def sizeIs (y : Option (Nat × Nat)) (n : Nat) : Bool := match y with
  | none => true
  | some e => e.2 == n

/-- The plan is one that a SERVE on a base of `layers` layers may name; `none` where the base slot holds no model yet
(R252). -/
def planOk (p : Package) (layers : Option Nat) : Bool :=
  let bufs := (p.symbols.filter (fun y => y.kind == 2)).map (·.name)
  let logits := planSym p "serve.logits"
  (planSym p "serve.tokens").isSome && (planSym p "serve.positions").isSome && logits.isSome &&
  !p.symbols.any (fun y => y.kind == 3) &&
  reservedNames.all (fun h => decide ((bufs.filter (fun n => n == h)).length ≤ 1)) &&
  sizeIs (planSym p "serve.tokens") 4 && sizeIs (planSym p "serve.positions") 4 &&
  (match logits with
    | none => false
    | some e => e.2 % 4 == 0 && e.2 != 0) &&
  sizeIs (planSym p "serve.draft") 1024 && sizeIs (planSym p "serve.kv") 0 &&
  (match layers with
    | none => true
    | some l => sizeIs (planSym p "serve.expert_mask") (32 * l))

/-- A location word names a symbol, with its offset field (05 R143). -/
def wordSym (w : Nat) : Option (Nat × Nat) :=
  if w / 2 ^ 48 = 0 ∧ bits w 47 46 = 2 then some (w % 2 ^ 20, bits w 45 20) else none

/-- The layer and part that a location word names in serve.kv (R252). -/
def kvWord (kv : Option Nat) (w : Nat) : Option (Nat × Nat) := match wordSym w, kv with
  | some (i, o), some k => if i = k then some (o / 2, o % 2) else none
  | _, _ => none

/-- The layer and part of serve.kv that a plan work order refers to: PAGES_AT of an ATTENTION, DST of a COPY. -/
def kvRef (kv : Option Nat) (wo : List Byte) : Option (Nat × Nat) :=
  if woType wo = 3 then kvWord kv (fld wo 64 8)
  else if woType wo = 6 then kvWord kv (fld wo 48 6)
  else none

/-- The work orders of a plan's streams. -/
def planOrders (s : State) (p : Package) : List (List (List Byte)) := match courtOf s p.court with
  | none => []
  | some c => p.streams.map (fun t => (List.range t.count).map (fun j => courtRead s c (t.at_ + 128 * j) 128))

/-- Bytes of a token's K or V, of a page's K or V part, and KV_FORMAT: those of the plan's first per-sequence ATTENTION,
else of its first COPY to serve.kv (R266; 05 R167; assumption 20). -/
def kvShape (kv : Option Nat) (wos : List (List Byte)) : Nat × Nat × Option Nat :=
  match wos.find? (fun w => woType w == 3 && (kvRef kv w).isSome) with
  | some w =>
    let n := fld w 74 2 * fld w 76 2
    if fmtMx (fld w 88 1) then (n, 32 * n + n, some (fld w 88 1)) else (2 * n, 64 * n, some (fld w 88 1))
  | none => match wos.find? (fun w => woType w == 6 && (kvRef kv w).isSome) with
    | some w => (fld w 68 4, 32 * fld w 68 4, none)
    | none => (0, 0, none)

/-- Layers that a plan's references to serve.kv name (R252). -/
def kvLayersOf (kv : Option Nat) (wos : List (List Byte)) : Nat :=
  (wos.filterMap (kvRef kv)).foldl (fun n r => max n (r.1 + 1)) 1

/-! ### Sequences and batches -/

/-- A sequence by its number. -/
def seqOf (s : State) (i : Nat) : Option Seq := tblGet s.srv.seqs i

/-- Changes a sequence. -/
def modSeq (i : Nat) (f : Seq → Seq) (s : State) : State := { s with srv.seqs := tblModify s.srv.seqs i f }

/-- A batch by its number. -/
def batchOf (s : State) (b : Nat) : Option Batch := tblGet s.srv.batches b

/-- Changes a batch. -/
def modBatch (b : Nat) (f : Batch → Batch) (s : State) : State := { s with srv.batches := tblModify s.srv.batches b f }

/-- The sequences of a batch by number, in the order in which their SERVEs started. -/
def batchSeqs (s : State) (b : Nat) : List (Nat × Seq) := s.srv.seqs.filter (fun p => p.2.batch == b)

/-- The sequence of a SERVE. -/
def seqOfCmd (s : State) (q : QId) (cid : Nat) : Option (Nat × Seq) :=
  s.srv.seqs.find? (fun p => p.2.q == q && p.2.cid == cid && !p.2.gone)

/-- The batch still has a sequence that has not retired (R251). -/
def batchLive (s : State) (b : Nat) : Bool := (batchSeqs s b).any (fun p => !p.2.gone)

/-- RESULT of a SERVE's final completion (R276). -/
def serveResult (q : Seq) (reason : Nat) : List Byte :=
  natLe 4 q.emitted ++ natLe 1 reason ++ natLe 1 (b2n q.parkedOnce + 2 * b2n q.trimmed + 4 * b2n q.split) ++ zeros 2 ++
  natLe 8 q.admitStep

/-- A sequence takes part in the step that runs. -/
def inStep (s : State) (i : Nat) (q : Seq) : Bool := match batchOf s q.batch with
  | none => false
  | some t => t.phase == .stepping && t.rows.any (fun e => e.seq == i && e.rows != 0)

/-- A sequence's bindings are released (R260; 07 R235, R247). -/
def unbindSeq (i : Nat) (s : State) : State := match seqOf s i with
  | none => s
  | some q => match q.base with
    | none => s
    | some n =>
      let s := modSeq i (fun q => { q with base := none }) s
      refSlot n (-1) (q.binds.foldl (fun s b => dropVersion b.1 b.2 s) s)

/-- A sequence's SERVE retires with a status and REASON; its bindings end with it, or with the step that still computes
its rows, and its pages leave at the next boundary (R260, R276, R284; 06 R205). -/
def endSeq (i status reason : Nat) (s : State) : State := match seqOf s i with
  | none => s
  | some q =>
    if q.gone then s
    else
      let s := match findCmd s q.q q.cid with
        | none => s
        | some c => retire c { finRes status (serveResult q reason) with withdrawn := status = stAborted ∨ status = stTimeout } s
      let s := modSeq i (fun q => { q with gone := true, kt := 0 }) s
      if inStep s i q then s else unbindSeq i s

/-- A command that waited on a sequence retires with a status. -/
def endReq (r : Option (QId × Nat)) (st : Nat) (s : State) : State := match r.bind (fun p => findCmd s p.1 p.2) with
  | none => s
  | some c => retire c (finSt st) s

/-- A sequence that has retired leaves: its pages are free, and a PARK or RESUME that still names it fails (R261 step 1,
R282). -/
def freeSeq (i : Nat) (s : State) : State := match seqOf s i with
  | none => s
  | some q =>
    let s := unbindSeq i s
    let s := dropXfer (.park i) (dropXfer (.return_ i) s)
    endReq q.resumeReq stStateConflict (endReq q.parkReq stStateConflict { s with srv.seqs := tblErase s.srv.seqs i })

/-! ### KV pages (R264, R266; 13 R414, R421) -/

/-- First Court address of the serving area (13 R414). -/
def serveAt (c : Court) : Nat := (1152 - c.pool - c.serve) * gib

/-- Bytes that one layer's slot of a page takes (13 R421). -/
def pageBytes (t : Batch) : Nat := max 4096 (roundUp (2 * t.kvHalf) 4096)

/-- A batch has not ended, or still has a step or a copy under way; an ended batch holds no buffers and no pages (R251). -/
def batchHolds (s : State) (b : Nat) : Bool := match batchOf s b with
  | none => false
  | some t => t.phase != .boundary || (batchSeqs s b).any (fun p => !p.2.gone || p.2.copy != .none)

/-- What lies in a Court's serving area (13 R421). -/
def serveUse (s : State) (court : Nat) : List (Nat × Nat) :=
  (s.srv.batches.filter (fun p => p.2.court == court && batchHolds s p.1)).flatMap (fun (p : Nat × Batch) =>
    p.2.bufs.filterMap (fun e => if e.2.2 = 0 then none else some (e.2.1, roundUp e.2.2 4096))) ++
  (s.srv.seqs.filter (fun p => p.2.q.owner == court && batchHolds s p.2.batch)).flatMap (fun (p : Nat × Seq) =>
    let n := ((batchOf s p.2.batch).map pageBytes).getD 4096
    (p.2.pages ++ p.2.tent).flatMap (fun g => g.map (fun a => (a, n))))

/-- The lowest addresses of `k` holes of `n` bytes, taken one after another among the ranges in use. -/
def takeHoles (lo hi n : Nat) : Nat → List (Nat × Nat) → Option (List Nat)
  | 0, _ => some []
  | k + 1, used => match firstHole n hi lo used with
    | none => none
    | some a => (takeHoles lo hi n k (insRange (a, n) used)).map (fun t => a :: t)

/-- `k` pages of a batch from the Court's serving area, every layer of each; none where they are not all free. -/
def takePages (s : State) (t : Batch) (k : Nat) : Option (List KvPage) := match courtOf s t.court with
  | none => none
  | some c =>
    (takeHoles (serveAt c) ((1152 - c.pool) * gib) (pageBytes t) (k * t.kvLayers) (sortRanges (serveUse s t.court))).map
      (fun l => chunks t.kvLayers (l.length + 1) l)

/-- The prompt of a sequence is not yet computed. -/
def prefilling (q : Seq) : Bool := decide (q.pos < q.preLen + q.promptLen)

/-- Own pages that hold a sequence's committed KV (R264, R266). -/
def committedPages (q : Seq) : Nat := ceilDiv q.pos 32 - q.preLen / 32

/-- Makes a running sequence's own pages cover positions 0 to `x`: the sequence's pages, and whether they do. -/
def coverTo (i x : Nat) (s : State) : State × Bool := match seqOf s i with
  | none => (s, false)
  | some q => match batchOf s q.batch with
    | none => (s, false)
    | some t =>
      let need := x / 32 + 1 - q.preLen / 32 - q.pages.length
      if need = 0 then (s, true)
      else match takePages s t need with
        | none => (s, false)
        | some ps => (modSeq i (fun q => { q with pages := q.pages ++ ps }) s, true)

/-- Slots that a step reserved and did not use return to the pool, as do all tentative pages; a sequence whose prompt is
not yet computed keeps the pages of its prompt (R262, R264, R273). -/
def trimPages (i : Nat) (s : State) : State :=
  modSeq i (fun q => { q with tent := [], pages := if prefilling q then q.pages else q.pages.take (committedPages q) }) s

/-- Court address of K (0) or V (1) of a token's slot on a page. -/
def slotAt (t : Batch) (pg : KvPage) (layer part slot : Nat) : Nat := pg.getD layer 0 + part * t.kvHalf + slot % 32 * t.kvTok

/-- Court address of K or V of position `x` in a sequence's own pages. -/
def commitAt (t : Batch) (q : Seq) (layer part x : Nat) : Nat :=
  slotAt t (q.pages.getD (x / 32 - q.preLen / 32) []) layer part x

/-- Court address of K or V of tentative slot `m` (R271). -/
def tentAt (t : Batch) (q : Seq) (layer part m : Nat) : Nat := slotAt t (q.tent.getD (m / 32) []) layer part m

/-! ### Stream rings (R277 to R280; 14 R457) -/

/-- Key of a Court's stream ring. -/
def streamKey (court ring : Nat) : Nat := court * 16384 + ring

/-- Entries that a stream ring has room for (R279). -/
def streamRoom (r : StreamRing) : Nat := r.depth - 1 - ringUsed r.depth r.head r.wr

/-- Whether a ring has room for `n` entries, with HEAD read again where the last reading leaves too little: none where
that read fails (R279). -/
def streamReady (k n : Nat) (heads : List (Nat × Option Nat)) (s : State) : State × Option Bool :=
  match tblGet s.srv.rings k with
  | none => (s, some false)
  | some r =>
    if n ≤ streamRoom r then (s, some true)
    else match heads.find? (fun h => h.1 == k % 16384) with
      | none => (s, some false)
      | some (_, none) => (s, none)
      | some (_, some v) =>
        let r' := if decide (v < r.depth) && headOk r.depth r.head r.wr v then { r with head := v } else r
        ({ s with srv.rings := tblSet s.srv.rings k r' }, some (decide (n ≤ streamRoom r')))

/-- The first 12 bytes of a ring entry of a confidential Court: TOKEN and INDEX encrypted, and the tag (14 R457). -/
def sealEntry (s : State) (court ring : Nat) (r : StreamRing) (body tail : List Byte) : List Byte :=
  match transportKey s court r.kt with
  | none => body ++ zeros 4
  | some t =>
    let p := Config.gcmSeal (kdf t.key "ralio-ring" t.nonce) (natLe 4 r.epoch ++ natLe 8 r.written) (natLe 2 ring ++ tail) body
    padTo 8 p.1 ++ padTo 4 p.2

/-- A token that a sequence emits: token, its position, DRAFT, and REASON with FINAL (0: none). -/
structure Emit where
  token : Nat
  pos : Nat
  draft : Bool
  reason : Nat
  deriving DecidableEq, Repr

/-- Writes one entry into a stream ring (R278). -/
def putEntry (court ring step index : Nat) (e : Emit) (s : State) : State :=
  let k := streamKey court ring
  match tblGet s.srv.rings k with
  | none => s
  | some r =>
    let flags (phase : Bool) : List Byte :=
      natLe 1 (b2n phase + 2 * b2n (e.reason != 0) + 4 * b2n e.draft) ++ natLe 1 e.reason ++ zeros 2
    let body := natLe 4 e.token ++ natLe 4 index
    let head := if confCourt s court then sealEntry s court ring r body (flags false) else body ++ natLe 4 (step % 2 ^ 32)
    let last := r.wr + 1 = r.depth
    let r' := { r with wr := (r.wr + 1) % r.depth, phase := if last then !r.phase else r.phase, written := r.written + 1 }
    hostWrite r.via (r.base + 64 + 16 * r.wr) (head ++ flags r.phase) { s with srv.rings := tblSet s.srv.rings k r' }

/-- Raises each vector of the rings once (R280). -/
def raiseStreams (ks : List Nat) (s : State) : State :=
  ((ks.filterMap (fun k => (tblGet s.srv.rings k).bind (fun r => r.vector.map (fun v => (r.via, v))))).eraseDups).foldl
    (fun s v => raiseMsix v.1 v.2 s) s

end Sys2Proof.Machine
end

