-- ==== Sys2Proof/Machine/ServeStep.lean ====
section
/-! DEFINITION. Building a serving step: its rows, the work orders derived from the plan, draft trees
(spec/08_serving.md R253 to R255, R257, R267, R268, R270, R271, R274). -/

namespace Sys2Proof.Machine

/-! ### Draft trees (R270) -/

/-- The nodes of a draft tree as it stands in serve.draft: the list ends at TOKEN 0xFFFFFFFF or after entry 127 (R270). -/
def treeNodes : Nat → List Byte → List DraftNode
  | 0, _ => []
  | n + 1, b =>
    if b.length < 8 ∨ fld b 0 4 = 0xFFFFFFFF then []
    else ⟨fld b 0 4, if fld b 4 1 = 0xFF then none else some (fld b 4 1)⟩ :: treeNodes n (b.drop 8)

/-- No node breaks R270: parents come before, tokens lie below VOCAB, children of one parent differ. -/
def treeOk (vocab : Nat) (ns : List DraftNode) : Bool :=
  ns.zipIdx.all (fun e => decide (e.1.token < vocab) && (match e.1.parent with
      | none => true
      | some p => decide (p < e.2)) &&
    !(ns.take e.2).any (fun d => d == e.1))

/-- Depth of each node: a child of the root has depth 1 (R271). -/
def treeDepths (ns : List DraftNode) : List Nat :=
  ns.foldl (fun l e => l ++ [match e.parent with
    | none => 1
    | some p => l.getD p 0 + 1]) []

/-- Depth of a tree (R264). -/
def treeDepth (ns : List DraftNode) : Nat := (treeDepths ns).foldl max 0

/-- The nodes kept, their parents renumbered. -/
def treeKeep (ns : List DraftNode) (keep : List Bool) : List DraftNode :=
  let at_ (p : Nat) : Nat := ((keep.take p).filter id).length
  ((ns.zip keep).filter (fun e => e.2)).map (fun e => ⟨e.1.token, e.1.parent.map at_⟩)

/-- The tree of a sequence's next step, and whether CONTEXT_LIMIT cut it (R270). -/
def draftTree (vocab : Nat) (q : Seq) : List DraftNode × Bool :=
  let ns := treeNodes 128 q.draft
  if !q.spec ∨ !treeOk vocab ns then ([], false)
  else
    let keep := (treeDepths ns).map (fun d => decide (q.pos + d < q.limit))
    (treeKeep ns keep, keep.any (fun k => !k))

/-- The nodes on the way from the root to node `m`, `m` last; `n` bounds the steps. -/
def treePath (ns : List DraftNode) : Nat → Nat → List Nat
  | 0, _ => []
  | n + 1, m => match ns[m]? with
    | none => []
    | some e => match e.parent with
      | none => [m]
      | some p => treePath ns n p ++ [m]

/-- TREE_AT of a node's row: its bit and every ancestor's (R267). -/
def treeMask (ns : List DraftNode) (m : Nat) : Nat := ((treePath ns 128 m).map (fun k => 2 ^ k)).sum

/-! ### Rows (R255, R271) -/

/-- A row of a step: token, position, and SEED of its SERVE. -/
structure StepRow where
  token : Nat
  pos : Nat
  seed : Nat
  deriving DecidableEq, Repr

/-- The rows of a sequence (R255, R271). -/
def seqRows (q : Seq) (e : StepSeq) : List StepRow :=
  if e.prefill then (List.range e.rows).map (fun i => ⟨q.prompt.getD (q.pos - q.preLen + i) 0, q.pos + i, q.seed⟩)
  else
    ⟨q.root.getD 0, q.pos, q.seed⟩ ::
      (e.tree.zip (treeDepths e.tree)).map (fun n => ⟨n.1.token, q.pos + n.2, q.seed⟩)

/-- Sequence `a` comes before `b` in a step (R255). -/
def rowBefore (a b : Seq) : Bool :=
  if a.low ≠ b.low then decide (a.low < b.low)
  else if a.scal ≠ b.scal then decide (a.scal < b.scal)
  else decide (a.order < b.order)

/-- Inserts a sequence's part into the order of R255. -/
def insRow (s : State) (e : StepSeq) : List StepSeq → List StepSeq
  | [] => [e]
  | f :: t => match seqOf s e.seq, seqOf s f.seq with
    | some a, some b => if rowBefore a b then e :: f :: t else f :: insRow s e t
    | _, _ => e :: f :: t

/-- Numbers the first rows. -/
def numberRows : Nat → List StepSeq → List StepSeq
  | _, [] => []
  | n, e :: t => { e with first := n } :: numberRows (n + e.rows) t

/-- The parts of a step in row order (R255). -/
def orderRows (s : State) (l : List StepSeq) : List StepSeq := numberRows 0 (l.foldl (fun r e => insRow s e r) [])

/-! ### Derived work orders (R253, R254) -/

/-- What the derivation of a step's work orders sees. -/
structure StepEnv where
  batch : Batch
  kv : Option Nat
  /-- the sequences of the step in row order -/
  seqs : List (StepSeq × Seq)
  rows : Nat
  keys : List (Nat × Nat)
  /-- versions bound by the step's sequences -/
  binds : List (Nat × Nat)

/-- A work order with a field replaced. -/
def putFld (wo : List Byte) (off len v : Nat) : List Byte := splice wo off (natLe len v)

/-- A work order that stands for itself. -/
def derPlain (marked : Bool) (keys : List (Nat × Nat)) (wo : List Byte) : Derived :=
  ⟨wo, marked, keys, none, 0, [], [], []⟩

/-- Offset and length of the row field of a work order type (R253). -/
def rowField (ty : Nat) : Option (Nat × Nat) := match ty with
  | 1 => some (80, 2)
  | 2 => some (84, 4)
  | 3 => some (78, 2)
  | 4 => some (88, 4)
  | 5 => some (80, 4)
  | 6 => some (64, 4)
  | _ => none

/-- Page list of a sequence at a layer (R267). -/
def pageList (e : StepSeq) (q : Seq) (layer kvLen : Nat) : List Nat :=
  let tents := if e.tree.isEmpty then [] else q.tent.map (fun p => p.getD layer 0 + 2 ^ 63)
  (tents ++ (q.shared ++ q.pages).map (fun p => p.getD layer 0)).take (ceilDiv kvLen 32)

/-- The ATTENTION of each sequence (R253, R267). -/
def derAttn (v : StepEnv) (layer : Nat) (wo : List Byte) : List Derived :=
  v.seqs.map (fun p =>
    let e := p.1
    let q := p.2
    let t := if e.tree.isEmpty then 0 else q.tent.length
    let kvLen := 32 * t + q.pos + (if e.prefill then e.rows else 1)
    let wo := putFld (putFld wo 78 2 e.rows) 80 4 kvLen
    let wo := putFld (putFld wo 84 4 (32 * t + q.pos)) 89 1 (if t = 0 then 1 else 3)
    { bytes := wo, marked := true, keys := (v.keys.drop e.first).take e.rows, seq := some e.seq, row0 := e.first,
      pages := pageList e q layer kvLen,
      tree := 0 :: (List.range e.tree.length).map (treeMask e.tree), groups := [] })

/-- Where the KV of each row of a sequence goes: the root's and the prefill rows' to their committed slots, the nodes'
to tentative slots (R253, R271). -/
def kvDests (t : Batch) (e : StepSeq) (q : Seq) (layer part : Nat) : List Nat :=
  if e.prefill then (List.range e.rows).map (fun i => commitAt t q layer part (q.pos + i))
  else commitAt t q layer part q.pos :: (List.range e.tree.length).map (tentAt t q layer part)

/-- Maximal runs of rows whose slots are contiguous: first row, rows, address. -/
def destRuns (tok : Nat) : Nat → List Nat → List (Nat × Nat × Nat)
  | _, [] => []
  | i, a :: t => match destRuns tok (i + 1) t with
    | (j, n, b) :: r => if b = a + tok ∧ j = i + 1 then (i, n + 1, a) :: r else (i, 1, a) :: (j, n, b) :: r
    | [] => [(i, 1, a)]

/-- The COPY work orders of each sequence to serve.kv (R253). -/
def derKv (v : StepEnv) (layer part : Nat) (wo : List Byte) : List Derived :=
  v.seqs.flatMap (fun p =>
    let e := p.1
    (destRuns v.batch.kvTok 0 (kvDests v.batch e p.2 layer part)).map (fun r =>
      let w := putFld (putFld wo 64 4 r.2.1) 48 6 r.2.2
      { bytes := putFld w 56 4 v.batch.kvTok, marked := true, keys := (v.keys.drop (e.first + r.1)).take r.2.1,
        seq := some e.seq, row0 := e.first + r.1, pages := [], tree := [], groups := [] }))

/-- Maximal runs of rows with the same handle and version: first row, rows, index of the binding or 0xFFFF (R255). -/
def handleRuns (v : StepEnv) (h : Seq → Nat) : List (Nat × Nat × Nat) :=
  let name (q : Seq) : Nat := match q.binds.find? (fun b => b.1 == h q) with
    | none => 0xFFFF
    | some b => (v.binds.findIdx? (fun x => x == b)).getD 0xFFFF
  v.seqs.foldl (fun l p =>
    let n := if h p.2 = 0xFFFF then 0xFFFF else name p.2
    match l.getLast? with
    | some (st, k, m) => if m = n then l.dropLast ++ [(st, k + p.1.rows, m)] else l ++ [(p.1.first, p.1.rows, n)]
    | none => [(p.1.first, p.1.rows, n)]) []

/-- The GROUPED_LOWRANK of the LOWRANK handles and, where a row's SCALING adaptation has a part there, the one of the
SCALING handles that follows it (R253). -/
def derGlr (s : State) (v : StepEnv) (wo : List Byte) : List Derived :=
  let layer := fld wo 74 2
  let proj := fld wo 88 1
  let one (h : Seq → Nat) : Derived :=
    let gs := handleRuns v h
    { bytes := putFld (putFld wo 84 4 v.rows) 72 2 gs.length, marked := true, keys := v.keys, seq := none, row0 := 0, pages := [],
      tree := [], groups := gs }
  let scaled := v.seqs.any (fun p => match p.2.binds.find? (fun b => b.1 == p.2.scal) with
    | none => false
    | some b => match versionOf s b with
      | some (_, a) => (partOf a layer 3 proj).isSome
      | none => false)
  one (·.low) :: (if scaled then [one (·.scal)] else [])

/-- The work orders that a plan work order gives a step (R253). -/
def derive1 (s : State) (v : StepEnv) (wo : List Byte) : List Derived :=
  match woType wo, kvRef v.kv wo with
  | 6, some (layer, part) => derKv v layer part wo
  | ty, ref => match rowField ty with
    | none => [derPlain false [] wo]
    | some (o, n) =>
      if fld wo o n ≠ 65535 then [derPlain false [] wo]
      else match ty, ref with
      | 3, some (layer, _) => derAttn v layer wo
      | 3, none => [derPlain true v.keys wo]
      | 2, _ => if fld wo 64 8 = locNone then derGlr s v wo else [derPlain true v.keys wo]
      | _, _ => [derPlain true v.keys (putFld wo o n v.rows)]

/-- The parts of one plan work order: the wait is the first part's, the signal the last one's (R254). -/
def partWords (l : List Derived) : List Derived :=
  l.zipIdx.map (fun p =>
    let w := if p.2 = 0 then p.1.bytes else putFld (putFld p.1.bytes 2 2 0xFFFF) 4 4 0
    let w := if p.2 + 1 = l.length then w else putFld (putFld w 8 2 0xFFFF) 12 4 0
    { p.1 with bytes := w })

/-- A stream's derived work orders; SEQ is the position, but for a plan work order whose own SEQ is wrong (R253; 05
R149). -/
def deriveStream (s : State) (v : StepEnv) (wos : List (List Byte)) : List Derived :=
  let all := wos.zipIdx.flatMap (fun p => (partWords (derive1 s v p.1)).map (fun d => (d, fld p.1 16 4 == p.2)))
  all.zipIdx.map (fun p => { p.1.1 with bytes := putFld p.1.1.bytes 16 4 (if p.1.2 then p.2 else 2 ^ 32 - 1) })

/-! ### Starting a step (R251 to R253, R268) -/

/-- The part of a plan's resolution that a batch supplies (R252). -/
def batchEnv (t : Batch) (p : Package) (base : Option Nat) : SymEnv :=
  ⟨t.court, p, t.bufs.map (fun b => (b.1, b.2.1)), 32768, [], base⟩

/-- The buffer of a reserved symbol: its address and bytes a row. -/
def batchBuf (t : Batch) (p : Package) (name : String) : Option (Nat × Nat) := match planSym p name with
  | none => none
  | some (i, size) => (t.bufs.find? (fun b => b.1 == i)).map (fun b => (b.2.1, size))

/-- Writes the rows of a batch buffer. -/
def putRows (c : Court) (b : Option (Nat × Nat)) (rows : List (List Byte)) (s : State) : State := match b with
  | none => s
  | some (a, size) => rows.zipIdx.foldl (fun s r => courtWrite c (a + size * r.2) (r.1.take size) s) s

/-- The row of serve.expert_mask of a sequence: 256 bits for each layer (R252). -/
def maskRow (layers : Nat) (q : Seq) : List Byte :=
  (List.range layers).flatMap (fun l =>
    natLe 32 (((q.claims.filter (fun c => c.1 == l)).map (fun c => 2 ^ c.2)).sum))

/-- The handles that a sequence names (R268). -/
def seqHandles (q : Seq) : List Nat := [q.low, q.scal, q.pre].filter (fun h => h != 0xFFFF)

/-- Starts a step of a batch with the parts given, the rest following in its split (R253, R268). -/
def startPart (b : Nat) (now rest : List StepSeq) (split : Bool) (s : State) : State := match batchOf s b with
  | none => s
  | some t => match courtOf s t.court, pkgOf s t.court t.plan with
    | some c, some p =>
      let rows := orderRows s now
      let sq := rows.filterMap (fun e => (seqOf s e.seq).map (fun q => (e, q)))
      let rs := sq.flatMap (fun e => seqRows e.2 e.1)
      let step := t.step + 1
      let s := putRows c (batchBuf t p "serve.tokens") (rs.map (fun r => natLe 4 r.token)) s
      let s := putRows c (batchBuf t p "serve.positions") (rs.map (fun r => natLe 4 r.pos)) s
      let mask := batchBuf t p "serve.expert_mask"
      let layers := ((mask.map (·.2)).getD 0) / 32
      let s := putRows c mask (sq.flatMap (fun e => List.replicate e.1.rows (maskRow layers e.2))) s
      let binds := (sq.flatMap (fun e => e.2.binds)).eraseDups
      let base := sq.findSome? (fun e => e.2.base)
      let v : StepEnv := ⟨t, (planSym p "serve.kv").map (·.1), sq, rs.length, rs.map (fun r => (r.pos, r.seed)), binds⟩
      let express := sq.any (fun e => e.2.express)
      let streams := (p.streams.zip (planOrders s p)).map (fun e =>
        let d := deriveStream s v e.2
        { RunStream.fresh express e.1.ttTag d.length e.1.at_ with derived := d })
      let ys := match resolveSyms s (batchEnv t p base) with
        | .ok l => l
        | .error _ => []
      let s := rows.foldl (fun s e => modSeq e.seq (fun q =>
        { q with admitStep := if q.admitStep = 0 then step else q.admitStep, split := q.split || split }) s) s
      let s := modBatch b (fun t => { t with step := step, phase := .stepping, run := s.nextRun, rows := rows, rest := rest,
                                             stage := 0, modes := tblGetD s.cmd.modes t.court 0 }) s
      admitRun { owner := .serving t.court b step, court := t.court, pkg := t.plan, semBase := 0,
                 baseSlot := base.getD 0xFFFF, statusAt := 0, statusEntries := 0, step := step, symbols := ys,
                 bindings := binds, streams := streams, retired := 0 } s
    | _, _ => s

/-- Sequences in admission order whose distinct handles stay within 4 096, and those left over (R268). -/
def splitRows (s : State) : List Nat → List StepSeq → List StepSeq × List StepSeq
  | _, [] => ([], [])
  | hs, e :: t =>
    let mine := ((seqOf s e.seq).map seqHandles).getD []
    let all := (hs ++ mine).eraseDups
    if 4096 < all.length then ([], e :: t)
    else
      let r := splitRows s all t
      (e :: r.1, r.2)

/-- Inserts a part in admission order. -/
def insAdmitted (s : State) (e : StepSeq) : List StepSeq → List StepSeq
  | [] => [e]
  | f :: t =>
    let o (x : StepSeq) : Nat := ((seqOf s x.seq).map (·.order)).getD 0
    if o e < o f then e :: f :: t else f :: insAdmitted s e t

/-- The parts in admission order. -/
def admittedOrder (s : State) (l : List StepSeq) : List StepSeq := l.foldl (fun r e => insAdmitted s e r) []

/-- Rows of a step in all. -/
def rowCount (l : List StepSeq) : Nat := (l.map (·.rows)).sum

/-- Drops trees, the latest admitted sequences first, while the step would hold more than 32 768 rows; `l` stands latest
first (R274). -/
def dropTrees : Nat → List StepSeq → List StepSeq
  | _, [] => []
  | total, e :: t =>
    if total ≤ 32768 then e :: t
    else if e.tree.isEmpty then e :: dropTrees total t
    else { e with tree := [], rows := 1 } :: dropTrees (total - e.tree.length) t

/-- Shortens prefill chunks by multiples of 32, the latest admitted sequences first (R274). -/
def shortenChunks : Nat → List StepSeq → List StepSeq
  | _, [] => []
  | total, e :: t =>
    if total ≤ 32768 ∨ !e.prefill then e :: shortenChunks total t
    else
      let cut := min (roundUp (total - 32768) 32) (e.rows / 32 * 32)
      { e with rows := e.rows - cut } :: shortenChunks (total - cut) t

/-- Keeps a step within 32 768 rows (R274). -/
def trimRows (s : State) (l : List StepSeq) : List StepSeq :=
  let late := (admittedOrder s l).reverse
  let late := dropTrees (rowCount late) late
  (shortenChunks (rowCount late) late).reverse

/-- A sequence runs its step without its tree: only the root's slot stays reserved (R264, R274). -/
def dropTree (i : Nat) (s : State) : State :=
  modSeq i (fun q => { q with trimmed := true, tent := [], pages := q.pages.take (q.pos / 32 + 1 - q.preLen / 32) }) s

/-- Starts the step of a boundary with the rows it has gathered, in parts where R268 splits it; a batch without rows
stays at its boundary (R261, R268, R274). -/
def startStep (b : Nat) (s : State) : State := match batchOf s b with
  | none => s
  | some t =>
    let l := trimRows s (t.rows.filter (fun e => e.rows != 0))
    let lost := t.rows.filter (fun e => !e.tree.isEmpty && l.any (fun f => f.seq == e.seq && f.tree.isEmpty))
    let s := lost.foldl (fun s e => dropTree e.seq s) s
    let l := l.filter (fun e => e.rows != 0)
    if l.isEmpty then modBatch b (fun t => { t with rows := [], stage := 0, noPark := [] }) s
    else
      let p := splitRows s [] l
      startPart b p.1 p.2 (!p.2.isEmpty) (modBatch b (fun t => { t with noPark := [] }) s)

end Sys2Proof.Machine
end

