-- ==== Sys2Proof/Machine/Serving.lean ====
section
/-! DEFINITION. Serving: SERVE, stream rings, parking, step boundaries and the retirement of a step
(spec/08_serving.md R251 to R285; spec/14_security_and_attestation.md R454, R457). -/

namespace Sys2Proof.Machine

/-! ### SERVE (R258, R259) -/

/-- The stop sequences of a SERVE. -/
def stopSeqsOf (pb : List Byte) : List (List Nat) :=
  (List.range (fld pb 57 1)).map (fun i => (List.range (fld pb (144 + 68 * i) 1)).map (fun j => fld pb (148 + 68 * i + 4 * j) 4))

/-- The stop sequence entries are as R258 asks. -/
def stopEntriesOk (pb : List Byte) : Bool :=
  (List.range 8).all (fun i =>
    let o := 144 + 68 * i
    let n := fld pb o 1
    if i < fld pb 57 1 then decide (1 ≤ n) && decide (n ≤ 16) && zeroFld pb (o + 1) 3 && zeroFld pb (o + 4 + 4 * n) (64 - 4 * n)
    else zeroFld pb o 68)

/-- TEMP is finite and not negative (R258). -/
def serveTempOk (w : F32) : Bool := match f32Val w with
  | none => false
  | some d => !d.neg || d.mag == 0

/-- The fields of a SERVE are in range (R258, R259; 07 R225). -/
def serveFieldsOk (pb : List Byte) : Bool :=
  decide (fld pb 4 1 < 32) && decide (fld pb 5 1 ≤ 1) && decide (fld pb 6 2 ≤ 16383) && decide (fld pb 14 2 ≤ 1) &&
  fld pb 16 8 % 4 == 0 && decide (1 ≤ fld pb 24 4) && decide (fld pb 24 4 ≤ 1048576) &&
  decide (1 ≤ fld pb 28 4) && decide (fld pb 28 4 ≤ 1048576) && decide (fld pb 32 4 ≤ 1048576) &&
  fld pb 36 2 % 32 == 0 && decide (fld pb 36 2 ≤ 8192) && decide (fld pb 38 2 ≤ 256) && serveTempOk (fld pb 40 4) &&
  decide (fld pb 56 1 ≤ 16) && decide (fld pb 57 1 ≤ 8) && decide (fld pb 60 4 ≤ 604800) && coldOk (fld pb 64 8) &&
  zeroFld pb (80 + 4 * fld pb 56 1) (64 - 4 * fld pb 56 1) && stopEntriesOk pb

/-- CONTEXT_LIMIT, with 0 taken as 1 048 576 (R258). -/
def serveLimit (pb : List Byte) : Nat := if fld pb 32 4 = 0 then 1048576 else fld pb 32 4

/-- The handles that a SERVE names, with the kind each must have. -/
def serveKinds (pb : List Byte) : List (Nat × Nat) :=
  [(fld pb 8 2, 1), (fld pb 10 2, 3), (fld pb 12 2, 4)].filter (fun h => h.1 != 0xFFFF)

/-- A handle of the Court that holds an adaptation is of the kind asked (R259). -/
def kindOk (s : State) (court : Nat) (h : Nat × Nat) : Bool :=
  handleOwner s h.1 != some court || (entryOf s h.1).cur.isNone || (entryOf s h.1).kind == h.2

/-- PREFIX_TOKENS of the prefix that a SERVE names. -/
def prefixOf (s : State) (court h : Nat) : Nat :=
  if h = 0xFFFF ∨ handleOwner s h ≠ some court then 0 else (((entryOf s h).cur).map (·.prefixTokens)).getD 0

/-- The batch of a Court that a SERVE joins: it names the same PLAN and BASE_SLOT, and has not ended (R251). -/
def findBatch (s : State) (court plan slot : Nat) : Option Nat :=
  (s.srv.batches.find? (fun p => p.2.court == court && p.2.plan == plan && p.2.slot == slot && batchLive s p.1)).map (·.1)

/-- The checks of a SERVE at its start: none, or the status (R259). -/
def serveRefusal (s : State) (c : Cmd) : Option Nat :=
  let pb := c.pb
  let court := c.q.owner
  let layers := (tblGet s.gaz.slots (fld pb 4 1)).bind (fun m => if m.layers = 0 then none else some m.layers)
  if !serveFieldsOk pb ∨ !((serveKinds pb).all (kindOk s court)) ∨
      serveLimit pb ≤ fld pb 24 4 + prefixOf s court (fld pb 12 2) then some stInvalidField
  else match pkgOf s court (fld pb 0 4) with
    | none => some stInvalidField
    | some p =>
      if !planOk p layers ∨ (fld pb 14 2 = 1 ∧ (planSym p "serve.draft").isNone) then some stInvalidField
      else if (tblGet s.srv.rings (streamKey court (fld pb 6 2))).isNone ∨
          s.srv.seqs.any (fun e => e.2.q.owner == court && e.2.ring == fld pb 6 2 && !e.2.gone) then some stStateConflict
      else if (findBatch s court (fld pb 0 4) (fld pb 4 1)).isNone ∧
          8 ≤ (s.srv.batches.filter (fun e => e.2.court == court && batchLive s e.1)).length then some stLimitExceeded
      else if 16384 ≤ (s.srv.seqs.filter (fun e => !e.2.gone)).length then some stLimitExceeded
      else none

/-- Takes the buffers of a batch, one for each BUFFER symbol, lowest addresses first (R252; 13 R421). -/
def takeBufs (c : Court) : List (Nat × Nat) → List (Nat × Nat) → Option (List (Nat × Nat × Nat))
  | [], _ => some []
  | (i, size) :: t, used =>
    let n := roundUp (size * 32768) 4096
    if n = 0 then (takeBufs c t used).map (fun l => (i, 0, 0) :: l)
    else match firstHole n ((1152 - c.pool) * gib) (serveAt c) used with
      | none => none
      | some a => (takeBufs c t (insRange (a, n) used)).map (fun l => (i, a, size * 32768) :: l)

/-- A new batch, with its buffers; none where they cannot be allocated (R251, R252). -/
def newBatch (s : State) (court plan slot : Nat) (p : Package) : Option Batch := match courtOf s court with
  | none => none
  | some c =>
    let syms := (p.symbols.zipIdx.filter (fun e => e.1.kind == 2)).map (fun e => (e.2, e.1.size))
    let kv := (planSym p "serve.kv").map (·.1)
    let wos := (planOrders s p).flatten
    let k := kvShape kv wos
    (takeBufs c syms (sortRanges (serveUse s court))).map (fun bufs =>
      { court := court, plan := plan, slot := slot, step := 0, bufs := bufs, phase := .boundary, run := 0, rows := [],
        rest := [], kvTok := k.1, kvHalf := k.2.1, kvFmt := k.2.2, kvLayers := kvLayersOf kv wos,
        vocab := (((planSym p "serve.logits").map (·.2)).getD 0) / 4, stage := 0, modes := 0, asking := none,
        noPark := [], stopWait := 0, reasons := [] })

/-- The sequence of a SERVE as it starts (R258). -/
def newSeq (c : Cmd) (batch : Nat) (prompt : List Byte) : Seq :=
  let pb := c.pb
  { q := c.q, cid := c.cid, batch := batch, express := fld pb 5 1 == 1, ring := fld pb 6 2, low := fld pb 8 2,
    scal := fld pb 10 2, pre := fld pb 12 2, spec := bit (fld pb 14 2) 0, promptAt := fld pb 16 8, promptLen := fld pb 24 4,
    maxNew := fld pb 28 4, limit := serveLimit pb, chunk := if fld pb 36 2 = 0 then 2048 else fld pb 36 2,
    topK := fld pb 38 2, temp := fld pb 40 4, seed := fld pb 48 8,
    stops := (List.range (fld pb 56 1)).map (fun i => fld pb (80 + 4 * i) 4), stopSeqs := stopSeqsOf pb,
    ttl := fld pb 60 4, parkAt := fld pb 64 8, parkBytes := fld pb 72 8, kt := c.kt, state := .waiting, told := false,
    order := 0, base := none, binds := [], claims := [], prompt := prompt.map (·.toNat), pos := 0, preLen := 0, root := none,
    draft := [], emitted := 0, recent := [], admitStep := 0, parkedOnce := false, trimmed := false, split := false,
    shared := [], pages := [], tent := [], parkedAt := 0, expires := none, copy := .none, parkReq := none,
    resumeReq := none, ended := none, failed := none, gone := false }

/-- A SERVE that has passed its checks becomes a sequence of a batch; it counts toward no limit (06 R189). -/
def addSeq (c : Cmd) (b : Nat) (prompt : List Byte) (s : State) : State :=
  let i := s.srv.nextSeq
  modCmd c.q c.cid (fun c => { c with uncounted := true })
    { s with srv.seqs := tblSet s.srv.seqs i (newSeq c b prompt), srv.nextSeq := i + 1 }

/-- Effect of SERVE. -/
def serveBody (prompt : List Byte) (c : Cmd) (s : State) : State × Did :=
  if (seqOfCmd s c.q c.cid).isSome then (s, .stay)
  else match serveRefusal s c, pkgOf s c.q.owner (fld c.pb 0 4) with
  | some st, _ => failWith s st
  | none, none => failWith s stInvalidField
  | none, some p => match findBatch s c.q.owner (fld c.pb 0 4) (fld c.pb 4 1) with
    | some b => (addSeq c b prompt s, .stay)
    | none => match newBatch s c.q.owner (fld c.pb 0 4) (fld c.pb 4 1) p with
      | none => failWith s stNoResource
      | some t =>
        let b := s.srv.nextBatch
        (addSeq c b prompt { s with srv.batches := tblSet s.srv.batches b t, srv.nextBatch := b + 1 }, .stay)

/-- SERVE (R258); `prompt` is what the device reads at PROMPT_ADDR when the sequence is admitted. -/
def execServe (q : QId) (cid : Nat) (prompt : List Byte) (s : State) : Res :=
  .next (runCmd opServe q cid (fun _ => 688) [(44, 4), (58, 2)] (serveBody prompt) s)

/-! ### SET_STREAM_RING (R277; 14 R457) -/

/-- Effect of SET_STREAM_RING. -/
def setStreamBody (c : Cmd) (s : State) : State × Did :=
  let court := c.q.owner
  let ring := fld c.pb 0 2
  let vec := fld c.pb 4 2
  let count := ((transportKey s court c.kt).map (·.rings)).getD 0 + 1
  if 16383 < ring ∨ fld c.pb 2 2 < 255 ∨ (63 < vec ∧ vec ≠ 0xFFFF) ∨ fld c.pb 8 8 % 4096 ≠ 0 then failWith s stInvalidField
  else if s.srv.seqs.any (fun e => e.2.q.owner == court && e.2.ring == ring && !e.2.gone) then failWith s stStateConflict
  else if confCourt s court ∧ 2 ^ 32 ≤ count then failWith s stLimitExceeded
  else
    let r : StreamRing := { via := c.via, base := fld c.pb 8 8, depth := fld c.pb 2 2 + 1, vector := if vec = 0xFFFF then none else some vec,
                            head := 0, wr := 0, phase := true, written := 0, kt := c.kt, epoch := if confCourt s court then count else 0 }
    let s := { s with srv.rings := tblSet s.srv.rings (streamKey court ring) r }
    if confCourt s court then
      (modTransport court c.kt (fun k => { k with rings := count }) s, .fin (finRes stSuccess (natLe 4 count)))
    else (s, .fin (finSt stSuccess))

/-- SET_STREAM_RING (R277). -/
def execSetStreamRing (q : QId) (cid : Nat) (s : State) : Res :=
  .next (runCmd opSetStreamRing q cid (fun _ => 16) [(6, 2)] setStreamBody s)

/-! ### PARK, RESUME (R282, R283) -/

/-- The sequence may be parked: it has a time to live and a location with room for its KV (R258, R281; 14 R454). -/
def parkable (s : State) (q : Seq) : Bool := match batchOf s q.batch with
  | none => false
  | some t =>
    let n := committedPages q * t.kvLayers * (2 * t.kvHalf)
    q.ttl != 0 && coldKind q.parkAt != 0 && decide ((if confCourt s q.q.owner then sealedLen n else n) ≤ q.parkBytes)

/-- A PARKED sequence's time to live restarts (R281, R282; 13 R427). -/
def armTtl (i : Nat) (q : Seq) (secs : Nat) (s : State) : State :=
  let s := modSeq i (fun q => { q with expires := some (s.sq.time + secs * 100000000) }) s
  if coldKind q.parkAt = 2 then
    sendTimer q.q.owner (bits q.parkAt 55 40) (q.parkAt % 2 ^ 40) q.parkBytes secs (.timer i) s
  else s

/-- The target of a PARK or RESUME: a sequence, a SERVE that has not become one, or neither. -/
def serveTarget (s : State) (c : Cmd) : Option (Option (Nat × Seq)) :=
  let tq : QId := ⟨c.q.owner, fld c.pb 0 1⟩
  match findCmd s tq (fld c.pb 2 2) with
  | none => none
  | some d => if d.opcode = opServe then some (seqOfCmd s tq (fld c.pb 2 2)) else none

/-- Effect of PARK. -/
def parkBody (c : Cmd) (s : State) : State × Did :=
  let ttl := fld c.pb 4 4
  if s.srv.seqs.any (fun e => e.2.parkReq == some (c.q, c.cid)) then (s, .stay)
  else if 604800 < ttl then failWith s stInvalidField
  else match serveTarget s c with
    | none => failWith s stNotFound
    | some none => failWith s stStateConflict
    | some (some (i, q)) =>
      if (q.state = .parked ∨ q.state = .parkedAuto) ∧ q.copy = .none then
        (armTtl i q (if ttl = 0 then q.ttl else ttl) (modSeq i (fun q => { q with state := .parked }) s), .fin (finSt stSuccess))
      else if q.state = .running ∧ q.copy = .none ∧ q.parkReq = none ∧ q.ended = none ∧ parkable s q then
        (modSeq i (fun q => { q with parkReq := some (c.q, c.cid) }) s, .stay)
      else failWith s stStateConflict

/-- PARK (R282). -/
def execPark (q : QId) (cid : Nat) (s : State) : Res := .next (runCmd opPark q cid (fun _ => 8) [(1, 1)] parkBody s)

/-- Effect of RESUME. -/
def resumeBody (c : Cmd) (s : State) : State × Did :=
  if s.srv.seqs.any (fun e => e.2.resumeReq == some (c.q, c.cid)) then (s, .stay)
  else match serveTarget s c with
    | none => failWith s stNotFound
    | some none => failWith s stStateConflict
    | some (some (i, q)) =>
      if q.state = .running ∨ q.state = .parkedAuto then (s, .fin (finSt stAlreadyDone))
      else if q.state = .parked ∧ q.resumeReq = none then (modSeq i (fun q => { q with resumeReq := some (c.q, c.cid) }) s, .stay)
      else failWith s stStateConflict

/-- RESUME (R283). -/
def execResume (q : QId) (cid : Nat) (s : State) : Res :=
  .next (runCmd opResume q cid (fun _ => 8) [(1, 1), (4, 4)] resumeBody s)

/-! ### Reservations (R264, R279) -/

/-- Adds a sequence's part to the boundary in progress. -/
def addRow (b : Nat) (e : StepSeq) (s : State) : State := modBatch b (fun t => { t with rows := t.rows ++ [e] }) s

/-- A part of a sequence without a tree. -/
def plainRow (i rows : Nat) (prefill : Bool) : StepSeq := ⟨i, 0, rows, prefill, [], [], [], none⟩

/-- A sequence takes no part in the step: it sits out (R264). -/
def sitOut (b i : Nat) (s : State) : State := addRow b (plainRow i 0 false) s

/-- Reserves what a running sequence's next step needs, or lets it sit out (R264, R270, R279). -/
def reserve (b i : Nat) (heads : List (Nat × Option Nat)) (s : State) : State := match seqOf s i, batchOf s b with
  | some q, some t =>
    let k := streamKey t.court q.ring
    let cut := draftTree t.vocab q
    let tree := if prefilling q then [] else cut.1
    let need := 1 + treeDepth tree
    match streamReady k need heads s with
    | (s, none) => freeSeq i (endSeq i stHostFault 0 s)
    | (s, some false) => sitOut b i s
    | (s, some true) =>
      if prefilling q then
        let n := min q.chunk (q.preLen + q.promptLen - q.pos)
        let r := coverTo i (q.pos + n - 1) s
        if r.2 then addRow b (plainRow i n true) r.1 else sitOut b i r.1
      else
        let s := if cut.2 then modSeq i (fun q => { q with trimmed := true }) s else s
        let r := coverTo i q.pos s
        if !r.2 then sitOut b i r.1
        else if tree.isEmpty then addRow b (plainRow i 1 false) r.1
        else
          let w := coverTo i (q.pos + treeDepth tree) r.1
          match w.2, takePages w.1 t (ceilDiv tree.length 32) with
          | true, some ps =>
            addRow b { plainRow i (1 + tree.length) false with tree := tree } (modSeq i (fun q => { q with tent := ps }) w.1)
          | _, _ => addRow b (plainRow i 1 false) (dropTree i w.1)
  | _, _ => s

/-- Reserves for every running sequence of the batch that the boundary has not yet considered (R261 step 2). -/
def reserveAll (b : Nat) (heads : List (Nat × Option Nat)) (s : State) : State :=
  (batchSeqs s b).foldl (fun s p => match seqOf s p.1, batchOf s b with
    | some q, some t =>
      if q.state = .running ∧ !q.gone ∧ q.copy = .none ∧ !t.rows.any (fun e => e.seq == p.1) then reserve b p.1 heads s else s
    | _, _ => s) s

/-! ### Parking at a boundary (R261, R263, R281, R285) -/

/-- A running sequence's KV is on its way to PARK_AT; it leaves the boundary's rows (R261, R281). -/
def startPark (i : Nat) (s : State) : State := match seqOf s i with
  | none => s
  | some q =>
    let n := committedPages q
    modBatch q.batch (fun t => { t with rows := t.rows.filter (fun e => e.seq != i) })
      (modSeq i (fun q => { q with copy := .out, tent := [], pages := q.pages.take n }) s)

/-- Some page of a sequence delivers poison, so that it cannot be copied (04 R123). -/
def pagesPoisoned (s : State) (bad : List Nat) (q : Seq) : Option Nat := match courtOf s q.q.owner, batchOf s q.batch with
  | some c, some t => (q.pages.take (committedPages q)).findSome? (fun p => p.findSome? (fun a => courtPoisoned s c bad a (2 * t.kvHalf)))
  | _, _ => none

/-- A running sequence that may be parked now for a join: its batch is at a boundary and no copy has failed (R263). -/
def victimOk (s : State) (t : Batch) (i : Nat) (q : Seq) : Bool :=
  q.q.owner == t.court && q.state == .running && !q.gone && q.copy == .none && q.ended.isNone && parkable s q &&
  !t.noPark.contains i && (pagesPoisoned s [] q).isNone &&
  (match batchOf s q.batch with
    | none => false
    | some u => u.phase == .boundary)

/-- The Local sequence that the device would park for a join: the most KV pages, of equals the latest admitted (R263). -/
def parkVictim (s : State) (t : Batch) : Option Nat :=
  (s.srv.seqs.foldl (fun best p =>
    if !victimOk s t p.1 p.2 ∨ p.2.express then best
    else match best with
      | none => some (p.1, p.2)
      | some (j, r) =>
        let a := committedPages p.2
        let c := committedPages r
        if c < a ∨ (a = c ∧ r.order < p.2.order) then some (p.1, p.2) else some (j, r)) none).map (·.1)

/-- How a record names a sequence (R285). -/
def seqName (q : Seq) : List Byte := natLe 1 q.q.qp ++ zeros 1 ++ natLe 2 q.cid

/-- A sequence of a Court by the four bytes that name it (R285). -/
def seqNamed (s : State) (court : Nat) (b : List Byte) : Option Nat :=
  (seqOfCmd s ⟨court, fld b 0 1⟩ (fld b 2 2)).map (·.1)

/-- Parks the victims named, each if it is eligible; none eligible leaves the join without parking (R285). -/
def parkThese (b join : Nat) (vs : List Nat) (s : State) : State :=
  let ok := fun (s : State) (i : Nat) => match batchOf s b, seqOf s i with
    | some t, some q => victimOk s t i q
    | _, _ => false
  let any := vs.any (ok s)
  let s := vs.foldl (fun s i => if ok s i then startPark i s else s) s
  modBatch b (fun t => { t with asking := none, noPark := if any then t.noPark else join :: t.noPark }) s

/-- A PARK decision is settled: `reply` holds the host's victims, none stands for the proposal, and `refuse` for no
parking (R285). -/
def settlePark (b join victim : Nat) (reply : Option (List Byte)) (refuse : Bool) (s : State) : State :=
  match batchOf s b with
  | none => s
  | some t =>
    if t.asking ≠ some join then s
    else if refuse then modBatch b (fun t => { t with asking := none, noPark := join :: t.noPark }) s
    else match reply with
      | none => parkThese b join [victim] s
      | some r => parkThese b join ((chunks 4 (r.length + 1) r).filterMap (fun e => seqNamed s t.court e)) s

/-- Parks a Local sequence for an Express join, or asks the host; false where there is no candidate (R263, R285). -/
def makeWay (b join need : Nat) (s : State) : State × Bool := match batchOf s b, seqOf s join with
  | some t, some j =>
    if t.noPark.contains join then (s, false)
    else match parkVictim s t with
    | none => (s, false)
    | some v =>
      if modeBit s t.court 5 then
        let data := seqName j ++ natLe 4 need ++ (((seqOf s v).map seqName).getD [])
        match ask t.court 5 data (.park b join v) s with
        | (true, s) => (modBatch b (fun t => { t with asking := some join }) s, true)
        | (false, s) => (startPark v s, true)
      else (startPark v s, true)
  | _, _ => (s, false)

/-! ### Admission (R259, R262, R266) -/

/-- What an attempt to admitSeq a join comes to. -/
inductive Joined where
  /-- the join has gone its way: admitted, or its SERVE retired -/
  | done
  /-- it does not fit; the pages it needs -/
  | full (need : Nat)
  /-- its versions or base are on their way -/
  | later
  deriving DecidableEq, Repr

/-- Bytes of the layer body of a prefix: up to the next higher body, or the image's end (R266). -/
def prefixBody (v : AdVersion) (p : AdPart) : Nat :=
  (v.parts.foldl (fun n e => if p.off < e.off then min n e.off else n) v.imageLen) - p.off

/-- A prefix fits the plan's pages (R266). -/
def prefixFits (t : Batch) (v : AdVersion) : Bool :=
  (match t.kvFmt with
    | none => true
    | some f => v.fmt == f) &&
  (v.parts.filter (fun p => p.part == 5)).all (fun p => decide (ceilDiv v.prefixTokens 32 * (2 * t.kvHalf) ≤ prefixBody v p))

/-- Page `j` of a prefix, in place in the pool: its address at each layer (R266). -/
def prefixPage (t : Batch) (v : AdVersion) (j : Nat) : KvPage :=
  (List.range t.kvLayers).map (fun l => match partOf v l 5 0 with
    | none => 0
    | some p => v.poolAt.getD 0 + p.off + j * (2 * t.kvHalf))

/-- The base that the bound sequences of a batch stand on. -/
def batchBase (s : State) (b : Nat) : Option Nat := (batchSeqs s b).findSome? (fun p => p.2.base)

/-- The checks of an admission that need no cold data: the slot bound, or the status (R259). -/
def joinCheck (s : State) (t : Batch) (q : Seq) : Except Nat Nat :=
  let hs := seqHandles q
  let kinds := [(q.low, 1), (q.scal, 3), (q.pre, 4)].filter (fun h => h.1 != 0xFFFF)
  match firstBadBinding s t.court hs with
  | some (_, st) => .error st
  | none =>
    if !(kinds.all (kindOk s t.court)) then .error stInvalidField
    else match bindSlot s t.court t.slot hs with
      | .error st => .error st
      | .ok n => match tblGet s.gaz.slots n with
        | none => .error stStateConflict
        | some m =>
          if hs.any (fun h => (entryOf s h).modelId != m.modelId || (entryOf s h).modelVersion != m.modelVersion) then
            .error stStateConflict
          else match pkgOf s t.court t.plan with
            | none => .error stInvalidField
            | some p => match resolveSyms s (batchEnv t p (some n)) with
              | .error _ => .error stSymbolUnresolved
              | .ok _ => .ok n

/-- The prompt of a sequence as tokens: opened where it is sealed, and below VOCAB (R258, R259, R280; 14 R454). -/
def readPrompt (t : Batch) (q : Seq) (s : State) : State × Except Nat (List Nat) :=
  let raw : List Byte := q.prompt.map (BitVec.ofNat 8)
  let conf := confCourt s t.court
  let n := 4 * q.promptLen
  if raw.length < (if conf then sealedLen n else n) then (s, .error stHostFault)
  else
    let p : State × Option (List Byte) :=
      if conf then
        let o := openHost s t.court q.kt raw sealPrompt (q.q.qp + 2 ^ 16 * q.cid)
        match o.fail with
        | some i => (sealFail t.court sealPrompt i s, none)
        | none => (s, some o.plain)
      else (s, some raw)
    match p with
    | (s, none) => (s, .error stMemoryError)
    | (s, some b) =>
      let toks := (List.range q.promptLen).map (fun i => fld b (4 * i) 4)
      if toks.any (fun w => t.vocab ≤ w) then (s, .error stInvalidField) else (s, .ok toks)

/-- The holders of the reserved expert slots that the Court has claimed on a base: layer, index, handle (07 R234). -/
def courtClaims (s : State) (court : Nat) (m : ModelSlot) : List (Nat × Nat × Nat) :=
  (m.claims.filter (fun c => handleOwner s c.2 == some court)).map (fun c => (c.1 / 256, c.1 % 256, c.2))

/-- The prefix's last page, where it is not full, is copied into the sequence's first page; poison met is an error
(R266). -/
def copyPrefix (s : State) (c : Court) (t : Batch) (v : AdVersion) (pg : KvPage) : Option State :=
  if v.prefixTokens % 32 = 0 then some s
  else
    let src := prefixPage t v (v.prefixTokens / 32)
    let pairs := (src.zip pg).filter (fun p => p.1 != 0)
    if pairs.any (fun p => (courtPoisoned s c [] p.1 (2 * t.kvHalf)).isSome) then none
    else some (pairs.foldl (fun s p => courtWrite c p.2 (courtRead s c p.1 (2 * t.kvHalf)) s) s)

/-- A join that fits is admitted: its bindings, its pages, its first chunk (R260, R262, R266; 07 R234, R235). -/
def enter (b i : Nat) (t : Batch) (q : Seq) (c : Court) (n : Nat) (toks : List Nat) (pre : Option AdVersion) (pages : List KvPage)
    (heads : List (Nat × Option Nat)) (s : State) : State :=
  let copied := match pre with
    | none => some s
    | some v => copyPrefix s c t v (pages.getD 0 [])
  match copied with
  | none => freeSeq i (endSeq i stMemoryError 0 s)
  | some s =>
    let claims := ((tblGet s.gaz.slots n).map (courtClaims s t.court)).getD []
    let bound := bindAll (seqHandles q ++ claims.map (fun e => e.2.2)).eraseDups (some n) s
    let s := bound.2
    let p := (pre.map (·.prefixTokens)).getD 0
    let shared := match pre with
      | none => []
      | some v => (List.range (p / 32)).map (prefixPage t v)
    let k := s.srv.admitted + 1
    let s := { s with srv.admitted := k }
    let s := modSeq i (fun q => { q with state := .running, order := k, base := some n, binds := bound.1, prompt := toks, pos := p, preLen := p,
                                         claims := claims.map (fun e => (e.1, e.2.1)), shared := shared, pages := pages }) s
    match streamReady (streamKey t.court q.ring) 1 heads s with
    | (s, none) => freeSeq i (endSeq i stHostFault 0 s)
    | (s, some false) => sitOut b i s
    | (s, some true) => addRow b (plainRow i (min q.chunk q.promptLen) true) s

/-- Tries to admitSeq a join (R259, R261, R262). -/
def admitSeq (b i : Nat) (heads : List (Nat × Option Nat)) (s : State) : State × Joined := match seqOf s i, batchOf s b with
  | some q, some t =>
    let out (st : Nat) (s : State) : State × Joined := (freeSeq i (endSeq i st 0 s), .done)
    match courtOf s t.court, joinCheck s t q with
    | none, _ => (s, .later)
    | _, .error st => out st s
    | some c, .ok n =>
      if (batchBase s b).any (fun m => m != n) then (s, .full 0)
      else
        let claims := ((tblGet s.gaz.slots n).map (courtClaims s t.court)).getD []
        let all := (seqHandles q ++ claims.map (fun e => e.2.2)).eraseDups
        match demand all (some n) s with
        | (s, .fail st) => out st s
        | (s, .wait) => (s, .later)
        | (s, .ok) => match readPrompt t q s with
          | (s, .error st) => out st s
          | (s, .ok toks) =>
            let pre := if q.pre = 0xFFFF then none else (entryOf s q.pre).cur
            let p := (pre.map (·.prefixTokens)).getD 0
            if pre.any (fun v => !prefixFits t v) ∨ q.limit ≤ q.promptLen + p then out stInvalidField s
            else
              let need := ceilDiv (p + q.promptLen + 1) 32 - p / 32
              if 32768 < rowCount t.rows + min q.chunk q.promptLen then (s, .full need)
              else match takePages s t need with
                | none => (s, .full need)
                | some pages => (enter b i t q c n toks pre pages heads s, .done)
  | _, _ => (s, .done)

/-- The joins of a class, in the order in which their SERVEs started (R261). -/
def joinsOf (s : State) (b : Nat) (express : Bool) : List Nat :=
  ((batchSeqs s b).filter (fun p => p.2.express == express && (p.2.state == .waiting || p.2.state == .queued) && !p.2.gone)).map (·.1)

/-- The joins from a number on are left waiting: each becomes QUEUED, and says so once (R260, R262). -/
def queueJoins (b : Nat) (express : Bool) (s : State) : State :=
  ((joinsOf s b express).zipIdx).foldl (fun s p => match seqOf s p.1 with
    | none => s
    | some q =>
      let s := modSeq p.1 (fun q => { q with state := .queued, told := true }) s
      if q.told then s
      else match findCmd s q.q q.cid with
        | none => s
        | some c => interim c stQueued (natLe 4 p.2) s) s

/-- What the joins of a class come to. -/
inductive Joins where
  | all
  /-- one of them does not fit -/
  | stopped
  /-- one of them waits for its versions or base -/
  | later
  /-- a parking or a decision is under way -/
  | busy
  deriving DecidableEq, Repr

/-- Admits the joins of a class in order (R261 to R263). -/
def joinAll (b : Nat) (express : Bool) (heads : List (Nat × Option Nat)) : List Nat → State → State × Joins
  | [], s => (s, .all)
  | i :: t, s => match admitSeq b i heads s with
    | (s, .done) => joinAll b express heads t s
    | (s, .later) => (s, .later)
    | (s, .full need) =>
      if express ∧ need ≠ 0 then
        match makeWay b i need s with
        | (s, true) => (s, .busy)
        | (s, false) => (queueJoins b express s, .stopped)
      else (queueJoins b express s, .stopped)

/-! ### Returns (R261 step 3, R281) -/

/-- Inserts a sequence in order of the time at which it was parked. -/
def insParked (p : Nat × Seq) : List (Nat × Seq) → List (Nat × Seq)
  | [] => [p]
  | r :: t => if p.2.parkedAt < r.2.parkedAt then p :: r :: t else r :: insParked p t

/-- The sequences of a batch that may return, in ascending order of the time at which they were parked (R261). -/
def returners (s : State) (b : Nat) : List Nat :=
  (((batchSeqs s b).filter (fun p => !p.2.gone && p.2.copy == .none &&
    (p.2.state == .parkedAuto || (p.2.state == .parked && p.2.resumeReq.isSome)))).foldl (fun l p => insParked p l) []).map (·.1)

/-- Begins the return of the first candidate; false where there is none or it does not fit (R261, R262). -/
def startReturn (b : Nat) (s : State) : State × Bool := match returners s b, batchOf s b with
  | i :: _, some t => match seqOf s i with
    | none => (s, false)
    | some q => match takePages s t (committedPages q) with
      | none => (s, false)
      | some ps => (modSeq i (fun q => { q with copy := .back, pages := ps }) s, true)
  | _, _ => (s, false)

/-! ### STEP_BOUNDARY (R261) -/

/-- Some copy of the batch's sequences, or one that makes way for its joins, is under way. -/
def copying (s : State) (court b : Nat) : Bool :=
  s.srv.seqs.any (fun p => p.2.copy != .none && (p.2.batch == b || (p.2.copy == .out && p.2.q.owner == court)))

/-- Step 1 of a boundary: sequences that have retired leave, those that STOP ended retire, accepted PARKs begin their copies
(R261, R276, R282, R285). -/
def releases (b : Nat) (s : State) : State :=
  (batchSeqs s b).foldl (fun s p => match seqOf s p.1 with
    | none => s
    | some q =>
      if q.copy ≠ .none then s
      else if q.gone then freeSeq p.1 s
      else match q.ended with
        | some r => freeSeq p.1 (endSeq p.1 stSuccess r s)
        | none =>
          if q.state = .running ∧ q.parkReq.isSome then
            (if parkable s q then startPark p.1 s
             else endReq q.parkReq stStateConflict (modSeq p.1 (fun q => { q with parkReq := none }) s))
          else s) s

/-- The end of a boundary, from a stage on (R261). -/
def joinStages (b : Nat) (heads : List (Nat × Option Nat)) (s : State) : State := match batchOf s b with
  | none => s
  | some t =>
    let express : State × Joins := if t.stage = 2 then joinAll b true heads (joinsOf s b true) s else (s, .all)
    match express with
    | (s, .busy) => s
    | (s, e) =>
      let s := if e = .stopped then queueJoins b false s else s
      let stage := if t.stage = 2 then (if e = .stopped then 4 else 3) else t.stage
      let local_ : State × Joins := if stage = 3 then joinAll b false heads (joinsOf s b false) s else (s, .all)
      startStep b (modBatch b (fun t => { t with stage := 4 }) local_.1)

/-- A boundary goes on from where it stands until something must be waited for (R261). -/
def boundary (b : Nat) (heads : List (Nat × Option Nat)) (s : State) : State := match batchOf s b with
  | none => s
  | some t =>
    if t.phase ≠ .boundary ∨ t.stopWait ≠ 0 ∨ t.asking.isSome ∨ copying s t.court b then s
    else
      let s := if t.stage = 0 then releases b s else s
      if (batchSeqs s b).isEmpty then { s with srv.batches := tblErase s.srv.batches b }
      else if copying s t.court b then s
      else
        let s := reserveAll b heads s
        let s := if t.stage = 0 then modBatch b (fun t => { t with stage := 1 }) s else s
        match batchOf s b with
        | none => s
        | some u =>
          if u.stage = 1 then
            (match startReturn b s with
            | (s, true) => s
            | (s, false) => joinStages b heads (modBatch b (fun t => { t with stage := 2 }) s))
          else joinStages b heads s

/-- STEP_BOUNDARY: the active Square carries a batch's boundary on (R261); `heads` gives HEAD of the stream rings that it
reads again. -/
def execStepBoundary (batch : Nat) (heads : List (Nat × Option Nat)) (s : State) : Res := match batchOf s batch with
  | none => .next s
  | some t => .next (if ownerReady s t.court ∧ s.sq.ready ∧ !s.sq.takeover then boundary batch heads s else s)

/-! ### Parking and return copies (R281) -/

/-- The parked form of a sequence's KV: layer by layer, its committed pages in order. -/
def kvImage (s : State) (c : Court) (t : Batch) (q : Seq) : List Byte :=
  (List.range t.kvLayers).flatMap (fun l => (q.pages.take (committedPages q)).flatMap (fun p => courtRead s c (p.getD l 0) (2 * t.kvHalf)))

/-- Binding of a sequence's parked KV (14 R454). -/
def parkBinding (q : Seq) : Nat := q.q.qp + 2 ^ 16 * q.cid

/-- A parking copy has failed: the sequence stays RUNNING (13 R426; 04 R123). -/
def parkFailed (i st : Nat) (q : Seq) (s : State) : State :=
  let s := modSeq i (fun q => { q with copy := .none, parkReq := none }) s
  let s := { s with srv.batches := s.srv.batches.map (fun (p : Nat × Batch) =>
    (p.1, if p.2.court = q.q.owner then { p.2 with noPark := i :: p.2.noPark } else p.2)) }
  endReq q.parkReq st s

/-- A parking copy has ended: the sequence is PARKED or PARKED_AUTO and its pages are free (R281, R282). -/
def parked (i : Nat) (q : Seq) (s : State) : State :=
  let ttl := match q.parkReq.bind (fun p => findCmd s p.1 p.2) with
    | none => q.ttl
    | some c => if fld c.pb 4 4 = 0 then q.ttl else fld c.pb 4 4
  let s := modSeq i (fun q => { q with copy := .none, pages := [], state := if q.parkReq.isSome then .parked else .parkedAuto,
                                       parkedOnce := true, parkedAt := s.sq.time, parkReq := none }) s
  endReq q.parkReq stSuccess (if q.gone then s else armTtl i q ttl s)

/-- PARK_COPY_COMPLETE: the copy of a sequence's KV to PARK_AT ends (R281); `mem` is what its reads find. -/
def parkCopyRow (seq : Nat) (mem : Findings) (s : State) : Res := match seqOf s seq with
  | none => .next s
  | some q => match courtOf s q.q.owner, batchOf s q.batch with
    | some c, some t =>
      if q.copy ≠ .out ∨ !s.sq.ready then .next s
      else if (xferOf s (.park seq)).isSome then
        (match xferOf s (.park seq) with
        | some x =>
          if x.failed then .next (parkFailed seq stDeviceFault q (dropXfer (.park seq) s))
          else if awaiting s (.park seq) then .next s
          else .next (parked seq q (dropXfer (.park seq) s))
        | none => .next s)
      else
        let f := applyFindings false mem s
        match pagesPoisoned f.s f.bad q with
        | some l => .next (parkFailed seq stMemoryError q (poisonRead (some l) f.s))
        | none =>
          let plain := kvImage f.s c t q
          let p := if c.conf then sealColdObj q.q.owner (parkBinding q) plain f.s else (plain, f.s)
          if coldKind q.parkAt = 1 then
            (match findCmd s q.q q.cid with
            | none => .next (parked seq q f.s)
            | some d => if fnWrites s d.via then .next (parked seq q (hostWrite d.via (q.parkAt % 2 ^ 57) p.1 p.2)) else .next s)
          else .next (putAll q.q.owner (bits q.parkAt 55 40) (q.parkAt % 2 ^ 40) p.1 q.express (.park seq) p.2)
    | _, _ => .next s

/-- A return copy has failed: the SERVE retires (R281; 12 R403; 13 R426). -/
def returnFailed (i st reason : Nat) (s : State) : State := endSeq i st reason (modSeq i (fun q => { q with copy := .none, pages := [] }) s)

/-- Writes parked KV back into a sequence's pages (R281). -/
def putKv (c : Court) (t : Batch) (q : Seq) (b : List Byte) (s : State) : State :=
  let n := q.pages.length
  (List.range t.kvLayers).foldl (fun s l => q.pages.zipIdx.foldl (fun s p =>
    courtWrite c (p.1.getD l 0) (slice b ((l * n + p.2) * (2 * t.kvHalf)) (2 * t.kvHalf)) s) s) s

/-- The data of a return has arrived: it is opened where it is sealed, and the sequence runs again (R281, R283; 14 R455). -/
def returned (i : Nat) (q : Seq) (c : Court) (t : Batch) (b : List Byte) (s : State) : State :=
  let n := q.pages.length * t.kvLayers * (2 * t.kvHalf)
  let o : Opened := if c.conf then openColdObj s q.q.owner b (parkBinding q) else ⟨b.take n, none⟩
  match o.fail with
  | some k => returnFailed i stMemoryError 0 (sealFail q.q.owner sealCold k s)
  | none =>
    let s := modSeq i (fun q => { q with copy := .none, state := .running, expires := none, resumeReq := none }) (putKv c t q o.plain s)
    let s := if coldKind q.parkAt = 2 then
        sendTimer q.q.owner (bits q.parkAt 55 40) (q.parkAt % 2 ^ 40) q.parkBytes 0 (.timer i) s else s
    endReq q.resumeReq stSuccess s

/-- RETURN_COPY_COMPLETE: the copy of a parked sequence's KV back from PARK_AT ends (R281); `image` is what the device
reads at a HOST location. -/
def execReturnCopyComplete (seq : Nat) (image : List Byte) (s : State) : Res := match seqOf s seq with
  | none => .next s
  | some q => match courtOf s q.q.owner, batchOf s q.batch with
    | some c, some t =>
      if q.copy ≠ .back ∨ !s.sq.ready then .next s
      else if q.gone then .next (dropXfer (.return_ seq) (modSeq seq (fun q => { q with copy := .none }) s))
      else
        let n := q.pages.length * t.kvLayers * (2 * t.kvHalf)
        let need := if c.conf then sealedLen n else n
        if coldKind q.parkAt = 1 then
          (match (findCmd s q.q q.cid).map (·.via) with
          | none => .next (returnFailed seq stHostFault 0 s)
          | some f =>
            if ideEnded s f then .next (returnFailed seq stHostFault 0 s)
            else if !fnWrites s f then .next s
            else if image.length < need then .next (returnFailed seq stHostFault 0 s)
            else .next (returned seq q c t image s))
        else match xferOf s (.return_ seq) with
          | none => .next (getAll q.q.owner (bits q.parkAt 55 40) (q.parkAt % 2 ^ 40) need q.express (.return_ seq) s)
          | some x =>
            if x.failed then
              .next (returnFailed seq (if x.expired then stTimeout else stDeviceFault) (if x.expired then 7 else 0)
                (dropXfer (.return_ seq) s))
            else if awaiting s (.return_ seq) then .next s
            else .next (returned seq q c t (xferBytes x need) (dropXfer (.return_ seq) s))
    | _, _ => .next s

/-- PARK_TTL_EXPIRY: the time to live of a parked sequence ends before a return has begun (R281). -/
def execParkTtlExpiry (seq : Nat) (s : State) : Res := match seqOf s seq with
  | none => .next s
  | some q =>
    if (q.state = .parked ∨ q.state = .parkedAuto) ∧ q.copy = .none ∧ !q.gone ∧ q.expires.any (fun t => decide (t ≤ s.sq.time)) then
      .next (endSeq seq stTimeout 7 s)
    else .next s

/-! ### Sampling and verification (R269, R272) -/

/-- Candidate `a` comes before `b`: logit descending, then token ascending (R269). -/
def candBefore (a b : Nat × F32) : Bool := if f32Lt b.2 a.2 then true else if f32Lt a.2 b.2 then false else decide (a.1 < b.1)

/-- Inserts a candidate in order. -/
def insCand (a : Nat × F32) : List (Nat × F32) → List (Nat × F32)
  | [] => [a]
  | b :: t => if candBefore a b then a :: b :: t else b :: insCand a t

/-- The finite logits of a row in the order of R269. -/
def candidates (row : List F32) : List (Nat × F32) :=
  ((row.zipIdx.filter (fun e => (f32Val e.1).isSome)).map (fun e => (e.2, e.1))).foldl (fun l a => insCand a l) []

/-- The running sums c_v of the weights of the candidates (R269). -/
def weightSums (temp lmax : F32) : F32 → List (Nat × F32) → FpM (List (Nat × F32))
  | _, [] => pure []
  | c, (v, l) :: t => do
    let w ← f32Exp (← f32Div (← f32Sub l lmax) temp)
    let c' ← f32Add c w
    return (v, c') :: (← weightSums temp lmax c' t)

/-- The token sampled from a row of logits for position `p`; none where no logit is finite (R269). -/
def sampleToken (q : Seq) (row : List F32) (p : Nat) : Option Nat :=
  let all := candidates row
  let cand := if q.topK = 0 then all else all.take q.topK
  match cand with
  | [] => none
  | (v, l) :: t =>
    if (f32Val q.temp).any dyIsZero then some v
    else
      let cs := fpVal (weightSums q.temp l 0 ((v, l) :: t))
      let w := philoxWord (philox (q.seed % 2 ^ 32) (q.seed / 2 ^ 32) (p % 2 ^ 32) 0 0 0) 0
      let u := fpVal (f32Round ⟨false, w / 256, -24⟩)
      let target := fpVal (f32Mul u ((cs.getLast?.map (·.2)).getD 0))
      match cs.find? (fun e => f32Lt target e.2) with
      | some e => some e.1
      | none => cs.getLast?.map (·.1)

/-- The path that the verifier accepts: nodes from the root on (R272); `n` bounds the steps. -/
def verify (ns : List DraftNode) (sampled : List (Option Nat)) : Nat → Option Nat → List Nat
  | 0, _ => []
  | n + 1, x =>
    match sampled.getD (match x with
      | none => 0
      | some m => m + 1) none with
    | none => []
    | some tok => match ns.findIdx? (fun d => d.parent == x && d.token == tok) with
      | none => []
      | some y => y :: verify ns sampled n (some y)

/-- What the verifier needs of a sequence's rows: the tokens sampled at the root's row and the nodes' rows, or at the last
prefill row; none where a read meets poison. -/
def sampleRows (s : State) (c : Court) (t : Batch) (p : Package) (bad : List Nat) (e : StepSeq) (q : Seq) : Option (List (Option Nat)) :=
  match batchBuf t p "serve.logits" with
  | none => some []
  | some (a, size) =>
    let at_ (r : Nat) : Nat := a + size * (e.first + r)
    let depths := 0 :: treeDepths e.tree
    let rows := if e.prefill then [(e.rows - 1, q.pos + e.rows)] else depths.zipIdx.map (fun d => (d.2, q.pos + d.1 + 1))
    if rows.any (fun r => (courtPoisoned s c bad (at_ r.1) size).isSome) then none
    else some (rows.map (fun r =>
      let b := courtRead s c (at_ r.1) size
      sampleToken q ((List.range t.vocab).map (fun v => fld b (4 * v) 4)) r.2))

/-! ### Stop conditions (R275) -/

/-- The lowest-numbered REASON that an emitted token meets, 0 for none; `recent` are the tokens before it, newest first,
and `count` the number of emitted tokens with it (R275). -/
def stopReason (q : Seq) (recent : List Nat) (count tok pos : Nat) : Nat :=
  let hist := tok :: recent
  if q.stops.contains tok then 1
  else if q.stopSeqs.any (fun w => !w.isEmpty && hist.take w.length == w.reverse) then 2
  else if count = q.maxNew then 3
  else if pos + 1 = q.limit then 4
  else 0

/-- The tokens that a sequence posts, each with the REASON it meets; with `stop` none follows the first that meets one
(R275). -/
def emitList (q : Seq) (stop : Bool) : List Nat → Nat → List Emit → List Emit
  | _, _, [] => []
  | recent, count, e :: t =>
    let r := stopReason q recent (count + 1) e.token e.pos
    { e with reason := r } :: (if stop && r != 0 then [] else emitList q stop ((e.token :: recent).take 15) (count + 1) t)

/-! ### SERVING_STEP_RETIRE (R264, R272 to R276, R280, R285) -/

/-- The KV entries of an accepted path are relinked into the sequence (R273). -/
def relink (c : Court) (t : Batch) (q : Seq) (path : List Nat) (s : State) : State :=
  path.zipIdx.foldl (fun s p => (List.range t.kvLayers).foldl (fun s l => [0, 1].foldl (fun s k =>
    courtMove c (tentAt t q l k p.1) (commitAt t q l k (q.pos + p.2 + 1)) t.kvTok s) s) s) s

/-- The draft output of a row (R270). -/
def draftRow (s : State) (c : Court) (t : Batch) (p : Package) (q : Seq) (row : Nat) : List Byte :=
  if !q.spec then []
  else match batchBuf t p "serve.draft" with
    | none => []
    | some (a, size) => courtRead s c (a + size * row) size

/-- Posts a sequence's tokens to its ring, and its SERVE retires where one ends it (R275, R276, R278, R280). With STOP in
host-assisted mode none carries FINAL, and the REASON the device would give is kept (R285). -/
def postTokens (b i : Nat) (es : List Emit) (s : State) : State := match seqOf s i, batchOf s b with
  | some q, some t =>
    let host := bit t.modes 4
    let l := emitList q (!host) q.recent q.emitted es
    let s := l.zipIdx.foldl (fun s p =>
      putEntry t.court q.ring t.step (q.emitted + p.2) (if host then { p.1 with reason := 0 } else p.1) s) s
    let s := modSeq i (fun q => { q with emitted := q.emitted + l.length, root := l.getLast?.map (·.token),
                                         recent := ((l.map (·.token)).reverse ++ q.recent).take 15 }) s
    let r := ((l.find? (fun e => e.reason != 0)).map (·.reason)).getD 0
    if host then modBatch b (fun t => { t with reasons := t.reasons ++ [(i, r, t.step)] }) s
    else if r ≠ 0 then endSeq i stSuccess r s
    else s
  | _, _ => s

/-- What a step did for one sequence takes effect (R264, R269, R272, R273). -/
def seqRetire (b : Nat) (c : Court) (t : Batch) (p : Package) (e : StepSeq) (s : State) : State := match seqOf s e.seq with
  | none => s
  | some q =>
    let i := e.seq
    if q.gone then unbindSeq i (modSeq i (fun q => { q with tent := [] }) s)
    else match e.dead with
    | some code => endSeq i (runStatus code) 0 s
    | none =>
      if e.prefill ∧ q.pos + e.rows < q.preLen + q.promptLen then modSeq i (fun q => { q with pos := q.pos + e.rows }) s
      else
        let last := match e.path.getLast? with
          | none => 0
          | some m => m + 1
        match e.sampled.getD last none with
        | none => endSeq i stWorkOrderFailed 6 s
        | some tok =>
          if e.prefill then
            let draft := draftRow s c t p q (e.first + e.rows - 1)
            let pos := q.pos + e.rows
            trimPages i (postTokens b i [⟨tok, pos, false, 0⟩] (modSeq i (fun q => { q with pos := pos, draft := draft }) s))
          else
            let draft := draftRow s c t p q (e.first + last)
            let s := relink c t q e.path s
            let es := e.path.zipIdx.map (fun n => (⟨((e.tree[n.1]?).map (·.token)).getD 0, q.pos + n.2 + 1, true, 0⟩ : Emit))
            let pos := q.pos + e.path.length + 1
            trimPages i (postTokens b i (es ++ [⟨tok, pos, false, 0⟩]) (modSeq i (fun q => { q with pos := pos, draft := draft }) s))

/-- Request of a STOP decision (R285). -/
def stopData (s : State) (l : List (Nat × Nat × Nat)) (counts : List (Nat × Nat)) : List Byte :=
  l.flatMap (fun e => (((seqOf s e.1).map seqName).getD (zeros 4)) ++
    natLe 2 (((counts.find? (fun x => x.1 == e.1)).map (·.2)).getD 0) ++ natLe 1 e.2.1 ++ zeros 1)

/-- After a step, the next part of its split begins, or the boundary comes (R261, R268). -/
def nextPart (b : Nat) (s : State) : State := match batchOf s b with
  | none => s
  | some t =>
    let s := modBatch b (fun t => { t with phase := .boundary, rows := [], rest := [], stage := 0 }) s
    let left := t.rest.filter (fun e => ((seqOf s e.seq).map (fun q => !q.gone)).getD false)
    if left.isEmpty then s
    else
      let p := splitRows s [] left
      startPart b p.1 p.2 true s

/-- A sequence's emitted tokens, by sequence. -/
def emittedOf (s : State) (l : List StepSeq) : List (Nat × Nat) := l.map (fun e => (e.seq, ((seqOf s e.seq).map (·.emitted)).getD 0))

/-- The step retires: every sequence's part takes effect, vectors are raised, STOP is asked, and the batch goes on
(R264, R276, R280, R285). -/
def finishStep (b : Nat) (c : Court) (p : Package) (s : State) : State := match batchOf s b with
  | none => s
  | some t =>
    let before := emittedOf s t.rows
    let rings := (t.rows.filterMap (fun e => (seqOf s e.seq).map (fun q => (streamKey t.court q.ring, e.seq))))
    let s := modBatch b (fun t => { t with phase := .boundary }) s
    let s := t.rows.foldl (fun s e => seqRetire b c t p e s) s
    let after := emittedOf s t.rows
    let counts := after.map (fun a => (a.1, a.2 - ((before.find? (fun x => x.1 == a.1)).map (·.2)).getD 0))
    let s := raiseStreams ((rings.filter (fun r => counts.any (fun a => a.1 == r.2 && a.2 != 0))).map (·.1)) s
    let mine := ((batchOf s b).map (fun t => t.reasons.filter (fun r => r.2.2 == t.step))).getD []
    let s := if mine.isEmpty then s
      else match ask t.court 4 (stopData s mine counts) (.stop b t.step) s with
        | (true, s) => modBatch b (fun t => { t with stopWait := t.stopWait + 1 }) s
        | (false, s) => modBatch b (fun t => { t with reasons := t.reasons.filter (fun r => r.2.2 != t.step) }) s
    nextPart b s

/-- Request of a SPEC decision, the speculating sequences' part (R285). -/
def specData (s : State) (l : List StepSeq) : List Byte :=
  (l.filter (fun e => !e.tree.isEmpty)).flatMap (fun e =>
    let word (t : Option Nat) : List Byte := natLe 4 (t.getD 0xFFFFFFFF)
    (((seqOf s e.seq).map seqName).getD (zeros 4)) ++ natLe 1 e.tree.length ++ natLe 1 (e.path.getLast?.getD 0xFF) ++ zeros 2 ++
    (e.sampled.drop 1).flatMap word ++ word (e.sampled.getD 0 none))

/-- A SPEC decision is settled: the host's paths where it names valid nodes, else the verifier's (R285). -/
def settleSpec (b : Nat) (reply : List Byte) (s : State) : State := match batchOf s b with
  | none => s
  | some t =>
    if t.phase ≠ .spec then s
    else
      let es := chunks 8 (reply.length + 1) reply
      let pick (e : StepSeq) : StepSeq := match es.find? (fun r => seqNamed s t.court r == some e.seq) with
        | none => e
        | some r =>
          let n := fld r 4 1
          if e.tree.isEmpty then e
          else if n = 0xFF then { e with path := [] }
          else if n < e.tree.length then { e with path := treePath e.tree 128 n }
          else e
      modBatch b (fun t => { t with phase := .decided, rows := t.rows.map pick }) s

/-- A STOP decision is settled: the sequences to stop leave at the next boundary (R285). -/
def settleStop (b step disp : Nat) (reply : List Byte) (s : State) : State := match batchOf s b with
  | none => s
  | some t =>
    let mine := t.reasons.filter (fun r => r.2.2 == step)
    let mark (i r : Nat) (s : State) : State := modSeq i (fun q => { q with ended := some r }) s
    let s := if disp = 1 then
        ((chunks 4 (reply.length + 1) reply).filterMap (seqNamed s t.court)).foldl (fun s i => if mine.any (fun r => r.1 == i) then mark i 5 s else s) s
      else if disp = 0 then mine.foldl (fun s r => if r.2.1 = 0 then s else mark r.1 r.2.1 s) s
      else s
    modBatch b (fun t => { t with stopWait := t.stopWait - 1, reasons := t.reasons.filter (fun r => r.2.2 != step) }) s

/-- Samples and verifies the rows of a step whose run has ended (R269, R272). -/
def sampleStep (b code : Nat) (c : Court) (p : Package) (bad : List Nat) (s : State) : State := match batchOf s b with
  | none => s
  | some t =>
    let rows := t.rows.map (fun e => match seqOf s e.seq with
      | none => e
      | some q =>
        if code ≠ 0 then { e with dead := some (e.dead.getD code) }
        else if e.dead.isSome ∨ q.gone ∨ (e.prefill ∧ q.pos + e.rows < q.preLen + q.promptLen) then e
        else match sampleRows s c t p bad e q with
          | none => { e with dead := some tcMemoryError }
          | some l => { e with sampled := l, path := if e.prefill then [] else verify e.tree l 128 none })
    modBatch b (fun t => { t with rows := rows }) s

/-- SERVING_STEP_RETIRE: a step whose run has ended is sampled, verified and checked for stops, its tokens are written and
it retires; with SPEC in host-assisted mode the host decides between (R276, R285). -/
def servingStepRow (batch : Nat) (mem : Findings) (s : State) : Res := match batchOf s batch with
  | none => .next s
  | some t => match courtOf s t.court, pkgOf s t.court t.plan with
    | some c, some p =>
      if !s.sq.ready then .next s
      else match t.phase with
      | .stepping => match takeRun s (.serving t.court batch t.step) with
        | none => .next s
        | some (code, s) =>
          let f := applyFindings false mem s
          let s := sampleStep batch code c p f.bad f.s
          match batchOf s batch with
          | none => .next s
          | some u =>
            if bit u.modes 6 ∧ u.rows.any (fun e => !e.tree.isEmpty && e.dead.isNone) then
              (match ask u.court 6 (specData s (u.rows.filter (fun e => e.dead.isNone))) (.spec batch) s with
              | (true, s) => .next (modBatch batch (fun t => { t with phase := .spec }) s)
              | (false, s) => .next (finishStep batch c p s))
            else .next (finishStep batch c p s)
      | .decided => .next (finishStep batch c p s)
      | _ => .next s
    | _, _ => .next s

end Sys2Proof.Machine
end

