-- ==== Sys2Proof/Machine/Withdraw.lean ====
section
/-! DEFINITION. Withdrawing a command: ABORT, deadlines, and what takes a queue pair down (spec/06_command_protocol.md
R182, R196, R203 to R206). -/

namespace Sys2Proof.Machine

/-! ### What each opcode leaves (R205) -/

/-- The open step of a STEP or DISTIL_STEP. -/
def ownStep (s : State) (c : Cmd) : Option TrainStep := match stepOf s (stepKey c) with
  | none => none
  | some (_, t) => if t.q = c.q ∧ t.cid = c.cid ∧ !t.posted then some t else none

/-- A withdrawal that reaches the command now wins: its own retirement has not passed its point of no return
(R203, R206; 08 R282, R283; 09 R313; 13 R429). -/
def withdrawable (s : State) (c : Cmd) : Bool :=
  if !c.started then true
  else if isStepOp c.opcode && c.work == [1] then
    match ownStep s c with
    | some t => t.phase == .opened && t.own != some stAborted && t.own != some stTimeout
    | none => (stepOf s (stepKey c)).isNone
  else if c.opcode == opPark then
    !s.srv.seqs.any (fun e => e.2.parkReq == some (c.q, c.cid) && e.2.copy != .none)
  else if c.opcode == opResume then
    !s.srv.seqs.any (fun e => e.2.resumeReq == some (c.q, c.cid) && e.2.copy != .none)
  else if c.opcode == opMigrate then
    !s.part.stores.any (fun t => t.move.any (fun m => m.q == c.q && m.cid == c.cid && m.final))
  else true

/-- RESULT of a withdrawn RUN: WITHDRAWN, with the first of its streams that holds a dispatched work order (R199). -/
def runWithdrawn (s : State) (r : Nat) : List Byte := match tblGet s.runs r with
  | none => []
  | some k =>
    let busy (t : RunStream) : Bool := match t.head with
      | .sent _ => true
      | .done _ _ => true
      | .waiting _ => true
      | _ => false
    match k.streams.zipIdx.find? (fun p => busy p.1) with
    | none => natLe 2 tcWithdrawn
    | some (t, i) => natLe 2 tcWithdrawn ++ natLe 2 i ++ natLe 4 (fld (woBytes s k t) 16 4)

/-- Returns what a RESIZE_COURT has taken for a Court: granules not yet in its table, and Blocks on their way out. -/
def releaseResize (court : Nat) (s : State) : State := match courtOf s court with
  | none => s
  | some c =>
    let mine := c.gtab.map (·.2)
    let extra := (s.mem.granules.filter (fun p => p.2.owner == .court court && !mine.contains p.1)).map (·.1)
    let s := extra.foldl (fun s G => clearGranule G .free false s) s
    { s with blocks := s.blocks.map (fun (p : Nat × Block) =>
        if p.2.want = some .resize ∧ c.blocks.contains (globalOf s p.1) then (p.1, { p.2 with want := none }) else p) }

/-- Undoes a creation: the Court is absent, and its granules return to the free pool (R205). -/
def uncreate (court : Nat) (s : State) : State := match courtOf s court with
  | none => s
  | some c =>
    let s := c.gtab.foldl (fun s p => clearGranule p.2 .free false s) s
    { s with courts := tblErase s.courts court }

/-- Drops the placement decision that a command waits for. -/
def dropPlace (q : QId) (cid : Nat) (s : State) : State :=
  let mine (p : AssistPurpose) : Bool := match p with
    | .place _ q' cid' => q' == q && cid' == cid
    | _ => false
  { s with cmd.assists := s.cmd.assists.filter (fun a => !mine a.purpose) }

/-- The Court that a lifecycle command names. -/
def courtNamed (c : Cmd) : Nat := if c.q.owner = 16 then fld c.pb 0 1 else c.q.owner

/-- The step of a STEP that is withdrawn: its votes say ABANDONED, and the command retires with the outcome (09 R313). -/
def withdrawStep (st : Nat) (c : Cmd) (s : State) : State :=
  let key := stepKey c
  match ownStep s c with
  | some _ => modStep key (fun t => { t with own := some st }) (abandonStep key st s)
  | none => if (grpOf s key).isSome then voteOnly key c st s else retire c { finSt st with withdrawn := true } s

/-- What a started command other than a SERVE or a waiting STEP leaves when it is withdrawn (R205). -/
def undoCmd (c : Cmd) (s : State) : State :=
  let s := dropPlace c.q c.cid s
  let clearReq (s : State) : State := { s with srv.seqs := s.srv.seqs.map (fun (p : Nat × Seq) =>
    (p.1, { p.2 with parkReq := if p.2.parkReq = some (c.q, c.cid) then none else p.2.parkReq
                     resumeReq := if p.2.resumeReq = some (c.q, c.cid) then none else p.2.resumeReq })) }
  if c.opcode = opRun then match runOfCmd s c with
    | some r => abortRun r s
    | none => s
  else if c.opcode = opCheckpoint then (if c.progress = 2 then ckInvalid c s else s)
  else if c.opcode = opLoadBase ∨ c.opcode = opReplaceBase then match c.work with
    | n :: _ => emptySlot n s
    | [] => s
  else if c.opcode = opRegisterAdapter then match claimedHandle c with
    | some h => abandonHandle h s
    | none => s
  else if c.opcode = opReplace then
    { s with gaz.entries := s.gaz.entries.map (fun (p : Nat × GazEntry) =>
        if p.2.nextCmd = some (c.q, c.cid) then (p.1, { p.2 with next := none, nextCmd := none, train := 1 }) else p) }
  else if c.opcode = opMigrate then
    match s.part.stores.find? (fun t => t.move.any (fun m => m.q == c.q && m.cid == c.cid)) with
    | some t =>
      let s := { s with part.reqs := s.part.reqs.filter (fun r => r.use != .adopt t.court && r.use != .move t.court) }
      modStore t.court t.origin (fun t => { t with move := none }) s
    | none => s
  else if c.opcode = opFormGroup then
    match s.grps.find? (fun g => g.2.by_ == some (c.q, c.cid) && g.2.state == .forming) with
    | some g => withdrawForm g.1 s
    | none => s
  else if c.opcode = opRunRoadworks then
    { s with age.rw := s.age.rw.filter (fun r => !(r.q == c.q && r.cid == c.cid)) }
  else if c.opcode = opStageFirmware then emptyStaging s
  else if c.opcode = opPark ∨ c.opcode = opResume then clearReq s
  else if c.opcode = opCreateCourt then
    (if (courtOf s (courtNamed c)).any (fun k => k.state == .creating && k.by_ == some (c.q, c.cid)) then
      uncreate (courtNamed c) s else s)
  else if c.opcode = opResizeCourt then (if c.work = [] then s else releaseResize (courtNamed c) s)
  else s

/-- Withdraws a command with a status: ABORTED or TIMEOUT (R203, R205, R206). -/
def withdraw (st : Nat) (c : Cmd) (s : State) : State :=
  let f := { finSt st with withdrawn := true }
  if !c.started then retire c f s
  else if isStepOp c.opcode ∧ c.work = [1] then withdrawStep st c s
  else match seqOfCmd s c.q c.cid with
    | some (i, q) => if q.gone then s else endSeq i st 0 s
    | none =>
      let res := if c.opcode = opRun then (match runOfCmd s c with
          | some r => runWithdrawn s r
          | none => []) else []
      retire c { f with result := res } (undoCmd c s)

/-- Sends a withdrawal to an unretired command; one that comes too late has no effect. -/
def sendWithdrawal (st : Nat) (q : QId) (cid : Nat) (s : State) : State := match findCmd s q cid with
  | none => s
  | some c => if withdrawable s c then withdraw st c s else s

/-! ### Rows -/

/-- The fetching that an ABORT waits for is not done yet: its target queue has entries that it held when ABORT was
fetched (R203). -/
def abortFetching (s : State) (c : Cmd) (tq : QId) : Bool := match queueOf s tq with
  | none => false
  | some t => !t.stopped && !t.deleting && decide (t.fetched < c.snap)

/-- Effect of ABORT. -/
def abortBody (c : Cmd) (s : State) : State × Did :=
  let tq : QId := ⟨c.q.owner, if c.q.owner = 16 then 0 else fld c.pb 0 1⟩
  let tc := fld c.pb 2 2
  let end_ (st : Nat) : Did := .fin { finSt st with after := some (tq, tc) }
  if c.q.owner = 16 ∧ fld c.pb 0 1 ≠ 0 then failWith s stInvalidField
  else match findCmd s tq tc with
    | some t =>
      if c.work = [2, t.fetchedAt] then (s, .stay)
      else if c.work ≠ [] then (s, end_ stSuccess)
      else if abortFetching s c tq then (s, .stay)
      else if !opAbortable t.opcode then failWith s stNotAbortable
      else if !withdrawable s t then (s, .stay)
      else
        let s := withdraw stAborted t s
        if (findCmd s tq tc).isSome then (modCmd c.q c.cid (fun d => { d with work := [2, t.fetchedAt] }) s, .stay)
        else (s, end_ stSuccess)
    | none =>
      if c.work ≠ [] then (s, end_ stSuccess)
      else if abortFetching s c tq then (s, .stay)
      else if (queueOf s tq).any (fun t => t.retired.contains tc) then (s, end_ stAlreadyDone)
      else failWith s stNotFound

/-- ABORT (R203, R204). -/
def execAbort (q : QId) (cid : Nat) (s : State) : Res :=
  .next (runCmd opAbort q cid (fun _ => 8) [(1, 1), (4, 4)] abortBody s)

/-- DEADLINE_EXPIRY: DEADLINE_MS after its fetch a command is withdrawn (R206). -/
def execDeadlineExpiry (q : QId) (cid : Nat) (s : State) : Res :=
  .next (match findCmd s q cid with
    | none => s
    | some c =>
      if !s.sq.ready ∨ s.sq.takeover ∨ c.deadlineMs = 0 ∨ !opAbortable c.opcode ∨
          s.sq.time < c.fetchedAt + c.deadlineMs * msUnits then s
      else sendWithdrawal stTimeout q cid s)

/-- A queue pair is taken down: nothing more is fetched from it, and its abortable commands are withdrawn (R196). -/
def takeDown (q : QId) (s : State) : State :=
  let s := modQueue q (fun t => { t with deleting := true }) s
  let l := (s.cmd.cmds.filter (fun c => c.q == q && opAbortable c.opcode)).map (·.cid)
  dropDeleted q (l.foldl (fun s cid => sendWithdrawal stAborted q cid s) s)

/-- Effect of DELETE_QUEUE_PAIR; it completes once the queue pair is gone. -/
def deleteQpBody (c : Cmd) (s : State) : State × Did :=
  match namedCourt s c (fld c.pb 1 1) with
  | none => failWith s stInvalidQueue
  | some court =>
    let tq : QId := ⟨court, fld c.pb 0 1⟩
    if c.work ≠ [] then
      (if (queueOf s tq).any (fun t => t.deleting) then (s, .stay) else (s, .fin (finSt stSuccess)))
    else match queueOf s tq with
      | none => failWith s stInvalidQueue
      | some t =>
        if tq = c.q ∨ (c.q.owner = 16 ∧ t.via ≠ c.via) then failWith s stInvalidQueue
        else
          let s := takeDown tq (modCmd c.q c.cid (fun c => { c with work := [1] }) s)
          if (queueOf s tq).isSome then (s, .stay) else (s, .fin (finSt stSuccess))

/-- DELETE_QUEUE_PAIR (R196). -/
def execDeleteQueuePair (q : QId) (cid : Nat) (s : State) : Res :=
  .next (runCmd opDeleteQueuePair q cid (fun _ => 8) [(2, 6)] deleteQpBody s)

/-- Q0_DISABLE: clearing ENABLE takes the bootstrap queue pair down, and READY clears when that is done (R182). -/
def execQ0Disable (via : FnId) (value : Nat) (s : State) : Res :=
  .next (match fnOf s via with
    | none => s
    | some h =>
      if s.sq.stage ≠ 0xFF ∨ !h.enabled ∨ !bit h.q0Ctrl 0 ∨ bit value 0 then s
      else
        let s := modFn via (fun h => { h with q0Ctrl := value % 2 ^ 32 }) s
        if (queueOf s (bootQ via)).any (fun t => t.via == via) then takeDown (bootQ via) s
        else modFn via (fun h => { h with q0Ready := false }) s)

end Sys2Proof.Machine
end

