-- ==== Sys2Proof/Machine/Courts.lean ====
section
/-! DEFINITION. Courts: creation, resizing, reset, zeroisation and destruction, and the zeroisations that the Watch
starts (spec/13_placement_and_scheduling.md R411 to R418; spec/14_security_and_attestation.md R471 to R473). -/

namespace Sys2Proof.Machine

/-! ### The parameter block (R412) -/

/-- The global Block indices that BLOCKS names. -/
def blocksNamed (pb : List Byte) : List Nat := (List.range 256).filter (fun g => bit (fld pb 32 32) g)

/-- Granules that the four windows need. -/
def windowSum (pb : List Byte) : Nat := fld pb 8 2 + fld pb 10 2 + fld pb 12 2 + fld pb 14 2

/-- The fields of CREATE_COURT and RESIZE_COURT are in range (R412, R413). -/
def courtFieldsOk (pb : List Byte) : Bool :=
  decide (fld pb 0 1 < 16) && decide (fld pb 1 1 < 4) && decide (fld pb 2 1 < 16) &&
  bits (fld pb 2 1) 1 0 != 3 && bits (fld pb 2 1) 3 2 != 3 && decide (1 ≤ fld pb 3 1) &&
  decide (1 ≤ fld pb 6 2) && decide (fld pb 6 2 ≤ 1000) && decide (fld pb 14 2 ≤ 512) && decide (fld pb 16 2 ≤ 256) &&
  decide (fld pb 18 2 ≤ 256) && decide (windowSum pb ≤ 1152) && !((blocksNamed pb).isEmpty && fld pb 18 2 == 0)

/-- The RESIZE_COURT commands under way, with the Court and the Block set that each takes up. -/
def resizing (s : State) : List Cmd := s.cmd.cmds.filter (fun c => c.opcode == opResizeCourt && c.work != [])

/-- The global indices in service that no Court holds or is about to take, ascending (R413). -/
def freeIndices (s : State) : List Nat :=
  let taken := s.courts.flatMap (fun p => p.2.blocks) ++ (resizing s).flatMap (·.work)
  (List.range 256).filter (fun g => (physOf s g).isSome && !taken.contains g)

/-- The Block set of a CREATE_COURT; none where R413 answers NO_RESOURCE. -/
def createBlocks (s : State) (pb : List Byte) : Option (List Nat) :=
  let want := blocksNamed pb
  let free := freeIndices s
  if want.isEmpty then (if fld pb 18 2 ≤ free.length then some (free.take (fld pb 18 2)) else none)
  else if want.all (fun g => free.contains g) then some want else none

/-- The lowest run of `k` consecutive free handle units (R415). -/
def freeUnits (s : State) (k : Nat) : Option Nat :=
  (List.range (256 - k)).find? (fun u => s.courts.all (fun p => decide (u + k ≤ p.2.unit0) || decide (p.2.unit0 + p.2.units ≤ u)))

/-- Contexts on each Junction that Courts other than one hold, resizes under way included (R411). -/
def contextsTaken (s : State) (court : Nat) : Nat :=
  ((s.courts.filter (fun p => p.1 != court)).map (fun p =>
    ((resizing s).filter (fun c => fld c.pb 0 1 == p.1)).foldl (fun m c => max m (fld c.pb 16 2)) p.2.contexts)).sum

/-- The Court granule indices of four windows, ascending (R414). -/
def windowIdx (general store serve pool : Nat) : List Nat :=
  List.range general ++ (List.range (pool + serve + store)).map (fun i => 1152 - pool - serve - store + i)

/-! ### CREATE_COURT (R413) -/

/-- The refusals of a CREATE_COURT whose fields are in range, in the order of R413: the status, or its Blocks and its
first handle unit. -/
def createCheck (s : State) (pb : List Byte) : Except Nat (List Nat × Nat) :=
  let ways := fld pb 4 2
  let conf := bit (fld pb 1 1) 0
  if (courtOf s (fld pb 0 1)).isSome then .error stStateConflict
  else if s.courts.any (fun p => (p.2.wayMask &&& ways) != 0 && (conf || p.2.conf)) then .error stStateConflict
  else match createBlocks s pb with
    | none => .error stNoResource
    | some gs => match freeUnits s (fld pb 3 1) with
      | none => .error stNoResource
      | some u =>
        if spareGranules s < windowSum pb ∨ 256 < contextsTaken s 16 + fld pb 16 2 then .error stNoResource
        else .ok (gs, u)

/-- A Court in the state creating. -/
def Court.begun (c : Cmd) (gs : List Nat) (unit0 : Nat) (gtab : Tbl Nat) : Court :=
  let pb := c.pb
  { state := .creating, by_ := some (c.q, c.cid), conf := bit (fld pb 1 1) 0, signed := bit (fld pb 1 1) 1,
    service := fld pb 2 1, units := fld pb 3 1, unit0 := unit0, wayMask := fld pb 4 2, weight := fld pb 6 2,
    general := fld pb 8 2, store := fld pb 10 2, serve := fld pb 12 2, pool := fld pb 14 2, contexts := fld pb 16 2,
    blocks := gs, gtab := gtab, sems := [], satCount := 0, nonfinCount := 0, slotLate := 0, slotOverrun := 0,
    slotShort := 0, row := ⟨[], 10000, 10000⟩, rowNext := none }

/-- A table from Court granule indices, ascending, to device granules. -/
def gtabOf (l : List (Nat × Nat)) : Tbl Nat := l.foldl (fun t p => tblSet t p.1 p.2) []

/-- The start of a CREATE_COURT that is accepted: Blocks zeroed, granules taken and cleared; with the first
confidential Court the TAP is forced into Test-Logic-Reset (R413, R421; 14 R442). -/
def createStart (c : Cmd) (gs : List Nat) (unit0 : Nat) (s : State) : State :=
  let pb := c.pb
  let conf := bit (fld pb 1 1) 0
  let s := if conf ∧ !anyConf s then { s with tap.ir := 0x01 } else s
  let l := (windowIdx (fld pb 8 2) (fld pb 10 2) (fld pb 12 2) (fld pb 14 2)).zip ((freeGranules s).take (windowSum pb))
  let s := l.foldl (fun s p => clearGranule p.2 (.court (fld pb 0 1)) conf s) s
  let s := gs.foldl (fun s g => match physOf s g with
    | some b => storeZero b s
    | none => s) s
  { s with courts := tblSet s.courts (fld pb 0 1) (Court.begun c gs unit0 (gtabOf l)) }

/-- The granules that a creation or a resize has taken for a Court and that its decision may amend (R431). -/
def freshOf (s : State) (n : Nat) (creating : Bool) : List Nat :=
  let kept := if creating then [] else ((courtOf s n).map (fun k => k.gtab.map (·.2))).getD []
  (s.mem.granules.filter (fun p => p.2.owner == .court n && !kept.contains p.1)).map (·.1)

/-- Proposes the granules taken to the host where PLACEMENT is host-assisted (R431). -/
def askGranules (c : Cmd) (n : Nat) (gs : List Nat) (s : State) : State :=
  if modeBit s 16 0 ∧ gs ≠ [] then (ask 16 0 (granuleData n gs) (.place 1 c.q c.cid) s).2 else s

/-- Takes the granules that the host chose in place of those proposed, where each is free or proposed (R431). -/
def amendGranules (n : Nat) (gs : List Nat) (s : State) : State := match courtOf s n with
  | none => s
  | some k =>
    let creating := k.state == .creating
    let mine := freshOf s n creating
    if gs.length ≠ mine.length ∨ gs.eraseDups.length ≠ gs.length ∨
        !(gs.all (fun g => mine.contains g || (freeGranules s).contains g)) then s
    else
      let s := (mine.filter (fun g => !gs.contains g)).foldl (fun s g => clearGranule g .free false s) s
      let s := (gs.filter (fun g => !mine.contains g)).foldl (fun s g => clearGranule g (.court n) k.conf s) s
      if creating then modCourt n (fun k => { k with gtab := gtabOf ((windowIdx k.general k.store k.serve k.pool).zip gs) }) s
      else s

/-- The retirement of a CREATE_COURT: keys, the partner store, ready (R413, R423; 14 R446, R467). -/
def createFinish (c : Cmd) (s : State) : State × Did :=
  let n := fld c.pb 0 1
  let s := newStore n (freshKeys n (modCourt n (fun k => { k with state := .ready, by_ := none }) s))
  ({ s with sec.configs := tblSet s.sec.configs n (c.pb.take 64) },
    .fin (finRes stSuccess (natLe 2 (256 * ((courtOf s n).map (·.unit0)).getD 0))))

/-- The Court is in a transition that the command makes. -/
def transits (s : State) (n : Nat) (c : Cmd) (st : CourtState) : Bool :=
  (courtOf s n).any (fun k => k.state == st && k.by_ == some (c.q, c.cid))

/-- Effect of CREATE_COURT; it only starts where `whole` is clear. -/
def createBody (whole : Bool) (c : Cmd) (s : State) : State × Did :=
  let n := fld c.pb 0 1
  if transits s n c .creating then (if whole ∧ !placeAsked s c.q c.cid then createFinish c s else (s, .stay))
  else if !courtFieldsOk c.pb then failWith s stInvalidField
  else match createCheck s c.pb with
    | .error st => failWith s st
    | .ok (gs, u) =>
      let s := createStart c gs u s
      let s := askGranules c n (freshOf s n true) s
      if whole ∧ !placeAsked s c.q c.cid then createFinish c s else (s, .stay)

/-! ### What a reset or destruction ends (R207, R417, R418) -/

/-- Retires a command of a Court with ABORTED and the state of 06 R205, wherever it stands (06 R207; 09 R316). -/
def cutCmd (q : QId) (cid : Nat) (s : State) : State := match findCmd s q cid with
  | none => s
  | some c =>
    let f := { finSt stAborted with withdrawn := true }
    if !c.started then retire c f s
    else if isStepOp c.opcode ∧ c.work = [1] then
      let key := stepKey c
      match ownStep s c with
      | some t =>
        let s := if t.phase = .opened then
            castVote key (modStep key (fun t => { t with own := some stAborted }) (abandonStep key stAborted s)) else s
        match ownStep s c with
        | none => s
        | some t =>
          retire c { f with result := natLe 8 t.number ++ [0#8] ++ natLe 1 t.cause }
            (modStep key (fun t => { t with posted := true }) s)
      | none => if (grpOf s key).any (fun g => g.step.isNone) then openFail key c stAborted s else retire c f s
    else withdraw stAborted c s

/-- Ends everything of a Court that runs: its commands but one, and every RESIZE_COURT and MIGRATE that names it; then
its runs and sequences (06 R207; R418). -/
def stopCourt (n : Nat) (but : Option (QId × Nat)) (s : State) : State :=
  let mine (c : Cmd) : Bool := c.q.owner == n || (c.q.owner == 16 &&
    ((c.opcode == opResizeCourt && fld c.pb 0 1 == n) || (c.opcode == opMigrate && fld c.pb 1 1 == n)))
  let l := (s.cmd.cmds.filter (fun c => mine c && some (c.q, c.cid) != but)).map (fun c => (c.q, c.cid))
  let s := l.foldl (fun s p => cutCmd p.1 p.2 s) s
  let s := (s.runs.filter (fun p => p.2.court == n)).foldl (fun s p => abortRun p.1 s) s
  let s := (s.srv.seqs.filter (fun p => p.2.q.owner == n)).foldl (fun s p => freeSeq p.1 s) s
  { s with srv.batches := s.srv.batches.filter (fun p => p.2.court != n) }

/-- Court of a run's owner, the commands' own runs aside. -/
def ownerCourt : RunOwner → Nat
  | .cmd q _ => q.owner
  | .serving c _ _ => c
  | .training c _ => c

/-- The physical Blocks of a Court. -/
def courtPhys (s : State) (k : Court) : List Nat := k.blocks.filterMap (physOf s)

/-- Dissolves a Court's groups, ending a step that still waits for its outcome (10 R330; 09 R316). -/
def dissolveAll (n : Nat) (s : State) : State :=
  (s.grps.filter (fun p => grpCourt p.1 == n)).foldl (fun s p =>
    let s := match stepOf s p.1 with
      | some (_, t) => if t.phase = .held then s else endStep p.1 (releaseBinds t s)
      | none => s
    dissolve p.1 s) s

/-- The Court's decisions that wait for a host, the Roadworks ones aside, are dropped. -/
def dropAssists (n : Nat) (all : Bool) (s : State) : State :=
  let keep (a : AssistRec) : Bool := a.row != n || (!all && (match a.purpose with
    | .roadworks _ => true
    | _ => false))
  { s with cmd.assists := s.cmd.assists.filter keep }

/-- What retirement of a reset or a destruction releases alike (07 R250; 10 R330; 11 R354; 05 R551). -/
def releaseCourt (n : Nat) (s : State) : State :=
  let s := releaseGaz n (dissolveAll n s)
  dropUses n { s with
    pkgs := s.pkgs.filter (fun p => p.2.court != n)
    jobs := s.jobs.filter (fun p => p.1 / 4 != n)
    barriers := s.barriers.filter (fun b => b.court != n)
    runDone := s.runDone.filter (fun o => ownerCourt o.1 != n)
    mem.macFails := tblErase s.mem.macFails n }

/-- The retirement of a reset: cleared memory and stores, zero semaphores and counters, fresh keys, ready (R417, R428;
02 R72; 04 R106, R108, R114; 05 R154; 14 R446). -/
def finishReset (n : Nat) (s : State) : State := match courtOf s n with
  | none => s
  | some k =>
    let s := dropAssists n false (releaseCourt n s)
    let s := k.gtab.foldl (fun s p => clearGranule p.2 (.court n) k.conf s) s
    let s := (courtPhys s k).foldl (fun s b => storeZero b s) s
    let s := freshKeys n (resetStore n s)
    let s := { s with srv.rings := if k.conf then s.srv.rings.filter (fun p => p.1 / 16384 != n) else s.srv.rings }
    modCourt n (fun k => { k with state := .ready, by_ := none, sems := [], satCount := 0, nonfinCount := 0,
                                  slotLate := 0, slotOverrun := 0, slotShort := 0 }) s

/-- The retirement of a destruction: every resource of R411 is free, and the Court is absent (R417). -/
def finishDestroy (n : Nat) (s : State) : State := match courtOf s n with
  | none => s
  | some k =>
    let s := dropAssists n true (releaseCourt n s)
    let s := k.gtab.foldl (fun s p => clearGranule p.2 .free false s) s
    let s := (courtPhys s k).foldl (fun s b => modBlock b (fun b => { b with priv := [], proposal := .none }) s) s
    let s := destroyKeys n (destroyStore n s)
    let s := (s.cmd.queues.filter (fun p => p.1 / 64 == n)).foldl (fun s p =>
      if bootQ p.2.via = qOfKey p.1 then modFn p.2.via (fun h => { h with q0Ready := false }) s else s) s
    { s with
      courts := tblErase s.courts n
      cmd.queues := s.cmd.queues.filter (fun p => p.1 / 64 != n)
      cmd.retireSeq := tblErase s.cmd.retireSeq n
      cmd.eventRings := s.cmd.eventRings.filter (fun p => p.1 % 17 != n)
      cmd.assistRings := s.cmd.assistRings.filter (fun p => p.1 % 17 != n)
      cmd.modes := tblErase s.cmd.modes n
      cmd.modeDeadlines := tblErase s.cmd.modeDeadlines n
      srv.rings := s.srv.rings.filter (fun p => p.1 / 16384 != n)
      tt.active := s.tt.active.filter (fun a => a.court != n)
      sec.signers := tblErase s.sec.signers n
      sec.configs := tblErase s.sec.configs n }

/-! ### Zeroisations by the Watch (14 R471 to R473) -/

/-- How a zeroisation that the device starts is noted: record type, die, and whether it met a reset. -/
def zeroCause (type die : Nat) : Nat := type + 32 * die

/-- Zeroises a ready Court without a command; it takes a number of the Court's retirement sequence (14 R473; 06 R190). -/
def zeroiseNow (n : Nat) (s : State) : State :=
  let s := stopCourt n none (modCourt n (fun k => { k with state := .resetting, by_ := none }) (destroyKeys n s))
  let s := finishReset n s
  { s with cmd.retireSeq := tblSet s.cmd.retireSeq n (nextSeq s n) }

/-- The record of a zeroisation by the device (14 R474). -/
def zeroRecord (n cause : Nat) (s : State) : State := postSec (cause % 16) n (cause / 32) 0xFF 1 0 s

/-- One zeroisation that is due: it runs, joins a reset in progress, or waits for a creation or destruction. -/
def zeroOne (e : Nat × Nat) (s : State) : State :=
  let keep (c : Nat) (s : State) : State := { s with sec.zero := s.sec.zero ++ [(e.1, c)] }
  match courtOf s e.1 with
  | none => s
  | some k => match k.state with
    | .ready => if bit e.2 4 then zeroRecord e.1 e.2 s else zeroRecord e.1 e.2 (zeroiseNow e.1 s)
    | .resetting => if bit e.2 4 then keep e.2 s else keep (e.2 + 16) (destroyKeys e.1 s)
    | _ => keep e.2 s

/-- The confidential Courts whose MAC_FAIL count has reached 2 within 24 hours (14 R472). -/
def macDue (s : State) : List Nat :=
  (s.mem.macFails.filter (fun p => confCourt s p.1 &&
    decide (2 ≤ (p.2.filter (fun t => decide (s.sq.time ≤ t + 24 * hourUnits))).length))).map (·.1)

/-- What the Watch has to do: zeroisations that are due (14 R471 to R473). -/
def settleWatch (s : State) : State :=
  let ds := macDue s
  let s := ds.foldl (fun s n => { s with mem.macFails := tblErase s.mem.macFails n
                                         sec.zero := s.sec.zero ++ [(n, zeroCause 2 0xFF)] }) s
  let l := s.sec.zero
  l.foldl (fun s e => zeroOne e s) { s with sec.zero := [] }

/-- The confidential Courts that a monitor's trip on a die zeroises (14 R471). -/
def glitchCourts (s : State) (die : Nat) : List Nat :=
  (s.courts.filter (fun p => p.2.conf && (decide (16 ≤ die) ||
    (courtPhys s p.2).any (fun b => dieOf b == die)))).map (·.1)

/-- A die code of 14 R474. -/
def dieCode (d : Nat) : Bool :=
  decide (d < 16) || (decide (0x20 ≤ d) && decide (d ≤ 0x2B)) || (decide (0x30 ≤ d) && decide (d ≤ 0x33)) || d == 0x40 || d == 0x41

/-- GLITCH_TRIP: a voltage or clock monitor of a die trips (14 R471). -/
def execGlitchTrip (die : Nat) (s : State) : Res :=
  .next (if !dieCode die ∨ !s.sq.powered ∨ s.sq.perst then s
    else settleWatch ((glitchCourts s die).foldl (fun s n =>
      { s with sec.zero := s.sec.zero ++ [(n, zeroCause 1 die)] }) s))

/-- A row's outcome, followed by what it makes the Watch do. -/
def watched (r : Res) : Res := match r with
  | .next s => .next (settleWatch s)
  | r => r

/-! ### RESET_COURT, ZEROISE_COURT, DESTROY_COURT (R417, R418; 14 R473) -/

/-- The start of a reset. -/
def beginReset (n : Nat) (c : Cmd) (s : State) : State :=
  stopCourt n (some (c.q, c.cid)) (modCourt n (fun k => { k with state := .resetting, by_ := some (c.q, c.cid) }) s)

/-- Effect of RESET_COURT. -/
def resetBody (whole : Bool) (c : Cmd) (s : State) : State × Did :=
  let n := courtNamed c
  let go (s : State) : State × Did := if whole then (finishReset n s, .fin (finSt stSuccess)) else (s, .stay)
  if transits s n c .resetting then go s
  else if 16 ≤ n then failWith s stInvalidField
  else match courtOf s n with
    | none => failWith s stCourtNotReady
    | some k => if k.state = .ready then go (beginReset n c s) else failWith s stCourtNotReady

/-- Effect of ZEROISE_COURT. One that meets a reset completes once COURT_EPOCH has moved on. -/
def zeroiseBody (whole : Bool) (c : Cmd) (s : State) : State × Did :=
  let n := courtNamed c
  let done (s : State) : State × Did := (postSec 0x03 n 0xFF 0xFF 1 0 s, .fin (finSt stSuccess))
  let go (s : State) : State × Did := if whole then done (finishReset n s) else (s, .stay)
  if transits s n c .resetting then go s
  else if 16 ≤ n then failWith s stInvalidField
  else match courtOf s n, c.work with
    | none, _ => failWith s stCourtNotReady
    | some _, [e] => if epochOf s n = e then (s, .stay) else done s
    | some k, _ => match k.state with
      | .ready => go (beginReset n c (destroyKeys n s))
      | .resetting => (modCmd c.q c.cid (fun d => { d with work := [epochOf s n] }) (destroyKeys n s), .stay)
      | _ => (s, .stay)

/-- Effect of DESTROY_COURT. -/
def destroyBody (whole : Bool) (c : Cmd) (s : State) : State × Did :=
  let n := fld c.pb 0 1
  let go (s : State) : State × Did := if whole then (finishDestroy n s, .fin (finSt stSuccess)) else (s, .stay)
  if transits s n c .destroying then go s
  else if 16 ≤ n then failWith s stInvalidField
  else match courtOf s n with
    | none => failWith s stCourtNotReady
    | some k => match k.state with
      | .ready =>
        go (stopCourt n none (modCourt n (fun k => { k with state := .destroying, by_ := some (c.q, c.cid) }) s))
      | .creating => (match k.by_ with
        | some (q, cid) => cutCmd q cid s
        | none => s, .fin (finSt stSuccess))
      | .resetting => (s, .stay)
      | .destroying => failWith s stCourtNotReady

/-! ### RESIZE_COURT (R416) -/

/-- The Block set that a RESIZE_COURT gives a Court: the bitmap, or with BLOCKS all zero the present set less its
highest indices, or more by the lowest free ones. -/
def resizeBlocks (s : State) (k : Court) (pb : List Byte) : Option (List Nat) :=
  let want := blocksNamed pb
  let free := freeIndices s
  let m := fld pb 18 2
  if !want.isEmpty then (if want.all (fun g => k.blocks.contains g || free.contains g) then some want else none)
  else if m ≤ k.blocks.length then some (k.blocks.take m)
  else if m - k.blocks.length ≤ free.length then
    some ((free.take (m - k.blocks.length)).foldl (fun l g => insNat g l) k.blocks)
  else none

/-- Granules that a resize adds, window by window. -/
def resizeAdds (k : Court) (pb : List Byte) : Nat :=
  (fld pb 8 2 - k.general) + (fld pb 10 2 - k.store) + (fld pb 12 2 - k.serve) + (fld pb 14 2 - k.pool)

/-- The commands during which general memory may not shrink. -/
def usesGeneral (s : State) (n : Nat) : Bool :=
  s.cmd.cmds.any (fun c => c.q.owner == n && (c.opcode == opRun || isStepOp c.opcode || c.opcode == opCheckpoint ||
    c.opcode == opRestore || c.opcode == opDmaWrite || c.opcode == opDmaRead || c.opcode == opLoadPackage))

/-- A SERVE of the Court is unretired, or a batch of it still runs. -/
def serveBusy (s : State) (n : Nat) : Bool :=
  s.cmd.cmds.any (fun c => c.q.owner == n && c.opcode == opServe) || s.srv.batches.any (fun p => p.2.court == n && batchHolds s p.1)

/-- KiB that the contracts in force of a Court hold (07 R229). -/
def contractKib (s : State) (k : Court) : Nat :=
  (((courtHandles s k).filter (fun p => underContract p.2)).map (fun p => (p.2.cur.map sizeKib).getD 0)).sum

/-- The refusals of a RESIZE_COURT at its start, in the order of R416: the status, or the new Block set. -/
def resizeCheck (s : State) (n : Nat) (k : Court) (pb : List Byte) : Except Nat (List Nat) :=
  let flags := b2n k.conf + 2 * b2n k.signed
  if fld pb 1 1 ≠ flags ∨ fld pb 2 1 ≠ k.service ∨ fld pb 3 1 ≠ k.units ∨ fld pb 4 2 ≠ k.wayMask then .error stInvalidField
  else match resizeBlocks s k pb with
    | none => .error stNoResource
    | some gs =>
      let cut := !(k.blocks.all (fun g => gs.contains g))
      let g' := fld pb 8 2
      if cut ∧ s.jobs.any (fun p => p.1 / 4 == n) ∧ !pairDie s gs then .error stStateConflict
      else if cut ∧ (gs.length < peakBlocks k.row.slots s.tt.cycle ∨
          k.rowNext.any (fun r => decide (gs.length < peakBlocks r.slots s.tt.cycle))) then .error stStateConflict
      else if spareGranules s < resizeAdds k pb ∧ resizeAdds k pb ≠ 0 then .error stNoResource
      else if g' < k.general ∧ (usesGeneral s n ∨ s.pkgs.any (fun p => p.2.court == n && decide (g' * gib < p.2.placeAt + p.2.len))) then
        .error stStateConflict
      else if (fld pb 12 2 ≠ k.serve ∨ fld pb 14 2 ≠ k.pool) ∧ serveBusy s n then .error stStateConflict
      else if fld pb 14 2 < k.pool ∧ fld pb 14 2 * 2 ^ 20 < contractKib s k then .error stNoResource
      else if fld pb 16 2 < contextsUsed s n then .error stStateConflict
      else if 256 < contextsTaken s n + fld pb 16 2 then .error stNoResource
      else .ok gs

/-- The start of a resize: added Blocks zeroed, removed ones evacuated, added granules taken and cleared. -/
def resizeStart (n : Nat) (k : Court) (c : Cmd) (gs : List Nat) (s : State) : State :=
  let added := gs.filter (fun g => !k.blocks.contains g)
  let cut := k.blocks.filter (fun g => !gs.contains g)
  let s := ((freeGranules s).take (resizeAdds k c.pb)).foldl (fun s G => clearGranule G (.court n) k.conf s) s
  let s := (added.filterMap (physOf s)).foldl (fun s b => storeZero b s) s
  let s := (cut.filterMap (physOf s)).foldl (fun s b => evacuate b .resize s) s
  modCmd c.q c.cid (fun d => { d with work := gs }) s

/-- The removed Blocks hold no work any more. -/
def blocksLeft (s : State) (k : Court) (gs : List Nat) : Bool :=
  ((k.blocks.filter (fun g => !gs.contains g)).filterMap (physOf s)).all (fun b => match useOf s b with
    | some (.busy _ _) => false
    | some (.chained _ _) => false
    | some (.saving _ _) => false
    | _ => true)

/-- Moves or evicts the Court's base images that lie in the released part of its pool. -/
def shrinkBases (n : Nat) (k k' : Court) (s : State) : State :=
  (s.gaz.slots.filter (fun p => p.2.owner == n && (p.2.state == .resident || p.2.state == .draining) &&
      decide (p.2.at_ < poolAtOf k') && p.2.refs == 0)).foldl (fun s p =>
    match poolHole s n k' p.2.imageLen with
    | some a => modSlot p.1 (fun m => { m with at_ := a }) (courtMove k p.2.at_ a (poolNeed p.2.imageLen) s)
    | none => if p.2.reloadable then evictSlot p.1 false s else s) s

/-- Moves versions toward the top of the pool, those under lock too, as far as the smaller window holds them (R421). -/
def shrinkMove (n : Nat) (k k' : Court) (s : State) : State :=
  let outs := ((courtHandles s k).filter (fun p => p.2.cur.any (fun v => v.refs == 0 && v.poolAt.any (fun a => decide (a < poolAtOf k'))))).map (·.1)
  let locked := outs.filter (fun h => (entryOf s h).cur.any (fun v => !v.locks.isEmpty))
  let s := locked.foldl (fun s h => unlockVersion h s) s
  let plan := movePlan s n k'
  let s := plan.foldl (fun s m =>
    if m.2.1 = m.2.2 then s
    else
      let len := poolNeed (((entryOf s m.1).cur.map (·.imageLen)).getD 0)
      modEntry m.1 (fun e => { e with cur := e.cur.map (fun v => { v with poolAt := some m.2.2 }) }) (courtMove k m.2.1 m.2.2 len s)) s
  locked.foldl (fun s h => lockVersion n h s) s

/-- Demotes the versions that the smaller pool does not hold, as far as they may be (07 R226). -/
def shrinkDemote (n : Nat) (k k' : Court) (s : State) : State :=
  ((victims s k).filter (fun h => (entryOf s h).cur.any (fun v => v.poolAt.any (fun a => decide (a < poolAtOf k'))))).foldl
    (fun s h => demote n k h s) s

/-- Nothing of the Court lies in the released part of its pool. -/
def poolClear (s : State) (n : Nat) (k k' : Court) : Bool :=
  (poolUse s n k).all (fun u => decide (poolAtOf k' ≤ u.1)) && !demoting s k

/-- The Court's new granule table: each index, ascending, with the old index whose granule it keeps (R414, R416). -/
def resizeIdx (k : Court) (pb : List Byte) : List (Nat × Option Nat) :=
  let g := fld pb 8 2
  let st := fld pb 10 2
  let v := fld pb 12 2
  let p := fld pb 14 2
  let part (n old base oldBase : Nat) : List (Nat × Option Nat) :=
    (List.range n).map (fun i => (base + i, if i < old then some (oldBase + i) else none))
  part g k.general 0 0 ++ part st k.store (1152 - p - v - st) (1152 - k.pool - k.serve - k.store) ++
  part v k.serve (1152 - p - v) (1152 - k.pool - k.serve) ++
  (List.range p).map (fun i => (1152 - p + i, if 1152 - k.pool ≤ 1152 - p + i then some (1152 - p + i) else none))

/-- Fills a granule table: kept granules by their old index, the others from the fresh ones in order. -/
def fillTab (old : Tbl Nat) : List (Nat × Option Nat) → List Nat → List (Nat × Nat)
  | [], _ => []
  | (i, some j) :: t, fresh => match tblGet old j with
    | some G => (i, G) :: fillTab old t fresh
    | none => fillTab old t fresh
  | (i, none) :: t, G :: fresh => (i, G) :: fillTab old t fresh
  | (_, none) :: t, [] => fillTab old t []

/-- The retirement of a resize: the new set, windows and quota (R416). -/
def resizeFinish (n : Nat) (k : Court) (c : Cmd) (s : State) : State :=
  let pb := c.pb
  let kept := k.gtab.map (·.2)
  let fresh := (s.mem.granules.filter (fun p => p.2.owner == .court n && !kept.contains p.1)).map (·.1)
  let l := fillTab k.gtab (resizeIdx k pb) fresh
  let s := (kept.filter (fun G => !(l.any (fun p => p.2 == G)))).foldl (fun s G => clearGranule G .free false s) s
  let cut := (k.blocks.filter (fun g => !c.work.contains g))
  let s := (cut.filterMap (physOf s)).foldl (fun s b => modBlock b (fun b => { b with want := if b.want = some .resize then none else b.want, priv := [] }) s) s
  let lim := fld pb 10 2 * gib
  let fits (t : Store) : Store := { t with ranges := t.ranges.filter (fun r => decide (r.1 + r.2.1 ≤ lim))
                                           expired := t.expired.filter (fun r => decide (r.1 + r.2 ≤ lim)) }
  let s := { s with
    part.stores := s.part.stores.map (fun t => if t.court = n ∧ t.role = .home then fits t else t)
    tt.active := s.tt.active.map (fun a => { a with blocks := a.blocks.filter (fun g => !(decide (a.court = n) && cut.contains g)) })
    sec.configs := tblSet s.sec.configs n (pb.take 64) }
  settle (modCourt n (fun k => { k with
    blocks := c.work, gtab := gtabOf l, weight := fld pb 6 2, general := fld pb 8 2, store := fld pb 10 2,
    serve := fld pb 12 2, pool := fld pb 14 2, contexts := fld pb 16 2 }) s)

/-- Completes a resize once every change can be made. -/
def resizeTry (n : Nat) (k : Court) (c : Cmd) (s : State) : State × Did :=
  let k' := { k with pool := fld c.pb 14 2 }
  if !blocksLeft s k c.work then (s, .stay)
  else if (fld c.pb 12 2 ≠ k.serve ∨ fld c.pb 14 2 ≠ k.pool) ∧ serveBusy s n then (s, .stay)
  else if fld c.pb 16 2 < contextsUsed s n then (s, .stay)
  else if k'.pool < k.pool then
    let s := shrinkDemote n k k' (shrinkMove n k k' (shrinkBases n k k' s))
    if poolClear s n k k' then (resizeFinish n k c s, .fin (finSt stSuccess)) else (s, .stay)
  else (resizeFinish n k c s, .fin (finSt stSuccess))

/-- Effect of RESIZE_COURT; a second one of the Court starts when the first has retired. -/
def resizeBody (whole : Bool) (c : Cmd) (s : State) : State × Did :=
  let n := fld c.pb 0 1
  if !courtFieldsOk c.pb then failWith s stInvalidField
  else match courtOf s n with
    | none => failWith s stCourtNotReady
    | some k =>
      if k.state ≠ .ready then failWith s stCourtNotReady
      else if c.work ≠ [] then (if whole ∧ !placeAsked s c.q c.cid then resizeTry n k c s else (s, .stay))
      else if (resizing s).any (fun d => fld d.pb 0 1 == n) then (s, .stay)
      else match resizeCheck s n k c.pb with
        | .error st => failWith s st
        | .ok gs =>
          let s := resizeStart n k c gs s
          let s := askGranules c n (freshOf s n false) s
          if whole ∧ !placeAsked s c.q c.cid then resizeTry n k { c with work := gs } s else (s, .stay)

/-! ### Rows -/

/-- CREATE_COURT (R413). -/
def execCreateCourt (q : QId) (cid : Nat) (whole : Bool) (s : State) : Res :=
  watched (.next (runCmd opCreateCourt q cid (fun _ => 64) [(20, 12)] (createBody whole) s))

/-- DESTROY_COURT (R417, R418). -/
def execDestroyCourt (q : QId) (cid : Nat) (whole : Bool) (s : State) : Res :=
  watched (.next (runCmd opDestroyCourt q cid (fun _ => 8) [(1, 7)] (destroyBody whole) s))

/-- RESET_COURT (R417, R418). -/
def execResetCourt (q : QId) (cid : Nat) (whole : Bool) (s : State) : Res :=
  watched (.next (runCmd opResetCourt q cid (fun _ => 8) [(1, 7)] (resetBody whole) s))

/-- ZEROISE_COURT (14 R473). -/
def execZeroiseCourt (q : QId) (cid : Nat) (whole : Bool) (s : State) : Res :=
  watched (.next (runCmd opZeroiseCourt q cid (fun _ => 8) [(1, 7)] (zeroiseBody whole) s))

/-- RESIZE_COURT (R416). -/
def execResizeCourt (q : QId) (cid : Nat) (whole : Bool) (s : State) : Res :=
  watched (.next (runCmd opResizeCourt q cid (fun _ => 64) [(20, 12)] (resizeBody whole) s))

end Sys2Proof.Machine
end

