-- ==== Sys2Proof/Machine/SquareRows.lean ====
section
/-! DEFINITION. Work orders that the Square runs, their retirement, hold limits, context saves and the Timetable
(spec/05_work_orders.md R150 to R158, R174; spec/03 R100; spec/11 R370; spec/13 R432 to R438). -/

namespace Sys2Proof.Machine

/-- The Square dispatches and retires: the device is ready and no takeover is in progress (01 R31, R34). -/
def retiresNow (s : State) : Bool := s.sq.ready && !s.sq.takeover

/-- The stream whose next work order the row concerns, where it has been handed to the Square and is of the type. -/
def squareWo (s : State) (w : WoRef) (type : Nat) : Option (Run × RunStream × List Byte) :=
  if !retiresNow s then none
  else match streamOf s w.run w.stream with
    | none => none
    | some (k, t) =>
      if t.head = .sent [] ∧ woType (woBytes s k t) = type then some (k, t, woBytes s k t) else none

/-- Ends a work order of the Square with a code. -/
def squareDone (w : WoRef) (code : Nat) (s : State) : State := finishWo w.run w.stream (woFail s code []) s

/-! ### SEM, FENCE, NOP (R155 to R158, R174) -/

/-- SEM ACQUIRE: the stream waits its turn, and takes the amount where the value allows (R156, R157). -/
def execSemAcquire (w : WoRef) (s : State) : Res :=
  .next (match squareWo s w 10 with
    | none => s
    | some (k, _, wo) =>
      if fld wo 32 1 ≠ 1 then s
      else
        let s := modStream w.run w.stream (fun t => { t with head := .waiting s.sq.time }) s
        serveWaiters { s with semWait := s.semWait ++ [(w.run, w.stream, k.semBase + fld wo 34 2)] })

/-- SEM RELEASE: adds back what the stream holds (R155, R156, R174). -/
def execSemRelease (w : WoRef) (s : State) : Res :=
  .next (match squareWo s w 10 with
    | none => s
    | some (k, t, wo) =>
      if fld wo 32 1 ≠ 2 then s
      else
        let i := k.semBase + fld wo 34 2
        let n := fld wo 36 4
        let h := tblGetD t.held i 0
        if h < n then squareDone w tcBadField s
        else match semAdd k.court i n s with
          | none => squareDone w tcSemRange s
          | some s =>
            let s := modStream w.run w.stream (fun t => { t with
              held := if h = n then tblErase t.held i else tblSet t.held i (h - n) }) s
            settle (serveWaiters (squareDone w tcOk s)))

/-- SEM ADD (R155). -/
def execSemAdd (w : WoRef) (s : State) : Res :=
  .next (match squareWo s w 10 with
    | none => s
    | some (k, _, wo) =>
      if fld wo 32 1 ≠ 3 then s
      else match semAdd k.court (k.semBase + fld wo 34 2) (fld wo 36 4) s with
        | none => squareDone w tcSemRange s
        | some s => settle (serveWaiters (squareDone w tcOk s)))

/-- The barrier that a FENCE names. -/
def findBarrier (s : State) (c g i : Nat) : Option Barrier :=
  s.barriers.find? (fun b => b.court == c && b.group == g && b.id == i)

/-- The member's FENCE sets NOTIFY. -/
def memberNotifies (s : State) (m : Nat × Nat) : Bool := match streamOf s m.1 m.2 with
  | none => false
  | some (k, t) => bit (fld (woBytes s k t) 40 1) 0

/-- The interim entry of a run for a barrier that retires (06 R199). -/
def notifyRun (r : Nat) (b : Barrier) (s : State) : State := match tblGet s.runs r with
  | none => s
  | some k => match k.owner with
    | .cmd q cid => match findCmd s q cid with
      | none => s
      | some c => interim c stSuccess (natLe 2 b.group ++ natLe 4 b.id ++ zeros 2 ++ natLe 8 s.sq.time) s
    | _ => s

/-- Every member of a full barrier retires together (R158). -/
def openBarrier (b : Barrier) (s : State) : State :=
  let s := { s with barriers := s.barriers.filter (fun x => !(x.court == b.court && x.group == b.group && x.id == b.id)) }
  let runs := ((b.members.filter (memberNotifies s)).map (·.1)).eraseDups
  let s := runs.foldl (fun s r => notifyRun r b s) s
  let s := b.members.foldl (fun s m => finishWo m.1 m.2 (woFail s tcOk []) s) s
  b.members.foldl (fun s m => retireWo m.1 m.2 s) s

/-- FENCE: joins its barrier, which retires when all COUNT members are ready (R158). -/
def execFence (w : WoRef) (s : State) : Res :=
  .next (match squareWo s w 11 with
    | none => s
    | some (k, _, wo) =>
      let b := (findBarrier s k.court (fld wo 32 2) (fld wo 36 4)).getD ⟨k.court, fld wo 32 2, fld wo 36 4, fld wo 34 2, []⟩
      if b.count ≠ fld wo 34 2 then squareDone w tcBadField s
      else
        let b' := { b with members := b.members ++ [(w.run, w.stream)] }
        let s := modStream w.run w.stream (fun t => { t with head := .waiting s.sq.time }) s
        if b'.members.length = b'.count then openBarrier b' s
        else { s with barriers := s.barriers.filter (fun x => !(x.court == b.court && x.group == b.group && x.id == b.id)) ++ [b'] })

/-- NOP only waits, signals and records (R174). -/
def execNop (w : WoRef) (s : State) : Res :=
  .next (match squareWo s w 12 with
    | none => s
    | some _ => squareDone w tcOk s)

/-- WORK_ORDER_RETIRE: an executed work order reaches its retirement point (R150, R155, R159, R161). -/
def execWorkOrderRetire (w : WoRef) (s : State) : Res :=
  .next (if retiresNow s then retireWo w.run w.stream s else s)

/-! ### Hold limits (R156; 11 R370) -/

/-- Hold limit of a Court's Timetable entry, in units (13 R435). -/
def holdUnits (s : State) (c : Nat) : Nat := match courtOf s c with
  | some c => c.row.holdUs * 100
  | none => 0

/-- SEM_HOLD_LIMIT: the held amounts are added back, and the holding work order fails (R156). -/
def execSemHoldLimit (w : WoRef) (s : State) : Res :=
  .next (match streamOf s w.run w.stream with
    | none => s
    | some (k, t) =>
      if !retiresNow s ∨ t.express ∨ t.held.isEmpty ∨ s.sq.time < t.heldSince + holdUnits s k.court then s
      else
        let s := t.held.foldl (fun s p => semSet k.court p.1 (semVal s k.court p.1 + p.2) s) s
        let s := modStream w.run w.stream (fun t => { t with held := [] }) s
        if t.head = .ended then settle (serveWaiters s)
        else faultStream w.run w.stream tcSemHoldExceeded s)

/-- Square time from which a Viaduct chain's hold counts, where the stream holds a binding (11 R370). -/
def viaSince (s : State) (k : Run) (t : RunStream) : Option Nat :=
  if t.via.bound then some t.via.since
  else match t.head with
    | .sent _ => if woType (woBytes s k t) = 9 then some t.chainSince else none
    | _ => none

/-- VIADUCT_HOLD_LIMIT: the chain's current work order is withdrawn and the pair released (11 R361, R370). -/
def execViaductHoldLimit (w : WoRef) (s : State) : Res :=
  .next (match streamOf s w.run w.stream with
    | none => s
    | some (k, t) => match viaSince s k t with
      | none => s
      | some since =>
        if !retiresNow s ∨ t.express ∨ s.sq.time < since + holdUnits s k.court then s
        else faultStream w.run w.stream tcWithdrawn s)

/-! ### Pre-emption and contexts (03 R100; 13 R433) -/

/-- SLICE_EXPIRY: a chained Local stream between work orders gives up its Block (13 R433); one whose work order runs
gives it up when that retires. -/
def execSliceExpiry (w : WoRef) (s : State) : Res :=
  .next (match streamOf s w.run w.stream with
    | none => s
    | some (k, t) =>
      if retiresNow s ∧ !t.express ∧ t.chain ≠ [] ∧ t.chain.all (fun b => useOf s b == some (.chained w.run w.stream)) ∧
          sliceOver s w.run w.stream k.court t ∧ mustYield s w.run w.stream then
        preempt w.run w.stream s
      else s)

/-- The store of a Block. -/
def storeOf (s : State) (b : Nat) : BlockStore := ((tblGet s.blocks b).map (·.store)).getD ⟨[], none, []⟩

/-- A context save ends: the stores lie in the save area under the Court's number, and the Blocks are released
(03 R100; 04 R121). -/
def saveDone (r i : Nat) (k : Run) (t : RunStream) (s : State) : State :=
  let s := modStream r i (fun t => { t with saved := t.chain.map (fun b => (b, storeOf s b)), chain := [] }) s
  let s := { s with mem.saveCourt := t.chain.foldl (fun m b => tblSet m b k.court) s.mem.saveCourt }
  settle (releaseBlocks t.chain s)

/-- A context restore ends: the stream holds its Blocks again, with their stores (R152). Poison in the save area fails
the work order that would have used it (04 R122, R123). -/
def restoreDone (r i : Nat) (k : Run) (t : RunStream) (bad : Option Nat) (s : State) : State :=
  if bad.isSome ∨ t.saved.any (fun p => tblGet s.mem.saveCourt p.1 != some k.court) then
    faultStream r i tcMemoryError (poisonRead bad s)
  else
    let s := (t.chain.zip t.saved).foldl (fun s p => modBlock p.1 (fun b => { b with store := p.2.2, use := .chained r i }) s) s
    let s := modStream r i (fun t => { t with saved := [], preempted := true, chainSince := s.sq.time }) s
    if mustYield s r i then preempt r i s else settle s

/-- A line lies in the save area of a physical Block (13 R419). -/
def saveLine (s : State) (b line : Nat) : Bool := match s.mem.saveArea[b * 12 / 1024]? with
  | some G => decide (G * gib ≤ line) && decide (line < (G + 1) * gib)
  | none => false

/-- CONTEXT_SAVE_COMPLETE: the save or the restore of a chained stream's stores ends (03 R100; R152). -/
def contextSaveRow (w : WoRef) (mem : Findings) (s : State) : Res :=
  .next (match streamOf s w.run w.stream with
    | none => s
    | some (k, t) =>
      if !retiresNow s ∨ t.chain = [] ∨ !(t.chain.all (fun b => useOf s b == some (.saving w.run w.stream))) then s
      else if t.saved = [] then saveDone w.run w.stream k t s
      else
        let f := applyFindings false mem s
        restoreDone w.run w.stream k t (f.bad.find? (fun l => t.saved.any (fun p => saveLine f.s p.1 l))) f.s)

/-! ### The Timetable (13 R435 to R438) -/

/-- The slots of a SET_TIMETABLE block (13 R435). -/
def ttSlots (pb : List Byte) : List TtSlot :=
  (List.range (fld pb 2 2)).map (fun i =>
    let o := 16 + 16 * i
    ⟨fld pb o 4, fld pb (o + 4) 4, fld pb (o + 8) 4, fld pb (o + 12) 2, fld pb (o + 14) 2⟩)

/-- The cycle contains a slot (13 R435). -/
def slotFits (cycle : Nat) (t : TtSlot) : Bool := decide (t.start + t.length ≤ cycle) && decide (t.lead + t.length ≤ cycle)

/-- The fields of a slot are in range (13 R435). -/
def slotOk (t : TtSlot) : Bool :=
  decide (1 ≤ t.length) && decide (t.lead ≤ 1000000) && decide (1 ≤ t.tag) && decide (1 ≤ t.blocks) && decide (t.blocks ≤ 256)

/-- Effect of SET_TIMETABLE on the cycle row. -/
def setCycle (pb : List Byte) (s : State) : State × Did :=
  let n := fld pb 4 4
  if n < 5000 ∨ 10000000 < n ∨ fld pb 2 2 ≠ 0 ∨ !zeroFld pb 8 8 then failWith s stInvalidField
  else if s.courts.any (fun p => (p.2.row.slots ++ (p.2.rowNext.map (·.slots)).getD []).any (fun t => !slotFits n t)) then
    failWith s stStateConflict
  else ({ s with tt.cycleNext := some n }, .fin (finSt stSuccess))

/-- Effect of SET_TIMETABLE on a Court's row. -/
def setRow (pb : List Byte) (s : State) : State × Did :=
  let cycle := s.tt.cycleNext.getD s.tt.cycle
  let slots := ttSlots pb
  match courtOf s (fld pb 0 1) with
  | none => failWith s stCourtNotReady
  | some c =>
    if c.state ≠ .ready then failWith s stCourtNotReady
    else if !zeroFld pb 4 4 ∨ fld pb 8 4 < 100 ∨ 100000 < fld pb 8 4 ∨ fld pb 12 4 < 100 ∨ 100000 < fld pb 12 4 ∨
        !(slots.all (fun t => slotOk t && slotFits cycle t)) ∨ c.blocks.length < peakBlocks slots cycle then
      failWith s stInvalidField
    else
      (modCourt (fld pb 0 1) (fun c => { c with rowNext := some ⟨slots, fld pb 8 4, fld pb 12 4⟩ }) s, .fin (finSt stSuccess))

/-- Effect of SET_TIMETABLE (13 R435). -/
def setTimetableBody (c : Cmd) (s : State) : State × Did :=
  if 16 < fld c.pb 0 1 ∨ 256 < fld c.pb 2 2 then failWith s stInvalidField
  else if fld c.pb 0 1 = 16 then setCycle c.pb s else setRow c.pb s

/-- SET_TIMETABLE (13 R435). -/
def execSetTimetable (q : QId) (cid : Nat) (s : State) : Res :=
  .next (runCmd opSetTimetable q cid (fun c => 16 + 16 * min (fld c.pb 2 2) 257) [(1, 1)] setTimetableBody s)

/-- TIMETABLE_CYCLE: at a cycle boundary the changed rows and a changed cycle take effect (13 R436, R437). -/
def execTimetableCycle (s : State) : Res :=
  .next (if !retiresNow s ∨ s.sq.time < s.tt.t0 ∨ (s.sq.time - s.tt.t0) % s.tt.cycle ≠ 0 then s
    else
      let changed := (s.courts.filter (fun p => p.2.rowNext.isSome)).map (·.1)
      let s := { s with
        courts := s.courts.map (fun (p : Nat × Court) => (p.1, { p.2 with row := p.2.rowNext.getD p.2.row, rowNext := none }))
        tt.active := s.tt.active.filter (fun a => !changed.contains a.court) }
      settle (match s.tt.cycleNext with
        | some n => { s with tt.cycle := n, tt.t0 := s.sq.time, tt.cycleNext := none }
        | none => s))

/-- Units since a place of the cycle last came by. -/
def sincePlace (s : State) (place : Nat) : Nat :=
  ((s.sq.time - s.tt.t0) % s.tt.cycle + s.tt.cycle - place % s.tt.cycle) % s.tt.cycle

/-- The BLOCKS lowest-index Blocks of the Court in service and not reserved by another slot (13 R436, R437). -/
def slotBlocks (s : State) (cn : Nat) (c : Court) (n : Nat) : List Nat :=
  (c.blocks.filter (fun g => !(reserved s cn false).contains g && (match physOf s g with
    | some b => (match tblGet s.blocks b with
      | some k => k.use != .testing && k.use != .isolated && k.want == none
      | none => false)
    | none => false))).take n

/-- Chained Local streams on reserved Blocks, between work orders, give them up (13 R433, R436). -/
def clearReserved (gs : List Nat) (s : State) : State :=
  gs.foldl (fun s g => match physOf s g with
    | none => s
    | some b => match useOf s b with
      | some (.chained r i) => if mustYield s r i then preempt r i s else s
      | _ => s) s

/-- The slot's reservation begins. -/
def reserveSlot (cn slot : Nat) (c : Court) (t : TtSlot) (force : Bool) (s : State) : State :=
  let gs := slotBlocks s cn c t.blocks
  clearReserved gs { s with tt.active := s.tt.active ++ [⟨cn, slot, force, gs⟩] }

/-- The slot's entry among those in lead or in force. -/
def slotActive (s : State) (cn slot : Nat) : Option TtActive := s.tt.active.find? (fun a => a.court == cn && a.slot == slot)

/-- SLOT_LEAD_START: the lead of a slot begins (13 R436). -/
def execSlotLeadStart (court slot : Nat) (s : State) : Res :=
  .next (match courtOf s court with
    | none => s
    | some c => match c.row.slots[slot]? with
      | none => s
      | some t =>
        if !retiresNow s ∨ s.sq.time < s.tt.t0 ∨ (slotActive s court slot).isSome ∨
            t.lead ≤ sincePlace s (t.start + s.tt.cycle - t.lead) then s
        else settle (reserveSlot court slot c t false s))

/-- The physical Block of a global index is free (R151). -/
def indexFree (s : State) (g : Nat) : Bool := match physOf s g with
  | some b => useOf s b == some .idle
  | none => false

/-- SLOT_START: the slot is in force; SLOT_LATE and SLOT_SHORT count (13 R436, R438). -/
def execSlotStart (court slot : Nat) (s : State) : Res :=
  .next (match courtOf s court with
    | none => s
    | some c => match c.row.slots[slot]? with
      | none => s
      | some t =>
        if !retiresNow s ∨ s.sq.time < s.tt.t0 ∨ t.length ≤ sincePlace s t.start ∨
            (slotActive s court slot).any (fun a => a.inForce) then s
        else
          let s := if (slotActive s court slot).isSome then
              { s with tt.active := s.tt.active.map (fun a => if a.court = court ∧ a.slot = slot then { a with inForce := true } else a) }
            else reserveSlot court slot c t true s
          let gs := ((slotActive s court slot).map (·.blocks)).getD []
          let late := (gs.filter (fun g => !indexFree s g)).length
          settle (modCourt court (fun c => { c with
            slotLate := satAdd 64 c.slotLate late
            slotShort := satAdd 64 c.slotShort (b2n (decide (gs.length < t.blocks))) }) s))

/-- Tagged work orders of the Court that still run (13 R438). -/
def taggedRunning (s : State) (court tag : Nat) : Nat :=
  ((allStreams s).filter (fun p => match streamOf s p.1 p.2 with
    | some (k, t) => k.court == court && t.express && t.ttTag == tag && (match t.head with
      | .sent bs => !bs.isEmpty
      | _ => false)
    | none => false)).length

/-- SLOT_END: the reservation ends; SLOT_OVERRUN counts (13 R436, R438). -/
def execSlotEnd (court slot : Nat) (s : State) : Res :=
  .next (match courtOf s court with
    | none => s
    | some c => match c.row.slots[slot]?, slotActive s court slot with
      | some t, some a =>
        if !retiresNow s ∨ !a.inForce ∨ sincePlace s t.start < t.length then s
        else
          let n := taggedRunning s court t.tag
          settle (modCourt court (fun c => { c with slotOverrun := satAdd 64 c.slotOverrun n })
            { s with tt.active := s.tt.active.filter (fun a => !(a.court == court && a.slot == slot)) })
      | _, _ => s)

end Sys2Proof.Machine
end

