-- ==== Sys2Proof/Machine/WatchedRows.lean ====
section
/-! DEFINITION. Rows whose reads can meet a failed tag: each acts, and the Watch then answers what they found
(spec/04_memory_system.md R136; spec/14_security_and_attestation.md R472). -/

namespace Sys2Proof.Machine

/-- SCRUB_READ (04 R124). -/
def execScrubRead (line : Nat) (found : Findings) (s : State) : Res := watched (scrubReadRow line found s)

/-- DMA_WRITE (06 R200). -/
def execDmaWrite (q : QId) (cid : Nat) (data : List Byte) (mem : Findings) (s : State) : Res :=
  watched (dmaWriteRow q cid data mem s)

/-- DMA_READ (06 R200). -/
def execDmaRead (q : QId) (cid : Nat) (len : Nat) (mem : Findings) (s : State) : Res :=
  watched (dmaReadRow q cid len mem s)

/-- CHECKPOINT (09 R321). -/
def execCheckpoint (q : QId) (cid : Nat) (mem : Findings) (whole : Bool) (s : State) : Res :=
  watched (checkpointRow q cid mem whole s)

/-- CONTEXT_SAVE_COMPLETE (03 R100). -/
def execContextSaveComplete (w : WoRef) (mem : Findings) (s : State) : Res := watched (contextSaveRow w mem s)

/-- SERVING_STEP_RETIRE (08 R276). -/
def execServingStepRetire (batch : Nat) (mem : Findings) (s : State) : Res := watched (servingStepRow batch mem s)

/-- PARK_COPY_COMPLETE (08 R281). -/
def execParkCopyComplete (seq : Nat) (mem : Findings) (s : State) : Res := watched (parkCopyRow seq mem s)

/-- RESULT_FRAME (10 R340). -/
def execResultFrame (mem : Findings) (s : State) : Res := watched (resultFrameRow mem s)

/-- GET (13 R424). -/
def execGet (mem : Findings) (s : State) : Res := watched (getRow mem s)

end Sys2Proof.Machine
end

