-- ==== Sys2Proof/Machine/Compute.lean ====
section
/-! DEFINITION. The work orders that Blocks and Update Engines carry out: each row executes a dispatched work order, whose
retirement is WORK_ORDER_RETIRE (spec/05_work_orders.md R147 to R174; spec/09_training.md R295 to R297;
spec/10_collective_reduction.md R341, R342; spec/11_distillation.md R358 to R369). -/

namespace Sys2Proof.Machine

/-! ### The work order at the head of a stream -/

/-- A dispatched work order of a type, with its run, stream, bytes and physical Blocks. -/
structure Sent where
  k : Run
  t : RunStream
  wo : List Byte
  bs : List Nat

/-- The work order that a row concerns, where it has been dispatched, is of the type, and its selector fits. -/
def sentWo (s : State) (w : WoRef) (type : Nat) (sel : List Byte → Bool) : Option Sent :=
  if !retiresNow s then none
  else match streamOf s w.run w.stream with
    | none => none
    | some (k, t) => match t.head with
      | .sent bs =>
        let wo := woBytes s k t
        if woType wo = type ∧ sel wo then some ⟨k, t, wo, bs⟩ else none
      | _ => none

/-- The open step in which a run's work orders run: its group's key, the group and the step. -/
def runStep (s : State) (k : Run) : Option (Nat × Group × TrainStep) := match k.owner with
  | .training court g => (stepOf s (grpKey court g)).map (fun p => (grpKey court g, p.1, p.2))
  | _ => none

/-- What a work order sees beside its context (R54; 08 R253; 09 R296). -/
def envOf (s : State) (e : Sent) (x : Ctx) : WoEnv :=
  { x := x, wo := e.wo, step := e.k.step, der := e.t.derived[e.t.next]?,
    scaleOf := fun i => (runStep s e.k).bind (fun p => tauExp p.2.2 i),
    convOf := fun i => match runStep s e.k with
      | none => .error tcBadField
      | some p => convExp s x p.2.2 i }

/-- Notes the corrected store errors among a row's findings (15 R489). -/
def noteFixes (bs : List Nat) (mem : Findings) (s : State) : State :=
  (mem.filter (fun f => f == .storeFixed)).foldl (fun s _ => match bs with
    | b :: _ => modBlock b (fun k => { k with fixes := s.sq.time :: k.fixes }) s
    | [] => s) s

/-- Adds a free amount to each of a Block's counters in a list: they measure timing only (03 R101). -/
def addFree (n : Nat) (l : List Nat) : List Nat := l.zipIdx.map (fun p => satAdd 64 p.1 (Config.freeNat (n + p.2)))

/-- The stall counters of the Block on which a matrix work order ran: the arrays' where they ran, BYPASS_BUSY where the
Bypass did (03 R101). -/
def countStalls (type : Nat) (bypass : Bool) (bs : List Nat) (s : State) : State :=
  if !(type == 1 || type == 2 || type == 3 || type == 9) then s
  else
    let n := s.free
    let f (k : Block) : Block :=
      if bypass ∧ type ≠ 2 then { k with bypassBusy := satAdd 64 k.bypassBusy (Config.freeNat n) }
      else { k with feedStall := addFree n k.feedStall, drainStall := addFree (n + 4) k.drainStall,
                    loadStall := addFree (n + 8) k.loadStall, bankConflict := addFree (n + 12) k.bankConflict,
                    bypassBusy := if bypass then satAdd 64 k.bypassBusy (Config.freeNat (n + 16)) else k.bypassBusy }
    bs.foldl (fun s b => modBlock b f s) { s with free := n + 17 }

/-- The tile status of an executed work order (R159). -/
def woResult (s : State) (e : Sent) (code splits : Nat) (bypass : Bool) (c : Counts) : WoResult :=
  { woFail s code e.bs with splits := splits, bypass := bypass, oldTown := woOldTown e.wo && woType e.wo == 1,
                            sat := c.sat, nonfin := c.nonfin }

/-- Counts of a work order, and the cause bit that a NaN raises in a step (02 R72; 09 R312). -/
def chargeCounts (e : Sent) (c : Counts) (s : State) : State :=
  let s := addCounts e.k.court c s
  match runStep s e.k with
  | some p => if 0 < c.nonfin then raiseCause p.1 1 s else s
  | none => s

/-- Ends a work order with an error: POISON_READ where poison caused it, and the code (R160; 04 R126). -/
def woRefuse (w : WoRef) (e : Sent) (err : Nat) (s : State) : State :=
  finishWo w.run w.stream (woResult s e (errCode err) 0 false ⟨0, 0⟩) (poisonRead (errLine err) s)

/-- The elements that a GEMM supplies go into their bucket: the state and the counts of their casts, or none where no
bucket takes them (10 R342). -/
def supplyStep (e : Sent) (o : WoOut) (s : State) : Option (State × Counts) := match o.supply with
  | none => some (s, ⟨0, 0⟩)
  | some (g, b, es) => match runStep s e.k with
    | none => none
    | some (key, r, t) => if fld r.pb 0 2 = g ∧ supplyOk r t b es then some (supplyBucket key b es s) else none

/-- The effect of a work order that ran on a Block: its writes, hints, counts and outcome (R159 to R161). -/
def woEnd (w : WoRef) (e : Sent) (x : Ctx) (o : WoOut) (c : Counts) (s : State) : State :=
  match supplyStep e o s with
  | none => woRefuse w e tcBadField s
  | some (s, c') =>
    let c : Counts := ⟨c.sat + c'.sat, c.nonfin + c'.nonfin⟩
    let s := applyWrites x o.writes s
    let s := o.used.foldl (fun s u => tensorLastUse x u.1 u.2.1 u.2.2.1 u.2.2.2 s) s
    let s := countStalls (woType e.wo) o.bypass e.bs (poisonRead (errLine o.code) (chargeCounts e c s))
    finishWo w.run w.stream (woResult s e (errCode o.code) o.splits o.bypass c) s

/-- Runs a row over the dispatched work order: what its reads find comes first, and `act` does the rest in its context. -/
def withWo (w : WoRef) (mem : Findings) (type : Nat) (sel : List Byte → Bool) (act : Sent → Ctx → State → State) (s : State) :
    Res :=
  watched (.next (match sentWo s w type sel with
    | none => s
    | some e => match courtOf s e.k.court with
      | none => s
      | some c =>
        let f := applyFindings false mem s
        let s := noteFixes e.bs mem f.s
        act e ⟨e.k.court, c, e.k, e.bs, f.bad, f.storeBad, allPriv s⟩ s))

/-- A work order whose effect is that of its body. -/
def bodyAct (w : WoRef) (body : State → WoEnv → FpM WoOut) (e : Sent) (x : Ctx) (s : State) : State :=
  let r := runFp (body s (envOf s e x))
  woEnd w e x r.1 r.2 s

/-- Every work order of a type. -/
def anyWo (_ : List Byte) : Bool := true

/-! ### Matrix and element work orders -/

/-- GEMM (R164, R165). -/
def execGemm (w : WoRef) (mem : Findings) (s : State) : Res := withWo w mem 1 anyWo (bodyAct w gemmBody) s

/-- GROUPED_LOWRANK (R166). -/
def execGroupedLowrank (w : WoRef) (mem : Findings) (s : State) : Res := withWo w mem 2 anyWo (bodyAct w glrBody) s

/-- ATTENTION (R167, R544). -/
def execAttention (w : WoRef) (mem : Findings) (s : State) : Res := withWo w mem 3 anyWo (bodyAct w attnBody) s

/-- NORM (R168). -/
def execNorm (w : WoRef) (mem : Findings) (s : State) : Res := withWo w mem 4 anyWo (bodyAct w normBody) s

/-- OP of an ELEMENTWISE (R169). -/
def eltIs (op : Nat) (wo : List Byte) : Bool := fld wo 88 1 == op

/-- ELEMENTWISE ADD (R169). -/
def execElementwiseAdd (w : WoRef) (mem : Findings) (s : State) : Res := withWo w mem 5 (eltIs 1) (bodyAct w eltBody) s

/-- ELEMENTWISE MUL (R169). -/
def execElementwiseMul (w : WoRef) (mem : Findings) (s : State) : Res := withWo w mem 5 (eltIs 2) (bodyAct w eltBody) s

/-- ELEMENTWISE AXPY (R169). -/
def execElementwiseAxpy (w : WoRef) (mem : Findings) (s : State) : Res := withWo w mem 5 (eltIs 3) (bodyAct w eltBody) s

/-- ELEMENTWISE SILU (R169). -/
def execElementwiseSilu (w : WoRef) (mem : Findings) (s : State) : Res := withWo w mem 5 (eltIs 4) (bodyAct w eltBody) s

/-- ELEMENTWISE SWIGLU (R169). -/
def execElementwiseSwiglu (w : WoRef) (mem : Findings) (s : State) : Res := withWo w mem 5 (eltIs 5) (bodyAct w eltBody) s

/-- ELEMENTWISE RELU (R169). -/
def execElementwiseRelu (w : WoRef) (mem : Findings) (s : State) : Res := withWo w mem 5 (eltIs 6) (bodyAct w eltBody) s

/-- A CONVERT: one that carries a TENSOR tag also notes the amax and the mark of its tensor (09 R296 to R298). -/
def convertAct (w : WoRef) (e : Sent) (x : Ctx) (s : State) : State :=
  let r := runFp (eltBody s (envOf s e x))
  let s' := woEnd w e x r.1 r.2 s
  match runStep s e.k, ledgerTag (fld e.wo 92 4), r.1.code with
  | some (key, _, _), some i, 0 => noteConvert key i x r.2 s'
  | _, _, _ => s'

/-- ELEMENTWISE CONVERT (R169; 09 R296). -/
def execElementwiseConvert (w : WoRef) (mem : Findings) (s : State) : Res := withWo w mem 5 (eltIs 7) (convertAct w) s

/-- ELEMENTWISE WADD (R169; 02 R62). -/
def execElementwiseWadd (w : WoRef) (mem : Findings) (s : State) : Res := withWo w mem 5 (eltIs 8) (bodyAct w eltBody) s

/-- ELEMENTWISE PASS_FOLD (R169; 02 R65). -/
def execElementwisePassFold (w : WoRef) (mem : Findings) (s : State) : Res := withWo w mem 5 (eltIs 9) (bodyAct w eltBody) s

/-- ELEMENTWISE WFIN (R169; 02 R62). -/
def execElementwiseWfin (w : WoRef) (mem : Findings) (s : State) : Res := withWo w mem 5 (eltIs 10) (bodyAct w eltBody) s

/-! ### COPY (R170) -/

/-- MODE of a COPY. -/
def copyIs (mode : Nat) (wo : List Byte) : Bool := fld wo 72 1 == mode

/-- COPY PLAIN (R170). -/
def execCopyPlain (w : WoRef) (mem : Findings) (s : State) : Res := withWo w mem 6 (copyIs 0) (bodyAct w copyBody) s

/-- COPY SKEW (R170, R545). -/
def execCopySkew (w : WoRef) (mem : Findings) (s : State) : Res := withWo w mem 6 (copyIs 1) (bodyAct w copyBody) s

/-- COPY GATHER (R170). -/
def execCopyGather (w : WoRef) (mem : Findings) (s : State) : Res := withWo w mem 6 (copyIs 2) (bodyAct w copyBody) s

/-- The Block bound to a stream of a run, where its context is in place (R152). -/
def boundBlock (s : State) (r i : Nat) : Option Nat := match streamOf s r i with
  | none => none
  | some (_, t) => match t.chain with
    | b :: _ => (match useOf s b with
      | some (.chained r' i') => if r' = r ∧ i' = i then some b else none
      | some (.busy r' i') => if r' = r ∧ i' = i then some b else none
      | _ => none)
    | [] => none

/-- A COPY REMOTE that can go on: its DST_STREAM is bound, or is none of the run's (R170). -/
def remoteReady (s : State) (w : WoRef) (wo : List Byte) : Bool :=
  copyIs 3 wo && ((boundBlock s w.run (fld wo 74 2)).isSome || (streamOf s w.run (fld wo 74 2)).isNone)

/-- COPY REMOTE: it waits until a Block is bound to DST_STREAM, and writes into that Block's store (R170). -/
def execCopyRemote (w : WoRef) (mem : Findings) (s : State) : Res :=
  withWo w mem 6 (remoteReady s w) (fun e x s => match boundBlock s w.run (fld e.wo 74 2) with
    | none => woRefuse w e tcBadField s
    | some b => bodyAct w (copyRemoteBody b) e x s) s

/-! ### REDUCE_SEND and UPDATE (R171, R172) -/

/-- MODE of a REDUCE_SEND. -/
def sendIs (mode : Nat) (wo : List Byte) : Bool := fld wo 61 1 == mode

/-- REDUCE_SEND LAYER: the tensor's blocks enter the reduction, and the work order ends (R171; 10 R341). -/
def execReduceSendLayer (w : WoRef) (mem : Findings) (s : State) : Res :=
  withWo w mem 7 (sendIs 0) (fun e x s => match runStep s e.k with
    | none => woRefuse w e tcBadField s
    | some (key, g, t) => match sendOp s (envOf s e x) 0 g t with
      | .error c => woRefuse w e c s
      | .ok o =>
        let r := sendLayer key (envOf s e x) o s
        let s := chargeCounts e r.2 r.1
        settle (finishWo w.run w.stream (woResult s e tcOk 0 false r.2) s)) s

/-- REDUCE_SEND TILE: its bucket opens for the tiles that GEMMs supply, and its Block is free; it is done when every
element has come (R171; 10 R342). -/
def execReduceSendTile (w : WoRef) (mem : Findings) (s : State) : Res :=
  withWo w mem 7 (sendIs 1) (fun e x s =>
    if e.bs = [] then s
    else match runStep s e.k with
      | none => woRefuse w e tcBadField s
      | some (key, g, t) => match sendOp s (envOf s e x) 1 g t with
        | .error c => woRefuse w e c s
        | .ok o =>
          let s := beginBucket key o (some (w.run, w.stream)) s
          let s := modStream w.run w.stream (fun t => { t with head := .sent [], chain := [] }) (releaseBlocks e.bs s)
          settle (progressed key s)) s

/-- UPDATE: the shard registers with the Update Engine, and the work order ends when its last block is settled (R172;
09 R308). -/
def execUpdate (w : WoRef) (mem : Findings) (s : State) : Res :=
  withWo w mem 8 anyWo (fun e x s => match runStep s e.k with
    | none => woRefuse w e tcBadField s
    | some (key, g, t) =>
      if t.shards.any (fun d => d.run == w.run && d.stream == w.stream && d.shard == fld e.wo 88 4 &&
          decide (32 * d.blocks.length < d.elements)) then s
      else match updateShard s (envOf s e x) g t w.run w.stream with
        | .error c => woRefuse w e c s
        | .ok d => registerShard key d x.bad (progressed key s)) s

/-! ### VIADUCT_PAIR (R173) -/

/-- PASS of a VIADUCT_PAIR. -/
def pairIs (pass : Nat) (wo : List Byte) : Bool := fld wo 112 1 == pass

/-- A VIADUCT_PAIR in a distillation step: its effect, the private ranges of the student Block, and the binding that it
leaves (11 R358 to R362). -/
def pairAct (w : WoRef) (e : Sent) (x : Ctx) (s : State) : State :=
  match (runStep s e.k).bind (fun p => (p.2.2.job.bind (fun j => tblGet s.jobs (jobKey e.k.court j))).map (fun j => (p.2.2, j))) with
  | none => woRefuse w e tcBadField s
  | some (t, job) =>
    let kept := e.t.via.bound && e.t.chain == e.bs
    let p : PairEnv := { v := envOf s e x, vocab := job.vocab, dT := job.dTeacher, dS := job.dStudent, stepNo := t.number,
                         bind := if kept then some e.t.via else none }
    let r := runFp (pairBody s job p)
    let s := woEnd w e x r.1.1 r.2 s
    match r.1.2 with
    | none => s
    | some (via, priv) =>
      let via := { via with since := if kept then e.t.via.since else e.t.chainSince }
      let s := modStream w.run w.stream (fun t => { t with via := via }) s
      modBlock (e.bs.getD 1 288) (fun k => { k with priv := priv }) s

/-- VIADUCT_PAIR, PASS 1 (R173; 11 R363 to R367). -/
def execViaductPairPass1 (w : WoRef) (mem : Findings) (s : State) : Res := withWo w mem 9 (pairIs 1) (pairAct w) s

/-- VIADUCT_PAIR, PASS 2 (R173; 11 R368, R369). -/
def execViaductPairPass2 (w : WoRef) (mem : Findings) (s : State) : Res := withWo w mem 9 (pairIs 2) (pairAct w) s

end Sys2Proof.Machine
end

