-- ==== Sys2Proof/Machine/Assist.lean ====
section
/-! DEFINITION. Host-assisted decisions: their replies and their deadlines (spec/06_command_protocol.md R210 to R213;
spec/13_placement_and_scheduling.md R431). -/

namespace Sys2Proof.Machine

/-- The granules that a GRANULES request proposes (13 R431). -/
def proposedGranules (plain : List Byte) : List Nat := (List.range (fld plain 4 4)).map (fun i => fld plain (8 + 2 * i) 2)

/-- The granules that a reply supplies. -/
def suppliedGranules (data : List Byte) : List Nat := (List.range (data.length / 2)).map (fun i => fld data (2 * i) 2)

/-- Applies a GRANULES decision to the load, the reload or the Court that waits for it (07 R246, R247; 13 R413, R416). -/
def applyGranules (q : QId) (cid : Nat) (proposal data : List Byte) (use : Bool) (s : State) : State :=
  let gs := if use then suppliedGranules data else proposedGranules proposal
  if q = ⟨16, 64⟩ then modSlot cid (fun m => { m with granules := gs }) s
  else match findCmd s q cid with
    | none => s
    | some c =>
      if c.opcode = opCreateCourt ∨ c.opcode = opResizeCourt then amendGranules (fld c.pb 0 1) gs s
      else modCmd q cid (fun c => { c with work := c.work.take 1 ++ 1 :: gs }) s

/-- A home table of 2-byte entries (10 R333). -/
def homeTableOf (data : List Byte) : List Nat := (List.range (data.length / 2)).map (fun i => fld data (2 * i) 2)

/-- What a decision does once it is settled: DISPOSITION 0 to 2 with the reply's data, or no reply (R210, R212). -/
def settleAssist (a : AssistRec) (disp : Option Nat) (data back : List Byte) (s : State) : State :=
  let use := decide (disp = some 1)
  let refuse := decide (disp = some 2)
  let d := disp.getD 2
  match a.purpose with
  | .place 2 _ _ => applyDemote a.row a.plain data use s
  | .place _ q cid => applyGranules q cid a.plain data use s
  | .homes key => homesAnswered key (if use then some (homeTableOf data) else none) s
  | .clip key => clipAnswered key d data back s
  | .update key => updateAnswered key d data s
  | .bucket key b home => bucketAnswered key b home d data s
  | .resync key => resyncAnswered key d data s
  | .stop b step => settleStop b step d data s
  | .park b join victim => settlePark b join victim (if use then some data else none) refuse s
  | .spec b => settleSpec b (if use then data else []) s
  | .margin die kind target => marginReply die kind target refuse s
  | .roadworks b => roadReply b d (fld data 0 4) s

/-- Takes a decision off the list of those that wait. -/
def dropAssist (a : AssistRec) (s : State) : State :=
  { s with cmd.assists := s.cmd.assists.filter (fun b => !(b.id == a.id && b.row == a.row)) }

/-- The decision of a row with an identifier. -/
def assistOf (s : State) (row id : Nat) : Option AssistRec := s.cmd.assists.find? (fun a => a.row == row && a.id == id)

/-! ### ASSIST_REPLY (R210) -/

/-- The reply's data as plaintext; none where a confidential Court's object fails (14 R454, R455). -/
def replyData (c : Cmd) (a : AssistRec) (data : List Byte) (s : State) : Option (List Byte) × State :=
  if data = [] then (some [], s) else fromHost c sealAssist (a.id + 2 ^ 32 * a.func) data s

/-- The reduced buckets of a CLIP step as read back from the data area, each from the next 64-byte boundary (09 R318). -/
def clipBack (c : Cmd) (a : AssistRec) : List Nat → List Byte → State → Option (List Byte) × State
  | [], _, s => (some [], s)
  | n :: t, area, s =>
    let len := if confCourt s a.row then sealedLen n else n
    match replyData c a (area.take len) s with
    | (none, s) => (none, s)
    | (some b, s) => match clipBack c a t (area.drop (roundUp len 64)) s with
      | (none, s) => (none, s)
      | (some r, s) => (some (padTo (roundUp n 64) b ++ r), s)

/-- Bytes of each reduced bucket that a CLIP record's step reads back. -/
def clipSizes (s : State) (a : AssistRec) : List Nat := match a.purpose with
  | .clip key => match stepOf s key with
    | some (g, _) => (homeBuckets s g).map (fun b => 4 * bucketElems g.pb b)
    | none => []
  | _ => []

/-- Bytes that the read-back of a CLIP reply covers. -/
def clipAreaLen (s : State) (a : AssistRec) : Nat :=
  ((clipSizes s a).map (fun n => roundUp (if confCourt s a.row then sealedLen n else n) 64)).sum

/-- Effect of ASSIST_REPLY: `data` holds the DATA_LEN bytes at DATA_ADDR and, for a clip factor, the data area after
them. -/
def assistReplyBody (data : List Byte) (c : Cmd) (s : State) : State × Did :=
  let id := fld c.pb 0 4
  let disp := fld c.pb 4 1
  let len := if disp = 1 then fld c.pb 16 4 else 0
  let row := c.q.owner
  if 2 < disp then failWith s stInvalidField
  else match (assistOf s row id).filter (·.posted) with
    | none =>
      if s.cmd.expired.contains (row, id) then
        failWith { s with cmd.expired := s.cmd.expired.filter (fun p => p != (row, id)) } stAssistExpired
      else failWith s stNotFound
    | some a =>
      let sizes := if disp = 1 then clipSizes s a else []
      let more := if disp = 1 then clipAreaLen s a else 0
      if data.length < len + more then failWith s stHostFault
      else match replyData c a (data.take len) s with
        | (none, s) => failWith s stMemoryError
        | (some d, s) => match clipBack c a sizes (data.drop len) s with
          | (none, s) => failWith s stMemoryError
          | (some back, s) => (settle (settleAssist a (some disp) d back (dropAssist a s)), .fin (finSt stSuccess))

/-- ASSIST_REPLY (R210). -/
def execAssistReply (q : QId) (cid : Nat) (data : List Byte) (s : State) : Res :=
  watched (.next (runCmd opAssistReply q cid (fun _ => 24) [(5, 3), (20, 4)] (assistReplyBody data) s))

/-! ### ASSIST_DEADLINE_EXPIRY (R210, R212) -/

/-- ASSIST_DEADLINE_EXPIRY: the decision takes the outcome of a missing reply. -/
def execAssistDeadlineExpiry (row id : Nat) (s : State) : Res :=
  watched (.next (match assistOf s row id with
    | none => s
    | some a =>
      if a.deadline ≤ s.sq.time ∧ s.sq.ready ∧ !s.sq.takeover then
        settle (settleAssist a none [] [] { dropAssist a s with cmd.expired := (row, id) :: s.cmd.expired })
      else s))

end Sys2Proof.Machine
end

