-- ==== Sys2Proof/Machine/HostPorts.lean ====
section
/-! DEFINITION. The host ports: function resets, bus mastering, power states, links, failing reads and IDE streams
(spec/12_avenues_and_host_ports.md R397 to R404). -/

namespace Sys2Proof.Machine

/-! ### Function Level Reset (R402) -/

/-- Every owner gives up a superseded transport key that nothing uses any more (14 R451). -/
def purgeAll (s : State) : State := s.sec.courts.foldl (fun s p => purgeOld p.1 s) s

/-- Takes down the queue pairs of a function; what they still held is not posted (R402; 06 R196). -/
def takeDownAll (f : FnId) (s : State) : State :=
  (s.cmd.queues.filter (fun p => p.2.via == f)).foldl (fun s p =>
    takeDown (qOfKey p.1) (modQueue (qOfKey p.1) (fun t => { t with held := [] }) s)) s

/-- Removes the rings and stream rings of a function, and the writes that it held. -/
def dropRings (f : FnId) (s : State) : State :=
  purgeAll { s with
    cmd.eventRings := s.cmd.eventRings.filter (fun p => p.2.via != f)
    cmd.assistRings := s.cmd.assistRings.filter (fun p => p.2.via != f)
    cmd.heldWrites := s.cmd.heldWrites.filter (fun w => w.1 != f)
    srv.rings := s.srv.rings.filter (fun p => p.2.via != f) }

/-- A Function Level Reset: queue pairs, rings and stream rings go, and the registers return to their reset values. -/
def resetFn (f : FnId) (s : State) : State :=
  modFn f (fun h => { HostFn.fresh with enabled := h.enabled }) (dropRings f (takeDownAll f s))

/-- FUNCTION_LEVEL_RESET (R402). -/
def execFunctionLevelReset (f : FnId) (s : State) : Res :=
  watched (.next (if (fnOf s f).any (·.enabled) then resetFn f s else s))

/-! ### Bus mastering and power states (R402) -/

/-- What a function held goes out once it may write again: writes, then completions, then interrupts (06 R187; R399). -/
def releaseFn (f : FnId) (s : State) : State :=
  if !fnWrites s f then s
  else
    let mine := s.cmd.heldWrites.filter (fun w => w.1 == f)
    let s := { s with cmd.heldWrites := s.cmd.heldWrites.filter (fun w => w.1 != f) }
    let s := drainAll (mine.foldl (fun s w => hostWrite w.1 w.2.1 w.2.2 s) s)
    match fnOf s f with
    | none => s
    | some h =>
      let due := (List.range 64).filter (fun v => bit h.msixPend v && !bit h.msixMask v)
      due.foldl (fun s v => emit (.msix f v) s) (modFn f (fun h => { h with msixPend := h.msixPend &&& h.msixMask }) s)

/-- BUS_MASTER_ENABLE_CLEAR: the function neither fetches nor writes (R402). -/
def execBusMasterEnableClear (f : FnId) (s : State) : Res := .next (modFn f (fun h => { h with bme := false }) s)

/-- BUS_MASTER_ENABLE_SET (R402). -/
def execBusMasterEnableSet (f : FnId) (s : State) : Res :=
  .next (if (fnOf s f).any (fun h => !h.bme) then releaseFn f (modFn f (fun h => { h with bme := true }) s) else s)

/-- D3HOT_ENTRY (R402). -/
def execD3hotEntry (f : FnId) (s : State) : Res := .next (modFn f (fun h => { h with d3hot := true }) s)

/-- D0_RETURN: acts as a Function Level Reset (R402). -/
def execD0Return (f : FnId) (s : State) : Res :=
  watched (.next (if (fnOf s f).any (fun h => h.d3hot) then resetFn f s else s))

/-! ### Links (R402; 16 R504) and virtual functions (R401) -/

/-- The functions of a port. -/
def portFns (port : Nat) : List FnId := (List.range 17).map (fun n => ⟨port, n⟩)

/-- HOST_LINK_DOWN: every function of the port is treated as under a Function Level Reset; IDE streams and the secured
session of the port end (R402). -/
def execHostLinkDown (port : Nat) (s : State) : Res :=
  watched (.next (if 2 ≤ port then s
    else
      let s := (portFns port).foldl (fun s f => resetFn f s) s
      { s with
        sq.hostUp := s.sq.hostUp.set port 0
        mgm.spdm := tblErase s.mgm.spdm port
        mgm.ide := s.mgm.ide.filter (fun p => p.1 / 17 != port)
        mgm.ideKeys := s.mgm.ideKeys.filter (fun p => p.1 / 256 / 17 != port) }))

/-- HOST_LINK_TRAIN: a port's link comes up, `full` at x16 and 64 GT/s (16 R504). -/
def execHostLinkTrain (port : Nat) (full : Bool) (s : State) : Res :=
  .next (if s.sq.powered ∧ s.sq.vddIo ∧ !s.sq.perst ∧ s.sq.hostUp.getD port 3 = 0 then
      { s with sq.hostUp := s.sq.hostUp.set port (if full then 2 else 1) }
    else s)

/-- One virtual function after a change of VF Enable or NumVFs. -/
def setVf (f : FnId) (on : Bool) (s : State) : State := match fnOf s f with
  | none => s
  | some h =>
    if h.enabled = on then s
    else if on then modFn f (fun _ => HostFn.fresh) s
    else modFn f (fun h => { h with enabled := false }) (resetFn f s)

/-- VF_ENABLE_CHANGE: virtual function n is enabled when NumVFs is at least n; `vfs` is 0 where VF Enable is clear
(R401). -/
def execVfEnableChange (port vfs : Nat) (s : State) : Res :=
  watched (.next (if 16 < vfs then s
    else (List.range 16).foldl (fun s i => setVf ⟨port, i + 1⟩ (decide (i + 1 ≤ vfs)) s) s))

/-! ### Reads that fail (R403) -/

/-- A command still has host data to move: it has started, and neither waits for a decision nor for a step's end. -/
def midHost (s : State) (c : Cmd) : Bool :=
  usesHost c && c.started && c.opcode != opServe && !placeAsked s c.q c.cid &&
  !s.gaz.entries.any (fun p => p.2.nextCmd == some (c.q, c.cid))

/-- Ends a command whose host access has failed with HOST_FAULT and the state of 06 R205. -/
def hostFault (c : Cmd) (s : State) : State := retire c (finSt stHostFault) (undoCmd c s)

/-- A command's host data cannot be read: HOST_FAULT; a SERVE whose sequence still waits ends too. -/
def commandReadFails (q : QId) (cid : Nat) (s : State) : State := match findCmd s q cid with
  | none => s
  | some c =>
    if !s.sq.ready ∨ s.sq.takeover ∨ !readsHost c then s
    else if c.started then
      (if midHost s c then settle (hostFault c s)
      else match seqOfCmd s q cid with
        | some (i, e) => if c.opcode = opServe ∧ e.state = .waiting then endSeq i stHostFault 0 s else s
        | none => s)
    else if canStart s c ∧ ownerReady s c.q.owner then retire c (finSt stHostFault) s
    else s

/-- A parameter block cannot be read: its command is fetched and ends with PARAM_FAULT. -/
def blockReadFails (q : QId) (entry : List Byte) (s : State) : State := match queueOf s q with
  | none => s
  | some t =>
    if !mayFetch s q t ∨ entry.length ≠ 64 ∨ fld entry 12 4 ≤ 40 ∨ 262144 < fld entry 12 4 then s
    else
      let c := cmdOf q t s.sq.time entry []
      let s := modQueue q (fun t => { t with sqHead := (t.sqHead + 1) % t.sqDepth, fetched := t.fetched + 1 }) s
      if (findCmd s q c.cid).isSome then rejectDuplicate c s
      else retire c (finSt stParamFault) { s with cmd.cmds := s.cmd.cmds ++ [c] }

/-- What a read of host memory that fails does (R403; 07 R222, R247; 08 R281). -/
def readFails (q : QId) (what : HostRead) (s : State) : State := match what with
  | .entry => (match queueOf s q with
    | none => s
    | some t => if mayFetch s q t then fetchFailed q t s else s)
  | .block e => blockReadFails q e s
  | .command cid => commandReadFails q cid s
  | .reload n => (match tblGet s.gaz.slots n with
    | none => s
    | some m => if m.state = .cold ∧ m.wanted ∧ s.sq.ready then reloadFailed n stHostFault s else s)
  | .fetch h v =>
    if (entryOf s h).cur.any (fun x => x.wanted && x.version == v) ∧ coldKind (entryOf s h).coldAt = 1 then
      modEntry h (fun e => { e with cur := e.cur.map (fun x => { x with wanted := false, fetchFail := some stHostFault }) }) s
    else s
  | .parked i => (match seqOf s i with
    | none => s
    | some e => if e.copy = .back ∧ coldKind e.parkAt = 1 ∧ !e.gone ∧ s.sq.ready then returnFailed i stHostFault 0 s else s)

/-- HOST_READ_FAULT: a poisoned, Unsupported Request or Completer Abort completion (R403). -/
def execHostReadFault (q : QId) (what : HostRead) (s : State) : Res := watched (.next (readFails q what s))

/-- HOST_READ_TIMEOUT: no completion within the timeout (R397, R403). -/
def execHostReadTimeout (q : QId) (what : HostRead) (s : State) : Res := watched (.next (readFails q what s))

/-! ### IDE (R404) -/

/-- IDE_STREAM_FAIL: the function's stream is ended, and its DMA fails as under R403. -/
def execIdeStreamFail (f : FnId) (s : State) : Res :=
  watched (.next (if tblGet s.mgm.ide (fnKey f) = some true then
      let s := { s with mgm.ide := tblSet s.mgm.ide (fnKey f) false }
      let s := (s.cmd.cmds.filter (fun c => c.via == f && midHost s c)).foldl (fun s c =>
        match findCmd s c.q c.cid with
        | some c => hostFault c s
        | none => s) s
      settle (s.cmd.queues.foldl (fun s p => match queueOf s (qOfKey p.1) with
        | some t => if t.via = f ∧ mayFetch s (qOfKey p.1) t then fetchFailed (qOfKey p.1) t s else s
        | none => s) s)
    else s))

end Sys2Proof.Machine
end

