-- ==== Sys2Proof/Machine/Mgmt.lean ====
section
/-! DEFINITION. The management port, I3C, MCTP and PLDM, and the SPDM responder and IDE key management of the host ports
(spec/12_avenues_and_host_ports.md R404 to R410; spec/14_security_and_attestation.md R462). The message layouts are those
of the named standards (PRESUMED, notes/assumptions). -/

namespace Sys2Proof.Machine

/-! ### I3C (R405) -/

/-- The management port answers: from 3 s after PERST# deassertion, and not during a takeover (R405). -/
def mgmtUp (s : State) : Bool :=
  s.sq.powered && s.sq.vddIo && !s.sq.perst && !s.sq.thermtripN && !s.sq.takeover && decide (3 * secUnits ≤ s.sq.time)

/-- The 48-bit provisional ID, most significant byte first: manufacturer, part ID 0x1296, instance (R405; 17 R528). -/
def provisionalId (s : State) : List Byte :=
  (natLe 6 (Config.i3cManufacturer % 2 ^ 15 * 2 ^ 33 + 0x1296 * 2 ^ 16 + s.sq.i3cInst * 2 ^ 12)).reverse

/-- I3C_ENTDAA: a target without a dynamic address shows its identity and takes the address given. -/
def execI3cEntdaa (addr : Nat) (s : State) : Res :=
  .next (if mgmtUp s ∧ s.mgm.dyn = none ∧ addr < 128 then
      emit (.i3c (provisionalId s ++ [Config.i3cChars.1, Config.i3cChars.2])) { s with mgm.dyn := some addr }
    else s)

/-- I3C_SETDASA: a target without a dynamic address takes one at its static address; 0 disables it (17 R528). -/
def execI3cSetdasa (static addr : Nat) (s : State) : Res :=
  .next (if mgmtUp s ∧ s.mgm.dyn = none ∧ static = s.sq.i3cSa ∧ static ≠ 0 ∧ addr < 128 then
      { s with mgm.dyn := some addr }
    else s)

/-- I3C_CCC: RSTDAA drops the address, SETAASA and SETNEWDA give one, GETPID, GETBCR and GETDCR return the identity; a
direct read of another code is answered. -/
def execI3cCcc (code : Nat) (data : List Byte) (s : State) : Res :=
  .next (if !mgmtUp s then s
    else if code = 0x06 then { s with mgm.dyn := none }
    else if code = 0x29 then
      (if s.mgm.dyn = none ∧ s.sq.i3cSa ≠ 0 then { s with mgm.dyn := some s.sq.i3cSa } else s)
    else if s.mgm.dyn = none then s
    else if code = 0x88 then { s with mgm.dyn := some (fld data 0 1 / 2) }
    else if code = 0x8D then emit (.i3c (provisionalId s)) s
    else if code = 0x8E then emit (.i3c [Config.i3cChars.1]) s
    else if code = 0x8F then emit (.i3c [Config.i3cChars.2]) s
    else if 0x80 ≤ code then emit (.i3c (Config.i3cAnswer code)) s
    else s)

/-! ### MCTP (R406) -/

/-- An MCTP message of a type reaches the device. -/
def reaches (s : State) (msg : List Byte) (type : Nat) : Bool :=
  mgmtUp s && s.mgm.dyn.isSome && decide (fld msg 0 1 % 128 = type) && msg != []

/-- Answers an MCTP control request: its header with Rq clear, its command, and the body. -/
def ctlReply (msg body : List Byte) (s : State) : State :=
  emit (.mctp ([0#8] ++ natLe 1 (fld msg 1 1 % 32) ++ natLe 1 (fld msg 2 1) ++ body)) s

/-- SET_ENDPOINT_ID: the bus owner sets or forces the endpoint ID; 0x00 and 0xFF are not valid. -/
def execSetEndpointId (msg : List Byte) (s : State) : Res :=
  .next (if !reaches s msg 0 ∨ !bit (fld msg 1 1) 7 ∨ fld msg 2 1 ≠ 0x01 then s
    else if msg.length < 5 then ctlReply msg [0x03#8] s
    else
      let e := fld msg 4 1
      if 1 < fld msg 3 1 % 4 ∨ e = 0 ∨ e = 0xFF then ctlReply msg [0x02#8] s
      else ctlReply msg ([0#8, 0#8] ++ natLe 1 e ++ [0#8]) { s with mgm.eid := e })

/-- MCTP_CONTROL_MESSAGE: Get Endpoint ID, Get Version Support and Get Message Type Support; others are not supported. -/
def execMctpControlMessage (msg : List Byte) (s : State) : Res :=
  .next (if !reaches s msg 0 ∨ !bit (fld msg 1 1) 7 ∨ fld msg 2 1 = 0x01 then s
    else match fld msg 2 1 with
      | 0x02 => ctlReply msg ([0#8] ++ natLe 1 s.mgm.eid ++ [0#8, 0#8]) s
      | 0x04 => ctlReply msg ([0#8] ++ Config.mctpVersions (fld msg 3 1)) s
      | 0x05 => ctlReply msg [0#8, 1#8, 1#8] s
      | _ => ctlReply msg [0x05#8] s)

/-- MCTP_UNSUPPORTED_TYPE: the message is discarded (R406). -/
def execMctpUnsupportedType (_ : List Byte) (s : State) : Res := .next s

/-! ### PLDM (R407) -/

/-- PLDM type of a message. -/
def pldmType (msg : List Byte) : Nat := fld msg 2 1 % 64

/-- The message is a PLDM request of a type and command. -/
def isPldm (s : State) (msg : List Byte) (type cmd : Nat) : Bool :=
  reaches s msg 1 && bit (fld msg 1 1) 7 && pldmType msg == type && fld msg 3 1 == cmd && decide (4 ≤ msg.length)

/-- Answers a PLDM request: its header with Rq clear, then the completion code and the body. -/
def pldmReply (msg body : List Byte) (s : State) : State :=
  emit (.mctp ([1#8] ++ natLe 1 (fld msg 1 1 % 32) ++ natLe 1 (fld msg 2 1) ++ natLe 1 (fld msg 3 1) ++ body)) s

/-- Sends a PLDM request of the device to the endpoint that asked for it. -/
def pldmSend (type cmd : Nat) (body : List Byte) (s : State) : State :=
  emit (.mctp ([1#8, 0x80#8] ++ natLe 1 type ++ natLe 1 cmd ++ body)) s

/-- A PLDM row: the request is checked, its data has at least `n` bytes, and `act` gives the answer. -/
def pldmRow (type cmd n : Nat) (act : List Byte → State → List Byte × State) (msg : List Byte) (s : State) : Res :=
  .next (if !isPldm s msg type cmd then s
    else if msg.length < 4 + n then pldmReply msg [0x03#8] s
    else
      let r := act (msg.drop 4) s
      pldmReply msg r.1 r.2)

/-- GetTID. -/
def execGetTid (msg : List Byte) (s : State) : Res := pldmRow 0 0x02 0 (fun _ s => ([0#8] ++ natLe 1 s.mgm.tid, s)) msg s

/-- SetTID: 0x00 and 0xFF are not valid. -/
def execSetTid (msg : List Byte) (s : State) : Res :=
  pldmRow 0 0x01 1 (fun d s =>
    if fld d 0 1 = 0 ∨ fld d 0 1 = 0xFF then ([0x02#8], s) else ([0#8], { s with mgm.tid := fld d 0 1 })) msg s

/-- The supported PLDM types (R407). -/
def pldmTypes : List Nat := [0, 2, 4, 5]

/-- The command codes of a supported type (R407). -/
def pldmCmds (type : Nat) : List Nat := match type with
  | 0 => [0x01, 0x02, 0x03, 0x04, 0x05]
  | 2 => [0x04, 0x11, 0x21, 0x50, 0x51]
  | 4 => [0x01, 0x02]
  | 5 => [0x10, 0x13, 0x14, 0x15, 0x16, 0x17, 0x18, 0x1A, 0x1B, 0x1D]
  | _ => []

/-- A bit mask of the numbers given. -/
def maskOf (l : List Nat) : Nat := l.foldl (fun m i => m ||| 2 ^ i) 0

/-- GetPLDMVersion. -/
def execGetPldmVersion (msg : List Byte) (s : State) : Res :=
  pldmRow 0 0x03 6 (fun d s =>
    if 1 < fld d 4 1 then ([0x81#8], s)
    else if !pldmTypes.contains (fld d 5 1) then ([0x83#8], s)
    else ([0#8] ++ zeros 4 ++ [0x05#8] ++ Config.pldmVersion (fld d 5 1), s)) msg s

/-- GetPLDMTypes. -/
def execGetPldmTypes (msg : List Byte) (s : State) : Res :=
  pldmRow 0 0x04 0 (fun _ s => ([0#8] ++ natLe 8 (maskOf pldmTypes), s)) msg s

/-- GetPLDMCommands. -/
def execGetPldmCommands (msg : List Byte) (s : State) : Res :=
  pldmRow 0 0x05 5 (fun d s =>
    if !pldmTypes.contains (fld d 0 1) then ([0x83#8], s) else ([0#8] ++ natLe 32 (maskOf (pldmCmds (fld d 0 1))), s)) msg s

/-- PLDM_UNSUPPORTED_CMD: ERROR_UNSUPPORTED_PLDM_CMD, or for a type not supported ERROR_INVALID_PLDM_TYPE (R407). -/
def execPldmUnsupportedCmd (msg : List Byte) (s : State) : Res :=
  .next (if !reaches s msg 1 ∨ !bit (fld msg 1 1) 7 ∨ msg.length < 4 then s
    else if !pldmTypes.contains (pldmType msg) then pldmReply msg [0x20#8] s
    else if (pldmCmds (pldmType msg)).contains (fld msg 3 1) then s
    else pldmReply msg [0x05#8] s)

/-! ### Type 2, Monitoring and Control (R407, R408) -/

/-- The platform descriptor record of a sensor: its header, the terminus and the sensor ID, and the rest. -/
def pdrRecord (s : State) (id : Nat) : List Byte :=
  let body := natLe 2 s.mgm.tid ++ natLe 2 id ++ Config.pdrBody id
  natLe 4 id ++ [1#8] ++ natLe 1 (if id ≤ 64 then 2 else 4) ++ zeros 2 ++ natLe 2 body.length ++ body

/-- Lengths of the 91 records. -/
def pdrSizes (s : State) : List Nat := (List.range 91).map (fun i => (pdrRecord s (i + 1)).length)

/-- GetPDRRepositoryInfo: available, 91 records. -/
def execGetPdrRepositoryInfo (msg : List Byte) (s : State) : Res :=
  pldmRow 2 0x50 0 (fun _ s => ([0#8, 0#8] ++ zeros 26 ++ natLe 4 91 ++ natLe 4 (pdrSizes s).sum ++
    natLe 4 ((pdrSizes s).foldl max 0) ++ [0#8], s)) msg s

/-- GetPDR: the record from the offset that its data transfer handle gives, as much as was asked for. -/
def execGetPdr (msg : List Byte) (s : State) : Res :=
  pldmRow 2 0x51 13 (fun d s =>
    let id := if fld d 0 4 = 0 then 1 else fld d 0 4
    let at_ := if fld d 8 1 = 1 then 0 else fld d 4 4
    let r := pdrRecord s id
    let part := (r.drop at_).take (fld d 9 2)
    if 91 < id then ([0x82#8], s)
    else if 1 < fld d 8 1 then ([0x81#8], s)
    else if r.length < at_ then ([0x80#8], s)
    else
      let last := decide (r.length ≤ at_ + part.length)
      let flag := if at_ = 0 then (if last then 0x05#8 else 0x00#8) else (if last then 0x04#8 else 0x01#8)
      let c := takeFree s
      let crc := if last && at_ != 0 then natLe 1 c.1 else []
      ([0#8] ++ natLe 4 (if id = 91 then 0 else id + 1) ++ natLe 4 (if last then 0 else at_ + part.length) ++ [flag] ++
        natLe 2 part.length ++ part ++ crc, c.2)) msg s

/-- The present state that a numeric sensor's sample has against its thresholds: normal, upper warning, upper or lower
critical. -/
def presentState (id flags : Nat) (w : F32) : Nat :=
  if bit flags 1 then (if 47 ≤ id ∧ id ≤ 62 ∧ centiBelow w 66 then 6 else 9)
  else if bit flags 0 then 8 else 1

/-- GetSensorReading: a sample as a signed 32-bit reading, or unavailable where none was taken. -/
def execGetSensorReading (msg : List Byte) (s : State) : Res :=
  pldmRow 2 0x11 3 (fun d s =>
    let id := fld d 0 2
    if id = 0 ∨ 64 < id then ([0x80#8], s)
    else match tblGet s.pwr.sensors id with
      | none => ([0#8, 5#8, 2#8, 0#8, 0#8, 0#8, 0#8] ++ zeros 4, s)
      | some w =>
        let st := presentState id (tblGetD s.pwr.flags id 0) w
        let prev := takeFree s
        ([0#8, 5#8, 0#8, 0#8] ++ natLe 1 st ++ natLe 1 prev.1 ++ natLe 1 st ++ natLe 4 (Config.sensorRaw id w), prev.2)) msg s

/-- GetStateSensorReadings: one field with the state's code in the order of R408. -/
def execGetStateSensorReadings (msg : List Byte) (s : State) : Res :=
  pldmRow 2 0x21 4 (fun d s =>
    let id := fld d 0 2
    if id < 65 ∨ 91 < id then ([0x80#8], s)
    else match tblGet s.pwr.sensors id with
      | none => ([0#8, 1#8, 2#8, 0#8, 0#8, 0#8], s)
      | some v =>
        let prev := takeFree s
        ([0#8, 1#8, 0#8] ++ natLe 1 v ++ natLe 1 prev.1 ++ natLe 1 v, prev.2)) msg s

/-- SetEventReceiver: asynchronous events to an MCTP endpoint, or none (R408). -/
def execSetEventReceiver (msg : List Byte) (s : State) : Res :=
  pldmRow 2 0x04 3 (fun d s =>
    if fld d 1 1 ≠ 0 then ([0x80#8], s)
    else if 1 < fld d 0 1 then ([0x81#8], s)
    else ([0#8], { s with mgm.receiver := if fld d 0 1 = 1 then some (natLe 1 (fld d 2 1)) else none })) msg s

/-- PlatformEventMessage of one threshold crossed: sensor, new and old state, reading (R408). -/
def sensorEvent (id old new : Nat) (w : F32) (s : State) : State :=
  pldmSend 2 0x0A ([1#8] ++ natLe 1 s.mgm.tid ++ [0#8] ++ natLe 2 id ++ [2#8] ++ natLe 1 (presentState id new w) ++
    natLe 1 (presentState id old w) ++ [5#8] ++ natLe 4 (Config.sensorRaw id w)) s

/-- The events of a refresh: one for each threshold crossed in either direction, where a receiver is set (R408). -/
def sensorEvents (cs : List (Nat × Nat × Nat × F32)) (s : State) : State :=
  if s.mgm.receiver = none ∨ !mgmtUp s then s
  else cs.foldl (fun s c =>
    (List.range 2).foldl (fun s i => if bit c.2.1 i = bit c.2.2.1 i then s else sensorEvent c.1 c.2.1 c.2.2.1 c.2.2.2 s) s) s

/-- SENSOR_REFRESH: the numeric readings of a 10 ms refresh (R408; 16 R520). -/
def execSensorRefresh (reads : List (Nat × F32)) (s : State) : Res :=
  .next (if !(s.sq.powered && s.sq.vddIo) ∨ s.sq.perst ∨ s.sq.thermtripN then s
    else
      let r := numericReads reads
      sensorEvents (crossings r s) (storeSensors r (thermalRespond r s)))

/-! ### Type 4, FRU (R407) -/

/-- One field of the FRU record: type, length, value. -/
def fruField (type : Nat) (v : List Byte) : List Byte := natLe 1 type ++ natLe 1 v.length ++ v

/-- The FRU record table: one record with part code, stepping, serial number, running and staged firmware versions, and
the counts of DEVICE_INFO (R407; 00 R3). -/
def fruTable (s : State) : List Byte :=
  let info := deviceInfoBytes s
  let staged := if s.flash.staged then (slotImage s.flash (1 - s.flash.select)).map (·.square.version) else none
  natLe 2 1 ++ natLe 1 254 ++ natLe 1 6 ++ natLe 1 0 ++
  fruField 1 (slice info 2 2) ++ fruField 2 (slice info 4 1) ++ fruField 3 (slice (padTo 128 Config.idCert) 16 16) ++
  fruField 4 (natLe 4 ((s.sq.running.map (·.square.version)).getD 0)) ++ fruField 5 (natLe 4 (staged.getD 0)) ++
  fruField 6 (slice info 5 47)

/-- One bit of CRC-32, reflected. -/
def crc32Bit (c : BitVec 32) : BitVec 32 := if c.getLsbD 0 then (c >>> 1) ^^^ 0xEDB88320#32 else c >>> 1

/-- CRC-32 of IEEE 802.3. -/
def crc32 (bs : List Byte) : BitVec 32 :=
  (bs.foldl (fun c b => forUpto 8 (fun _ c => crc32Bit c) (c ^^^ b.setWidth 32)) 0xFFFFFFFF#32) ^^^ 0xFFFFFFFF#32

/-- GetFRURecordTableMetadata. -/
def execGetFruRecordTableMetadata (msg : List Byte) (s : State) : Res :=
  pldmRow 4 0x01 0 (fun _ s =>
    let t := fruTable s
    ([0#8, 1#8, 0#8] ++ natLe 4 t.length ++ natLe 4 t.length ++ natLe 2 1 ++ natLe 2 1 ++ natLe 4 (crc32 t).toNat, s)) msg s

/-- GetFRURecordTable: the whole table and its CRC-32. -/
def execGetFruRecordTable (msg : List Byte) (s : State) : Res :=
  pldmRow 4 0x02 5 (fun d s =>
    let t := fruTable s
    if 1 < fld d 4 1 then ([0x81#8], s)
    else ([0#8] ++ zeros 4 ++ [0x05#8] ++ t ++ natLe 4 (crc32 t).toNat, s)) msg s

/-! ### Type 5, Firmware Update (R407, R409) -/

/-- Moves an update to a state that GetStatus reports, with the time of the command. -/
def setUpd (f : PldmUpdate → PldmUpdate) (s : State) : State := match s.mgm.upd with
  | none => s
  | some u =>
    let v := { f u with at_ := s.sq.time }
    { s with mgm.upd := some v, mgm.prevUpd := if v.state = u.state then s.mgm.prevUpd else u.state }

/-- The update ends. -/
def endUpd (s : State) : State := { s with mgm.upd := none, mgm.prevUpd := (s.mgm.upd.map (·.state)).getD s.mgm.prevUpd }

/-- A STAGE_FIRMWARE is unretired (R409). -/
def stageUnretired (s : State) : Bool := s.cmd.cmds.any (fun c => c.opcode == opStageFirmware)

/-- RequestUpdate: staging starts, unless an update or a STAGE_FIRMWARE is under way; an activation refuses it (R409). -/
def execRequestUpdate (msg : List Byte) (s : State) : Res :=
  pldmRow 5 0x10 11 (fun d s =>
    if s.mgm.upd.isSome ∨ stageUnretired s then ([0x81#8], s)
    else if s.sq.act.isSome then ([0x8A#8], s)
    else
      let u : PldmUpdate := { maxXfer := fld d 0 4, size := 0, got := [], at_ := s.sq.time, state := 1, verified := false }
      ([0#8] ++ zeros 3, { emptyStaging s with mgm.upd := some u, mgm.prevUpd := 0 })) msg s

/-- Asks for the next part of the image. -/
def requestData (s : State) : State := match s.mgm.upd with
  | none => s
  | some u => pldmSend 5 0x15 (natLe 4 u.got.length ++ natLe 4 (min u.maxXfer (u.size - u.got.length))) s

/-- The image is complete: it is checked as STAGE_FIRMWARE checks one, and the outcome is sent (R409; 16 R511). -/
def verifyUpdate (u : PldmUpdate) (s : State) : State :=
  let s := pldmSend 5 0x16 [0#8] s
  if fwRefused s.flash u.got = none then
    let s := { s with flash := { setStaging (some (fwImageOf u.got)) s.flash with staged := true } }
    pldmSend 5 0x18 [0#8, 0#8, 0#8] (pldmSend 5 0x17 [0#8] (setUpd (fun u => { u with verified := true, state := 2 }) s))
  else pldmSend 5 0x17 [2#8] (setUpd (fun u => { u with got := [], size := 0, state := 2 }) (emptyStaging s))

/-- Takes a part of the image that the update agent sends. -/
def takeData (part : List Byte) (s : State) : State := match s.mgm.upd with
  | none => s
  | some u =>
    if u.state ≠ 3 then s
    else
      let got := u.got ++ part.take (min u.maxXfer (u.size - u.got.length))
      let s := setUpd (fun u => { u with got := got }) s
      if got.length < u.size then requestData s else verifyUpdate { u with got := got } s

/-- PLDM_FIRMWARE_TRANSFER: PassComponentTable, UpdateComponent, a RequestFirmwareData response, or the response to a
message by which the device ends a phase (R407, R409). -/
def execPldmFirmwareTransfer (msg : List Byte) (s : State) : Res :=
  .next (if !reaches s msg 1 ∨ pldmType msg ≠ 5 ∨ msg.length < 4 then s
    else if bit (fld msg 1 1) 7 then match fld msg 3 1 with
      | 0x13 => (match s.mgm.upd with
        | none => pldmReply msg [0x80#8] s
        | some _ => pldmReply msg [0#8, 0#8, 0#8] (setUpd (fun u => { u with state := 2 }) s))
      | 0x14 => (match s.mgm.upd with
        | none => pldmReply msg [0x80#8] s
        | some u =>
          if msg.length < 17 then pldmReply msg [0x03#8] s
          else if u.state = 3 ∨ fld msg 13 4 = 0 ∨ u.maxXfer = 0 then pldmReply msg [0x84#8] s
          else requestData (pldmReply msg ([0#8, 0#8, 0#8] ++ zeros 6)
            (setUpd (fun u => { u with size := fld msg 13 4, got := [], verified := false, state := 3 }) (emptyStaging s))))
      | _ => s
    else match fld msg 3 1 with
      | 0x15 => if fld msg 4 1 = 0 then takeData (msg.drop 5) s else setUpd (fun u => u) s
      | 0x16 => setUpd (fun u => u) s
      | 0x17 => setUpd (fun u => u) s
      | 0x18 => setUpd (fun u => u) s
      | _ => s)

/-- ActivateFirmware: completes once the image is staged, and activates nothing (R409). -/
def execPldmActivateFirmware (msg : List Byte) (s : State) : Res :=
  pldmRow 5 0x1A 1 (fun _ s => match s.mgm.upd with
    | none => ([0x80#8], s)
    | some u => if u.verified then ([0#8] ++ zeros 2, endUpd s) else ([0x85#8], setUpd (fun u => u) s)) msg s

/-- GetStatus. -/
def execGetStatus (msg : List Byte) (s : State) : Res :=
  pldmRow 5 0x1B 0 (fun _ s =>
    let pct := match s.mgm.upd with
      | none => 0x65
      | some u => if u.size = 0 then 0x65 else 100 * u.got.length / u.size
    ([0#8] ++ natLe 1 ((s.mgm.upd.map (·.state)).getD 0) ++ natLe 1 s.mgm.prevUpd ++
      (if s.mgm.upd = none then [3#8] else [0#8]) ++ [0#8] ++ natLe 1 pct ++ [0#8] ++ zeros 4, setUpd (fun u => u) s)) msg s

/-- CancelUpdate: the staging slot is left empty (R409). -/
def execCancelUpdate (msg : List Byte) (s : State) : Res :=
  pldmRow 5 0x1D 0 (fun _ s =>
    if s.mgm.upd = none then ([0x80#8], s) else ([0#8] ++ zeros 9, endUpd (emptyStaging s))) msg s

/-- PLDM_UPDATE_IDLE_TIMEOUT: an update idle for 60 s ends, and the staging slot is left empty (R409). -/
def execPldmUpdateIdleTimeout (s : State) : Res :=
  .next (match s.mgm.upd with
    | none => s
    | some u => if u.at_ + 60 * secUnits ≤ s.sq.time then endUpd (emptyStaging s) else s)

/-! ### SPDM and IDE_KM (R404; 14 R462) -/

/-- A host port's DOE mailbox is served: the Square firmware runs and the port's link is up. -/
def doeUp (s : State) (port : Nat) : Bool :=
  s.sq.powered && s.sq.vddIo && !s.sq.perst && !s.sq.thermtripN && decide (3 ≤ s.sq.stage) && s.sq.hostUp.getD port 0 != 0

/-- The SPDM error of a request. -/
def spdmError (code : Nat) (req : List Byte) : List Byte := [0x14#8, 0x7F#8] ++ natLe 1 code ++ natLe 1 (fld req 1 1)

/-- NEGOTIATE_ALGORITHMS offers the fixed ones: SHA-256, SLH-DSA-SHA2-128s, AES-256-GCM, ML-KEM-1024 (14 R462). -/
def algorithmsOk (req : List Byte) : Bool :=
  let tab := 32 + 4 * (fld req 28 1 + fld req 29 1)
  let has (type b : Nat) : Bool := (List.range (fld req 2 1)).any (fun i =>
    fld req (tab + 4 * i) 1 == type && bit (fld req (tab + 4 * i + 2) 2) b)
  bit (fld req 12 4) 0 && bit (fld req 16 4) 3 && has 3 1 && has 7 2

/-- A responder before any message. -/
def Spdm.fresh : Spdm := { agreed := false, transcript := [], session := none }

/-- The responder's state and answer after a request in the clear (14 R462). -/
def spdmStep (p : Spdm) (req : List Byte) : Spdm × List Byte :=
  let r := Config.spdmReply p.transcript req
  let on (p : Spdm) : Spdm := { p with transcript := p.transcript ++ req ++ r }
  match fld req 1 1 with
  | 0x84 => ({ Spdm.fresh with transcript := req ++ Config.spdmReply [] req }, Config.spdmReply [] req)
  | 0xE1 => (on p, r)
  | 0xE3 => if algorithmsOk req then (on { p with agreed := true }, r) else (p, spdmError 0x07 req)
  | 0x81 => (on p, r)
  | 0x82 => (on p, r)
  | 0x83 => (on p, r)
  | 0xE4 => if p.agreed then (on p, r) else (p, spdmError 0x04 req)
  | 0xE5 =>
    if p.agreed ∧ Config.spdmFinishOk p.transcript req then
      (on { p with session := some (Config.spdmSecret (p.transcript ++ req)) }, r)
    else (p, spdmError 0x04 req)
  | _ => (p, spdmError 0x07 req)

/-- SPDM_MESSAGE: a request on a port's DOE mailbox, inside the secured session where it opens under it; END_SESSION ends
the session (14 R462). -/
def execSpdmMessage (port : Nat) (msg : List Byte) (s : State) : Res :=
  .next (if !doeUp s port then s
    else
      let p := (tblGet s.mgm.spdm port).getD Spdm.fresh
      let inner := p.session.bind (fun k => (Config.spdmOpen k msg).map (fun m => (k, m)))
      match inner with
      | some (k, m) =>
        let ends := fld m 1 1 == 0xEC
        let r := if ends then Config.spdmReply p.transcript m else spdmError 0x07 m
        emit (.doe ⟨port, 0⟩ (Config.spdmSeal k r))
          { s with mgm.spdm := tblSet s.mgm.spdm port (if ends then Spdm.fresh else p) }
      | none =>
        let r := spdmStep p msg
        emit (.doe ⟨port, 0⟩ r.2) { s with mgm.spdm := tblSet s.mgm.spdm port r.1 })

/-- What an IDE_KM message does: KEY_PROG, K_SET_GO and K_SET_STOP of a stream; its answer (R404). -/
def ideKmStep (port : Nat) (m : List Byte) (s : State) : List Byte × State :=
  let stream := fld m 4 1
  let sub := fld m 6 1
  let k := port * 17 + stream
  let ack (obj st : Nat) : List Byte := [0#8] ++ natLe 1 obj ++ zeros 2 ++ natLe 1 stream ++ natLe 1 st ++ natLe 1 sub ++ natLe 1 port
  match fld m 1 1 with
  | 0x00 => ([0#8, 1#8] ++ Config.spdmReply [] m, s)
  | 0x02 =>
    if 16 < stream ∨ m.length < 48 then (ack 3 1, s)
    else (ack 3 0, { s with mgm.ideKeys := tblSet s.mgm.ideKeys (k * 256 + sub) (slice m 8 40) })
  | 0x04 =>
    if 16 < stream ∨ (tblGet s.mgm.ideKeys (k * 256 + sub)).isNone then (ack 6 1, s)
    else (ack 6 0, { s with mgm.ide := tblSet s.mgm.ide k true })
  | 0x05 =>
    if 16 < stream then (ack 6 1, s)
    else (ack 6 0, { s with mgm.ide := tblErase s.mgm.ide k
                            mgm.ideKeys := s.mgm.ideKeys.filter (fun p => p.1 / 256 != k) })
  | _ => (ack 7 1, s)

/-- IDE_KM: accepted only inside a secured session of the port (R404; 14 R462). -/
def execIdeKm (port : Nat) (msg : List Byte) (s : State) : Res :=
  .next (if !doeUp s port then s
    else match (tblGet s.mgm.spdm port).bind (·.session) with
      | none => s
      | some k => match Config.spdmOpen k msg with
        | none => s
        | some m =>
          let r := ideKmStep port m s
          emit (.doe ⟨port, 0⟩ (Config.spdmSeal k r.1)) r.2)

end Sys2Proof.Machine
end

