-- ==== Sys2Proof/Machine/Dispatch.lean ====
section
/-! DEFINITION. Dispatch: one arm per command of the table. -/

namespace Sys2Proof.Machine

/-- The effect of a command on everything but the queue. -/
def exec (i : Instr) (s : State) : Host.Outcome State Fault Refusal :=
  match i with
  | .deviceInfo q cid => Sys2Proof.Machine.execDeviceInfo q cid s
  | .createQueuePair q cid => Sys2Proof.Machine.execCreateQueuePair q cid s
  | .deleteQueuePair q cid => Sys2Proof.Machine.execDeleteQueuePair q cid s
  | .setRing q cid => Sys2Proof.Machine.execSetRing q cid s
  | .abort q cid => Sys2Proof.Machine.execAbort q cid s
  | .setFunctionMode q cid => Sys2Proof.Machine.execSetFunctionMode q cid s
  | .createCourt q cid whole => Sys2Proof.Machine.execCreateCourt q cid whole s
  | .destroyCourt q cid whole => Sys2Proof.Machine.execDestroyCourt q cid whole s
  | .resetCourt q cid whole => Sys2Proof.Machine.execResetCourt q cid whole s
  | .resizeCourt q cid whole => Sys2Proof.Machine.execResizeCourt q cid whole s
  | .loadPackage q cid image => Sys2Proof.Machine.execLoadPackage q cid image s
  | .unloadPackage q cid => Sys2Proof.Machine.execUnloadPackage q cid s
  | .run q cid => Sys2Proof.Machine.execRun q cid s
  | .setSemaphore q cid => Sys2Proof.Machine.execSetSemaphore q cid s
  | .dmaWrite q cid data mem => Sys2Proof.Machine.execDmaWrite q cid data mem s
  | .dmaRead q cid len mem => Sys2Proof.Machine.execDmaRead q cid len mem s
  | .loadBase q cid image whole => Sys2Proof.Machine.execLoadBase q cid image whole s
  | .evictBase q cid => Sys2Proof.Machine.execEvictBase q cid s
  | .pinBase q cid => Sys2Proof.Machine.execPinBase q cid s
  | .replaceBase q cid image whole => Sys2Proof.Machine.execReplaceBase q cid image whole s
  | .registerAdapter q cid image whole => Sys2Proof.Machine.execRegisterAdapter q cid image whole s
  | .replace q cid image => Sys2Proof.Machine.execReplace q cid image s
  | .retireAdapter q cid => Sys2Proof.Machine.execRetireAdapter q cid s
  | .pinContract q cid image => Sys2Proof.Machine.execPinContract q cid image s
  | .releaseContract q cid => Sys2Proof.Machine.execReleaseContract q cid s
  | .claimSlot q cid => Sys2Proof.Machine.execClaimSlot q cid s
  | .rebindAdapter q cid image => Sys2Proof.Machine.execRebindAdapter q cid image s
  | .queryAdapter q cid => Sys2Proof.Machine.execQueryAdapter q cid s
  | .serve q cid prompt => Sys2Proof.Machine.execServe q cid prompt s
  | .setStreamRing q cid => Sys2Proof.Machine.execSetStreamRing q cid s
  | .park q cid => Sys2Proof.Machine.execPark q cid s
  | .resume q cid => Sys2Proof.Machine.execResume q cid s
  | .step q cid => Sys2Proof.Machine.execStep q cid s
  | .checkpoint q cid mem whole => Sys2Proof.Machine.execCheckpoint q cid mem whole s
  | .restore q cid image whole => Sys2Proof.Machine.execRestore q cid image whole s
  | .distilJobOpen q cid => Sys2Proof.Machine.execDistilJobOpen q cid s
  | .distilJobEnd q cid => Sys2Proof.Machine.execDistilJobEnd q cid s
  | .distilStep q cid => Sys2Proof.Machine.execDistilStep q cid s
  | .formGroup q cid => Sys2Proof.Machine.execFormGroup q cid s
  | .dissolveGroup q cid => Sys2Proof.Machine.execDissolveGroup q cid s
  | .groupStatus q cid => Sys2Proof.Machine.execGroupStatus q cid s
  | .setTimetable q cid => Sys2Proof.Machine.execSetTimetable q cid s
  | .migrate q cid => Sys2Proof.Machine.execMigrate q cid s
  | .setMapoutReserve q cid => Sys2Proof.Machine.execSetMapoutReserve q cid s
  | .attest q cid => Sys2Proof.Machine.execAttest q cid s
  | .getCourtKey q cid => Sys2Proof.Machine.execGetCourtKey q cid s
  | .installWrappedKeyInstall q cid => Sys2Proof.Machine.execInstallWrappedKeyInstall q cid s
  | .installWrappedKeyRemove q cid => Sys2Proof.Machine.execInstallWrappedKeyRemove q cid s
  | .registerSignerAdd q cid => Sys2Proof.Machine.execRegisterSignerAdd q cid s
  | .registerSignerRemove q cid => Sys2Proof.Machine.execRegisterSignerRemove q cid s
  | .zeroiseCourt q cid whole => Sys2Proof.Machine.execZeroiseCourt q cid whole s
  | .stageFirmware q cid image whole => Sys2Proof.Machine.execStageFirmware q cid image whole s
  | .activateFirmwareHot q cid => Sys2Proof.Machine.execActivateFirmwareHot q cid s
  | .activateFirmwareWarm q cid finds => Sys2Proof.Machine.execActivateFirmwareWarm q cid finds s
  | .handover q cid => Sys2Proof.Machine.execHandover q cid s
  | .handoverQuery q cid => Sys2Proof.Machine.execHandoverQuery q cid s
  | .clearRepairList q cid => Sys2Proof.Machine.execClearRepairList q cid s
  | .runRoadworks q cid => Sys2Proof.Machine.execRunRoadworks q cid s
  | .readCounters q cid => Sys2Proof.Machine.execReadCounters q cid s
  | .readSensors q cid => Sys2Proof.Machine.execReadSensors q cid s
  | .readSurvey q cid => Sys2Proof.Machine.execReadSurvey q cid s
  | .assistReply q cid data => Sys2Proof.Machine.execAssistReply q cid data s
  | .invalidOpcodeCommand q cid => Sys2Proof.Machine.execInvalidOpcodeCommand q cid s
  | .sqTailWrite via q wr => Sys2Proof.Machine.execSqTailWrite via q wr s
  | .cqHeadWrite via q wr => Sys2Proof.Machine.execCqHeadWrite via q wr s
  | .assistHeadWrite via owner wr => Sys2Proof.Machine.execAssistHeadWrite via owner wr s
  | .eventHeadWrite via owner wr => Sys2Proof.Machine.execEventHeadWrite via owner wr s
  | .q0Enable via value => Sys2Proof.Machine.execQ0Enable via value s
  | .q0Disable via value => Sys2Proof.Machine.execQ0Disable via value s
  | .q0IrqConfig via value => Sys2Proof.Machine.execQ0IrqConfig via value s
  | .controlWindowWrite via off width value => Sys2Proof.Machine.execControlWindowWrite via off width value s
  | .msixUnmask via vector => Sys2Proof.Machine.execMsixUnmask via vector s
  | .commandFetch q entry pb => Sys2Proof.Machine.execCommandFetch q entry pb s
  | .coalesceTimerExpiry q => Sys2Proof.Machine.execCoalesceTimerExpiry q s
  | .deadlineExpiry q cid => Sys2Proof.Machine.execDeadlineExpiry q cid s
  | .assistDeadlineExpiry row id => Sys2Proof.Machine.execAssistDeadlineExpiry row id s
  | .gemm w mem => Sys2Proof.Machine.execGemm w mem s
  | .groupedLowrank w mem => Sys2Proof.Machine.execGroupedLowrank w mem s
  | .attention w mem => Sys2Proof.Machine.execAttention w mem s
  | .norm w mem => Sys2Proof.Machine.execNorm w mem s
  | .elementwiseAdd w mem => Sys2Proof.Machine.execElementwiseAdd w mem s
  | .elementwiseMul w mem => Sys2Proof.Machine.execElementwiseMul w mem s
  | .elementwiseAxpy w mem => Sys2Proof.Machine.execElementwiseAxpy w mem s
  | .elementwiseSilu w mem => Sys2Proof.Machine.execElementwiseSilu w mem s
  | .elementwiseSwiglu w mem => Sys2Proof.Machine.execElementwiseSwiglu w mem s
  | .elementwiseRelu w mem => Sys2Proof.Machine.execElementwiseRelu w mem s
  | .elementwiseConvert w mem => Sys2Proof.Machine.execElementwiseConvert w mem s
  | .elementwiseWadd w mem => Sys2Proof.Machine.execElementwiseWadd w mem s
  | .elementwisePassFold w mem => Sys2Proof.Machine.execElementwisePassFold w mem s
  | .elementwiseWfin w mem => Sys2Proof.Machine.execElementwiseWfin w mem s
  | .copyPlain w mem => Sys2Proof.Machine.execCopyPlain w mem s
  | .copySkew w mem => Sys2Proof.Machine.execCopySkew w mem s
  | .copyGather w mem => Sys2Proof.Machine.execCopyGather w mem s
  | .copyRemote w mem => Sys2Proof.Machine.execCopyRemote w mem s
  | .reduceSendLayer w mem => Sys2Proof.Machine.execReduceSendLayer w mem s
  | .reduceSendTile w mem => Sys2Proof.Machine.execReduceSendTile w mem s
  | .update w mem => Sys2Proof.Machine.execUpdate w mem s
  | .viaductPairPass1 w mem => Sys2Proof.Machine.execViaductPairPass1 w mem s
  | .viaductPairPass2 w mem => Sys2Proof.Machine.execViaductPairPass2 w mem s
  | .semAcquire w => Sys2Proof.Machine.execSemAcquire w s
  | .semRelease w => Sys2Proof.Machine.execSemRelease w s
  | .semAdd w => Sys2Proof.Machine.execSemAdd w s
  | .fence w => Sys2Proof.Machine.execFence w s
  | .nop w => Sys2Proof.Machine.execNop w s
  | .workOrderRetire w => Sys2Proof.Machine.execWorkOrderRetire w s
  | .semHoldLimit w => Sys2Proof.Machine.execSemHoldLimit w s
  | .viaductHoldLimit w => Sys2Proof.Machine.execViaductHoldLimit w s
  | .sliceExpiry w => Sys2Proof.Machine.execSliceExpiry w s
  | .contextSaveComplete w mem => Sys2Proof.Machine.execContextSaveComplete w mem s
  | .timetableCycle => Sys2Proof.Machine.execTimetableCycle s
  | .slotLeadStart court slot => Sys2Proof.Machine.execSlotLeadStart court slot s
  | .slotStart court slot => Sys2Proof.Machine.execSlotStart court slot s
  | .slotEnd court slot => Sys2Proof.Machine.execSlotEnd court slot s
  | .stepBoundary batch heads => Sys2Proof.Machine.execStepBoundary batch heads s
  | .servingStepRetire batch mem => Sys2Proof.Machine.execServingStepRetire batch mem s
  | .parkCopyComplete seq mem => Sys2Proof.Machine.execParkCopyComplete seq mem s
  | .returnCopyComplete seq image => Sys2Proof.Machine.execReturnCopyComplete seq image s
  | .parkTtlExpiry seq => Sys2Proof.Machine.execParkTtlExpiry seq s
  | .adapterColdFetch handle version image => Sys2Proof.Machine.execAdapterColdFetch handle version image s
  | .baseReload slot image => Sys2Proof.Machine.execBaseReload slot image s
  | .contractEnd handle => Sys2Proof.Machine.execContractEnd handle s
  | .stepOpen court group => Sys2Proof.Machine.execStepOpen court group s
  | .ueEnd j word => Sys2Proof.Machine.execUeEnd j word s
  | .ueMov j word => Sys2Proof.Machine.execUeMov j word s
  | .ueAdd j word => Sys2Proof.Machine.execUeAdd j word s
  | .ueSub j word => Sys2Proof.Machine.execUeSub j word s
  | .ueMul j word => Sys2Proof.Machine.execUeMul j word s
  | .ueMadd j word => Sys2Proof.Machine.execUeMadd j word s
  | .ueDiv j word => Sys2Proof.Machine.execUeDiv j word s
  | .ueSqrt j word => Sys2Proof.Machine.execUeSqrt j word s
  | .ueMax j word => Sys2Proof.Machine.execUeMax j word s
  | .ueMin j word => Sys2Proof.Machine.execUeMin j word s
  | .ueAbs j word => Sys2Proof.Machine.execUeAbs j word s
  | .ueSign j word => Sys2Proof.Machine.execUeSign j word s
  | .ueSel j word => Sys2Proof.Machine.execUeSel j word s
  | .voteCast court group => Sys2Proof.Machine.execVoteCast court group s
  | .progressTimeout court group => Sys2Proof.Machine.execProgressTimeout court group s
  | .reduceFrame => Sys2Proof.Machine.execReduceFrame s
  | .resultFrame mem => Sys2Proof.Machine.execResultFrame mem s
  | .broadcastFrame => Sys2Proof.Machine.execBroadcastFrame s
  | .voteFrame => Sys2Proof.Machine.execVoteFrame s
  | .outcomeFrame => Sys2Proof.Machine.execOutcomeFrame s
  | .repairFrame => Sys2Proof.Machine.execRepairFrame s
  | .formFrame => Sys2Proof.Machine.execFormFrame s
  | .leaveFrame => Sys2Proof.Machine.execLeaveFrame s
  | .avenueTraining av look => Sys2Proof.Machine.execAvenueTraining av look s
  | .avenueTrainRetry av look => Sys2Proof.Machine.execAvenueTrainRetry av look s
  | .avenueHello av msg => Sys2Proof.Machine.execAvenueHello av msg s
  | .avenueKeyResponse av msg => Sys2Proof.Machine.execAvenueKeyResponse av msg s
  | .avenueKeyConfirm av msg => Sys2Proof.Machine.execAvenueKeyConfirm av msg s
  | .avenueAuthRetry av => Sys2Proof.Machine.execAvenueAuthRetry av s
  | .dataFlit av flit fec => Sys2Proof.Machine.execDataFlit av flit fec s
  | .idleFlit av flit fec => Sys2Proof.Machine.execIdleFlit av flit fec s
  | .nak av flit fec => Sys2Proof.Machine.execNak av flit fec s
  | .laneSwap av flit fec => Sys2Proof.Machine.execLaneSwap av flit fec s
  | .width av flit fec => Sys2Proof.Machine.execWidth av flit fec s
  | .retrain av flit fec => Sys2Proof.Machine.execRetrain av flit fec s
  | .replayTimeout av => Sys2Proof.Machine.execReplayTimeout av s
  | .avenueKeyRollover av tx => Sys2Proof.Machine.execAvenueKeyRollover av tx s
  | .laneFailure av lane => Sys2Proof.Machine.execLaneFailure av lane s
  | .put => Sys2Proof.Machine.execPut s
  | .get mem => Sys2Proof.Machine.execGet mem s
  | .data => Sys2Proof.Machine.execData s
  | .done => Sys2Proof.Machine.execDone s
  | .forwarded => Sys2Proof.Machine.execForwarded s
  | .notice => Sys2Proof.Machine.execNotice s
  | .lastInEpoch => Sys2Proof.Machine.execLastInEpoch s
  | .adopt => Sys2Proof.Machine.execAdopt s
  | .timer => Sys2Proof.Machine.execTimer s
  | .unreachable => Sys2Proof.Machine.execUnreachable s
  | .partnerRetry token => Sys2Proof.Machine.execPartnerRetry token s
  | .partnerRangeExpiry court n => Sys2Proof.Machine.execPartnerRangeExpiry court n s
  | .functionLevelReset f => Sys2Proof.Machine.execFunctionLevelReset f s
  | .busMasterEnableClear f => Sys2Proof.Machine.execBusMasterEnableClear f s
  | .busMasterEnableSet f => Sys2Proof.Machine.execBusMasterEnableSet f s
  | .d3hotEntry f => Sys2Proof.Machine.execD3hotEntry f s
  | .d0Return f => Sys2Proof.Machine.execD0Return f s
  | .hostLinkDown port => Sys2Proof.Machine.execHostLinkDown port s
  | .hostLinkTrain port full => Sys2Proof.Machine.execHostLinkTrain port full s
  | .vfEnableChange port vfs => Sys2Proof.Machine.execVfEnableChange port vfs s
  | .hostReadFault q what => Sys2Proof.Machine.execHostReadFault q what s
  | .hostReadTimeout q what => Sys2Proof.Machine.execHostReadTimeout q what s
  | .ideStreamFail f => Sys2Proof.Machine.execIdeStreamFail f s
  | .spdmMessage port msg => Sys2Proof.Machine.execSpdmMessage port msg s
  | .ideKm port msg => Sys2Proof.Machine.execIdeKm port msg s
  | .i3cEntdaa addr => Sys2Proof.Machine.execI3cEntdaa addr s
  | .i3cSetdasa static addr => Sys2Proof.Machine.execI3cSetdasa static addr s
  | .i3cCcc code data => Sys2Proof.Machine.execI3cCcc code data s
  | .setEndpointId msg => Sys2Proof.Machine.execSetEndpointId msg s
  | .mctpControlMessage msg => Sys2Proof.Machine.execMctpControlMessage msg s
  | .mctpUnsupportedType msg => Sys2Proof.Machine.execMctpUnsupportedType msg s
  | .getTid msg => Sys2Proof.Machine.execGetTid msg s
  | .setTid msg => Sys2Proof.Machine.execSetTid msg s
  | .getPldmVersion msg => Sys2Proof.Machine.execGetPldmVersion msg s
  | .getPldmTypes msg => Sys2Proof.Machine.execGetPldmTypes msg s
  | .getPldmCommands msg => Sys2Proof.Machine.execGetPldmCommands msg s
  | .getPdrRepositoryInfo msg => Sys2Proof.Machine.execGetPdrRepositoryInfo msg s
  | .getPdr msg => Sys2Proof.Machine.execGetPdr msg s
  | .getSensorReading msg => Sys2Proof.Machine.execGetSensorReading msg s
  | .getStateSensorReadings msg => Sys2Proof.Machine.execGetStateSensorReadings msg s
  | .setEventReceiver msg => Sys2Proof.Machine.execSetEventReceiver msg s
  | .getFruRecordTableMetadata msg => Sys2Proof.Machine.execGetFruRecordTableMetadata msg s
  | .getFruRecordTable msg => Sys2Proof.Machine.execGetFruRecordTable msg s
  | .requestUpdate msg => Sys2Proof.Machine.execRequestUpdate msg s
  | .pldmFirmwareTransfer msg => Sys2Proof.Machine.execPldmFirmwareTransfer msg s
  | .pldmActivateFirmware msg => Sys2Proof.Machine.execPldmActivateFirmware msg s
  | .getStatus msg => Sys2Proof.Machine.execGetStatus msg s
  | .cancelUpdate msg => Sys2Proof.Machine.execCancelUpdate msg s
  | .pldmUnsupportedCmd msg => Sys2Proof.Machine.execPldmUnsupportedCmd msg s
  | .pldmUpdateIdleTimeout => Sys2Proof.Machine.execPldmUpdateIdleTimeout s
  | .sensorRefresh reads => Sys2Proof.Machine.execSensorRefresh reads s
  | .statusSample => Sys2Proof.Machine.execStatusSample s
  | .squareHeartbeat => Sys2Proof.Machine.execSquareHeartbeat s
  | .squareTimeSync => Sys2Proof.Machine.execSquareTimeSync s
  | .squareTakeover drift check => Sys2Proof.Machine.execSquareTakeover drift check s
  | .standbyResyncComplete => Sys2Proof.Machine.execStandbyResyncComplete s
  | .firmwareCommit => Sys2Proof.Machine.execFirmwareCommit s
  | .scrubRead line found => Sys2Proof.Machine.execScrubRead line found s
  | .ecsCounterRead slot value => Sys2Proof.Machine.execEcsCounterRead slot value s
  | .errorBucketRoll => Sys2Proof.Machine.execErrorBucketRoll s
  | .channelMapout => Sys2Proof.Machine.execChannelMapout s
  | .mapoutDone => Sys2Proof.Machine.execMapoutDone s
  | .channelHardFail slot => Sys2Proof.Machine.execChannelHardFail slot s
  | .refclkSwitch die ppm => Sys2Proof.Machine.execRefclkSwitch die ppm s
  | .refclkBothLost die ppm => Sys2Proof.Machine.execRefclkBothLost die ppm s
  | .junctionRefLost die ppm => Sys2Proof.Machine.execJunctionRefLost die ppm s
  | .pllUnlock die => Sys2Proof.Machine.execPllUnlock die s
  | .dieLinkLaneRepair => Sys2Proof.Machine.execDieLinkLaneRepair s
  | .surveyMeasure die meas => Sys2Proof.Machine.execSurveyMeasure die meas s
  | .avsRailConfirm die read meas => Sys2Proof.Machine.execAvsRailConfirm die read meas s
  | .spareSwap block meas => Sys2Proof.Machine.execSpareSwap block meas s
  | .roadworksDecision die look => Sys2Proof.Machine.execRoadworksDecision die look s
  | .sliceComplete block result rows meas => Sys2Proof.Machine.execSliceComplete block result rows meas s
  | .sliceAbandon block => Sys2Proof.Machine.execSliceAbandon block s
  | .visitLapsed block => Sys2Proof.Machine.execVisitLapsed block s
  | .blockFault block check => Sys2Proof.Machine.execBlockFault block check s
  | .blockWatchdogTrip block => Sys2Proof.Machine.execBlockWatchdogTrip block s
  | .availabilityHourlyWrite => Sys2Proof.Machine.execAvailabilityHourlyWrite s
  | .glitchTrip die => Sys2Proof.Machine.execGlitchTrip die s
  | .powerMeasure mw => Sys2Proof.Machine.execPowerMeasure mw s
  | .pwrbrkAssert => Sys2Proof.Machine.execPwrbrkAssert s
  | .pwrbrkDeassert => Sys2Proof.Machine.execPwrbrkDeassert s
  | .thermalTrip die => Sys2Proof.Machine.execThermalTrip die s
  | .powerOn => Sys2Proof.Machine.execPowerOn s
  | .powerLoss => Sys2Proof.Machine.execPowerLoss s
  | .vddIoLoss => Sys2Proof.Machine.execVddIoLoss s
  | .perstAssert => Sys2Proof.Machine.execPerstAssert s
  | .perstDeassert straps finds => Sys2Proof.Machine.execPerstDeassert straps finds s
  | .bootFabricTimeout => Sys2Proof.Machine.execBootFabricTimeout s
  | .tapBypass => Sys2Proof.Machine.execTapBypass s
  | .tapIdcode => Sys2Proof.Machine.execTapIdcode s
  | .tapSamplePreload pins shift => Sys2Proof.Machine.execTapSamplePreload pins shift s
  | .tapExtest pins shift => Sys2Proof.Machine.execTapExtest pins shift s
  | .tapClamp => Sys2Proof.Machine.execTapClamp s
  | .tapHighz => Sys2Proof.Machine.execTapHighz s
  | .tapPrivate ir => Sys2Proof.Machine.execTapPrivate ir s
  | .fatalDieFault die => Sys2Proof.Machine.execFatalDieFault die s
  | .standbySquareFailure => Sys2Proof.Machine.execStandbySquareFailure s
  | .clockGlideComplete die meas => Sys2Proof.Machine.execClockGlideComplete die meas s
  | .neighbourReset av => Sys2Proof.Machine.execNeighbourReset av s

end Sys2Proof.Machine
end

