-- ==== Sys2Proof/Machine/Idle.lean ====
section
/-! DEFINITION. What the device does while no command waits: the active Square counts Square time
(spec/00_scope.md R14; spec/01_device_organisation.md R40). -/

namespace Sys2Proof.Machine

/-- A Square counts: the rails are in regulation, PERST_N is high, boot has begun, and no thermal trip holds the dies in
reset (16 R504, R520). -/
def squareRuns (s : State) : Bool :=
  s.sq.powered && s.sq.vddIo && !s.sq.perst && !s.sq.thermtripN && decide (0 < s.sq.stage)

/-- One unit of 10 ns passes: Square time counts on where a Square runs. -/
def idle (s : State) : State := if squareRuns s then { s with sq.time := (s.sq.time + 1) % 2 ^ 64 } else s

end Sys2Proof.Machine
end

