-- ==== Sys2Proof/Safety.lean ====
section
/-! DEFINITION. What claims about the device are stated in: a run that stops nowhere, and a queue command that
is due. -/

namespace Sys2Proof.Machine

/-- The row answers a next state. -/
def Answers (o : Host.Outcome State Fault Refusal) : Prop := ∃ t, o = .next t

/-- `k` steps from `s` meet neither a fault nor a refusal. -/
def Safe (k : Nat) (s : State) : Prop := ∃ t, Host.Core.run Sys2Proof.core k s = .next t

/-- The command `c` stands on its queue under opcode `op`, is the next of its queue to start, and meets no check that
ends it at its start: its layout has `lay` bytes and the reserved byte ranges `rsv` (06 R184, R185, R189, R192, R206,
R207; 12 R402, R404). -/
abbrev Due (op lay : Nat) (rsv : List (Nat × Nat)) (q : QId) (cid : Nat) (c : Cmd) (s : State) : Prop :=
  findCmd s q cid = some c ∧ s.sq.ready = true ∧ s.sq.takeover = false ∧ c.opcode = op ∧ c.started = false ∧
  canStart s c = true ∧ startCheck s c lay rsv = none ∧ hostWaits s c = false ∧ (usesHost c && ideEnded s c.via) = false

/-- The command as it stands once it has started, bound to its owner's transport key (06 R189; 14 R451). -/
def began (s : State) (c : Cmd) : Cmd := { c with started := true, kt := curKey s c.q.owner }

/-- The state in which a due command acts: it alone has started. -/
def begun (q : QId) (cid : Nat) (s : State) : State :=
  match findCmd s q cid with
  | none => s
  | some c => modCmd q cid (fun d => { d with started := true, kt := curKey s c.q.owner }) s

/-- A command retires with an outcome whose reply data goes to its reply buffer: its layout has `lay` bytes. -/
def completes (lay : Nat) (c : Cmd) (f : CmdEnd) (s : State) : State :=
  let p := writeReply c (lay - 16) f s
  retire c p.1 p.2

/-- Every queue pair and every ring holds each of its positions below its depth (06 R179, R180). -/
def positionsOk (s : State) : Prop :=
  (∀ p ∈ s.cmd.queues, p.2.sqTail < p.2.sqDepth ∧ p.2.sqHead < p.2.sqDepth ∧ p.2.cqHead < p.2.cqDepth ∧ p.2.cqWr < p.2.cqDepth) ∧
  (∀ p ∈ s.cmd.eventRings, p.2.head < p.2.depth ∧ p.2.wr < p.2.depth) ∧
  (∀ p ∈ s.cmd.assistRings, p.2.head < p.2.depth ∧ p.2.wr < p.2.depth)

end Sys2Proof.Machine
end

