-- ==== Sys2Proof/Certificates/Slice0/Obligations.lean ====
section
/-! DEFINITION. The statements for the provers. A host command is stated from the state in which it is `Due`: it then
retires with the outcome given (`completes`), on the state in which it alone has started (`begun`, `began`). -/

open Sys2Proof Sys2Proof.Machine

/-! ### The block as a whole -/

/-- One step runs the command at the front of the queue on the state with the queue's rest; with none waiting, a unit of
Square time passes where a Square runs. -/
def Obligations.StepRunsFront : Prop :=
  (∀ (c : Instr) (rest : List Instr) (s : State), s.pending = c :: rest → step s = exec c { s with pending := rest }) ∧
  (∀ s : State, s.pending = [] → squareRuns s = true → step s = .next { s with sq.time := (s.sq.time + 1) % 2 ^ 64 }) ∧
  (∀ s : State, s.pending = [] → squareRuns s = false → step s = .next s)

/-- Every command answers a next state in every state, but for a memory event that names an address or a channel slot
which the device does not have: that one stops with noSuchAddress. -/
def Obligations.EveryRowAnswers : Prop :=
  ∀ (i : Instr) (s : State),
    (∃ t, exec i s = .next t) ∨
    (exec i s = .fault .noSuchAddress ∧
      ((∃ line found, i = .scrubRead line found ∧ 1152 * 2 ^ 30 ≤ line) ∨
       (∃ slot value, i = .ecsCounterRead slot value ∧ 384 ≤ slot) ∨
       (∃ slot, i = .channelHardFail slot ∧ 384 ≤ slot)))

/-- What reset leaves where the spec gives the value: DEV_STATUS all zero, Square time 0, no Court, no epoch counted, the
function mode table zero, MAPOUT_RESERVE 3, the Timetable cycle at 1 ms, PERST# low. -/
def Obligations.ResetState : Prop :=
  State.reset.sq.ready = false ∧ State.reset.sq.active = 0 ∧ State.reset.sq.takeover = false ∧
  State.reset.sq.fatal = false ∧ State.reset.sq.stage = 0 ∧ State.reset.sq.time = 0 ∧
  (∀ n, courtOf State.reset n = none ∧ tblGetD State.reset.sec.epochs n 0 = 0 ∧
    (∀ f, modeBit State.reset n f = false)) ∧
  State.reset.mem.reserve = 3 ∧ State.reset.tt.cycle = 100000 ∧
  (∀ n, tblGet State.reset.blocks n = none) ∧ State.reset.pending = []

/-- At reset memory has its canonical form, and every queue and ring holds its positions below its depth. -/
def Obligations.ResetInvariants : Prop := Memory.wf (some 0#8) State.reset.mem.hbm = true ∧ positionsOk State.reset

/-- Every step keeps memory in its canonical form. -/
def Obligations.StepKeepsMemoryCanonical : Prop :=
  ∀ s t : State, Memory.wf (some 0#8) s.mem.hbm = true → step s = .next t → Memory.wf (some 0#8) t.mem.hbm = true

/-- Retiring a command posts its completion, or the record of a queue pair being deleted, and touches nothing else:
memory, Blocks, Courts, packages, runs, the Gazetteer, groups, Avenues, partner stores, serving and ageing stand. -/
def Obligations.RetireFrame : Prop :=
  ∀ (c : Cmd) (f : CmdEnd) (s : State),
    (retire c f s).mem = s.mem ∧ (retire c f s).blocks = s.blocks ∧ (retire c f s).courts = s.courts ∧
    (retire c f s).pkgs = s.pkgs ∧ (retire c f s).runs = s.runs ∧ (retire c f s).gaz = s.gaz ∧
    (retire c f s).grps = s.grps ∧ (retire c f s).avs = s.avs ∧ (retire c f s).part = s.part ∧
    (retire c f s).srv = s.srv ∧ (retire c f s).age = s.age ∧ (retire c f s).sq = s.sq ∧
    (retire c f s).cmd.cmds = s.cmd.cmds.filter (fun d => !(d.q == c.q && d.cid == c.cid)) ∧
    tblGetD (retire c f s).cmd.retireSeq (seqOwner s c) 0 = nextSeq s (seqOwner s c)

/-! ### Queues, doorbells and the control window -/

/-- DEVICE_INFO, READ_SENSORS, GET_COURT_KEY and READ_SURVEY retire with SUCCESS and their reply: the counts, the sensor
samples, the Court's epoch and encapsulation key, the survey. A command whose opcode the table lacks completes with INVALID_OPCODE, or COURT_NOT_READY where its Court is not
ready. READ_COUNTERS: SCOPE 0 replies with the Court's saturation and non-finite counts and the time, SCOPE 2 with its slot counts and
the time; SCOPE 3 with the four throttle counts and the time of the sample on the admin queue, and elsewhere it fails with
NOT_PERMITTED. -/
def Obligations.ReplyCommands : Prop :=
  (∀ (q : QId) (cid : Nat) (c : Cmd) (s : State),
     (Due opDeviceInfo 16 [(12, 4)] q cid c s → exec (.deviceInfo q cid) s =
       .next (completes 16 c (finReply (deviceInfoBytes s)) (begun q cid s))) ∧
     (Due opReadSensors 16 [(12, 4)] q cid c s → exec (.readSensors q cid) s =
       .next (completes 16 c (finReply (sensorsBytes s)) (begun q cid s))) ∧
     (∀ k : CourtKeys, Due opGetCourtKey 16 [(12, 4)] q cid c s → tblGet s.sec.courts q.owner = some k → exec (.getCourtKey q cid) s =
       .next (completes 16 c
         (finReply (natLe 4 (tblGetD s.sec.epochs q.owner 0) ++ natLe 2 1 ++ zeros 2 ++ padTo 1568 k.kemEk)) (begun q cid s))) ∧
     (Due opReadSurvey 16 [(12, 4)] q cid c s → exec (.readSurvey q cid) s =
       .next (completes 16 c (finReply (surveyBytes (begun q cid s)))
         { begun q cid s with free := s.free + 16 }))) ∧
  (∀ (q : QId) (cid : Nat) (c : Cmd) (s : State), findCmd s q cid = some c → opRow c.opcode = none →
     s.sq.ready = true → canStart s c = true → exec (.invalidOpcodeCommand q cid) s =
       .next (retire c (finSt (if ownerReady s q.owner then 0x1001 else 0x3001)) s)) ∧
  (∀ (q : QId) (cid : Nat) (c : Cmd) (s : State), Due opReadCounters 24 [(2, 6)] q cid c s →
     (∀ k, q.owner < 16 → fld c.pb 0 1 = 0 → courtOf s q.owner = some k → k.state = .ready →
       exec (.readCounters q cid) s = .next (completes 24 c
         (finReply (natLe 8 k.satCount ++ natLe 8 k.nonfinCount ++ natLe 8 s.sq.time)) (begun q cid s))) ∧
     (∀ k, q.owner < 16 → fld c.pb 0 1 = 2 → courtOf s q.owner = some k → k.state = .ready →
       exec (.readCounters q cid) s = .next (completes 24 c
         (finReply (natLe 8 k.slotLate ++ natLe 8 k.slotOverrun ++ natLe 8 k.slotShort ++ natLe 8 s.sq.time)) (begun q cid s))) ∧
     (∀ a b d e, q.owner = 16 → fld c.pb 0 1 = 3 → s.smp.throttle = [a, b, d, e] →
       exec (.readCounters q cid) s = .next (completes 24 c
         (finReply (natLe 8 a ++ natLe 8 b ++ natLe 8 d ++ natLe 8 e ++ natLe 8 s.smp.at_)) (begun q cid s))) ∧
     (q.owner ≠ 16 → fld c.pb 0 1 = 3 → exec (.readCounters q cid) s =
       .next (completes 24 c (finSt 0x2001) (begun q cid s))))

/-- CREATE_QUEUE_PAIR on a Court queue makes an empty queue pair of the issuing Court on the issuing function; SET_RING
replaces the owner's ring on the issuing port; SET_FUNCTION_MODE writes a row's modes and deadlines, MARGIN in the operator's row
only. -/
def Obligations.QueueSetUp : Prop :=
  ∀ (q : QId) (cid : Nat) (c : Cmd) (s : State),
    (Due opCreateQueuePair 32 [(29, 3)] q cid c s → q.owner ≠ 16 → createQpOk c.pb = true →
      queueOf s ⟨q.owner, fld c.pb 0 1⟩ = none → exec (.createQueuePair q cid) s =
      .next (completes 32 c (finSt stSuccess)
        { begun q cid s with
          cmd.queues := tblSet s.cmd.queues (q.owner * 64 + fld c.pb 0 1)
            (newQueue c.via (fld c.pb 2 2 + 1) (fld c.pb 4 2 + 1) (fld c.pb 8 8) (fld c.pb 16 8) (bit (fld c.pb 1 1) 0)
              (fld c.pb 6 2) (fld c.pb 24 2) (fld c.pb 26 2)) })) ∧
    (Due opSetRing 32 [(1, 1), (6, 2)] q cid c s → setRingOk c.pb = true → fld c.pb 0 1 = 0 →
      tblGet s.cmd.eventRings (ringKey c.via.port q.owner) = none → exec (.setRing q cid) s =
      .next (completes 32 c (finSt stSuccess)
        { begun q cid s with
          cmd.eventRings := tblSet s.cmd.eventRings (ringKey c.via.port q.owner)
            ⟨c.via, fld c.pb 8 8, fld c.pb 2 2 + 1, fld c.pb 4 2, 0, 0, true, 0, 0, []⟩ })) ∧
    (Due opSetFunctionMode 24 [(1, 1)] q cid c s → fld c.pb 0 1 ≤ 16 → fld c.pb 2 2 < 1024 →
      (modeDeadlinesOf c.pb).all (fun d => decide (d ≤ 60000)) = true → exec (.setFunctionMode q cid) s =
      .next (completes 24 c (finSt stSuccess)
        { begun q cid s with
          cmd.modes := tblSet s.cmd.modes (fld c.pb 0 1) (if fld c.pb 0 1 = 16 then fld c.pb 2 2 else fld c.pb 2 2 &&& 0x2FF)
          cmd.modeDeadlines := tblSet s.cmd.modeDeadlines (fld c.pb 0 1) (modeDeadlinesOf c.pb) }))

/-- The device acts on a doorbell only when it is one aligned 32-bit write of an index below the depth, and for a head
index in the range that runs from the head to the write position: then it takes the index; a head releases slots, and what
was held goes out. A doorbell write of another width or alignment, with bits above 15, or with an index not below the depth changes no
queue position: it adds one to the function's DOORBELL_FAULT count; a write to a page that is not live does nothing. -/
def Obligations.Doorbells : Prop :=
  (∀ (via : FnId) (q : QId) (n : Nat) (s : State),
     let w : DoorbellWrite := ⟨4, true, n⟩
     (∀ t : Queue, pageLive s via q.owner = true → queueOf s q = some t → t.via = via → n < 65536 → n < t.sqDepth →
       exec (.sqTailWrite via q w) s = .next (modQueue q (fun t => { t with sqTail := n }) s)) ∧
     (∀ t : Queue, pageLive s via q.owner = true → queueOf s q = some t → t.via = via → n < 65536 → n < t.cqDepth →
       ringUsed t.cqDepth t.cqHead n ≤ ringUsed t.cqDepth t.cqHead t.cqWr →
       exec (.cqHeadWrite via q w) s = .next (drainAll (modQueue q (fun t => { t with cqHead := n }) s))) ∧
     (∀ r : AssistRing, pageLive s via q.owner = true → tblGet s.cmd.assistRings (ringKey via.port q.owner) = some r →
       r.via = via → n < 65536 → n < r.depth → ringUsed r.depth r.head n ≤ ringUsed r.depth r.head r.wr →
       exec (.assistHeadWrite via q.owner w) s = .next (pumpAssists q.owner { s with
         cmd.assistRings := tblSet s.cmd.assistRings (ringKey via.port q.owner)
           { r with head := n, live := r.live.drop (ringUsed r.depth r.head n) } })) ∧
     (∀ r : EventRing, pageLive s via q.owner = true → tblGet s.cmd.eventRings (ringKey via.port q.owner) = some r →
       r.via = via → n < 65536 → n < r.depth → ringUsed r.depth r.head n ≤ ringUsed r.depth r.head r.wr →
       exec (.eventHeadWrite via q.owner w) s = .next { s with
         cmd.eventRings := tblSet s.cmd.eventRings (ringKey via.port q.owner)
           { r with head := n, live := r.live.drop (ringUsed r.depth r.head n) } })) ∧
  (∀ (via : FnId) (q : QId) (w : DoorbellWrite) (s : State),
     (pageLive s via q.owner = false → exec (.sqTailWrite via q w) s = .next s ∧ exec (.cqHeadWrite via q w) s = .next s ∧
       exec (.assistHeadWrite via q.owner w) s = .next s ∧ exec (.eventHeadWrite via q.owner w) s = .next s) ∧
     (∀ (t : Queue) (h : HostFn), pageLive s via q.owner = true → queueOf s q = some t → fnOf s via = some h →
       (t.via ≠ via ∨ w.width ≠ 4 ∨ w.aligned = false ∨ 65536 ≤ w.value ∨ t.sqDepth ≤ w.value) →
       ∃ u, exec (.sqTailWrite via q w) s = .next u ∧
         (queueOf u q).map (fun v => (v.sqTail, v.sqHead, v.cqHead, v.cqWr)) = some (t.sqTail, t.sqHead, t.cqHead, t.cqWr) ∧
         (fnOf u via).map (·.doorbellFault) = some (h.doorbellFault + 1)))

/-- COMMAND_FETCH takes the next entry: SQ_HEAD advances by one, and the command stands unretired behind the others, with
the parameter block inline in the entry where PB_LENGTH is at most 40 and as read otherwise; a CID already unretired on
the queue ends the new one with DUPLICATE_CID. -/
def Obligations.FetchTakesNext : Prop :=
  ∀ (q : QId) (t : Queue) (e pb : List Byte) (s : State),
    queueOf s q = some t → mayFetch s q t = true → ideEnded s t.via = false → e.length = 64 →
    let head := (t.sqHead + 1) % t.sqDepth
    let s1 := modQueue q (fun t => { t with sqHead := head, fetched := t.fetched + 1 }) s
    (findCmd s q (fld e 2 2) = none → fld e 0 2 ≠ opAbort → exec (.commandFetch q e pb) s =
      .next { s1 with cmd.cmds := s.cmd.cmds ++ [cmdOf q t s.sq.time e pb] }) ∧
    (fld e 12 4 ≤ 40 → (cmdOf q t s.sq.time e pb).pb = slice e 24 (fld e 12 4)) ∧
    (40 < fld e 12 4 → fld e 12 4 ≤ 262144 → (cmdOf q t s.sq.time e pb).pb = padTo (fld e 12 4) pb) ∧
    ((findCmd s q (fld e 2 2)).isSome = true → ∃ u, exec (.commandFetch q e pb) s = .next u ∧
      u.cmd.cmds = s.cmd.cmds ∧ (queueOf u q).map (·.sqHead) = some head)

/-- The bootstrap registers: ENABLE sets READY and makes the queue pair where no cause of CONFIG_ERROR holds, and sets
CONFIG_ERROR where one does; a later write of IRQ_EN and VECTOR takes effect at once; clearing ENABLE clears READY once no
command of the pair is unretired; bases and sizes are written while READY is clear and ignored while it is set. -/
def Obligations.ControlWindow : Prop :=
  ∀ (via : FnId) (h : HostFn) (v : Nat) (s : State), fnOf s via = some h → s.sq.stage = 0xFF → h.enabled = true →
    (bit h.q0Ctrl 0 = false → bit v 0 = true → ∃ t, exec (.q0Enable via v) s = .next t ∧
      (fnOf t via).map (fun g => (g.q0Ctrl, g.q0Ready, g.q0Error)) =
        some (v % 2 ^ 32, (if bootOk s via h then true else h.q0Ready), !bootOk s via h) ∧
      (bootOk s via h = true → queueOf t (bootQ via) = some (newQueue via (bits h.q0Size 15 0 + 1) (bits h.q0Size 31 16 + 1)
        h.q0SqBase h.q0CqBase (bit v 1) (bits v 7 2) 0 0))) ∧
    (bit h.q0Ctrl 0 = bit v 0 → h.q0Ready = true → exec (.q0IrqConfig via v) s =
      .next (modQueue (bootQ via) (fun t => { t with irqEn := bit v 1, vector := bits v 7 2 })
        (modFn via (fun h => { h with q0Ctrl := v % 2 ^ 32 }) s))) ∧
    (bit h.q0Ctrl 0 = true → bit v 0 = false → queueOf s (bootQ via) = none → ∃ t, exec (.q0Disable via v) s = .next t ∧
      (fnOf t via).map (fun g => (g.q0Ctrl, g.q0Ready)) = some (v % 2 ^ 32, false)) ∧
    (h.q0Ready = false → exec (.controlWindowWrite via 0x018 8 v) s =
        .next (modFn via (fun g => { g with q0SqBase := v % 2 ^ 64 }) s) ∧
      exec (.controlWindowWrite via 0x024 4 v) s =
        .next (modFn via (fun g => { g with q0CqBase := h.q0CqBase % 2 ^ 32 + v % 2 ^ 32 * 2 ^ 32 }) s) ∧
      exec (.controlWindowWrite via 0x028 4 v) s = .next (modFn via (fun g => { g with q0Size := v % 2 ^ 32 }) s)) ∧
    (h.q0Ready = true → ∀ off w, exec (.controlWindowWrite via off w v) s = .next s)

/-- Interrupts: unmasking a vector whose pending bit is set raises it where the function may write; COALESCE_US after the
first unsignalled entry the queue's vector is raised and no entry is unsignalled. -/
def Obligations.Interrupts : Prop :=
  (∀ (via : FnId) (h : HostFn) (v : Nat) (s : State), fnOf s via = some h → v ≤ 63 →
    (bit h.msixPend v = true → fnWrites s via = true → ∃ t, exec (.msixUnmask via v) s = .next t ∧
      t.out = .msix via v :: s.out ∧ (fnOf t via).map (fun g => (bit g.msixMask v, bit g.msixPend v)) = some (false, false)) ∧
    (bit h.msixPend v = false → ∃ t, exec (.msixUnmask via v) s = .next t ∧ t.out = s.out ∧
      (fnOf t via).map (fun g => bit g.msixMask v) = some false)) ∧
  (∀ (q : QId) (t : Queue) (h : HostFn) (t0 : Nat) (s : State), queueOf s q = some t → t.firstUnsig = some t0 →
    t0 + t.coalUs * 100 ≤ s.sq.time → fnOf s t.via = some h → fnWrites s t.via = true →
    ∃ u, exec (.coalesceTimerExpiry q) s = .next u ∧
      (bit h.msixMask t.vector = false → u.out = .msix t.via t.vector :: s.out) ∧
      (queueOf u q).map (fun v => (v.unsignalled, v.firstUnsig)) = some (0, none))

/-- A step of the host interface keeps every position of every queue and ring below its depth: the doorbells, the control
window, the fetch of an entry, the interrupt rows, and the commands that make queue pairs and rings, with the completions
and records that they post. -/
def Obligations.PositionsKept : Prop :=
  ∀ (i : Instr) (rest : List Instr) (s t : State), s.pending = i :: rest → positionsOk s →
    ((∃ via q w, i = .sqTailWrite via q w ∨ i = .cqHeadWrite via q w) ∨
     (∃ via o w, i = .assistHeadWrite via o w ∨ i = .eventHeadWrite via o w) ∨
     (∃ via off n v, i = .q0Enable via v ∨ i = .q0IrqConfig via v ∨ i = .controlWindowWrite via off n v ∨ i = .msixUnmask via v) ∨
     (∃ q e pb, i = .commandFetch q e pb ∨ i = .coalesceTimerExpiry q) ∨
     (∃ q cid, i = .createQueuePair q cid ∨ i = .setRing q cid ∨ i = .setFunctionMode q cid ∨ i = .deviceInfo q cid ∨
       i = .readSensors q cid)) →
    step s = .next t → positionsOk t

/-! ### Number formats -/

/-- R45: how packed elements lie in their bytes. FP4 elements 2i and 2i + 1 are the low and the high half of byte i; FP6 elements
4i to 4i + 3 are the fields of the little-endian 24-bit group in bytes 3i to 3i + 2; an element of another format is whole
bytes, little-endian; and a row that is written holds, element for element, what was written. -/
def Obligations.ElementsPacked : Prop :=
  (∀ (row : List Byte) (i : Nat),
    elemRaw 0x07 row (2 * i) = fld row i 1 % 16 ∧ elemRaw 0x07 row (2 * i + 1) = fld row i 1 / 16 ∧
    (∀ code k, (code = 0x05 ∨ code = 0x06) → k < 4 → elemRaw code row (4 * i + k) = bits (fld row (3 * i) 3) (6 * k + 5) (6 * k)) ∧
    (∀ code w, (code, w) ∈ [(0x00, 4), (0x01, 2), (0x02, 2), (0x03, 1), (0x04, 1), (0x08, 1), (0x09, 2), (0x0A, 4), (0x0B, 1),
        (0x0C, 16), (0x0D, 1)] → elemRaw code row i = fld row (w * i) w)) ∧
  (∀ (code : Nat) (qs : List Nat) (i x : Nat), code ≤ 0x0D → (∀ y ∈ qs, y < 2 ^ elemBits code) → qs[i]? = some x →
    elemRaw code (packElems code qs) i = x)
/-! ### Withdrawal, deletion and host-assisted decisions -/

/-- ABORT of an abortable command that has not started: the withdrawal wins, the target completes with ABORTED and ABORT
with SUCCESS after it; of a command whose opcode is marked "no": NOT_ABORTABLE, and the target is unaffected; of a CID
among the last retired on the queue: ALREADY_DONE; of any other: NOT_FOUND. DEADLINE_EXPIRY: DEADLINE_MS after its fetch a command that has not started completes with TIMEOUT; before then, or
without a deadline, nothing happens. -/
def Obligations.AbortsAndDeadlines : Prop :=
  (∀ (q : QId) (cid : Nat) (c : Cmd) (s : State), Due opAbort 8 [(1, 1), (4, 4)] q cid c s → q.owner ≠ 16 → c.work = [] →
     let tq : QId := ⟨q.owner, fld c.pb 0 1⟩
     let tc := fld c.pb 2 2
     abortFetching s c tq = false → (tq ≠ q ∨ tc ≠ cid) →
     (∀ t, findCmd s tq tc = some t → opAbortable t.opcode = true → t.started = false → exec (.abort q cid) s =
       .next (completes 8 c { finSt 0x0000 with after := some (tq, tc) }
         (retire t { finSt 0x4001 with withdrawn := true } (begun q cid s)))) ∧
     (∀ t, findCmd s tq tc = some t → opAbortable t.opcode = false → exec (.abort q cid) s =
       .next (completes 8 c (finSt 0x1006) (begun q cid s))) ∧
     (∀ u, findCmd s tq tc = none → queueOf s tq = some u → tc ∈ u.retired → exec (.abort q cid) s =
       .next (completes 8 c { finSt 0x0002 with after := some (tq, tc) } (begun q cid s))) ∧
     (findCmd s tq tc = none → (∀ u, queueOf s tq = some u → tc ∉ u.retired) → exec (.abort q cid) s =
       .next (completes 8 c (finSt 0x1005) (begun q cid s)))) ∧
  (∀ (q : QId) (cid : Nat) (c : Cmd) (s : State), findCmd s q cid = some c → s.sq.ready = true → s.sq.takeover = false →
     opAbortable c.opcode = true →
     (c.deadlineMs ≠ 0 → c.fetchedAt + c.deadlineMs * 100000 ≤ s.sq.time → c.started = false →
       exec (.deadlineExpiry q cid) s = .next (retire c { finSt 0x4002 with withdrawn := true } s)) ∧
     ((c.deadlineMs = 0 ∨ s.sq.time < c.fetchedAt + c.deadlineMs * 100000) → exec (.deadlineExpiry q cid) s = .next s))

/-- DELETE_QUEUE_PAIR of another queue pair of the Court: with no command of it unretired the pair is gone and the command
completes with SUCCESS; while commands of the pair that cannot be withdrawn are unretired, nothing more is fetched from the
pair and the command stays unretired. A command that names its own pair fails with
INVALID_QUEUE. -/
def Obligations.DeleteQueuePair : Prop :=
  ∀ (q : QId) (cid : Nat) (c : Cmd) (s : State), Due opDeleteQueuePair 8 [(2, 6)] q cid c s → q.owner ≠ 16 → c.work = [] →
    let tq : QId := ⟨q.owner, fld c.pb 0 1⟩
    (∀ t, tq ≠ q → queueOf s tq = some t → (∀ d ∈ s.cmd.cmds, d.q ≠ tq) → ∃ u, exec (.deleteQueuePair q cid) s = .next u ∧
      queueOf u tq = none ∧ u.cmd.cmds = s.cmd.cmds.filter (fun d => !(d.q == q && d.cid == cid))) ∧
    (∀ t d, tq ≠ q → queueOf s tq = some t → d ∈ s.cmd.cmds → d.q = tq →
      (∀ e ∈ s.cmd.cmds, e.q = tq → opAbortable e.opcode = false) → ∃ u v, exec (.deleteQueuePair q cid) s = .next u ∧ queueOf u tq = some v ∧ v.deleting = true ∧
        (findCmd u q cid).isSome = true ∧ mayFetch u tq v = false) ∧
    (tq = q → exec (.deleteQueuePair q cid) s = .next (completes 8 c (finSt 0x1003) (begun q cid s)))

/-- A decision of the operator's row that no reply reaches by its deadline takes the outcome of a missing reply and its
record is gone; an ASSIST_REPLY to it then completes with ASSIST_EXPIRED; a reply in time, with DISPOSITION 0 or 2,
settles it and completes with SUCCESS; a reply to no decision completes with NOT_FOUND. -/
def Obligations.AssistSettles : Prop :=
  (∀ (row id : Nat) (a : AssistRec) (s : State), assistOf s row id = some a → a.deadline ≤ s.sq.time → s.sq.ready = true →
    s.sq.takeover = false → exec (.assistDeadlineExpiry row id) s =
      .next (settleWatch (settle (settleAssist a none [] []
        { s with
          cmd.assists := s.cmd.assists.filter (fun b => !(b.id == a.id && b.row == a.row))
          cmd.expired := (row, id) :: s.cmd.expired })))) ∧
  (∀ (q : QId) (cid : Nat) (c : Cmd) (data : List Byte) (s : State), Due opAssistReply 24 [(5, 3), (20, 4)] q cid c s →
    (∀ a, (fld c.pb 4 1 = 0 ∨ fld c.pb 4 1 = 2) → assistOf s q.owner (fld c.pb 0 4) = some a → a.posted = true →
      exec (.assistReply q cid data) s = .next (settleWatch (completes 24 c (finSt 0x0000)
        (settle (settleAssist a (some (fld c.pb 4 1)) [] [] (dropAssist a (begun q cid s))))))) ∧
    (fld c.pb 4 1 ≤ 2 → assistOf s q.owner (fld c.pb 0 4) = none → (q.owner, fld c.pb 0 4) ∈ s.cmd.expired →
      ∃ u, exec (.assistReply q cid data) s = .next (settleWatch (completes 24 c (finSt 0x3009) u)) ∧
        u.cmd.assists = s.cmd.assists) ∧
    (fld c.pb 4 1 ≤ 2 → assistOf s q.owner (fld c.pb 0 4) = none → (q.owner, fld c.pb 0 4) ∉ s.cmd.expired →
      exec (.assistReply q cid data) s = .next (settleWatch (completes 24 c (finSt 0x1005) (begun q cid s)))) ∧
    (2 < fld c.pb 4 1 → exec (.assistReply q cid data) s =
      .next (settleWatch (completes 24 c (finSt 0x1002) (begun q cid s)))))

/-! ### Packages, semaphores, DMA, counters and maintenance -/

/-- LOAD_PACKAGE of an image that parses and meets no refusal, to a Court that is not confidential: the image is written at
PLACE_AT and the lowest free handle names the package; the RESULT gives it. If a handle names no package loaded in the Court, UNLOAD_PACKAGE and RUN fail with INVALID_FIELD; UNLOAD_PACKAGE of a
package that an unretired command uses fails with STATE_CONFLICT, and otherwise the handle names no package any more. -/
def Obligations.Packages : Prop :=
  (∀ (q : QId) (cid : Nat) (c : Cmd) (image : List Byte) (k : Court) (p : Package) (h : Nat) (s : State),
     Due opLoadPackage 32 [(28, 4)] q cid c s → courtOf s q.owner = some k → k.conf = false → fld c.pb 24 4 < 2 →
     fld c.pb 16 8 % 128 = 0 → image.length = fld c.pb 8 8 → pkgParse image = some p →
     pkgRefusal s k q.owner (fld c.pb 16 8) (bit (fld c.pb 24 4) 0) image p = none → freePkg s q.owner = some h →
     exec (.loadPackage q cid image) s = .next (completes 32 c (finRes 0x0000 (natLe 4 h))
       { courtWrite k (fld c.pb 16 8) image (begun q cid s) with
         pkgs := tblSet s.pkgs h (placePkg q.owner (fld c.pb 16 8) (pkgSigner s q.owner image) p) })) ∧
  (∀ (q : QId) (cid : Nat) (c : Cmd) (s : State),
     (Due opUnloadPackage 8 [(4, 4)] q cid c s →
       (pkgOf s q.owner (fld c.pb 0 4) = none → exec (.unloadPackage q cid) s =
         .next (completes 8 c (finSt 0x1002) (begun q cid s))) ∧
       (∀ p r, pkgOf s q.owner (fld c.pb 0 4) = some p → r ∈ s.runs → r.2.pkg = fld c.pb 0 4 →
         exec (.unloadPackage q cid) s = .next (completes 8 c (finSt 0x3007) (begun q cid s))) ∧
       (∀ p, pkgOf s q.owner (fld c.pb 0 4) = some p → (∀ r ∈ s.runs, r.2.pkg ≠ fld c.pb 0 4) →
         (∀ d ∈ s.cmd.cmds, d ≠ c → (d.q ≠ q ∨ d.cid ≠ cid) ∧ (d.started = false ∨ fld d.pb 0 4 ≠ fld c.pb 0 4)) →
         exec (.unloadPackage q cid) s =
           .next (completes 8 c (finSt 0x0000) { begun q cid s with pkgs := tblErase s.pkgs (fld c.pb 0 4) }))) ∧
     (Due opRun (runLay c) [(32, 8)] q cid c s → runOfCmd s c = none → pkgOf s q.owner (fld c.pb 0 4) = none →
       exec (.run q cid) s = .next (completes (runLay c) c (finSt 0x1002) (begun q cid s))))

/-- RUN of a package without symbols, bindings or base is admitted under the next run number: its streams stand at their
first work order, and the command stays unretired until the run ends; a RUN refused under R142 changes nothing. -/
def Obligations.RunAdmits : Prop :=
  ∀ (q : QId) (cid : Nat) (c : Cmd) (p : Package) (k : Court) (s : State),
    Due opRun (runLay c) [(32, 8)] q cid c s → runOfCmd s c = none → runFieldsOk c.pb = true →
    pkgOf s q.owner (fld c.pb 0 4) = some p → courtOf s q.owner = some k →
    courtRangeOk k (fld c.pb 8 8) (16 * fld c.pb 16 4) = true → runHandles c.pb = [] → fld c.pb 6 2 = 0xFFFF →
    (fld c.pb 4 2 + p.sems ≤ 4096 → p.symbols = [] →
      exec (.run q cid) s = .next (settle { stampUp (begun q cid s) with
        nextRun := s.nextRun + 1
        runs := tblSet s.runs s.nextRun
          { owner := .cmd q cid, court := q.owner, pkg := fld c.pb 0 4, semBase := fld c.pb 4 2, baseSlot := 0xFFFF,
            statusAt := fld c.pb 8 8, statusEntries := fld c.pb 16 4, step := fld c.pb 24 8, symbols := [], bindings := [],
            streams := p.streams.map (fun t => RunStream.fresh t.express t.ttTag t.count t.at_), retired := 0 } })) ∧
    (4096 < fld c.pb 4 2 + p.sems → exec (.run q cid) s =
      .next (completes (runLay c) c (finSt 0x1002) (begun q cid s))) ∧
    (∀ i, fld c.pb 4 2 + p.sems ≤ 4096 → resolveSyms (begun q cid s) ⟨q.owner, p, runBufs c.pb, 1, [], none⟩ = .error i →
      exec (.run q cid) s = .next (completes (runLay c) c (finRes 0x3008 (natLe 4 i)) (begun q cid s)))

/-- SET_SEMAPHORE writes a Court semaphore that no stream holds and serves its waiters; an index outside the Court's 4 096
fails with INVALID_FIELD. A Court's semaphore takes the value of a write and reads 0 where nothing was written; ADD fails exactly where the sum
leaves 32 bits, and otherwise adds; no other semaphore of any Court changes. -/
def Obligations.SemaphoreValues : Prop :=
  (∀ (q : QId) (cid : Nat) (c : Cmd) (s : State), Due opSetSemaphore 8 [(2, 2)] q cid c s →
     (fld c.pb 0 2 < 4096 → semHeld s q.owner (fld c.pb 0 2) = false → exec (.setSemaphore q cid) s =
       .next (completes 8 c (finSt 0x0000)
         (settle (serveWaiters (semSet q.owner (fld c.pb 0 2) (fld c.pb 4 4) (begun q cid s)))))) ∧
     (4096 ≤ fld c.pb 0 2 → exec (.setSemaphore q cid) s = .next (completes 8 c (finSt 0x1002) (begun q cid s))) ∧
     (fld c.pb 0 2 < 4096 → semHeld s q.owner (fld c.pb 0 2) = true → exec (.setSemaphore q cid) s =
       .next (completes 8 c (finSt 0x3007) (begun q cid s)))) ∧
  (∀ (n i v : Nat) (k : Court) (s : State), courtOf s n = some k →
     semVal (semSet n i v s) n i = v ∧
     (∀ m j, (m, j) ≠ (n, i) → semVal (semSet n i v s) m j = semVal s m j) ∧
     (semAdd n i v s = none ↔ 2 ^ 32 ≤ semVal s n i + v) ∧
     (∀ t, semAdd n i v s = some t → semVal t n i = semVal s n i + v))

/-- A plain Court's DMA whose range it may access: DMA_WRITE with all the host's bytes at once writes them at COURT_ADDR and
completes with SUCCESS; DMA_READ of a range without poison writes the bytes of the range to host memory; a range that the
Court may not access fails with ADDRESS_FAULT. -/
def Obligations.DmaMoves : Prop :=
  ∀ (q : QId) (cid : Nat) (c : Cmd) (k : Court) (s : State), courtOf s q.owner = some k → k.conf = false → c.progress = 0 →
    1 ≤ fld c.pb 16 8 → fld c.pb 16 8 ≤ 2 ^ 40 → fld c.pb 24 1 < 3 →
    (∀ data : List Byte, Due opDmaWrite 32 [(25, 7)] q cid c s → courtRangeOk k (fld c.pb 8 8) (fld c.pb 16 8) = true →
      data.length = fld c.pb 16 8 → exec (.dmaWrite q cid data []) s = .next (settleWatch
        (completes 32 c (finSt 0x0000) (courtWrite k (fld c.pb 8 8) data (begun q cid s))))) ∧
    (Due opDmaRead 32 [(25, 7)] q cid c s → courtRangeOk k (fld c.pb 8 8) (fld c.pb 16 8) = true → fnWrites s c.via = true →
      cleanLen s k [] (fld c.pb 8 8) (fld c.pb 16 8) = fld c.pb 16 8 → fld c.pb 24 1 ≠ 2 →
      exec (.dmaRead q cid (fld c.pb 16 8) []) s = .next (settleWatch (completes 32 c (finSt 0x0000)
        { begun q cid s with
          out := .hostWrite c.via (fld c.pb 0 8) (courtRead s k (fld c.pb 8 8) (fld c.pb 16 8)) :: s.out }))) ∧
    (∀ data : List Byte, Due opDmaWrite 32 [(25, 7)] q cid c s → courtRangeOk k (fld c.pb 8 8) (fld c.pb 16 8) = false →
      exec (.dmaWrite q cid data []) s = .next (settleWatch (completes 32 c (finSt 0x5001) (begun q cid s))))

/-- Reading back what a write put into HBM: a byte written at a device address reads as written where its channel has not
failed hard, and every other address reads as before. -/
def Obligations.MemoryReadAfterWrite : Prop :=
  ∀ (a b : Nat) (v : Byte) (s : State), Memory.wf (some 0#8) s.mem.hbm = true →
    (lineDown s (lineOf a) = false → tblGet s.mem.lastUse (lineOf a) = none → hbmByte (hbmPut a v s) a = v) ∧
    (b ≠ a → tblGet s.mem.lastUse (lineOf b) = none → hbmByte (hbmPut a v s) b = hbmByte s b)
/-! ### Courts and device maintenance -/

/-- The lifecycle commands of a Court that nothing delays: CREATE_COURT makes the Court of its checked Blocks, granules and
handle units, and its RESULT gives the first handle; one that fails a check changes nothing; DESTROY_COURT, RESET_COURT and
ZEROISE_COURT of a ready Court stop everything of it and complete; RESIZE_COURT that takes nothing away completes with the new
set. -/
def Obligations.CourtsComplete : Prop :=
  ∀ (q : QId) (cid : Nat) (c : Cmd) (m : Court) (s : State), c.work = [] → placeAsked s q cid = false → modeBit s 16 0 = false →
    let b := begun q cid s
    let k := began s c
    let n := fld c.pb 0 1
    let going (st : CourtState) (s : State) : State := modCourt n (fun r => { r with state := st, by_ := some (q, cid) }) s
    (∀ gs u, Due opCreateCourt 64 [(20, 12)] q cid c s → courtFieldsOk c.pb = true → courtOf s n = none →
      createCheck b c.pb = .ok (gs, u) → exec (.createCourt q cid true) s = .next (settleWatch
        (completes 64 c (finRes 0x0000 (natLe 2 (256 * u))) (createFinish k (createStart k gs u b)).1))) ∧
    (∀ st, Due opCreateCourt 64 [(20, 12)] q cid c s → courtFieldsOk c.pb = true → transits b n k .creating = false →
      createCheck b c.pb = .error st → exec (.createCourt q cid true) s = .next (settleWatch (completes 64 c (finSt st) b))) ∧
    (Due opDestroyCourt 8 [(1, 7)] q cid c s → n < 16 → courtOf s n = some m → m.state = .ready →
      exec (.destroyCourt q cid true) s = .next (settleWatch
        (completes 8 c (finSt 0x0000) (finishDestroy n (stopCourt n none (going .destroying b)))))) ∧
    (Due opResetCourt 8 [(1, 7)] q cid c s → q.owner = 16 → n < 16 → courtOf s n = some m → m.state = .ready →
      exec (.resetCourt q cid true) s = .next (settleWatch
        (completes 8 c (finSt 0x0000) (finishReset n (stopCourt n (some (q, cid)) (going .resetting b)))))) ∧
    (Due opZeroiseCourt 8 [(1, 7)] q cid c s → q.owner = 16 → n < 16 → courtOf s n = some m → m.state = .ready →
      exec (.zeroiseCourt q cid true) s = .next (settleWatch (completes 8 c (finSt 0x0000)
        (postSec 0x03 n 0xFF 0xFF 1 0
          (finishReset n (stopCourt n (some (q, cid)) (going .resetting (destroyKeys n b)))))))) ∧
    (∀ gs, Due opResizeCourt 64 [(20, 12)] q cid c s → courtFieldsOk c.pb = true → courtOf s n = some m → m.state = .ready →
      (resizing b).any (fun d => fld d.pb 0 1 == n) = false → resizeCheck b n m c.pb = .ok gs → (∀ g ∈ m.blocks, g ∈ gs) →
      fld c.pb 12 2 = m.serve → fld c.pb 14 2 = m.pool → exec (.resizeCourt q cid true) s = .next (settleWatch
        (completes 64 c (finSt 0x0000) (resizeFinish n m { k with work := gs } (resizeStart n m k gs b)))))

/-- What a Court's creation, reset and destruction leave. Created: ready. Reset: ready, every semaphore 0, its counters 0,
every byte of its granules unlisted (zero), its epoch one up, no package loaded. Destroyed: absent, its granules free, no queue
pair, package, key or epoch record of a store left. -/
def Obligations.CourtsLeave : Prop :=
  ∀ (n : Nat) (k : Court) (s : State), courtOf s n = some k →
    (∀ c : Cmd, fld c.pb 0 1 = n → (courtOf (createFinish c s).1 n).map (·.state) = some .ready) ∧
    (let t := finishReset n s
     (courtOf t n).map (fun r => (r.state, r.sems, r.satCount, r.nonfinCount, r.slotLate, r.slotOverrun, r.slotShort)) =
       some (.ready, [], 0, 0, 0, 0, 0) ∧
     (∀ p ∈ k.gtab, ∀ o < gib, memGet t.mem.hbm (p.2 * gib + o) = none) ∧
     epochOf t n = (epochOf s n + 1) % 2 ^ 32 ∧ (∀ p ∈ t.pkgs, p.2.court ≠ n)) ∧
    (let t := finishDestroy n s
     courtOf t n = none ∧ keysOf t n = none ∧ (∀ p ∈ k.gtab, tblGet t.mem.granules p.2 = none) ∧
     (∀ p ∈ t.cmd.queues, p.1 / 64 ≠ n) ∧ (∀ p ∈ t.pkgs, p.2.court ≠ n) ∧ (∀ r ∈ t.part.stores, r.court ≠ n))

/-- SET_MAPOUT_RESERVE: RESERVE must be a multiple of 3 from 0 to 48, or the command fails with INVALID_FIELD;
CLEAR_REPAIR_LIST empties the repair list; RUN_ROADWORKS takes its Blocks up and stays unretired, and one that names no
Block in service fails with NOT_FOUND. -/
def Obligations.Maintenance : Prop :=
  ∀ (q : QId) (cid : Nat) (c : Cmd) (s : State),
    (Due opSetMapoutReserve 8 [(1, 7)] q cid c s → exec (.setMapoutReserve q cid) s = .next (
      if fld c.pb 0 1 % 3 = 0 ∧ fld c.pb 0 1 ≤ 48
      then completes 8 c (finSt 0x0000) { begun q cid s with mem.reserve := fld c.pb 0 1 }
      else completes 8 c (finSt 0x1002) (begun q cid s))) ∧
    (Due opClearRepairList 0 [] q cid c s → exec (.clearRepairList q cid) s =
      .next (completes 0 c (finSt 0x0000) { begun q cid s with mem.repair := [] })) ∧
    (∀ a l, Due opRunRoadworks 8 [(4, 4)] q cid c s → rwNamed s c.pb = some (a :: l) → exec (.runRoadworks q cid) s =
      .next { begun q cid s with age.rw := s.age.rw ++ [⟨q, cid, a :: l, 0, 0, 0⟩] }) ∧
    (Due opRunRoadworks 8 [(4, 4)] q cid c s → rwNamed s c.pb = some [] → exec (.runRoadworks q cid) s =
      .next (completes 8 c (finSt 0x1005) (begun q cid s)))

/-! ### Base models and the Gazetteer -/

/-- LOAD_BASE takes its slot and completes with the slot's number once its image has been loaded; PIN_BASE sets the slot's
pin; EVICT_BASE of a slot with references fails with STATE_CONFLICT, of a COLD slot without FORGET changes nothing, and
otherwise evicts; REPLACE_BASE supersedes the old slot by the new one, which carries the same MODEL_ID and another
MODEL_VERSION. A COLD base that an admitted use wants is reloaded from its host image into memory and is RESIDENT again; an image
shorter than the slot's leaves it COLD, with HOST_FAULT for the use that waits. -/
def Obligations.BaseSlots : Prop :=
  (∀ (q : QId) (cid : Nat) (c : Cmd) (s : State), c.work = [] →
     let b := begun q cid s
     let k := began s c
     (∀ image n t, Due opLoadBase 32 [(19, 5)] q cid c s → loadRefusal b k = none → takeSlot b q.owner = some n →
       loadSlot { k with work := [n] } n image (fun _ => true) (claimModelSlot k n b) = (t, some (.ok ())) →
       exec (.loadBase q cid image true) s = .next (completes 32 c (finRes 0x0000 (natLe 1 n)) t)) ∧
     (∀ m, Due opPinBase 8 [(2, 6)] q cid c s → fld c.pb 1 1 < 2 → fld c.pb 0 1 < 32 →
       tblGet s.gaz.slots (fld c.pb 0 1) = some m → m.owner = q.owner → m.state ≠ .loading →
       exec (.pinBase q cid) s = .next (completes 8 c (finSt 0x0000)
         (modSlot (fld c.pb 0 1) (fun m => { m with pin := fld c.pb 1 1 == 1 }) b))) ∧
     (∀ m, Due opEvictBase 8 [(2, 6)] q cid c s → fld c.pb 1 1 < 2 → fld c.pb 0 1 < 32 →
       tblGet s.gaz.slots (fld c.pb 0 1) = some m → m.owner = q.owner → m.state ≠ .loading →
       (m.refs ≠ 0 → exec (.evictBase q cid) s = .next (completes 8 c (finSt 0x3007) b)) ∧
       (m.refs = 0 → m.state = .cold → fld c.pb 1 1 = 0 → exec (.evictBase q cid) s = .next (completes 8 c (finSt 0x0000) b)) ∧
       (m.refs = 0 → (m.state ≠ .cold ∨ fld c.pb 1 1 = 1) → exec (.evictBase q cid) s =
         .next (completes 8 c (finSt 0x0000) (evictSlot (fld c.pb 0 1) (fld c.pb 1 1 == 1) b)))) ∧
     (∀ image n m t, Due opReplaceBase 32 [(20, 4)] q cid c s → loadRefusal b k = none → oldRefusal b q.owner (fld c.pb 19 1) = none →
       takeSlot { b with gaz.slots := tblModify b.gaz.slots (fld c.pb 19 1) (fun m => { m with state := .resident }) } q.owner = some n →
       n ≠ fld c.pb 19 1 → tblGet s.gaz.slots (fld c.pb 19 1) = some m → m.replacedBy ≠ some n →
       loadSlot { k with work := [n] } n image (fun x => x.modelId == m.modelId && x.modelVersion != m.modelVersion)
         (claimModelSlot k n b) = (t, some (.ok ())) →
       exec (.replaceBase q cid image true) s = .next (completes 32 c (finRes 0x0000 (natLe 1 n)) (supersede n (fld c.pb 19 1) t)))) ∧
  (∀ (n : Nat) (m : ModelSlot) (image : List Byte) (s : State), tblGet s.gaz.slots n = some m → m.state = .cold →
     m.wanted = true → s.sq.ready = true → hostReads s m.via = true →
     (image.length < slotHostLen m → exec (.baseReload n image) s = .next (reloadFailed n 0x5003 s)) ∧
     (∀ t place x, m.keyId = 0 → slotHostLen m ≤ image.length → baseRoom m.owner m.imageLen m.granules (m.granules != []) ⟨16, 64⟩ n s = (t, place) →
       place ≠ .wait → place ≠ .no → baseParse (image.take (slotHostLen m)) = some x → x.modelId = m.modelId →
       x.modelVersion = m.modelVersion → x.hash = m.hash → exec (.baseReload n image) s =
         .next (modSlot n (fun m => { m with state := .resident, wanted := false, reloadFail := none })
           (placeBase n m.owner (image.take (slotHostLen m)) place t))))

/-- REGISTER_ADAPTER assigns the lowest FREE handle in the Court's range; with a plain image of a resident base that passes
the checks of R221 the entry becomes READY at version 1, and the RESULT gives handle, generation and version. REPLACE makes the new image the current version, one number up, and the RESULT gives it; while the entry is in training
and AT_COMMIT is clear it fails with ADAPTER_IN_TRAINING, and with AT_COMMIT the image waits as the next version. RETIRE_ADAPTER
of a READY entry out of training leaves it RETIRING, with its contract and claims released; of a RETIRING entry it completes with
ALREADY_DONE. -/
def Obligations.EntriesAssigned : Prop :=
  (∀ (q : QId) (cid : Nat) (c : Cmd) (image : List Byte) (k : Court) (h n a : Nat) (i j : AdImage) (m : ModelSlot) (t : State)
     (s : State), Due opRegisterAdapter 40 [(13, 3), (32, 8)] q cid c s → c.work = [] → fld c.pb 12 1 < 4 →
     coldOk (fld c.pb 24 8) = true → fld c.pb 16 8 = 0 → confCourt s q.owner = false → courtOf s q.owner = some k →
     lowestFree s k = some h → image.length = fld c.pb 8 4 →
     makeRoom q.owner image.length q cid (claimHandle (began s c) h (begun q cid s)) = (t, .at_ a) → adHeader image = some i →
     (findSlot t q.owner i.modelId i.modelVersion).bind (fun n => tblGet t.gaz.slots n) = some m → adCheck i m = some j →
     n = (entryOf t h).generation → exec (.registerAdapter q cid image true) s =
       let u := stampUp (placeImage q.owner a image t)
       .next (completes 40 c (finRes 0x0000 (natLe 2 h ++ natLe 2 n ++ natLe 4 1))
         (modEntry h (fun e => { e with
           state := .ready, kind := j.kind, modelId := j.modelId, modelVersion := j.modelVersion
           cur := some (mkVersion j 1 0 a (coldKind (fld c.pb 24 8) != 0) u.gaz.stamp) }) u))) ∧
  (∀ (q : QId) (cid : Nat) (c : Cmd) (s : State),
     let b := begun q cid s
     let k := began s c
     let h := fld c.pb 0 2
     let e := entryOf s h
     handleCheck s q.owner h = none →
     (∀ image i a t, Due opReplace 24 [(3, 1)] q cid c s → fld c.pb 2 1 < 2 → e.nextCmd = none →
       (e.train = 0 → drainShort (stampUp t) e = false → replaceLoad k h image b = (t, .ok (some (i, a))) →
         let n := (e.cur.map (·.version)).getD 0 + 1
         exec (.replace q cid image) s = .next (completes 24 c (finRes 0x0000 (zeros 4 ++ natLe 4 n))
           (installVersion q.owner h (mkVersion i n (fld c.pb 16 8) a false (t.gaz.stamp + 1)) (stampUp t)))) ∧
       (e.train ≠ 0 → fld c.pb 2 1 = 0 → exec (.replace q cid image) s = .next (completes 24 c (finSt 0x3004) b)) ∧
       (e.train = 1 → fld c.pb 2 1 = 1 → replaceLoad k h image b = (t, .ok (some (i, a))) → exec (.replace q cid image) s =
         .next (modEntry h (fun e => { e with
           next := some (mkVersion i ((e.cur.map (·.version)).getD 0 + 1) (fld c.pb 16 8) a false (t.gaz.stamp + 1))
           nextCmd := some (q, cid), train := 2 }) (stampUp t)))) ∧
     (Due opRetireAdapter 8 [(2, 6)] q cid c s →
       (e.state = .retiring → exec (.retireAdapter q cid) s = .next (completes 8 c (finSt 0x0002) b)) ∧
       (e.state = .ready → e.train ≠ 0 → exec (.retireAdapter q cid) s = .next (completes 8 c (finSt 0x3004) b)) ∧
       (e.state = .ready → e.train = 0 → exec (.retireAdapter q cid) s = .next (completes 8 c (finSt 0x0000)
         (sweepSlots (sweepHandle h (dropClaims h (unlockVersion h (modEntry h (fun e => { e with
           state := .retiring, minTier := 0, contractEnd := 0, holdUntil := 0, next := none, nextCmd := none }) b)))))))))

/-- PIN_CONTRACT of a version that lies in POOL, within the sums of R229, holds it until the later of the hold in force and
the shorter of MIN_RESIDENCY_S and EXPIRY_S; RELEASE_CONTRACT before HOLD_UNTIL_S moves the contract's end there, and after it ends the
contract; when CONTRACT_END_S is reached the contract ends: MIN_TIER, CONTRACT_END_S and HOLD_UNTIL_S are 0. -/
def Obligations.Contracts : Prop :=
  (∀ (q : QId) (cid : Nat) (c : Cmd) (s : State),
    let b := begun q cid s
    let h := fld c.pb 0 2
    let e := entryOf s h
    handleCheck s q.owner h = none →
    (∀ image r v, Due opPinContract 16 [(3, 1), (12, 4)] q cid c s → 2 ≤ fld c.pb 2 1 → fld c.pb 2 1 ≤ 3 → fld c.pb 4 4 ≤ 604800 →
      nowS s + fld c.pb 4 4 ≤ fld c.pb 8 4 → nowS s < fld c.pb 8 4 → (underContract e = true → e.holdUntil ≤ fld c.pb 8 4) →
      (e.state = .ready ∨ e.state = .stale) → courtOf s q.owner = some r → e.cur = some v → v.poolAt.isSome = true →
      pinFits b r h (fld c.pb 2 1) v = true → exec (.pinContract q cid image) s =
        (let hold := max (if underContract e then e.holdUntil else 0) (nowS s + fld c.pb 4 4)
         let t := modEntry h (fun e => { e with minTier := fld c.pb 2 1, contractEnd := fld c.pb 8 4, holdUntil := hold }) b
         .next (completes 16 c (finRes 0x0000 (natLe 4 hold))
          (if fld c.pb 2 1 = 3 then lockVersion q.owner h t else unlockVersion h t)))) ∧
    (Due opReleaseContract 8 [(2, 6)] q cid c s →
      (underContract e = false → exec (.releaseContract q cid) s = .next (completes 8 c (finSt 0x0002) b)) ∧
      (underContract e = true → nowS s < e.holdUntil → exec (.releaseContract q cid) s = .next (completes 8 c
        (finRes 0x0000 (natLe 4 e.holdUntil)) (modEntry h (fun e => { e with contractEnd := e.holdUntil }) b))) ∧
      (underContract e = true → e.holdUntil ≤ nowS s → exec (.releaseContract q cid) s =
        .next (completes 8 c (finSt 0x0000) (endContract q.owner h b))))) ∧
  (∀ (h n : Nat) (s : State), handleOwner s h = some n → underContract (entryOf s h) = true →
    ((entryOf s h).contractEnd ≤ nowS s → exec (.contractEnd h) s = .next (endContract n h s) ∧
      (entryOf (endContract n h s) h).minTier = 0 ∧ (entryOf (endContract n h s) h).contractEnd = 0 ∧
      (entryOf (endContract n h s) h).holdUntil = 0) ∧
    (nowS s < (entryOf s h).contractEnd → exec (.contractEnd h) s = .next s))

/-- CLAIM_SLOT compares the slot's holder with EXPECT: equal, NEW becomes the holder (0xFFFF frees the slot); otherwise
SLOT_TAKEN, which names the holder only where it is the Court's own. -/
def Obligations.ClaimCompares : Prop :=
  ∀ (q : QId) (cid : Nat) (c : Cmd) (m : ModelSlot) (s : State), Due opClaimSlot 8 [] q cid c s →
    let layer := fld c.pb 2 2
    let index := fld c.pb 1 1
    let new := fld c.pb 6 2
    let holder := claimOf m layer index
    tblGet s.gaz.slots (fld c.pb 0 1) = some m → isReserved m layer index = true → slotFor m q.owner = true →
    (new = 0xFFFF ∨ (handleOwner s new = some q.owner ∧ claimant s m layer new = true ∧ claimsHeld s m q.owner layer < 16)) →
    (fld c.pb 4 2 = 0xFFFF ∨ handleOwner s (fld c.pb 4 2) = some q.owner) →
    (holder = fld c.pb 4 2 → exec (.claimSlot q cid) s = .next (completes 8 c (finSt 0x0000)
      (modSlot (fld c.pb 0 1) (fun m => { m with
        claims := if new = 0xFFFF then tblErase m.claims (layer * 256 + index) else tblSet m.claims (layer * 256 + index) new })
        (begun q cid s)))) ∧
    (holder ≠ fld c.pb 4 2 → exec (.claimSlot q cid) s = .next (completes 8 c
      (finRes 0x3003 (natLe 2 (if handleOwner s holder = some q.owner then holder else 0xFFFF))) (begun q cid s)))

/-- REBIND_ADAPTER of the weights as they stand, with no use of them, binds the entry to MODEL_VERSION and counts the version
up; QUERY_ADAPTER replies with the entry's 64 bytes, its locked lines and its oldest drain record; a cold version that a use wants
and whose plain host image arrives is written to the pool place made for it. -/
def Obligations.RebindQueryFetch : Prop :=
  (∀ (q : QId) (cid : Nat) (c : Cmd) (s : State),
    let b := begun q cid s
    let h := fld c.pb 0 2
    let e := entryOf s h
    handleCheck s q.owner h = none →
    (∀ image n m v i, Due opRebindAdapter 32 [(2, 2), (20, 4)] q cid c s → (e.state = .ready ∨ e.state = .stale) → e.train = 0 →
      fld c.pb 16 4 = 0 → findSlot s q.owner e.modelId (fld c.pb 4 4) = some n → tblGet s.gaz.slots n = some m → e.cur = some v →
      v.refs = 0 → adCheck (asImage e v (fld c.pb 4 4)) m = some i → ∃ t, exec (.rebindAdapter q cid image) s =
        .next (completes 32 c (finRes 0x0000 (zeros 4 ++ natLe 4 (v.version + 1))) t) ∧
        ((entryOf t h).state, (entryOf t h).modelVersion, (entryOf t h).cur.map (·.version)) =
          (.ready, fld c.pb 4 4, some (v.version + 1))) ∧
    (Due opQueryAdapter 24 [(2, 6), (20, 4)] q cid c s → exec (.queryAdapter q cid) s = .next (completes 24 c
      (finReply (entryBytes b q.owner h ++ natLe 8 ((e.cur.map (fun v => v.locks.length)).getD 0) ++
        natLe 4 (((s.gaz.drains.find? (fun d => d.handle == h)).map (fun d => sizeKib d.ver)).getD 0) ++ zeros 4)) b))) ∧
  (∀ (n h a : Nat) (k : Court) (v : AdVersion) (image : List Byte) (s t : State), handleOwner s h = some n →
    courtOf s n = some k → k.conf = false → (entryOf s h).cur = some v → v.wanted = true → v.poolAt = none →
    coldKind (entryOf s h).coldAt = 1 → ideEnded s (entryOf s h).via = false → fnWrites s (entryOf s h).via = true →
    v.imageLen ≤ image.length → makeRoom n v.imageLen ⟨n, 64⟩ h s = (t, .at_ a) →
    exec (.adapterColdFetch h v.version image) s = .next
      (modEntry h (fun e => { e with cur := e.cur.map (fun v => { v with poolAt := some a, wanted := false }) })
        (courtWrite k a (image.take v.imageLen) (dropXfer (.fetch h v.version) t))))

/-! ### Inference serving -/

/-- SERVE that meets no refusal makes a sequence, in the Court's batch of the plan and the base slot, or in a new batch, and
stays unretired; SET_STREAM_RING makes the ring of a plain Court, empty, with PHASE 1. -/
def Obligations.ServeJoins : Prop :=
  ∀ (q : QId) (cid : Nat) (c : Cmd) (s : State),
    let b := begun q cid s
    let k := began s c
    (∀ prompt p n, Due opServe 688 [(44, 4), (58, 2)] q cid c s → seqOfCmd s q cid = none → serveRefusal b k = none →
      pkgOf s q.owner (fld c.pb 0 4) = some p → findBatch b q.owner (fld c.pb 0 4) (fld c.pb 4 1) = some n →
      exec (.serve q cid prompt) s = .next (addSeq k n prompt b) ∧
      seqOf (addSeq k n prompt b) s.srv.nextSeq = some (newSeq k n prompt) ∧
      (findCmd (addSeq k n prompt b) q cid).isSome = true) ∧
    (∀ prompt p t, Due opServe 688 [(44, 4), (58, 2)] q cid c s → seqOfCmd s q cid = none → serveRefusal b k = none →
      pkgOf s q.owner (fld c.pb 0 4) = some p → findBatch b q.owner (fld c.pb 0 4) (fld c.pb 4 1) = none →
      newBatch b q.owner (fld c.pb 0 4) (fld c.pb 4 1) p = some t → exec (.serve q cid prompt) s = .next
        (addSeq k s.srv.nextBatch prompt
          { b with srv.batches := tblSet s.srv.batches s.srv.nextBatch t, srv.nextBatch := s.srv.nextBatch + 1 })) ∧
    (Due opSetStreamRing 16 [(6, 2)] q cid c s → confCourt s q.owner = false → fld c.pb 0 2 ≤ 16383 → 255 ≤ fld c.pb 2 2 →
      (fld c.pb 4 2 ≤ 63 ∨ fld c.pb 4 2 = 0xFFFF) → fld c.pb 8 8 % 4096 = 0 →
      (∀ e ∈ s.srv.seqs, e.2.q.owner = q.owner → e.2.ring = fld c.pb 0 2 → e.2.gone = true) → exec (.setStreamRing q cid) s =
      (let r : StreamRing := {
          via := c.via, base := fld c.pb 8 8, depth := fld c.pb 2 2 + 1,
          vector := if fld c.pb 4 2 = 0xFFFF then none else some (fld c.pb 4 2), head := 0, wr := 0, phase := true,
          written := 0, kt := k.kt, epoch := 0 }
       .next (completes 16 c (finSt 0x0000) { b with srv.rings := tblSet s.srv.rings (streamKey q.owner (fld c.pb 0 2)) r })))

/-- PARK of a running sequence that can be parked is taken up for the boundary and stays unretired, of a parked one restarts
its time to live; RESUME of a PARKED one is taken up, of a running one completes with ALREADY_DONE; both of a CID that is
no SERVE of the queue fail with NOT_FOUND. The parking copy and the return done, the sequence is parked, or RUNNING again;
at its time to live's end a parked sequence ends with TIMEOUT and REASON 7. -/
def Obligations.ParkAndReturn : Prop :=
  (∀ (q : QId) (cid : Nat) (c : Cmd) (s : State),
    let b := begun q cid s
    (Due opPark 8 [(1, 1)] q cid c s → (∀ e ∈ s.srv.seqs, e.2.parkReq ≠ some (q, cid)) → fld c.pb 4 4 ≤ 604800 →
      (serveTarget b c = none → exec (.park q cid) s = .next (completes 8 c (finSt 0x1005) b)) ∧
      (∀ i u, serveTarget b c = some (some (i, u)) → u.state = .running → u.copy = .none → u.parkReq = none → u.ended = none →
        parkable b u = true → exec (.park q cid) s = .next (modSeq i (fun u => { u with parkReq := some (q, cid) }) b)) ∧
      (∀ i u, serveTarget b c = some (some (i, u)) → u.state = .parkedAuto → u.copy = .none → exec (.park q cid) s = .next
        (completes 8 c (finSt 0x0000) (armTtl i u (if fld c.pb 4 4 = 0 then u.ttl else fld c.pb 4 4)
          (modSeq i (fun u => { u with state := .parked }) b))))) ∧
    (Due opResume 8 [(1, 1), (4, 4)] q cid c s → (∀ e ∈ s.srv.seqs, e.2.resumeReq ≠ some (q, cid)) →
      (serveTarget b c = none → exec (.resume q cid) s = .next (completes 8 c (finSt 0x1005) b)) ∧
      (∀ i u, serveTarget b c = some (some (i, u)) → u.state = .running → exec (.resume q cid) s =
        .next (completes 8 c (finSt 0x0002) b)) ∧
      (∀ i u, serveTarget b c = some (some (i, u)) → u.state = .parked → u.resumeReq = none → exec (.resume q cid) s =
        .next (modSeq i (fun u => { u with resumeReq := some (q, cid) }) b)))) ∧
  (∀ (i : Nat) (u : Seq) (t : Batch) (k : Court) (s : State), seqOf s i = some u → u.gone = false → s.sq.ready = true →
    courtOf s u.q.owner = some k → batchOf s u.batch = some t →
    (u.copy = .out → xferOf s (.park i) = none → k.conf = false → coldKind u.parkAt = 1 → pagesPoisoned s [] u = none →
      ∀ d, findCmd s u.q u.cid = some d → fnWrites s d.via = true → exec (.parkCopyComplete i []) s =
        .next (settleWatch (parked i u (hostWrite d.via (u.parkAt % 2 ^ 57) (kvImage s k t u) s)))) ∧
    (u.copy = .back → k.conf = false → coldKind u.parkAt = 1 → ∀ d image, findCmd s u.q u.cid = some d →
      ideEnded s d.via = false → fnWrites s d.via = true → u.pages.length * t.kvLayers * (2 * t.kvHalf) ≤ image.length →
      exec (.returnCopyComplete i image) s = .next (returned i u k t image s) ∧
      (seqOf (returned i u k t image s) i).map (fun u => (u.state, u.copy)) = some (.running, .none)) ∧
    (∀ e, (u.state = .parked ∨ u.state = .parkedAuto) → u.copy = .none → u.expires = some e →
      (e ≤ s.sq.time → exec (.parkTtlExpiry i) s = .next (endSeq i 0x4002 7 s)) ∧
      (s.sq.time < e → exec (.parkTtlExpiry i) s = .next s)))

/-- A batch at a boundary that nothing delays releases what has ended, reserves, returns and joins, and a batch left without
sequences is gone; the step's plan having run, SERVING_STEP_RETIRE samples, emits and brings the batch to its next boundary
or part. -/
def Obligations.ServingSteps : Prop :=
  ∀ (n : Nat) (t : Batch) (k : Court) (p : Package) (s : State), batchOf s n = some t → courtOf s t.court = some k →
    k.state = .ready → s.sq.ready = true → s.sq.takeover = false →
    (∀ heads, t.phase = .boundary → t.stopWait = 0 → t.asking = none → t.stage ≠ 0 → copying s t.court n = false →
      batchSeqs s n = [] → exec (.stepBoundary n heads) s = .next { s with srv.batches := tblErase s.srv.batches n }) ∧
    (∀ heads, t.phase ≠ .boundary → exec (.stepBoundary n heads) s = .next s) ∧
    (∀ code u, t.phase = .stepping → pkgOf s t.court t.plan = some p → takeRun s (.serving t.court n t.step) = some (code, u) →
      bit t.modes 6 = false → (batchOf (sampleStep n code k p [] u) n).map (·.modes) = some t.modes →
      exec (.servingStepRetire n []) s = .next (settleWatch (finishStep n k p (sampleStep n code k p [] u)))) ∧
    (t.phase = .decided → pkgOf s t.court t.plan = some p → exec (.servingStepRetire n []) s =
      .next (settleWatch (finishStep n k p s)))

/-! ### Training and distillation -/

/-- STEP and DISTIL_STEP pass the first stage of their checks and wait to open, unretired; a number other than the group's
next step fails with STATE_CONFLICT, and the RESULT gives the next step. STEP_OPEN of a waiting step whose package, bindings, base and symbols are in place binds and starts its plan, and one whose
package is gone, or whose group is BROKEN, fails and votes; VOTE_CAST casts the vote of a step whose plan has ended; PROGRESS_TIMEOUT
counts, and before the vote fails what waits for the group and casts the vote. -/
def Obligations.StepsStartAndRun : Prop :=
  (∀ (q : QId) (cid : Nat) (c : Cmd) (s : State), c.work = [] →
     let b := begun q cid s
     let wait (s : State) : State := modCmd q cid (fun d => { d with work := [1] }) s
     (Due opStep (stepLay c) [(42, 6)] q cid c s → stepRefusal b c false = none → exec (.step q cid) s = .next (wait b)) ∧
     (Due opDistilStep (stepLay c) [(44, 4)] q cid c s → stepRefusal b c true = none →
       exec (.distilStep q cid) s = .next (wait b)) ∧
     (∀ g, Due opStep (stepLay c) [(42, 6)] q cid c s → grpOf s (stepKey c) = some g → g.state = .formed →
       fld c.pb 8 8 ≠ g.nextStep → exec (.step q cid) s =
         .next (completes (stepLay c) c (finRes 0x3007 (natLe 8 g.nextStep)) b))) ∧
  (∀ (n group : Nat) (g : Group) (s : State),
     let key := grpKey n group
     grpOf s key = some g → s.sq.ready = true → s.sq.takeover = false →
     (∀ c k, g.step = none → stepCmd s key = some c → courtOf s n = some k → checkpointRuns s key c = false →
       (g.state = .broken → exec (.stepOpen n group) s = .next (openFail key c 0x3007 s)) ∧
       (g.state = .formed → pkgOf s n (fld c.pb 0 4) = none → exec (.stepOpen n group) s = .next (openFail key c 0x1002 s)) ∧
       (∀ p base teacher ys ys0 u, g.state = .formed → pkgOf s n (fld c.pb 0 4) = some p → bindsRefusal s n (stepBinds c.pb) = none →
         stepBase s n c = .ok base → teacherSlot s n c = .ok teacher →
         let hs := (stepBinds c.pb).map (·.1)
         let e : SymEnv := ⟨n, p, stepBufs c.pb, 1, hs, base⟩
         stepSyms s e teacher = some ys0 →
         demandAll hs (base.toList ++ teacher.toList ++ handleSlots s n hs).eraseDups s = (u, .ok) →
         stepSyms u e teacher = some ys → exec (.stepOpen n group) s = .next (bindStep key k c p base teacher ys u))) ∧
     (∀ t, g.step = some t → t.phase = .opened → t.ended = true → takeRun s (.training (grpCourt key) (key % 65536)) = none →
       exec (.voteCast n group) s = .next (castVote key s)) ∧
     (∀ t, g.step = some t → t.phase = .opened →
       let count (s : State) : State := modGrp key (fun g => { g with timeouts := (g.timeouts + 1) % 2 ^ 32 }) s
       (s.sq.time < t.progress + fld g.pb 28 4 * msUnits → exec (.progressTimeout n group) s = .next s) ∧
       (t.progress + fld g.pb 28 4 * msUnits ≤ s.sq.time → t.buckets.all (fun b => bucketOver s.sq.addr g t b.1) = false →
         exec (.progressTimeout n group) s = .next (castVote key (loseContexts key (count s))))))

/-- CHECKPOINT of a plain Court with room in its destination writes the image to host memory and gives its length and the
committed step; RESTORE of an image that names nothing but Court memory writes its sections back and sets the committed step;
DISTIL_JOB OPEN records the job and END ends it. -/
def Obligations.CheckpointsAndJobs : Prop :=
  ∀ (q : QId) (cid : Nat) (c : Cmd) (g : Group) (m : Court) (s : State), courtOf s q.owner = some m → m.conf = false →
    let b := begun q cid s
    (∀ u v, Due opCheckpoint (ckLay c) [(4, 4), (32, 8)] q cid c s → grpOf s (grpKey q.owner (fld c.pb 0 2)) = some g →
      ckFieldsOk c.pb = true → g.state ≠ .forming → c.progress = 0 → ckAwaits b (grpKey q.owner (fld c.pb 0 2)) = [] →
      ckHandles c.pb = [] → u = modCmd q cid (fun d => { d with work := [], progress := max 1 d.progress }) b →
      demand [] none u = (v, .ok) → (ckRanges v m c.pb).all (fun r => courtRangeOk m r.1 r.2) = true →
      rangesPoison v m [] (ckRanges v m c.pb ++ ckPools v c.pb) = none →
      128 + (ckBody (ckImage v m c.pb)).length ≤ fld c.pb 16 8 → fnWrites s c.via = true →
      exec (.checkpoint q cid [] true) s = .next (settleWatch (completes (ckLay c) c
        (finRes 0x0000 (natLe 8 (128 + (ckBody (ckImage v m c.pb)).length) ++ natLe 8 g.committed))
        (ckWrite { began s c with work := [] } m g (ckImage v m c.pb) v)))) ∧
    (∀ image step l, Due opRestore 24 [(18, 6)] q cid c s →
      let key := grpKey q.owner (fld c.pb 16 2)
      grpOf s key = some g → g.state ≠ .forming → groupBusy b key q cid = false → image.length = fld c.pb 8 8 →
      ckParse image = some (rankOf g.pb s.sq.addr, step, l) → (∀ x ∈ l, x.kind ≠ 4) →
      l.all (fun x => courtRangeOk m x.dest x.body.length) = true → exec (.restore q cid image true) s =
        .next (completes 24 c (finSt 0x0000) (modGrp key (fun g => { g with committed := step, nextStep := (step + 1) % 2 ^ 64 })
          (ckPlace m l (discardHeld key b))))) ∧
    (∀ r, Due opDistilJob 32 [(3, 1), (24, 8)] q cid c s → jobFieldsOk c.pb = true → fld c.pb 0 1 = 1 →
      tblGet s.jobs (jobKey q.owner (fld c.pb 1 1)) = none → tblGet s.gaz.slots (fld c.pb 2 1) = some r → r.state = .resident →
      grpOf s (grpKey q.owner (fld c.pb 4 2)) = some g → g.state = .formed → slotFor r q.owner = true →
      pairDie s m.blocks = true → exec (.distilJobOpen q cid) s = .next (completes 32 c (finRes 0x0000 (natLe 4 r.modelVersion))
        { b with jobs := tblSet s.jobs (jobKey q.owner (fld c.pb 1 1)) ⟨fld c.pb 2 1, fld c.pb 4 2, fld c.pb 6 2, fld c.pb 8 4,
            fld c.pb 12 4, fld c.pb 16 4, fld c.pb 20 4, r.modelId, r.modelVersion⟩ })) ∧
    (Due opDistilJob 32 [(3, 1), (24, 8)] q cid c s → fld c.pb 0 1 = 2 → fld c.pb 1 1 < 4 → jobBusy b q.owner (fld c.pb 1 1) = false →
      (tblGet s.jobs (jobKey q.owner (fld c.pb 1 1))).isSome = true → ∃ t, exec (.distilJobEnd q cid) s =
        .next (completes 32 c (finSt 0x0000) t) ∧ tblGet t.jobs (jobKey q.owner (fld c.pb 1 1)) = none)

/-! ### Collective groups -/

/-- R326: a member's relative coordinates, its canonical rank, box members, helpers and the terminal. The relative coordinate in
dimension i is (d_i − lo_i) mod 16; the rank weighs the four by 4096, 256, 16 and 1; a box member has every coordinate below
n_i; a helper of a group that may be formed has one at n_i or above, so its rank is no box member's; the terminal is the box member
whose coordinates are all n_i − 1. -/
def Obligations.CanonicalRanks : Prop :=
  ∀ (pb : List Byte) (addr : Nat),
    (∀ i < 4, (relCoord pb addr i : Int) = ((addr / 16 ^ i % 16 : Nat) - (fld pb 16 2 / 16 ^ i % 16 : Nat) : Int) % 16) ∧
    rankOf pb addr = relCoord pb addr 3 * 4096 + relCoord pb addr 2 * 256 + relCoord pb addr 1 * 16 + relCoord pb addr 0 ∧
    (inBox pb addr = true ↔ ∀ i < 4, relCoord pb addr i < boxN pb i) ∧
    (∀ s k, formOk s k pb = true → addr ∈ grpHelpers pb → (∃ i < 4, boxN pb i ≤ relCoord pb addr i) ∧
      ∀ a, inBox pb a = true → rankOf pb a ≠ rankOf pb addr) ∧
    (∀ i < 4, relCoord pb (terminalOf pb) i = boxN pb i - 1) ∧ inBox pb (terminalOf pb) = true ∧
    (∀ a, (∀ i < 4, relCoord pb a i = boxN pb i - 1) → rankOf pb a = rankOf pb (terminalOf pb))

/-- FORM_GROUP makes a group that waits for its members, unretired, and one refused changes nothing; GROUP_STATUS replies with the group's 64 bytes
and home table; DISSOLVE_GROUP dissolves a formed group that nothing uses, and a FORMING or unknown one fails with
STATE_CONFLICT. A group frame of no group's open step, a FORM frame of no forming group and a LEAVE frame of no group are discarded and counted
as errors of their Avenue. A LEAVE frame makes a formed group BROKEN; a FORM frame of a member is its offer; REDUCE, RESULT,
BROADCAST, VOTE and REPAIR frames of an open step act at this device's place in the tree. -/
def Obligations.GroupsAndFrames : Prop :=
  (∀ (q : QId) (cid : Nat) (c : Cmd) (k : Court) (s : State), courtOf s q.owner = some k →
     let b := begun q cid s
     let key := grpKey q.owner (fld c.pb 0 2)
     (∀ st, Due opFormGroup (formLay c) [(36, 4), (48, 16)] q cid c s →
       (grpOf s (grpKey q.owner (fld (formPb c) 0 2))).any (fun g => g.by_ == some (q, cid)) = false →
       formRefusal b q.owner k (formPb c) = some st → exec (.formGroup q cid) s = .next (completes (formLay c) c (finSt st) b)) ∧
     (Due opFormGroup (formLay c) [(36, 4), (48, 16)] q cid c s → formRefusal b q.owner k (formPb c) = none →
       1 < memberCount (formPb c) → ∃ t g, exec (.formGroup q cid) s = .next t ∧
         grpOf t (grpKey q.owner (fld (formPb c) 0 2)) = some g ∧ g.pb = formPb c ∧ g.state = .forming ∧ g.by_ = some (q, cid) ∧
         g.offers = [(s.sq.addr, formHash (formPb c), fld (formPb c) 32 4)] ∧ (findCmd t q cid).isSome = true) ∧
     (∀ g, Due opGroupStatus 24 [(2, 6)] q cid c s → grpOf s key = some g → g.state ≠ .forming →
       exec (.groupStatus q cid) s = .next (completes 24 c (finReply (grpStatusBytes b g)) b)) ∧
     (∀ g, Due opDissolveGroup 8 [(2, 6)] q cid c s → grpOf s key = some g → g.state ≠ .forming → groupBusy b key q cid = false →
       exec (.dissolveGroup q cid) s = .next (completes 8 c (finSt 0x0000) (dissolve key b)) ∧ grpOf (dissolve key b) key = none) ∧
     (Due opDissolveGroup 8 [(2, 6)] q cid c s → (grpOf s key).all (fun g => g.state == .forming) = true →
       exec (.dissolveGroup q cid) s = .next (completes 8 c (finSt 0x3007) b))) ∧
  (∀ (av : Nat) (m : List Byte) (s u : State),
     let h := hdrOf m
     (∀ f : List Byte → Bool, takeFrame f s = some (av, m, u) → f m = true ∧ ∃ x, (av, x, m) ∈ s.inbox ∧ u = { s with inbox := s.inbox.erase (av, x, m) }) ∧
     (takeFrame (isKind frLeave) s = some (av, m, u) →
       (grpByTag u (fld m 0 4) = none → exec .leaveFrame s = .next (frameError av u)) ∧
       (∀ key g, grpByTag u (fld m 0 4) = some (key, g) → g.state ≠ .forming →
         exec .leaveFrame s = .next (modGrp key (fun g => { g with state := .broken }) u))) ∧
     (takeFrame (isKind frForm) s = some (av, m, u) →
       (formingFor u m = none → exec .formFrame s = .next (frameError av u)) ∧
       (∀ key g, formingFor u m = some (key, g) → isMember g.pb (addrOf g.pb h.bucket) = true →
         exec .formFrame s = .next (takeForm key g m u))) ∧
     (takeFrame (fun m => isKind frReduce m && reduceReady s m) s = some (av, m, u) →
       (frameStep u m = none → exec .reduceFrame s = .next (frameError av u)) ∧
       (∀ key g t, frameStep u m = some (key, g, t) → reduceFits u g t h = true →
         let p := frameCrypt u key g.pb false t.number (rankOf g.pb u.sq.addr - 16 ^ h.stage) h (m.drop 16)
         exec .reduceFrame s = .next (takeAll key [] (askHome key (foldAt 4 key h.bucket h.stage h.block
           (modBucket key h.bucket (fun r => { r with came := tblSet r.came (stageKey h.stage h.block) (blockOf h p) })
             (openBucket key h.bucket (progressed key u)))))))) ∧
     (takeFrame (isKind frResult) s = some (av, m, u) →
       (frameStep u m = none → exec (.resultFrame []) s = .next (settleWatch (frameError av u))) ∧
       (∀ key g t, frameStep u m = some (key, g, t) → resultDue u g t h = true →
         let p := frameCrypt u key g.pb false t.number (rankOf g.pb (terminalOf g.pb)) h (m.drop 16)
         exec (.resultFrame []) s = .next (settleWatch (takeAll key []
           (askHome key (homeTake key h.bucket h.block (blockOf h p) (h.fmt != 0 || bit h.flags 0) u)))))) ∧
     (takeFrame (fun m => isKind frBroadcast m && broadcastReady s m) s = some (av, m, u) →
       (frameStep u m = none → exec .broadcastFrame s = .next (frameError av u)) ∧
       (∀ key g t home, frameStep u m = some (key, g, t) → g.homes[h.bucket]? = some home →
         let p := frameCrypt u key g.pb false t.number (rankOf g.pb home) h (m.drop 16)
         exec .broadcastFrame s = .next (settle ((receivers t h).foldl (fun s e =>
           receiverBlock key e.1 e.2 (!bit h.flags 1) ((List.range 32).map (fun i => fld p (2 * i) 2)) s) (progressed key
             ((fanChildren g.pb (entryFor u g.pb home) u.sq.addr).foldl
               (fun s a => sendFrame key g.pb t.number (rankOf g.pb home) a h p s) u)))))) ∧
     (takeFrame (fun m => isKind frVote m && voteReady s m) s = some (av, m, u) →
       (frameStep u m = none → exec .voteFrame s = .next (frameError av u)) ∧
       (∀ key g t, frameStep u m = some (key, g, t) →
         let p := frameCrypt u key g.pb false t.number h.bucket h (m.drop 16)
         exec .voteFrame s = .next (voteUp (applyOutcome 4 key) key (modStep key (fun t => { t with
           acc := combinePiece (!inRepair t) (grpShards g.pb) h.block t.acc p
           votes := tblSet t.votes h.block (tblGetD t.votes h.block 0 + 1) }) u)))) ∧
     (takeFrame (fun m => isKind frOutcome m && outcomeReady s m) s = some (av, m, u) →
       (frameStep u m = none → exec .outcomeFrame s = .next (frameError av u)) ∧
       (∀ key g t, frameStep u m = some (key, g, t) → inBox g.pb u.sq.addr = false → t.outGot = [] →
         256 < voteLen g.pb (!inRepair t) →
         let p := frameCrypt u key g.pb false t.number h.bucket h (m.drop 16)
         let len := voteLen g.pb (!inRepair t)
         let old := padTo len t.outcome
         exec .outcomeFrame s = .next (modStep key (fun t => { t with
           outcome := (old.take (256 * h.block) ++ p ++ old.drop (256 * h.block + 256)).take len, outGot := [h.block] }) u))) ∧
     (takeFrame (fun m => isKind frRepair m && repairReady s m) s = some (av, m, u) →
       (frameStep u m = none → exec .repairFrame s = .next (frameError av u)) ∧
       (∀ key g t rank, frameStep u m = some (key, g, t) → inBox g.pb u.sq.addr = false →
         t.repair.find? (fun p => p.1 == h.bucket) = some (h.bucket, rank) →
         let p := frameCrypt u key g.pb false t.number rank h (m.drop 16)
         exec .repairFrame s = .next (settle (secondVote (applyOutcome 4 key) key (repairBlock key h.bucket h.block p u))))))

/-! ### The Update Engine's instructions -/

/-- The thirteen Update Engine instructions. Each word that spells the row's operation writes register DST of Junction j's
file with the 32 lane results of R307 on the lanes that A, B and C name, leaves the other fifteen registers, and adds its
saturations to the program's count; END ends the program and writes no register. -/
def Obligations.UpdateEngineSteps : Prop :=
  ∀ (j word : Nat) (i : UeInstr) (s : State), j < 4 → ueInstr (natLe 8 word) = some i →
    let u := ueOf s j
    let lane (k : Nat) : FpM F32 :=
      ueLane i.op ((ueLanes u.v u.h i.a).getD k 0) ((ueLanes u.v u.h i.b).getD k 0) ((ueLanes u.v u.h i.c).getD k 0)
    (i.op = 0 → exec (.ueEnd j word) s = .next { s with ue := tblSet s.ue j { u with ended := true } }) ∧
    (∀ p ∈ [(1, Instr.ueMov j word), (2, .ueAdd j word), (3, .ueSub j word), (4, .ueMul j word), (5, .ueMadd j word),
        (6, .ueDiv j word), (7, .ueSqrt j word), (8, .ueMax j word), (9, .ueMin j word), (10, .ueAbs j word),
        (11, .ueSign j word), (12, .ueSel j word)], i.op = p.1 → u.v.length = 16 →
      ∃ v k, exec p.2 s = .next { s with ue := tblSet s.ue j { u with v := v, ended := false, counts := k } } ∧
        (∀ r ≠ i.dst, v[r]? = u.v[r]?) ∧ k.nonfin = u.counts.nonfin ∧
        v[i.dst]? = some ((List.range 32).map (fun l => (runFp (lane l)).1)))

/-! ### Work orders -/

/-- A dispatched work order of a row's TYPE, with its OP or MODE, acts as its body says in its context (`WoEnv`), on the
state that its reads' findings leave; what the body wrote, counted and answered stands in the work order's result, which
retires later. -/
def Obligations.BlockWorkOrders : Prop :=
  ∀ (w : WoRef) (mem : Findings) (e : Sent) (c : Court) (s : State), courtOf s e.k.court = some c →
    let f := applyFindings false mem s
    let u := noteFixes e.bs mem f.s
    let x : Ctx := ⟨e.k.court, c, e.k, e.bs, f.bad, f.storeBad, allPriv u⟩
    let ends (body : State → WoEnv → FpM WoOut) : Host.Outcome State Fault Refusal :=
      .next (settleWatch (woEnd w e x (runFp (body u (envOf u e x))).1 (runFp (body u (envOf u e x))).2 u))
    (sentWo s w 1 anyWo = some e → exec (.gemm w mem) s = ends gemmBody) ∧
    (sentWo s w 2 anyWo = some e → exec (.groupedLowrank w mem) s = ends glrBody) ∧
    (sentWo s w 3 anyWo = some e → exec (.attention w mem) s = ends attnBody) ∧
    (sentWo s w 4 anyWo = some e → exec (.norm w mem) s = ends normBody) ∧
    (∀ p ∈ [(1, Instr.elementwiseAdd w mem), (2, .elementwiseMul w mem), (3, .elementwiseAxpy w mem),
        (4, .elementwiseSilu w mem), (5, .elementwiseSwiglu w mem), (6, .elementwiseRelu w mem), (8, .elementwiseWadd w mem),
        (9, .elementwisePassFold w mem), (10, .elementwiseWfin w mem)],
      sentWo s w 5 (eltIs p.1) = some e → exec p.2 s = ends eltBody) ∧
    (sentWo s w 5 (eltIs 7) = some e → runStep u e.k = none → exec (.elementwiseConvert w mem) s = ends eltBody) ∧
    (∀ p ∈ [(0, Instr.copyPlain w mem), (1, .copySkew w mem), (2, .copyGather w mem)],
      sentWo s w 6 (copyIs p.1) = some e → exec p.2 s = ends copyBody) ∧
    (∀ b, sentWo s w 6 (remoteReady s w) = some e → boundBlock u w.run (fld e.wo 74 2) = some b →
      exec (.copyRemote w mem) s = ends (copyRemoteBody b)) ∧
    (sentWo s w 9 (pairIs 1) = some e → exec (.viaductPairPass1 w mem) s = .next (settleWatch (pairAct w e x u))) ∧
    (sentWo s w 9 (pairIs 2) = some e → exec (.viaductPairPass2 w mem) s = .next (settleWatch (pairAct w e x u)))

/-- What a Block work order leaves alone: running and ending one changes no queue pair, ring or unretired command, no Gazetteer entry,
no Court's Blocks, granules or state, no group, and no other stream of its run. -/
def Obligations.WorkOrderFrame : Prop :=
  ∀ (w : WoRef) (e : Sent) (x : Ctx) (o : WoOut) (k : Counts) (s : State), o.supply = none → runStep s e.k = none →
    let t := woEnd w e x o k s
    t.cmd.queues = s.cmd.queues ∧ t.cmd.cmds = s.cmd.cmds ∧ t.gaz = s.gaz ∧ t.grps = s.grps ∧ t.pkgs = s.pkgs ∧
    (∀ n, (courtOf t n).map (fun c => (c.state, c.blocks, c.gtab, c.sems)) =
      (courtOf s n).map (fun c => (c.state, c.blocks, c.gtab, c.sems))) ∧
    (∀ r i, (r, i) ≠ (w.run, w.stream) → (streamOf t r i).map (·.2) = (streamOf s r i).map (·.2))

/-- REDUCE_SEND and UPDATE in an open step: a LAYER send feeds its tensor to its bucket and is done, a TILE send opens its bucket
and frees its Block, an UPDATE registers its shard; outside a training step each fails with BAD_FIELD. -/
def Obligations.StepWorkOrders : Prop :=
  ∀ (w : WoRef) (e : Sent) (c : Court) (s : State), courtOf s e.k.court = some c →
    let x : Ctx := ⟨e.k.court, c, e.k, e.bs, [], false, allPriv s⟩
    let bad : Host.Outcome State Fault Refusal := .next (settleWatch (woRefuse w e tcBadField s))
    (runStep s e.k = none →
      (sentWo s w 7 (sendIs 0) = some e → exec (.reduceSendLayer w []) s = bad) ∧
      (sentWo s w 7 (sendIs 1) = some e → e.bs ≠ [] → exec (.reduceSendTile w []) s = bad) ∧
      (sentWo s w 8 anyWo = some e → exec (.update w []) s = bad)) ∧
    (∀ key g t o, runStep s e.k = some (key, g, t) → sendOp s (envOf s e x) 0 g t = .ok o → sentWo s w 7 (sendIs 0) = some e →
      exec (.reduceSendLayer w []) s =
        (let r := sendLayer key (envOf s e x) o s
         let u := chargeCounts e r.2 r.1
         .next (settleWatch (settle (finishWo w.run w.stream (woResult u e tcOk 0 false r.2) u))))) ∧
    (∀ key g t o, runStep s e.k = some (key, g, t) → sendOp s (envOf s e x) 1 g t = .ok o → sentWo s w 7 (sendIs 1) = some e →
      e.bs ≠ [] → exec (.reduceSendTile w []) s = .next (settleWatch (settle (progressed key
        (modStream w.run w.stream (fun t => { t with head := .sent [], chain := [] })
          (releaseBlocks e.bs (beginBucket key o (some (w.run, w.stream)) s))))))) ∧
    (∀ key g t d, runStep s e.k = some (key, g, t) → t.shards = [] → updateShard s (envOf s e x) g t w.run w.stream = .ok d →
      sentWo s w 8 anyWo = some e → exec (.update w []) s =
        .next (settleWatch (registerShard key d [] (progressed key s))))

/-- The Square's own work orders: ACQUIRE makes the stream wait its turn, RELEASE gives back what the stream holds and fails with
BAD_FIELD where that is more than it holds, ADD adds, both with SEM_RANGE where the value would leave its range; FENCE waits until
COUNT members are ready; NOP is done at once; an executed work order retires. -/
def Obligations.SquareWorkOrders : Prop :=
  ∀ (w : WoRef) (k : Run) (t : RunStream) (wo : List Byte) (s : State),
    let i := k.semBase + fld wo 34 2
    (squareWo s w 10 = some (k, t, wo) → fld wo 32 1 = 1 → exec (.semAcquire w) s = .next
      (serveWaiters (let u := modStream w.run w.stream (fun t => { t with head := .waiting s.sq.time }) s
        { u with semWait := s.semWait ++ [(w.run, w.stream, i)] }))) ∧
    (squareWo s w 10 = some (k, t, wo) → fld wo 32 1 = 2 →
      (tblGetD t.held i 0 < fld wo 36 4 → exec (.semRelease w) s = .next (squareDone w tcBadField s)) ∧
      (fld wo 36 4 ≤ tblGetD t.held i 0 → semAdd k.court i (fld wo 36 4) s = none →
        exec (.semRelease w) s = .next (squareDone w tcSemRange s)) ∧
      (∀ u, fld wo 36 4 ≤ tblGetD t.held i 0 → semAdd k.court i (fld wo 36 4) s = some u →
        exec (.semRelease w) s = .next (settle (serveWaiters (squareDone w tcOk (modStream w.run w.stream (fun t => { t with
          held := if tblGetD t.held i 0 = fld wo 36 4 then tblErase t.held i
            else tblSet t.held i (tblGetD t.held i 0 - fld wo 36 4) }) u)))))) ∧
    (squareWo s w 10 = some (k, t, wo) → fld wo 32 1 = 3 →
      (semAdd k.court i (fld wo 36 4) s = none → exec (.semAdd w) s = .next (squareDone w tcSemRange s)) ∧
      (∀ u, semAdd k.court i (fld wo 36 4) s = some u →
        exec (.semAdd w) s = .next (settle (serveWaiters (squareDone w tcOk u))))) ∧
    (squareWo s w 11 = some (k, t, wo) → findBarrier s k.court (fld wo 32 2) (fld wo 36 4) = none → 1 < fld wo 34 2 →
      exec (.fence w) s = .next { modStream w.run w.stream (fun t => { t with head := .waiting s.sq.time }) s with
        barriers := s.barriers.filter (fun x => !(x.court == k.court && x.group == fld wo 32 2 && x.id == fld wo 36 4)) ++
          [⟨k.court, fld wo 32 2, fld wo 36 4, fld wo 34 2, [(w.run, w.stream)]⟩] }) ∧
    (∀ b, squareWo s w 11 = some (k, t, wo) → findBarrier s k.court (fld wo 32 2) (fld wo 36 4) = some b → b.count ≠ fld wo 34 2 →
      exec (.fence w) s = .next (squareDone w tcBadField s)) ∧
    (squareWo s w 12 = some (k, t, wo) → exec (.nop w) s = .next (squareDone w tcOk s)) ∧
    (retiresNow s = true → exec (.workOrderRetire w) s = .next (retireWo w.run w.stream s))

/-- A chained Local stream that must yield gives up its Blocks at its slice's end; the stores of a stream being saved go to
the save area and its Blocks are free; stores being brought back are in place again. The hold limits: a Local stream that holds semaphores past the Court's hold limit loses them, and its work order fails with SEM_HOLD_EXCEEDED;
a Local Viaduct chain past it is withdrawn; an Express stream, or one within the limit, is left alone. -/
def Obligations.ContextsAndHolds : Prop :=
  (∀ (w : WoRef) (k : Run) (t : RunStream) (s : State), streamOf s w.run w.stream = some (k, t) → retiresNow s = true →
     (t.express = false → t.chain ≠ [] → t.chain.all (fun b => useOf s b == some (.chained w.run w.stream)) = true →
       sliceOver s w.run w.stream k.court t = true → mustYield s w.run w.stream = true →
       exec (.sliceExpiry w) s = .next (preempt w.run w.stream s)) ∧
     (t.chain ≠ [] → t.chain.all (fun b => useOf s b == some (.saving w.run w.stream)) = true → t.saved = [] →
       exec (.contextSaveComplete w []) s = .next (settleWatch (saveDone w.run w.stream k t s))) ∧
     (t.chain ≠ [] → t.chain.all (fun b => useOf s b == some (.saving w.run w.stream)) = true → t.saved ≠ [] →
       exec (.contextSaveComplete w []) s = .next (settleWatch (restoreDone w.run w.stream k t none s)))) ∧
  (∀ (w : WoRef) (k : Run) (t : RunStream) (s : State), streamOf s w.run w.stream = some (k, t) → retiresNow s = true →
     (t.express = true ∨ t.held = [] ∨ s.sq.time < t.heldSince + holdUnits s k.court → exec (.semHoldLimit w) s = .next s) ∧
     (t.express = false → t.held ≠ [] → t.heldSince + holdUnits s k.court ≤ s.sq.time → t.head ≠ .ended →
       exec (.semHoldLimit w) s = .next (faultStream w.run w.stream tcSemHoldExceeded
         (modStream w.run w.stream (fun t => { t with held := [] })
           (t.held.foldl (fun s p => semSet k.court p.1 (semVal s k.court p.1 + p.2) s) s)))) ∧
     (∀ since, viaSince s k t = some since →
       (t.express = false → since + holdUnits s k.court ≤ s.sq.time →
         exec (.viaductHoldLimit w) s = .next (faultStream w.run w.stream tcWithdrawn s)) ∧
       (t.express = true ∨ s.sq.time < since + holdUnits s k.court → exec (.viaductHoldLimit w) s = .next s)))

/-! ### The Timetable -/

/-- SET_TIMETABLE notes a Court's new row, or the new cycle, for the cycle boundary; TIMETABLE_CYCLE at a boundary makes
them the rows in force, and a changed cycle starts there; a slot's lead start, start and end reserve, take and give up its Blocks, and count
what came late, ran over or fell short. -/
def Obligations.TimetableRows : Prop :=
  (∀ (q : QId) (cid : Nat) (c : Cmd) (t : State) (s : State),
    Due opSetTimetable (16 + 16 * min (fld c.pb 2 2) 257) [(1, 1)] q cid c s → fld c.pb 2 2 ≤ 256 →
    (fld c.pb 0 1 < 16 → setRow c.pb (begun q cid s) = (t, .fin (finSt 0x0000)) → exec (.setTimetable q cid) s =
      .next (completes (16 + 16 * min (fld c.pb 2 2) 257) c (finSt 0x0000) t) ∧
      (courtOf t (fld c.pb 0 1)).bind (·.rowNext) = some ⟨ttSlots c.pb, fld c.pb 8 4, fld c.pb 12 4⟩ ∧
      (courtOf t (fld c.pb 0 1)).map (·.row) = (courtOf s (fld c.pb 0 1)).map (·.row)) ∧
    (fld c.pb 0 1 = 16 → setCycle c.pb (begun q cid s) = (t, .fin (finSt 0x0000)) → exec (.setTimetable q cid) s =
      .next (completes (16 + 16 * min (fld c.pb 2 2) 257) c (finSt 0x0000) t) ∧ t.tt.cycle = s.tt.cycle ∧
      t.tt.cycleNext.isSome = true)) ∧
  (∀ s : State, retiresNow s = true →
    (s.sq.time < s.tt.t0 ∨ (s.sq.time - s.tt.t0) % s.tt.cycle ≠ 0 → exec .timetableCycle s = .next s) ∧
    (s.tt.t0 ≤ s.sq.time → (s.sq.time - s.tt.t0) % s.tt.cycle = 0 → exec .timetableCycle s =
      (let changed := (s.courts.filter (fun p => p.2.rowNext.isSome)).map (·.1)
       let u := { s with
        courts := s.courts.map (fun (p : Nat × Court) => (p.1, { p.2 with row := p.2.rowNext.getD p.2.row, rowNext := none }))
        tt.active := s.tt.active.filter (fun a => !changed.contains a.court) }
       .next (settle (match s.tt.cycleNext with
        | some n => { u with tt.cycle := n, tt.t0 := s.sq.time, tt.cycleNext := none }
        | none => u))))) ∧
  (∀ (n slot : Nat) (c : Court) (t : TtSlot) (s : State), retiresNow s = true → s.tt.t0 ≤ s.sq.time → courtOf s n = some c →
    c.row.slots[slot]? = some t →
    (slotActive s n slot = none → sincePlace s (t.start + s.tt.cycle - t.lead) < t.lead →
      exec (.slotLeadStart n slot) s = .next (settle (reserveSlot n slot c t false s))) ∧
    (∀ a, slotActive s n slot = some a → a.inForce = false → sincePlace s t.start < t.length → ∃ u, exec (.slotStart n slot) s = .next (settle u) ∧
      u.tt.active = s.tt.active.map (fun a => if a.court = n ∧ a.slot = slot then { a with inForce := true } else a)) ∧
    (∀ a, slotActive s n slot = some a → a.inForce = true → t.length ≤ sincePlace s t.start → exec (.slotEnd n slot) s =
      .next (settle (modCourt n (fun c => { c with slotOverrun := satAdd 64 c.slotOverrun (taggedRunning s n t.tag) })
        { s with tt.active := s.tt.active.filter (fun a => !(a.court == n && a.slot == slot)) }))))

/-! ### Partner stores -/

/-- MIGRATE asks the target to adopt the Court's store, and one that moves already fails with STATE_CONFLICT. Messages of the other devices are taken up oldest first: PUT, GET, TIMER, LAST_IN_EPOCH and FORWARDED
reach the store; an ADOPT that may be taken makes this store the origin's, in the new epoch, and is answered by DONE; DATA gives a
GET its bytes and ends it; a DONE of no request, an UNREACHABLE of none and a NOTICE are taken up. A marked range of a partner store expires when its time comes: its bytes are written to zero, and the range is marked as
expired; before then nothing happens. -/
def Obligations.PartnerMessages : Prop :=
  ((∀ (q : QId) (cid : Nat) (c : Cmd) (k : Court) (t : Store) (s : State), Due opMigrate 8 [(4, 4)] q cid c s → q.owner ≠ 16 →
     fld c.pb 0 1 = 1 → q.owner < 16 → (∀ r ∈ s.part.stores, ∀ m ∈ r.move, ¬(m.q = q ∧ m.cid = cid)) → courtOf s q.owner = some k → k.state = .ready →
     s.part.stores.find? (fun t => t.court == q.owner && t.role == .home) = some t →
     (t.move.isSome = true ∨ fld c.pb 2 2 = s.sq.addr → exec (.migrate q cid) s = .next (completes 8 c (finSt 0x3007) (begun q cid s))) ∧
     (t.move = none → fld c.pb 2 2 ≠ s.sq.addr → ∃ u, exec (.migrate q cid) s = .next u ∧ (findCmd u q cid).isSome = true ∧
       ∃ r ∈ u.part.reqs, r.token = s.part.token ∧ r.use = .adopt q.owner ∧ r.dest = fld c.pb 2 2)) ∧
   (∀ (tc : Nat) (m : List Byte) (s u : State),
     (takeMsg (isKind 0x10) s = some (tc, m, u) → exec .put s = .next (pumpAll (storeArrive (arrivalOf tc m) [] u))) ∧
     (takeMsg (isKind 0x11) s = some (tc, m, u) → exec (.get []) s = .next (settleWatch (pumpAll (storeArrive (arrivalOf tc m) [] u)))) ∧
     (takeMsg (isKind 0x15) s = some (tc, m, u) → exec .timer s = .next (pumpAll (storeArrive (arrivalOf tc m) [] u))) ∧
     (takeMsg (isForward 3) s = some (tc, m, u) → exec .lastInEpoch s = .next (pumpAll (storeArrive (arrivalOf tc m) [] u))) ∧
     (takeMsg (fun m => isKind 0x14 m && !(isForward 2 m || isForward 3 m || isForward 4 m)) s = some (tc, m, u) →
       isForward 1 m = true → exec .forwarded s = .next (pumpAll (storeArrive (arrivalOf tc m) [] u))) ∧
     (takeMsg (isForward 4) s = some (tc, m, u) → ∀ t c,
       let x := arrivalOf tc m
       u.part.stores.find? (fun t => t.court == arrCourt x && t.role == .home) = some t → courtOf u (arrCourt x) = some c →
       x.courts % 16 = arrCourt x → t.written = false → t.adopted = false → t.move = none → fld x.body 11 2 ≤ c.store →
       exec .adopt s = .next (pumpAll (sendMsg 0 16 x.src none
         (devMsg u 0x13 (arrCourt x) x.epoch 0 (doneBody (arrOrigin x) 0 0 x.seq u.sq.addr (fld x.body 6 2)))
         (modStore (arrCourt x) t.origin (fun t => { t with
           origin := arrOrigin x, epoch := fld x.body 6 2, prev := x.epoch, adopted := true, adopter := some x.src,
           senders := [], ranges := [], expired := [] }) u)))) ∧
     (takeMsg (isKind 0x12) s = some (tc, m, u) →
       (∀ r, u.part.reqs.find? (fun r => r.token == fld m 20 4 && isKind 0x11 r.msg) = some r → exec .data s = .next (useDone r.use
         { modXfer r.use (fun x => { x with got := memPutBytes none x.got r.off ((m.drop 32).take r.len) }) u with
           part.reqs := u.part.reqs.filter (fun x => x.token != r.token) })) ∧
       (u.part.reqs = [] → exec .data s = .next u)) ∧
     (takeMsg (isKind 0x13) s = some (tc, m, u) →
       (doneFor u m = none → exec .done s = .next u) ∧
       (∀ r, doneFor u m = some r → fld m 18 1 = 0 → isMove r.use = false → exec .done s = .next (useDone r.use
         { u with part.reqs := u.part.reqs.filter (fun x => x.token != r.token) })) ∧
       (∀ r, doneFor u m = some r → fld m 18 1 = 1 → exec .done s = .next { u with part.reqs := u.part.reqs.map (fun x =>
         if x.token = r.token then { x with retryAt := some (u.sq.time + 1000) } else x) })) ∧
     (takeMsg (isForward 2) s = some (tc, m, u) → u.part.reqs = [] → exec .notice s =
       (let p := mapOf u (fld m 6 1 / 16) (fld m 16 2)
        let n := seqAfter p.seq
        .next (pumpAll (sendMsg 0 16 (fld m 4 2) none (devMsg u 0x14 (fld m 6 1 / 16) p.epoch n
           (forwardBody (fld m 16 2) 3 (fld m 20 2) (fld m 22 2) u.sq.addr 0 0 []))
         (setMap { p with home := fld m 20 2, epoch := fld m 22 2, seq := n } u).2)))) ∧
     (takeMsg (isKind 0x16) s = some (tc, m, u) → fld (slice m 16 16) 7 1 ≠ 0x14 →
       (u.part.reqs = [] → exec .unreachable s = .next u) ∧
       (∀ r, u.part.reqs.find? (fun r => r.msg.take 16 == slice m 16 16) = some r → isMove r.use = false →
         exec .unreachable s = .next (useLost r.use false r.dest
           { u with part.reqs := u.part.reqs.filter (fun x => x.token != r.token) })))) ∧
   (∀ (token : Nat) (r : PartnerReq) (at_ : Nat) (s : State), s.part.reqs.find? (fun r => r.token == token) = some r → r.retryAt = some at_ →
     (s.sq.time < at_ → exec (.partnerRetry token) s = .next s) ∧
     (at_ ≤ s.sq.time → exec (.partnerRetry token) s = .next (post r.tc (if r.tc = 0 then 16 else fld r.msg 6 1 % 16) r.dest r.msg
       { s with part.reqs := s.part.reqs.map (fun x => if x.token = token then { x with retryAt := none } else x) })))) ∧
  (∀ (court n : Nat) (t : Store) (c : Court) (r : Nat × Nat × Nat) (s : State),
     s.part.stores.find? (fun t => t.court == court && t.role == .home) = some t → courtOf s court = some c → t.ranges[n]? = some r →
     (s.sq.time < r.2.2 → exec (.partnerRangeExpiry court n) s = .next s) ∧
     (r.2.2 ≤ s.sq.time → exec (.partnerRangeExpiry court n) s = .next
       (modStore court t.origin (fun t => { t with ranges := t.ranges.erase r, expired := t.expired ++ [(r.1, r.2.1)] })
         (courtWrite c (storeAt c + r.1) (zeros r.2.1) s))))

/-! ### Avenues -/

/-- Bringing an Avenue up: a training Avenue in use trains, one DOWN on a mismatch trains again when its 10 s are over, one whose
neighbour has been reset trains; HELLO is answered with the responder's key message or fails the establishment; a KEY_RESPONSE or
KEY_CONFIRM whose signature verifies loads the keys and the Avenue is UP, and one that does not verify posts AVENUE_AUTH_FAIL and
waits 10 s; AUTH_RETRY starts again then; at slot 2^32 a direction moves to its next key and slot 0. -/
def Obligations.AvenuesComeUp : Prop :=
  ∀ (av : Nat) (v : Avenue) (s : State), avOf s av = some v →
    (∀ look, avAwake s = true → v.phase = .training → avenueUsed s av = true → exec (.avenueTraining av look) s = .next (trainAv av look s)) ∧
    (∀ look t, avAwake s = true → v.phase = .down → v.retryAt = some t →
      (s.sq.time < t → exec (.avenueTrainRetry av look) s = .next s) ∧
      (t ≤ s.sq.time → exec (.avenueTrainRetry av look) s =
        .next (trainAv av look (modAv av (fun v => { v with phase := .training, retryAt := none }) s)))) ∧
    (avAwake s = true → avenueUsed s av = true → ∃ t, exec (.neighbourReset av) s = .next t ∧
      (avOf t av).map (fun w => (w.phase, w.retryAt)) = some (.training, none)) ∧
    (∀ msg, v.phase = .keying → v.retryAt = none → initiator s av = false →
      (msg.length ≠ 17568 → exec (.avenueHello av msg) s = .next (authFail av (tookKeying av msg s))) ∧
      (msg.length = 17568 →
        let u := tookKeying av msg s
        let r := draw 32 u
        let e := Config.kemEncap (msg.take 1568) r.1
        let n := draw 32 r.2
        let body := padTo 1568 e.1 ++ n.1 ++ ownCerts u
        let m := body ++ bakSign u (sha256 (msg ++ body))
        exec (.avenueHello av msg) s = .next (if (peerBak (msg.drop 1600)).isSome = true
          then sendKeying av m (modAv av (fun v => { v with transcript := msg ++ m, secret := padTo 32 e.2 }) n.2)
          else authFail av u)) ∧
      (v.transcript ≠ [] → exec (.avenueKeyConfirm av msg) s = .next
        (if (peerBak (slice v.transcript 1600 15968)).any (fun pk => Config.slhVerify pk (sha256 v.transcript) msg) = true
         then loadKeys av v.secret (sha256 v.transcript) (tookKeying av msg s) else authFail av (tookKeying av msg s)))) ∧
    (∀ msg, v.phase = .keying → v.retryAt = none → initiator s av = true → v.transcript ≠ [] →
      (msg.length ≠ 25424 → exec (.avenueKeyResponse av msg) s = .next (authFail av (tookKeying av msg s))) ∧
      (msg.length = 25424 →
        let h := sha256 (v.transcript ++ msg)
        exec (.avenueKeyResponse av msg) s = .next (if (peerBak ((msg.take 17568).drop 1600)).any (fun pk =>
            Config.slhVerify pk (sha256 (v.transcript ++ msg.take 17568)) (msg.drop 17568)) = true
          then loadKeys av (padTo 32 (Config.kemDecap v.secret ((msg.take 17568).take 1568))) h
            (sendKeying av (bakSign (tookKeying av msg s) h) (tookKeying av msg s))
          else authFail av (tookKeying av msg s)))) ∧
    (∀ t, v.retryAt = some t → v.phase = .keying →
      (s.sq.time < t → exec (.avenueAuthRetry av) s = .next s) ∧
      (t ≤ s.sq.time → exec (.avenueAuthRetry av) s = .next (sendHello av (modAv av (fun v => { v with retryAt := none }) s)))) ∧
    (v.txSlot < 2 ^ 32 → exec (.avenueKeyRollover av true) s = .next s) ∧
    (2 ^ 32 ≤ v.rxSlot → ∃ t, exec (.avenueKeyRollover av false) s = .next t ∧
      (avOf t av).map (fun w => (w.rxKey, w.rxEpoch, w.rxSlot)) =
        some (kdf v.rxKey "ralio-next" (natLe 4 v.rxEpoch), (v.rxEpoch + 1) % 2 ^ 32, 0))

/-- The link: a DATA flit of the expected SEQ is taken, credited, delivered and answered, one ahead of it makes one NAK, one
behind it is only answered, and an IDLE flit's header counts; a flit that the FEC cannot correct is counted and no payload of it
acts; NAK replays from its SEQ, LANE_SWAP moves the lane, WIDTH and RETRAIN retrain; 2 µs without an ACK replay the oldest
flit; a failing lane is spared. -/
def Obligations.FlitsAct : Prop :=
  ∀ (av : Nat) (v : Avenue) (flit : List Byte) (fec : FecIn) (s : State), avOf s av = some v →
    (v.phase = .up → v.rxSlot < 2 ^ 32 → flit.length = 600 → fec.ok = true →
      let h := fld flit 0 8
      let u := modAv av (fun v => { v with rxSlot := v.rxSlot + 1, corrected := v.corrected + fec.corrected }) s
      let w := takeHdr av h u
      let opened := (Config.gcmOpen v.rxKey (padTo 4 v.rxSalt ++ natLe 8 v.rxSlot) (flit.take 8) (slice flit 8 584) (flit.drop 592)).map
        (padTo 584)
      (h % 4 = 1 → exec (.dataFlit av flit fec) s = .next (match opened with
        | none => tagLimit av (nakData av (tagFailed av u))
        | some p =>
          if bits h 32 22 = v.rxNext then answer av (deliver av (bits h 5 2) (bits h 21 6) (bits h 63 54) p
            (modAv av (fun w => { w with rxNext := (w.rxNext + 1) % 2048, nakOut := false
                                         credOut := tblSet w.credOut (bits h 5 2) (tblGetD w.credOut (bits h 5 2) 0 + 1) }) w))
          else if (bits h 32 22 + 2048 - v.rxNext) % 2048 < 1024 then nakData av w else answer av w)) ∧
      (h % 4 = 0 → exec (.idleFlit av flit fec) s = .next (match opened with
        | none => tagLimit av (tagFailed av u)
        | some _ => pumpAll w)) ∧
      (h % 4 = 2 → ∀ e ∈ [(1, Instr.nak av flit fec), (2, .laneSwap av flit fec), (3, .width av flit fec), (4, .retrain av flit fec)],
        exec e.2 s = .next (match opened with
        | none => tagLimit av (tagFailed av u)
        | some p => if ((controlWords p).find? (fun c => c.1 != 0)).map (·.1) = some e.1
          then pumpAll ((controlWords p).foldl (fun s c => controlWord av c s) w) else s))) ∧
    (v.phase = .up → v.rxSlot < 2 ^ 32 → flit.length = 600 → fec.ok = false → fld flit 0 8 % 4 = 0 → ∃ t,
      exec (.idleFlit av flit fec) s = .next (tagLimit av t) ∧ (avOf t av).map (fun w => (w.uncorrected, w.rxSlot, w.rxNext)) =
        some (v.uncorrected + 1, v.rxSlot + 1, v.rxNext)) ∧
    (∀ n f r, v.unacked = (n, f) :: r →
      (s.sq.time < v.ackAt + 200 → exec (.replayTimeout av) s = .next s) ∧
      (v.ackAt + 200 ≤ s.sq.time → exec (.replayTimeout av) s = .next (replayFrom av n s))) ∧
    (∀ lane, v.phase = .up → lane < 16 → v.failed = [] → v.width = 16 → ∃ t, exec (.laneFailure av lane) s = .next t ∧
      (avOf t av).map (fun w => (w.failed, w.spareRx, w.width)) = some ([lane], some lane, 16))

/-! ### Security and attestation -/

/-- INSTALL_WRAPPED_KEY: a transport key that unwraps becomes current, with the nonce drawn for it as RESULT, and the one before
it is superseded; an image or group key joins the Court's keys; a wrong epoch fails with STATE_CONFLICT, a wrap that does not open with
KEY_UNWRAP_FAILED; REMOVE takes a key away, or completes with ALREADY_DONE. REGISTER_SIGNER of a plain Court: OP 1 adds a new signer, at most sixteen, and one already registered completes with
ALREADY_DONE; OP 2 removes one, and one that is not registered completes with ALREADY_DONE. -/
def Obligations.KeysAndSigners : Prop :=
  (∀ (q : QId) (cid : Nat) (c : Cmd) (k : CourtKeys) (s : State), Due opInstallWrappedKey (wrapLay c) [] q cid c s →
     keysOf s q.owner = some k → wrapOk c.pb = true →
     let b := begun q cid s
     let kind := fld c.pb 1 1
     let id := fld c.pb 8 8
     (fld c.pb 0 1 = 1 → zeroFld c.pb 1596 4 = true →
       (fld c.pb 4 4 ≠ epochOf s q.owner → exec (.installWrappedKeyInstall q cid) s = .next (completes (wrapLay c) c (finSt 0x3007) b)) ∧
       (fld c.pb 4 4 = epochOf s q.owner →
         (kind = 1 → k.old = none → exec (.installWrappedKeyInstall q cid) s = .next (match unwrap q.owner k c.pb with
           | some key => completes (wrapLay c) c (finRes 0x0000 (draw 16 b).1)
               (installTransport q.owner key (draw 16 b).1 (draw 16 b).2)
           | none => completes (wrapLay c) c (finSt 0x2005) b)) ∧
         (kind ≠ 1 → k.keys.any (fun w => w.id == id) = false → k.keys.length < 256 →
           exec (.installWrappedKeyInstall q cid) s = .next (match unwrap q.owner k c.pb with
           | some key => completes (wrapLay c) c (finRes 0x0000 (natLe 8 id))
               { b with sec.courts := tblModify b.sec.courts q.owner (fun k => { k with keys := k.keys ++ [⟨kind == 3, id, key⟩] }) }
           | none => completes (wrapLay c) c (finSt 0x2005) b)))) ∧
     (fld c.pb 0 1 = 2 → kind ≠ 1 → fld c.pb 4 4 = epochOf s q.owner →
       (k.keys.any (fun w => w.id == id && w.group == (kind == 3)) = false → exec (.installWrappedKeyRemove q cid) s =
         .next (completes (wrapLay c) c (finSt 0x0002) b)) ∧
       (k.keys.any (fun w => w.id == id && w.group == (kind == 3)) = true → (kind = 3 → groupNames s q.owner id = false) →
         exec (.installWrappedKeyRemove q cid) s = .next (completes (wrapLay c) c (finSt 0x0000)
           { b with sec.courts := tblModify b.sec.courts q.owner (fun k =>
             { k with keys := k.keys.filter (fun w => !(w.id == id && w.group == (kind == 3))) }) })))) ∧
  (∀ (q : QId) (cid : Nat) (c : Cmd) (s : State), Due opRegisterSigner 56 [(1, 1), (4, 4)] q cid c s → confCourt s q.owner = false →
     zeroFld c.pb 40 16 = true → fld c.pb 2 2 = 1 →
     let b := begun q cid s
     let pk := slice c.pb 8 32
     let l := signersOf s q.owner
     (fld c.pb 0 1 = 1 →
       (pk ∈ l → exec (.registerSignerAdd q cid) s = .next (completes 56 c (finSt 0x0002) b)) ∧
       (pk ∉ l → 16 ≤ l.length → exec (.registerSignerAdd q cid) s = .next (completes 56 c (finSt 0x3006) b)) ∧
       (pk ∉ l → l.length < 16 → exec (.registerSignerAdd q cid) s = .next (completes 56 c (finSt 0x0000)
         { b with sec.signers := tblSet s.sec.signers q.owner (l ++ [pk]) }))) ∧
     (fld c.pb 0 1 = 2 →
       (pk ∉ l → exec (.registerSignerRemove q cid) s = .next (completes 56 c (finSt 0x0002) b)) ∧
       (pk ∈ l → exec (.registerSignerRemove q cid) s = .next (completes 56 c (finSt 0x0000)
         { b with sec.signers := tblSet s.sec.signers q.owner (l.filter (fun x => x != pk)) }))))

/-- ATTEST replies with the report of the Court, or of the device, over what it names at its start; inside an activation window it
completes with BUSY_TRANSITION. -/
def Obligations.Attestation : Prop :=
  ∀ (q : QId) (cid : Nat) (c : Cmd) (k : Bak) (s : State), findCmd s q cid = some c → s.sq.ready = true → c.opcode = opAttest →
    c.started = false → canStart s c = true → startCheck s c (attestLay c) [(36, 4)] = none → s.sec.bak = some k →
    let b := begun q cid s
    (∀ ms, windowHint s = some ms → attestOk c (if q.owner = 16 then fld c.pb 32 1 else q.owner) = true →
      exec (.attest q cid) s = .next (completes (attestLay c) c (finRes 0x3002 (natLe 4 ms)) b)) ∧
    (windowHint s = none → q.owner = 16 → fld c.pb 32 1 = 0xFF → attestOk c 0xFF = true →
      exec (.attest q cid) s = .next (completes (attestLay c) c
        (let r := report b k (slice c.pb 0 32) 0xFF false (deviceEntries b)
         { finReply r with result := natLe 4 r.length }) b)) ∧
    (∀ m, windowHint s = none → q.owner < 16 → attestOk c q.owner = true → courtOf s q.owner = some m → m.state = .ready →
      (attestHandles c.pb).findSome? (attestHandle b q.owner) = none → exec (.attest q cid) s = .next (completes (attestLay c) c
        (let r := report b k (slice c.pb 0 32) q.owner (fld c.pb 33 1 == 1) (courtEntries b q.owner m (attestHandles c.pb))
         { finReply r with result := natLe 4 r.length }) b))

/-- R443: in a confidential Court with no transport key, DMA_WRITE, DMA_READ, LOAD_PACKAGE, SERVE, SET_STREAM_RING, CHECKPOINT,
RESTORE, SET_RING of an assist ring and REGISTER_SIGNER fail with NOT_PERMITTED and have no effect, where nothing else refuses them:
they would start if the Court were not confidential. -/
def Obligations.ConfidentialNeedsKey : Prop :=
  ∀ (q : QId) (cid : Nat) (c : Cmd) (k : Court) (s : State), findCmd s q cid = some c → s.sq.ready = true → s.sq.takeover = false →
    c.started = false → canStart s c = true → hostWaits s c = false → courtOf s q.owner = some k → k.conf = true → curKey s q.owner = 0 →
    let plain := modCourt q.owner (fun k => { k with conf := false }) s
    let t := retire c (finSt 0x2001) s
    (∀ data mem, c.opcode = opDmaWrite → startCheck plain c 32 [(25, 7)] = none → exec (.dmaWrite q cid data mem) s = .next (settleWatch t)) ∧
    (∀ n mem, c.opcode = opDmaRead → startCheck plain c 32 [(25, 7)] = none → exec (.dmaRead q cid n mem) s = .next (settleWatch t)) ∧
    (∀ image, c.opcode = opLoadPackage → startCheck plain c 32 [(28, 4)] = none → exec (.loadPackage q cid image) s = .next t) ∧
    (∀ prompt, c.opcode = opServe → startCheck plain c 688 [(44, 4), (58, 2)] = none → exec (.serve q cid prompt) s = .next t) ∧
    (c.opcode = opSetStreamRing → startCheck plain c 16 [(6, 2)] = none → exec (.setStreamRing q cid) s = .next t) ∧
    (∀ mem whole, c.opcode = opCheckpoint → startCheck plain c (ckLay c) [(4, 4), (32, 8)] = none →
      exec (.checkpoint q cid mem whole) s = .next (settleWatch t)) ∧
    (∀ image whole, c.opcode = opRestore → startCheck plain c 24 [(18, 6)] = none → exec (.restore q cid image whole) s = .next t) ∧
    (c.opcode = opSetRing → fld c.pb 0 1 = 1 → startCheck plain c 32 [(1, 1), (6, 2)] = none → exec (.setRing q cid) s = .next t) ∧
    (c.opcode = opRegisterSigner → startCheck plain c 56 [(1, 1), (4, 4)] = none → fld c.pb 0 1 ≠ 2 →
      exec (.registerSignerAdd q cid) s = .next t) ∧
    (c.opcode = opRegisterSigner → startCheck plain c 56 [(1, 1), (4, 4)] = none → fld c.pb 0 1 = 2 →
      exec (.registerSignerRemove q cid) s = .next t)

/-! ### Firmware and the Squares -/

/-- STAGE_FIRMWARE of an image that verifies stages it in the slot not selected, and the RESULT is its Square version; ACTIVATE_FIRMWARE and HANDOVER that
meet no conflict start, unretired: the standby boots the staged slot, fetching stops, or the takeover window opens;
HANDOVER with QUERY reports the standby's state and version. -/
def Obligations.FirmwareCommands : Prop :=
  ∀ (q : QId) (cid : Nat) (c : Cmd) (s : State),
    let b := begun q cid s
    (∀ image, Due opStageFirmware 24 [(16, 8)] q cid c s → c.progress = 0 → stagingBusy b c = false → fld c.pb 8 8 ≤ 2 ^ 25 →
      image.length = fld c.pb 8 8 →
      let u := emptyStaging (modCmd q cid (fun c => { c with progress := 1 }) b)
      exec (.stageFirmware q cid image true) s = .next (match fwRefused u.flash image with
        | some st => completes 24 c (finSt st) u
        | none => completes 24 c (finRes 0x0000 (natLe 4 (fwImageOf image).square.version))
            { u with flash := { setStaging (some (fwImageOf image)) u.flash with staged := true } }) ∧
      (fwFormOk image = false → fwRefused u.flash image = some 0x1002)) ∧
    (Due opActivateFirmware 8 [(1, 7)] q cid c s → s.sq.act = none →
      (fld c.pb 0 1 = 0 → activateRefused s 0 = false → exec (.activateFirmwareHot q cid) s =
        .next { b with sq.act := some ⟨q, cid, true, .preparing⟩, sq.standby := .booting }) ∧
      (fld c.pb 0 1 = 1 → activateRefused s 1 = false → (∃ d ∈ s.cmd.cmds, d.q ≠ q ∨ d.cid ≠ cid) → ∀ finds,
        exec (.activateFirmwareWarm q cid finds) s = .next { b with sq.act := some ⟨q, cid, false, .warming⟩ })) ∧
    (Due opHandover 8 [(1, 7)] q cid c s →
      (fld c.pb 0 1 = 0 → s.sq.standby = .inService → s.sq.act = none → ∃ t, exec (.handover q cid) s = .next t ∧
        t.sq.act = some ⟨q, cid, false, .window s.sq.time⟩ ∧ t.sq.takeover = true ∧ (findCmd t q cid).isSome = true) ∧
      (fld c.pb 0 1 = 1 → exec (.handoverQuery q cid) s = .next (completes 8 c
        (finRes 0x0000 (natLe 1 (standbyCode s.sq.standby) ++ zeros 3 ++ natLe 4 (sqVersion s.sq.standbyFw))) b)))

/-- The Squares. A heartbeat is noted and a time update brings the shadow count to Square time; a status sample samples; with no takeover open,
SQUARE_TAKEOVER acts only once three heartbeats are missed or a check failed, with no standby in service FATAL is set, and
otherwise the other Square is active with its shadow count and 64 units; inside the window of a HANDOVER the takeover completes and
the command retires; a rebooted Square is in service again once resynchronised; a failed standby is absent; a hot
activation commits once the old Square runs the new image. -/
def Obligations.SquaresChange : Prop :=
  ∀ s : State, s.sq.ready = true →
    (s.sq.standby = .inService → exec .squareHeartbeat s = .next { s with sq.beatAt := s.sq.time }) ∧
    (s.sq.standby = .inService → exec .squareTimeSync s = .next { s with sq.shadow := s.sq.time }) ∧
    (exec .statusSample s = .next { s with
      smp := ⟨s.sq.time, throttleCounts s, s.blocks.map (fun p => (p.1, blockCounters p.2))⟩ }) ∧
    (∀ d, s.sq.takeover = false →
      (s.sq.time < s.sq.beatAt + 30 * msUnits → exec (.squareTakeover d false) s = .next s) ∧
      (s.sq.standby ≠ .inService → ∃ t, exec (.squareTakeover d true) s = .next t ∧
        (s.sq.fatal = false → t.sq.fatal = true ∧ t.sq.ready = false ∧ t.sq.faultN = true)) ∧
      (s.sq.standby = .inService → driftOk s d = true → ∃ t, exec (.squareTakeover d true) s = .next t ∧
        t.sq.active = 1 - s.sq.active ∧ t.sq.time = ((s.sq.time : Int) + d + 64).toNat ∧ t.sq.takeover = true ∧
        t.sq.standby = .booting ∧ t.cmd = s.cmd)) ∧
    (∀ d a t0 check, s.sq.takeover = true → s.sq.act = some a → a.hot = false → a.phase = .window t0 →
      (s.sq.time ≤ t0 + 200 * msUnits → driftOk s d = true → exec (.squareTakeover d check) s =
        .next (retireAct a (finSt 0x0000) (endTakeover (changeActive d s)))) ∧
      (t0 + 200 * msUnits < s.sq.time → exec (.squareTakeover d check) s = .next (failWindow a s))) ∧
    (s.sq.takeover = false → s.sq.standby = .resyncing → s.sq.act = none → exec .standbyResyncComplete s = .next
      { s with sq.standby := .inService, sq.beatAt := s.sq.time, sq.shadow := s.sq.time, sq.standbyFw := s.sq.running }) ∧
    (s.sq.standby ≠ .absent → s.sq.act = none → exec .standbySquareFailure s =
      .next { s with sq.standby := .absent, sq.standbyFw := none }) ∧
    (∀ a g, s.sq.takeover = false → s.sq.act = some a → s.sq.running = some g → a.phase = .following → s.sq.standby = .inService →
      exec .firmwareCommit s = .next (retireAct a (finRes 0x0000 (natLe 4 g.square.version)) { s with flash := commitImage g s.flash }))

/-! ### Memory events -/

/-- A scrub read counts and mends what it finds in its line; an ECS read adds the rise of the slot's counter to the hour; the hourly
roll starts a new hour and drops what is 24 hours old; a map-out moves the granules it retires, and its end installs the new map; a channel that fails hard is down, and
every read of its lines delivers poison. -/
def Obligations.MemoryEvents : Prop :=
  ∀ s : State, s.sq.ready = true →
    (∀ line found, line < dpaEnd → exec (.scrubRead line found) s =
      .next (settleWatch (applyFindings true (found.filter (scrubOnly line)) s).s)) ∧
    (∀ slot value, slot < 384 → slot ∉ s.mem.hardDown → slot ∉ s.mem.mapped → value = (chanOf s slot).l1Last →
      exec (.ecsCounterRead slot value) s = .next (setChan slot { chanOf s slot with l1 := addNow 0 (chanOf s slot).l1, l1Last := value } s)) ∧
    (exec .errorBucketRoll s = .next { s with mem.chans := s.mem.chans.map (fun p => (p.1, rollChan p.2)) }) ∧
    (∀ slot hard rest, s.mem.mapNow = none → s.mem.mapQueue = (slot, hard) :: rest →
      (∀ G ∈ retiring (s.mem.mapped.length + 1), tblGet s.mem.granules G = none) → exec .channelMapout s =
        .next { s with mem.mapQueue := rest, mem.mapNow := some (slot, hard), mem.mapPending := false }) ∧
    (∀ slot, s.mem.mapNow = some (slot, false) → ∃ t, exec .mapoutDone s = .next t ∧ t.mem.mapped = s.mem.mapped ++ [slot] ∧
      t.mem.mapNow = none ∧ t.mem.hbm = s.mem.hbm ∧ hbmUsable t = 1152 - 3 * (s.mem.mapped.length + 1)) ∧
    (∀ slot, slot < 384 → slot ∉ s.mem.hardDown → slot ∉ s.mem.mapped → ∃ t, exec (.channelHardFail slot) s = .next t ∧
      slot ∈ t.mem.hardDown ∧ (∀ line, (homeOf t.mem.mapped line).2 = slot → linePoison t line = true)) ∧
    (∀ slot, 384 ≤ slot → exec (.channelHardFail slot) s = .fault .noSuchAddress ∧ ∀ v, exec (.ecsCounterRead slot v) s = .fault .noSuchAddress)

/-! ### Dies, ageing and Roadworks -/

/-- Clocks and dies: a lost REFCLK0 moves the die to REFCLK1, the loss of both, of a Junction's reference, or a die's failure is
fatal; a PLL that unlocks posts a record, a repaired lane counts; a thermal trip resets every die and loses every key; a
monitor's trip puts the confidential Courts of its die up for zeroisation; a Block's parity, residue or watchdog trip isolates it. -/
def Obligations.DieFaults : Prop :=
  ∀ (die : Nat) (ppm : Option Int) (s : State), alive s = true →
    (refDie die = true → refLost ppm = true →
      (tblGet s.sq.refs die = none → exec (.refclkSwitch die ppm) s = .next (postClock 0x01 die ppm { s with sq.refs := tblSet s.sq.refs die 1 })) ∧
      (tblGet s.sq.refs die = some 1 → ∃ t, exec (.refclkBothLost die ppm) s = .next t ∧ t.sq.fatal = true ∧ t.sq.ready = false)) ∧
    (refLost ppm = false → exec (.refclkSwitch die ppm) s = .next s ∧ exec (.refclkBothLost die ppm) s = .next s ∧
      exec (.junctionRefLost die ppm) s = .next s) ∧
    (junctionDie die = true → refLost ppm = true → ∃ t, exec (.junctionRefLost die ppm) s = .next t ∧ t.sq.fatal = true) ∧
    (refDie die = true → exec (.pllUnlock die) s = .next (postClock 0x03 die none s)) ∧
    (refDie die = true → die < 0x40 → ∃ t, exec (.fatalDieFault die) s = .next t ∧ t.sq.fatal = true ∧ t.sq.faultN = true) ∧
    (exec .dieLinkLaneRepair s = .next { s with sq.laneRepairs := s.sq.laneRepairs + 1 }) ∧
    (refDie die = true → ∃ t, exec (.thermalTrip die) s = .next t ∧ t.sq.thermtripN = true ∧ t.sq.ready = false ∧ t.sec.courts = [] ∧ t.sec.bak = none) ∧
    (dieCode die = true → exec (.glitchTrip die) s = .next (settleWatch ((glitchCourts s die).foldl (fun s n =>
        { s with sec.zero := s.sec.zero ++ [(n, zeroCause 1 die)] }) s)) ∧
      ∀ n ∈ glitchCourts s die, ∃ k, (n, k) ∈ s.courts ∧ k.conf = true ∧ (16 ≤ die ∨ ∃ b ∈ courtPhys s k, dieOf b = die)) ∧
    (∀ b k, s.sq.ready = true → tblGet s.blocks b = some k →
      (∀ check, canFault k = true → check = 1 ∨ check = 2 → exec (.blockFault b check) s = .next (tripCheck b check k s)) ∧
      (∀ r i, k.use = .busy r i → exec (.blockWatchdogTrip b) s = .next (tripCheck b 3 k s)))

/-- Ageing: a survey measures a die that is not moving; a rail within 5 mV of its target, and a finished glide, complete their
change and are counted; a wanted swap takes the lowest idle spare; the slice decision of a die, a slice's end and its abandonment; a lapsed
visit posts one record; the hourly write copies the availability record. -/
def Obligations.AgeingRows : Prop :=
  ∀ s : State, s.sq.ready = true →
    (∀ die d meas, dieState s die = some d → dieMoving d = false → exec (.surveyMeasure die meas) s = .next (settle (measureDie die meas s))) ∧
    (∀ die d meas mv tries read, dieState s die = some d → d.change = .rail mv tries →
      (railOk mv read = true → exec (.avsRailConfirm die read meas) s = .next (settle (measureDie die meas (startWaiting
        (postAge (dieRec 0x01 die d.urgent) (modDie die (fun d => { d with
          rail := mv, railSteps := d.railSteps + 1, railFault := false, change := .none }) s)))))) ∧
      (railOk mv read = false → tries < 3 → exec (.avsRailConfirm die read meas) s =
        .next (emit (.avs die mv) (modDie die (fun d => { d with change := .rail mv (tries + 1) }) s)))) ∧
    (∀ die d meas, dieState s die = some d → d.change = .clock → exec (.clockGlideComplete die meas) s = .next (settle (measureDie die meas
      (postAge (dieRec 0x03 die d.urgent) (modDie die (fun d => { d with clkSteps := d.clkSteps + 1, change := .none }) s))))) ∧
    (∀ b k sp l meas, tblGet s.blocks b = some k → k.want = some .swap → (k.use = .idle ∨ k.use = .isolated) → spares s (dieOf b) = sp :: l →
      useOf s sp = some .idle → exec (.spareSwap b meas) s = .next (settle (measureDie (dieOf b) meas (swapIn b sp s)))) ∧
    (∀ die d look, s.sq.takeover = false → dieState s die = some d → sliceOn s die = false → dieMoving d = false → sliceOk d look = true →
      exec (.roadworksDecision die look) s = .next (settle (match calledBlock s die with
        | some b => startSlice b s
        | none => decideDue (dueBlocks s die) s))) ∧
    (∀ b result rows meas, useOf s b = some .testing → meas.slack.length = 64 →
      (result ≤ 1 → exec (.sliceComplete b result rows meas) s = .next (settle (decideMargin (dieOf b) (startWaiting (rwEnd b 0
        (slicePassed b result rows (recordMeas (dieOf b) meas s))))))) ∧
      (2 ≤ result → result ≤ 3 → exec (.sliceComplete b result rows meas) s = .next (settle (decideMargin (dieOf b) (startWaiting (rwEnd b 1
        (sliceFailed b result (recordMeas (dieOf b) meas s)))))))) ∧
    (∀ b, useOf s b = some .testing → exec (.sliceAbandon b) s = .next (settle (startWaiting (abandonSlice b 1 s)))) ∧
    (∀ b k, tblGet s.blocks b = some k → gone k = false →
      (k.lapsed = false → visitOver s k = true → exec (.visitLapsed b) s =
        .next (postAge (blockRec s 0x0A b 0) (modBlock b (fun k => { k with lapsed := true }) s))) ∧
      (k.lapsed = true → exec (.visitLapsed b) s = .next s)) ∧
    (∃ t, exec .availabilityHourlyWrite s = .next t ∧ t.age.flash = t.age.avail)

/-! ### Power, reset, boot and the TAP -/

/-- Power. A window of package power past a limit lowers the duty by one sixteenth, not below one, and one with no limit passed and no 5 % to
spare leaves it; PWRBRK_N asserts the brake, and its end adds the microseconds it lasted and leaves a duty of at most one half;
10 ms sensor readings are taken while the device has power. -/
def Obligations.PowerAnswers : Prop :=
  ∀ s : State,
    (∀ mw, s.sq.ready = true → 3000000 < mw → ∃ t, exec (.powerMeasure mw) s = .next t ∧ t.pwr.duty = max 1 (s.pwr.duty - 1) ∧
      t.pwr.windows = (mw :: s.pwr.windows).take 10000) ∧
    (s.pwr.brake = false → exec .pwrbrkAssert s = .next { s with pwr.brake := true, pwr.brakeAt := s.sq.time }) ∧
    (s.pwr.brake = true → exec .pwrbrkDeassert s = .next { s with
      pwr.brake := false, pwr.usBrake := s.pwr.usBrake + (s.sq.time - s.pwr.brakeAt) / 100
      pwr.duty := min s.pwr.duty 8, pwr.raisedAt := s.sq.time }) ∧
    (∀ reads, s.sq.powered = true → s.sq.vddIo = true → s.sq.perst = false → s.sq.thermtripN = false →
      exec (.sensorRefresh reads) s = .next (sensorEvents (crossings (numericReads reads) s)
        (storeSensors (numericReads reads) (thermalRespond (numericReads reads) s)))) ∧
    (∀ n, dieDuty s n ≤ s.pwr.duty ∧ dieDuty s n ≤ tblGetD s.pwr.thermal n 16 ∧ (s.pwr.brake = true → dieDuty s n ≤ 8))

/-- The rails and PERST#: with power the board brings the device to its cold reset with PERST# low; a loss of power, and PERST#
asserted, lead there too; VDD_IO lost, the device is not ready; PERST# released, the straps are taken and the boot runs, in test mode it
stops in stage 1; the fabric's stage ends after 3 s. A cold reset leaves no Court, no key, Square time 0, empty memory and the flash
as it was. -/
def Obligations.ResetsAndBoot : Prop :=
  ∀ s : State,
    (s.sq.powered = false → exec .powerOn s = .next (coldReset { s with sq.powered := true, sq.vddIo := true, sq.perst := true })) ∧
    (s.sq.powered = true → exec .powerLoss s = .next
      (let t := coldReset { s with sq.powered := false, sq.perst := true }
       { t with age.avail := { t.age.flash with opened := none } })) ∧
    (∃ t, exec .vddIoLoss s = .next t ∧ t.sq.vddIo = false ∧ t.sq.ready = false) ∧
    (s.sq.perst = false → s.sq.fatal = false → exec .perstAssert s =
      .next (coldReset { openInterval false true s with sq.perst := true })) ∧
    (s.sq.perst = true → exec .perstAssert s = .next s) ∧
    (let t := coldReset s
     t.courts = [] ∧ t.sec.courts = [] ∧ t.sec.bak = none ∧ t.sq.time = 0 ∧ t.mem.hbm = [] ∧ t.cmd.cmds = [] ∧ t.sq.ready = false ∧
     t.flash = s.flash ∧ t.mem.repair = s.mem.repair ∧ t.pending = s.pending) ∧
    (∀ straps finds, s.sq.powered = true → s.sq.vddIo = true → s.sq.perst = true → s.sq.thermtripN = false →
      let u := sampleStraps straps { s with sq.perst := false, sq.stage := 1, cmd.fns := freshFns }
      exec (.perstDeassert straps finds) s = .next
        (if straps.testMode then stopBoot 1 false u else bootFrom finds true (bootMapped [] u.mem.repair finds.chanBad) u)) ∧
    (s.sq.stage = 7 → s.sq.fatal = false → s.sq.powered = true →
      (s.sq.stageAt + 3 * secUnits ≤ s.sq.time → exec .bootFabricTimeout s = .next (finishBoot s) ∧
        (finishBoot s).sq.ready = true ∧ (finishBoot s).sq.stage = 0xFF) ∧
      (s.sq.time < s.sq.stageAt + 3 * secUnits → exec .bootFabricTimeout s = .next s))

/-- The TAP: IDCODE and BYPASS answer always, SAMPLE/PRELOAD shifts the pins out; while a confidential Court exists EXTEST, CLAMP,
HIGHZ and the private instructions are refused, and the instruction register selects BYPASS; without one they act. -/
def Obligations.TapRows : Prop :=
  ∀ s : State,
    (exec .tapBypass s = .next { s with tap.ir := 0xFF, out := .tdo 0 1 :: s.out }) ∧
    (exec .tapIdcode s = .next { s with tap.ir := 0x01, out := .tdo 0x21296B4B 32 :: s.out }) ∧
    (∀ pins shift, exec (.tapSamplePreload pins shift) s = .next { s with
      tap.ir := 0x02, tap.bsr := shift % 2 ^ bsrCells, out := .tdo (pins % 2 ^ bsrCells) bsrCells :: s.out }) ∧
    ((∃ p ∈ s.courts, p.2.conf = true) → ∀ p ∈ [Instr.tapExtest 0 0, .tapClamp, .tapHighz, .tapPrivate 0x40],
      ∃ t, exec p s = .next t ∧ t.tap.ir = 0xFF ∧ t.tap.bsr = s.tap.bsr ∧ t.courts = s.courts) ∧
    ((∀ p ∈ s.courts, p.2.conf = false) →
      (∀ pins shift, exec (.tapExtest pins shift) s = .next { s with
        tap.ir := 0x00, tap.bsr := shift % 2 ^ bsrCells, out := .tdo (pins % 2 ^ bsrCells) bsrCells :: s.out }) ∧
      exec .tapClamp s = .next { s with tap.ir := 0x04, out := .tdo 0 1 :: s.out } ∧
      exec .tapHighz s = .next { s with tap.ir := 0x05, out := .tdo 0 1 :: s.out } ∧
      (∀ ir, exec (.tapPrivate ir) s = .next { s with tap.ir := ir % 256 }))

/-! ### Host ports and management -/

/-- The host ports. A Function Level Reset, and D0 after D3hot, take the function's queue pairs and rings away and its registers to their
reset values; Bus Master Enable and D3hot are noted; a link that goes down resets each function of its port, ends its IDE streams and its
session, and one that trains is up; NumVFs enables the virtual functions up to it; a read that fails, or an
IDE stream, does what R403 and R404 say. SPDM on a host port that is up: a request in the clear moves the responder and is answered; inside a session it is answered under the session's
key, and END_SESSION ends it; IDE_KM messages act inside a session only, and each gets one answer under its key. -/
def Obligations.HostPortRows : Prop :=
  (∀ (f : FnId) (h : HostFn) (s : State), fnOf s f = some h →
     (h.enabled = true → exec (.functionLevelReset f) s = .next (settleWatch (resetFn f s)) ∧
       fnOf (resetFn f s) f = some { HostFn.fresh with enabled := true } ∧ (∀ p ∈ (resetFn f s).cmd.eventRings, p.2.via ≠ f) ∧
       (∀ p ∈ (resetFn f s).srv.rings, p.2.via ≠ f)) ∧
     (h.d3hot = true → exec (.d0Return f) s = .next (settleWatch (resetFn f s))) ∧
     (exec (.busMasterEnableClear f) s = .next (modFn f (fun h => { h with bme := false }) s)) ∧
     (h.bme = false → exec (.busMasterEnableSet f) s = .next (releaseFn f (modFn f (fun h => { h with bme := true }) s))) ∧
     (exec (.d3hotEntry f) s = .next (modFn f (fun h => { h with d3hot := true }) s)) ∧
     (∀ port, port < 2 → ∃ t, exec (.hostLinkDown port) s = .next (settleWatch t) ∧ t.sq.hostUp = s.sq.hostUp.set port 0 ∧
       tblGet t.mgm.spdm port = none ∧ (∀ p ∈ t.mgm.ide, p.1 / 17 ≠ port)) ∧
     (∀ port full, s.sq.powered = true → s.sq.vddIo = true → s.sq.perst = false → s.sq.hostUp[port]? = some 0 →
       exec (.hostLinkTrain port full) s = .next { s with sq.hostUp := s.sq.hostUp.set port (if full then 2 else 1) }) ∧
     (∀ port vfs, vfs ≤ 16 → exec (.vfEnableChange port vfs) s = .next (settleWatch
       ((List.range 16).foldl (fun s i => setVf ⟨port, i + 1⟩ (decide (i + 1 ≤ vfs)) s) s))) ∧
     (∀ q t, queueOf s q = some t → mayFetch s q t = true → exec (.hostReadFault q .entry) s = .next (settleWatch (fetchFailed q t s)) ∧
       exec (.hostReadTimeout q .entry) s = .next (settleWatch (fetchFailed q t s))) ∧
     (∀ q cid c, findCmd s q cid = some c → readsHost c = true → s.sq.ready = true → s.sq.takeover = false → c.started = false →
       canStart s c = true → ownerReady s q.owner = true → exec (.hostReadFault q (.command cid)) s =
         .next (settleWatch (retire c (finSt 0x5003) s))) ∧
     (tblGet s.mgm.ide (fnKey f) = some true → s.cmd.cmds = [] → s.cmd.queues = [] →
       exec (.ideStreamFail f) s = .next (settleWatch (settle { s with mgm.ide := tblSet s.mgm.ide (fnKey f) false })))) ∧
  (∀ (port : Nat) (msg : List Byte) (s : State), doeUp s port = true →
     (∀ p, tblGet s.mgm.spdm port = some p → p.session = none → exec (.spdmMessage port msg) s = .next
       { s with mgm.spdm := tblSet s.mgm.spdm port (spdmStep p msg).1, out := .doe ⟨port, 0⟩ (spdmStep p msg).2 :: s.out }) ∧
     (∀ p k, tblGet s.mgm.spdm port = some p → p.session = some k →
       exec (.spdmMessage port msg) s = .next (match Config.spdmOpen k msg with
         | none => { s with mgm.spdm := tblSet s.mgm.spdm port (spdmStep p msg).1, out := .doe ⟨port, 0⟩ (spdmStep p msg).2 :: s.out }
         | some m => if fld m 1 1 = 0xEC
           then { s with
             mgm.spdm := tblSet s.mgm.spdm port Spdm.fresh, out := .doe ⟨port, 0⟩ (Config.spdmSeal k (Config.spdmReply p.transcript m)) :: s.out }
           else { s with
             mgm.spdm := tblSet s.mgm.spdm port p, out := .doe ⟨port, 0⟩ (Config.spdmSeal k (spdmError 0x07 m)) :: s.out }) ∧
       exec (.ideKm port msg) s = .next (match Config.spdmOpen k msg with
         | none => s
         | some m => { (ideKmStep port m s).2 with
             out := .doe ⟨port, 0⟩ (Config.spdmSeal k (ideKmStep port m s).1) :: (ideKmStep port m s).2.out })) ∧
     ((∀ p, tblGet s.mgm.spdm port = some p → p.session = none) → exec (.ideKm port msg) s = .next s) ∧
     (∀ q : Spdm, q.agreed = false → (fld msg 1 1 = 0xE4 ∨ fld msg 1 1 = 0xE5) → (spdmStep q msg).2 = spdmError 0x04 msg))

/-- The management port. The bus owner's ENTDAA and SETDASA give the device its dynamic address, RSTDAA takes it away; Set Endpoint ID
sets the endpoint; MCTP control and PLDM requests are answered with their headers returned: of the types and commands supported,
TID, versions, platform descriptors, sensor readings, the FRU table; a request shorter than its command is refused with ERROR_INVALID_LENGTH;
what is not supported is answered so, and another message type is discarded. A PLDM update stages an image, and 60 s idle, or
CancelUpdate, leave the staging slot empty. (The message layouts are the model's: log entry 30.) -/
def Obligations.ManagementRows : Prop :=
  ∀ s : State, mgmtUp s = true →
    (∀ a, s.mgm.dyn = none → a < 128 → ∃ t, exec (.i3cEntdaa a) s = .next t ∧ t.mgm.dyn = some a) ∧
    (∀ a, s.mgm.dyn = none → s.sq.i3cSa ≠ 0 → a < 128 →
      exec (.i3cSetdasa s.sq.i3cSa a) s = .next { s with mgm.dyn := some a }) ∧
    (∀ data, exec (.i3cCcc 0x06 data) s = .next { s with mgm.dyn := none }) ∧
    (∀ msg, exec (.mctpUnsupportedType msg) s = .next s) ∧
    (∀ msg, reaches s msg 0 = true → bit (fld msg 1 1) 7 = true →
      (fld msg 2 1 = 0x01 → 5 ≤ msg.length → fld msg 3 1 % 4 ≤ 1 → fld msg 4 1 ≠ 0 → fld msg 4 1 ≠ 0xFF → exec (.setEndpointId msg) s =
        .next (ctlReply msg ([0#8, 0#8] ++ natLe 1 (fld msg 4 1) ++ [0#8]) { s with mgm.eid := fld msg 4 1 })) ∧
      (fld msg 2 1 = 0x02 → exec (.mctpControlMessage msg) s = .next (ctlReply msg ([0#8] ++ natLe 1 s.mgm.eid ++ [0#8, 0#8]) s))) ∧
    (∀ msg type cmd row n act, isPldm s msg type cmd = true →
      (type, cmd, row, n, act) ∈ ([(0, 0x02, Instr.getTid msg, 0, fun s : State => ([0#8] ++ natLe 1 s.mgm.tid, s)),
        (0, 0x04, .getPldmTypes msg, 0, fun s => ([0#8] ++ natLe 8 (maskOf pldmTypes), s)),
        (2, 0x50, .getPdrRepositoryInfo msg, 0, fun s => ([0#8, 0#8] ++ zeros 26 ++ natLe 4 91 ++ natLe 4 (pdrSizes s).sum ++
          natLe 4 ((pdrSizes s).foldl max 0) ++ [0#8], s)),
        (4, 0x01, .getFruRecordTableMetadata msg, 0, fun s => ([0#8, 1#8, 0#8] ++ natLe 4 (fruTable s).length ++
          natLe 4 (fruTable s).length ++ natLe 2 1 ++ natLe 2 1 ++ natLe 4 (crc32 (fruTable s)).toNat, s))] :
          List (Nat × Nat × Instr × Nat × (State → List Byte × State))) →
      4 + n ≤ msg.length → exec row s = .next (pldmReply msg (act s).1 (act s).2)) ∧
    (∀ msg type cmd row n, isPldm s msg type cmd = true → (type, cmd, row, n) ∈ [(0, 0x01, Instr.setTid msg, 1),
        (0, 0x03, .getPldmVersion msg, 6), (0, 0x05, .getPldmCommands msg, 5), (2, 0x51, .getPdr msg, 13),
        (2, 0x11, .getSensorReading msg, 3), (2, 0x21, .getStateSensorReadings msg, 4), (2, 0x04, .setEventReceiver msg, 3),
        (4, 0x02, .getFruRecordTable msg, 5), (5, 0x10, .requestUpdate msg, 11), (5, 0x1A, .pldmActivateFirmware msg, 1)] →
      msg.length < 4 + n → exec row s = .next (pldmReply msg [0x03#8] s)) ∧
    (∀ msg, isPldm s msg 0 0x01 = true → 5 ≤ msg.length → fld msg 4 1 ≠ 0 → fld msg 4 1 ≠ 0xFF →
      exec (.setTid msg) s = .next (pldmReply msg [0#8] { s with mgm.tid := fld msg 4 1 })) ∧
    (∀ msg, reaches s msg 1 = true → bit (fld msg 1 1) 7 = true → 4 ≤ msg.length → pldmType msg ∉ pldmTypes →
      exec (.pldmUnsupportedCmd msg) s = .next (pldmReply msg [0x20#8] s)) ∧
    (∀ msg id w, isPldm s msg 2 0x11 = true → 7 ≤ msg.length → fld msg 4 2 = id → 1 ≤ id → id ≤ 64 → tblGet s.pwr.sensors id = some w →
      ∃ st prev t, exec (.getSensorReading msg) s = .next (pldmReply msg
        ([0#8, 5#8, 0#8, 0#8] ++ natLe 1 st ++ natLe 1 prev ++ natLe 1 st ++ natLe 4 (Config.sensorRaw id w)) t) ∧
        t = { s with free := s.free + 1 }) ∧
    (∀ msg, isPldm s msg 2 0x21 = true → 8 ≤ msg.length → 65 ≤ fld msg 4 2 → fld msg 4 2 ≤ 91 → tblGet s.pwr.sensors (fld msg 4 2) = none →
      exec (.getStateSensorReadings msg) s = .next (pldmReply msg [0#8, 1#8, 2#8, 0#8, 0#8, 0#8] s)) ∧
    (∀ msg, isPldm s msg 2 0x04 = true → 7 ≤ msg.length → fld msg 5 1 = 0 → fld msg 4 1 = 0 →
      exec (.setEventReceiver msg) s = .next (pldmReply msg [0#8] { s with mgm.receiver := none })) ∧
    (∀ msg, isPldm s msg 5 0x10 = true → 15 ≤ msg.length →
      (s.mgm.upd.isSome = true → exec (.requestUpdate msg) s = .next (pldmReply msg [0x81#8] s)) ∧
      (s.mgm.upd = none → stageUnretired s = false → s.sq.act = none → exec (.requestUpdate msg) s = .next (pldmReply msg ([0#8] ++ zeros 3)
        { emptyStaging s with
          mgm.upd := some ⟨fld msg 4 4, 0, [], s.sq.time, 1, false⟩
          mgm.prevUpd := 0 }))) ∧
    (∀ u, s.mgm.upd = some u →
      (s.sq.time < u.at_ + 60 * secUnits → exec .pldmUpdateIdleTimeout s = .next s) ∧
      (u.at_ + 60 * secUnits ≤ s.sq.time → exec .pldmUpdateIdleTimeout s = .next (endUpd (emptyStaging s))) ∧
      (∀ msg, isPldm s msg 5 0x1D = true → exec (.cancelUpdate msg) s = .next (pldmReply msg ([0#8] ++ zeros 9) (endUpd (emptyStaging s)))) ∧
      (∀ msg, isPldm s msg 5 0x1A = true → 5 ≤ msg.length → u.verified = true →
        exec (.pldmActivateFirmware msg) s = .next (pldmReply msg ([0#8] ++ zeros 2) (endUpd s))) ∧
      (∀ msg, isPldm s msg 5 0x13 = true → exec (.pldmFirmwareTransfer msg) s =
        .next (pldmReply msg [0#8, 0#8, 0#8] (setUpd (fun u => { u with state := 2 }) s)))) ∧
    (∀ msg, isPldm s msg 5 0x1B = true → s.mgm.upd = none → exec (.getStatus msg) s = .next (pldmReply msg
      ([0#8] ++ natLe 1 0 ++ natLe 1 s.mgm.prevUpd ++ [3#8] ++ [0#8] ++ natLe 1 0x65 ++ [0#8] ++ zeros 4) s)) ∧
    (∀ msg part, isPldm s msg 0 0x05 = true → 9 ≤ msg.length → fld msg 4 1 ∈ pldmTypes → part = natLe 32 (maskOf (pldmCmds (fld msg 4 1))) →
      exec (.getPldmCommands msg) s = .next (pldmReply msg ([0#8] ++ part) s)) ∧
    (∀ msg, isPldm s msg 0 0x03 = true → 10 ≤ msg.length → fld msg 8 1 ≤ 1 → fld msg 9 1 ∈ pldmTypes → exec (.getPldmVersion msg) s =
      .next (pldmReply msg ([0#8] ++ zeros 4 ++ [0x05#8] ++ Config.pldmVersion (fld msg 9 1)) s)) ∧
    (∀ msg, isPldm s msg 2 0x51 = true → 17 ≤ msg.length → fld msg 4 4 = 1 → fld msg 12 1 = 1 → exec (.getPdr msg) s = .next (pldmReply msg
      (let r := pdrRecord s 1
       let n := fld msg 13 2
       if r.length ≤ n then [0#8] ++ natLe 4 2 ++ natLe 4 0 ++ [0x05#8] ++ natLe 2 r.length ++ r
       else [0#8] ++ natLe 4 2 ++ natLe 4 n ++ [0x00#8] ++ natLe 2 n ++ r.take n) { s with free := s.free + 1 })) ∧
    (∀ msg, isPldm s msg 4 0x02 = true → 9 ≤ msg.length → fld msg 8 1 ≤ 1 → exec (.getFruRecordTable msg) s = .next (pldmReply msg
      ([0#8] ++ zeros 4 ++ [0x05#8] ++ fruTable s ++ natLe 4 (crc32 (fruTable s)).toNat) s))
end

