-- ==== Sys2Proof/Laws/Commands.lean ====
section
/-! SUPPORT. What the shared operations over queue commands can do, said once: a due command acts and retires, and one
that is not due leaves the state. -/

namespace Sys2Proof.Machine

/-- A command found on its queue carries that queue and that CID. -/
theorem findCmd_key {s : State} {q : QId} {cid : Nat} {c : Cmd} (h : findCmd s q cid = some c) :
    c.q = q ∧ c.cid = cid := by
  have := List.find?_some h
  simpa using this

/-- A due command acts on the state in which it alone has started; it stays, or it completes. -/
theorem runCmd_due {op : Nat} {q : QId} {cid : Nat} {lay : Cmd → Nat} {rsv : List (Nat × Nat)}
    {body : Cmd → State → State × Did} {s : State} {c : Cmd} (h : Due op (lay c) rsv q cid c s) :
    runCmd op q cid lay rsv body s =
      match body (began s c) (begun q cid s) with
      | (t, .stay) => t
      | (t, .fin f) => completes (lay c) c f t := by
  obtain ⟨hf, hr, ht, rfl, hs, hc, hk, hw, hu⟩ := h
  simp only [runCmd, hf, hr, ht, hs, hc, hk, hw, hu]
  simp [began, begun, hf, completes] <;> rfl

/-- A due command that its body ends completes. -/
theorem runCmd_fin {op : Nat} {q : QId} {cid : Nat} {lay : Cmd → Nat} {rsv : List (Nat × Nat)}
    {body : Cmd → State → State × Did} {s t : State} {c : Cmd} {f : CmdEnd} (h : Due op (lay c) rsv q cid c s)
    (hb : body (began s c) (begun q cid s) = (t, .fin f)) :
    runCmd op q cid lay rsv body s = completes (lay c) c f t := by
  rw [runCmd_due h, hb]

/-- A due command that its body leaves standing stays unretired. -/
theorem runCmd_stay {op : Nat} {q : QId} {cid : Nat} {lay : Cmd → Nat} {rsv : List (Nat × Nat)}
    {body : Cmd → State → State × Did} {s t : State} {c : Cmd} (h : Due op (lay c) rsv q cid c s)
    (hb : body (began s c) (begun q cid s) = (t, .stay)) :
    runCmd op q cid lay rsv body s = t := by
  rw [runCmd_due h, hb]

/-- With no such command on the queue nothing happens. -/
theorem runCmd_none {op : Nat} {q : QId} {cid : Nat} {lay : Cmd → Nat} {rsv : List (Nat × Nat)}
    {body : Cmd → State → State × Did} {s : State} (h : findCmd s q cid = none) :
    runCmd op q cid lay rsv body s = s := by
  simp only [runCmd, h]

/-- The state in which a due command acts is the given one with the command marked as started. -/
theorem begun_eq {q : QId} {cid : Nat} {c : Cmd} {s : State} (h : findCmd s q cid = some c) :
    begun q cid s = modCmd q cid (fun d => { d with started := true, kt := curKey s c.q.owner }) s := by
  simp only [begun, h]

@[simp] theorem began_pb (s : State) (c : Cmd) : (began s c).pb = c.pb := rfl
@[simp] theorem began_q (s : State) (c : Cmd) : (began s c).q = c.q := rfl
@[simp] theorem began_cid (s : State) (c : Cmd) : (began s c).cid = c.cid := rfl
@[simp] theorem began_via (s : State) (c : Cmd) : (began s c).via = c.via := rfl
@[simp] theorem began_work (s : State) (c : Cmd) : (began s c).work = c.work := rfl
@[simp] theorem began_progress (s : State) (c : Cmd) : (began s c).progress = c.progress := rfl
@[simp] theorem began_opcode (s : State) (c : Cmd) : (began s c).opcode = c.opcode := rfl

/-! Starting a command changes nothing but that command. -/

@[simp] theorem begun_sq (q : QId) (cid : Nat) (s : State) : (begun q cid s).sq = s.sq := by
  unfold begun; split <;> rfl
@[simp] theorem begun_mem (q : QId) (cid : Nat) (s : State) : (begun q cid s).mem = s.mem := by
  unfold begun; split <;> rfl
@[simp] theorem begun_blocks (q : QId) (cid : Nat) (s : State) : (begun q cid s).blocks = s.blocks := by
  unfold begun; split <;> rfl
@[simp] theorem begun_courts (q : QId) (cid : Nat) (s : State) : (begun q cid s).courts = s.courts := by
  unfold begun; split <;> rfl
@[simp] theorem begun_pkgs (q : QId) (cid : Nat) (s : State) : (begun q cid s).pkgs = s.pkgs := by
  unfold begun; split <;> rfl
@[simp] theorem begun_runs (q : QId) (cid : Nat) (s : State) : (begun q cid s).runs = s.runs := by
  unfold begun; split <;> rfl
@[simp] theorem begun_nextRun (q : QId) (cid : Nat) (s : State) : (begun q cid s).nextRun = s.nextRun := by
  unfold begun; split <;> rfl
@[simp] theorem begun_barriers (q : QId) (cid : Nat) (s : State) : (begun q cid s).barriers = s.barriers := by
  unfold begun; split <;> rfl
@[simp] theorem begun_semWait (q : QId) (cid : Nat) (s : State) : (begun q cid s).semWait = s.semWait := by
  unfold begun; split <;> rfl
@[simp] theorem begun_runDone (q : QId) (cid : Nat) (s : State) : (begun q cid s).runDone = s.runDone := by
  unfold begun; split <;> rfl
@[simp] theorem begun_gaz (q : QId) (cid : Nat) (s : State) : (begun q cid s).gaz = s.gaz := by
  unfold begun; split <;> rfl
@[simp] theorem begun_grps (q : QId) (cid : Nat) (s : State) : (begun q cid s).grps = s.grps := by
  unfold begun; split <;> rfl
@[simp] theorem begun_jobs (q : QId) (cid : Nat) (s : State) : (begun q cid s).jobs = s.jobs := by
  unfold begun; split <;> rfl
@[simp] theorem begun_ue (q : QId) (cid : Nat) (s : State) : (begun q cid s).ue = s.ue := by
  unfold begun; split <;> rfl
@[simp] theorem begun_avs (q : QId) (cid : Nat) (s : State) : (begun q cid s).avs = s.avs := by
  unfold begun; split <;> rfl
@[simp] theorem begun_inbox (q : QId) (cid : Nat) (s : State) : (begun q cid s).inbox = s.inbox := by
  unfold begun; split <;> rfl
@[simp] theorem begun_part (q : QId) (cid : Nat) (s : State) : (begun q cid s).part = s.part := by
  unfold begun; split <;> rfl
@[simp] theorem begun_tt (q : QId) (cid : Nat) (s : State) : (begun q cid s).tt = s.tt := by
  unfold begun; split <;> rfl
@[simp] theorem begun_srv (q : QId) (cid : Nat) (s : State) : (begun q cid s).srv = s.srv := by
  unfold begun; split <;> rfl
@[simp] theorem begun_sec (q : QId) (cid : Nat) (s : State) : (begun q cid s).sec = s.sec := by
  unfold begun; split <;> rfl
@[simp] theorem begun_age (q : QId) (cid : Nat) (s : State) : (begun q cid s).age = s.age := by
  unfold begun; split <;> rfl
@[simp] theorem begun_pwr (q : QId) (cid : Nat) (s : State) : (begun q cid s).pwr = s.pwr := by
  unfold begun; split <;> rfl
@[simp] theorem begun_flash (q : QId) (cid : Nat) (s : State) : (begun q cid s).flash = s.flash := by
  unfold begun; split <;> rfl
@[simp] theorem begun_smp (q : QId) (cid : Nat) (s : State) : (begun q cid s).smp = s.smp := by
  unfold begun; split <;> rfl
@[simp] theorem begun_tap (q : QId) (cid : Nat) (s : State) : (begun q cid s).tap = s.tap := by
  unfold begun; split <;> rfl
@[simp] theorem begun_mgm (q : QId) (cid : Nat) (s : State) : (begun q cid s).mgm = s.mgm := by
  unfold begun; split <;> rfl
@[simp] theorem begun_free (q : QId) (cid : Nat) (s : State) : (begun q cid s).free = s.free := by
  unfold begun; split <;> rfl
@[simp] theorem begun_out (q : QId) (cid : Nat) (s : State) : (begun q cid s).out = s.out := by
  unfold begun; split <;> rfl
@[simp] theorem begun_pending (q : QId) (cid : Nat) (s : State) : (begun q cid s).pending = s.pending := by
  unfold begun; split <;> rfl
@[simp] theorem begun_cmd_queues (q : QId) (cid : Nat) (s : State) : (begun q cid s).cmd.queues = s.cmd.queues := by
  unfold begun; split <;> rfl
@[simp] theorem begun_cmd_retireSeq (q : QId) (cid : Nat) (s : State) : (begun q cid s).cmd.retireSeq = s.cmd.retireSeq := by
  unfold begun; split <;> rfl
@[simp] theorem begun_cmd_fns (q : QId) (cid : Nat) (s : State) : (begun q cid s).cmd.fns = s.cmd.fns := by
  unfold begun; split <;> rfl
@[simp] theorem begun_cmd_eventRings (q : QId) (cid : Nat) (s : State) : (begun q cid s).cmd.eventRings = s.cmd.eventRings := by
  unfold begun; split <;> rfl
@[simp] theorem begun_cmd_assistRings (q : QId) (cid : Nat) (s : State) : (begun q cid s).cmd.assistRings = s.cmd.assistRings := by
  unfold begun; split <;> rfl
@[simp] theorem begun_cmd_assists (q : QId) (cid : Nat) (s : State) : (begun q cid s).cmd.assists = s.cmd.assists := by
  unfold begun; split <;> rfl
@[simp] theorem begun_cmd_expired (q : QId) (cid : Nat) (s : State) : (begun q cid s).cmd.expired = s.cmd.expired := by
  unfold begun; split <;> rfl
@[simp] theorem begun_cmd_heldWrites (q : QId) (cid : Nat) (s : State) : (begun q cid s).cmd.heldWrites = s.cmd.heldWrites := by
  unfold begun; split <;> rfl
@[simp] theorem begun_cmd_modes (q : QId) (cid : Nat) (s : State) : (begun q cid s).cmd.modes = s.cmd.modes := by
  unfold begun; split <;> rfl
@[simp] theorem begun_cmd_modeDeadlines (q : QId) (cid : Nat) (s : State) : (begun q cid s).cmd.modeDeadlines = s.cmd.modeDeadlines := by
  unfold begun; split <;> rfl

end Sys2Proof.Machine
end

