-- ==== Sys2Proof/Laws/Table.lean ====
section
/-! SUPPORT. What the named table operations do to a look-up. -/

namespace Sys2Proof.Machine

variable {α : Type}

@[simp] theorem tblGet_tblModify (t : Tbl α) (k j : Nat) (f : α → α) :
    tblGet (tblModify t k f) j = if j = k then (tblGet t j).map f else tblGet t j := by
  induction t with
  | nil => simp [tblModify, tblGet]
  | cons p t ih =>
    obtain ⟨i, a⟩ := p
    simp only [tblModify]
    by_cases h : k = i
    · subst h; by_cases hj : j = k <;> simp [tblGet, hj]
    · by_cases hj : j = i
      · subst hj; simp [tblGet, h, Ne.symm h]
      · simp [tblGet, h, hj, ih]

@[simp] theorem tblGet_tblSet (t : Tbl α) (k j : Nat) (v : α) :
    tblGet (tblSet t k v) j = if j = k then some v else tblGet t j := by
  induction t with
  | nil => simp [tblSet, tblGet]
  | cons p t ih =>
    obtain ⟨i, a⟩ := p
    simp only [tblSet]
    by_cases h : k < i
    · simp [h, tblGet]
    · by_cases hk : k = i
      · subst hk; by_cases hj : j = k <;> simp [tblGet, hj]
      · by_cases hj : j = i
        · subst hj; simp [h, hk, tblGet, Ne.symm hk]
        · simp [h, hk, tblGet, hj, ih]

@[simp] theorem tblGet_tblErase (t : Tbl α) (k j : Nat) :
    tblGet (tblErase t k) j = if j = k then none else tblGet t j := by
  induction t with
  | nil => simp [tblErase, tblGet]
  | cons p t ih =>
    obtain ⟨i, a⟩ := p
    simp only [tblErase] at ih ⊢
    by_cases h : i = k
    · subst h; by_cases hj : j = i
      · subst hj; simpa using ih
      · simp [hj, ih, tblGet]
    · by_cases hj : j = i
      · subst hj; simp [h, tblGet]
      · simp [h, tblGet, hj, ih]

theorem tblGet_map (t : Tbl α) (f : α → α) (j : Nat) :
    tblGet (t.map (fun p => (p.1, f p.2))) j = (tblGet t j).map f := by
  induction t with
  | nil => simp [tblGet]
  | cons p t ih =>
    obtain ⟨i, a⟩ := p
    by_cases hj : j = i <;> simp [tblGet, hj, ih]

theorem tblGet_mem {t : Tbl α} {k : Nat} {a : α} (h : tblGet t k = some a) : (k, a) ∈ t := by
  induction t with
  | nil => simp [tblGet] at h
  | cons p t ih =>
    obtain ⟨i, b⟩ := p
    by_cases hk : k = i
    · subst hk; simp [tblGet] at h; simp [h]
    · simp [tblGet, hk] at h; simp [ih h]

theorem tblErase_keys (t : Tbl α) (k : Nat) : ∀ p ∈ tblErase t k, p.1 ≠ k := by
  intro p hp
  have := (List.mem_filter.1 hp).2
  simpa using this

end Sys2Proof.Machine
end

