-- ==== Sys2Proof/Laws/Positions.lean ====
section
/-! SUPPORT. The operations that post completions, records and interrupts keep the positions of queues and rings below
their depths. -/

namespace Sys2Proof.Machine

/-- A property of every entry of a table survives a change that keeps it. -/
theorem tblModify_all {α : Type} {P : α → Prop} {t : Tbl α} {k : Nat} {f : α → α} (h : ∀ p ∈ t, P p.2)
    (hf : ∀ a, P a → P (f a)) : ∀ p ∈ tblModify t k f, P p.2 := by
  induction t with
  | nil => simp [tblModify]
  | cons p t ih =>
    obtain ⟨i, a⟩ := p
    simp only [List.forall_mem_cons] at h
    simp only [tblModify]
    split
    · simpa [List.forall_mem_cons] using ⟨hf a h.1, fun i b hb => h.2 (i, b) hb⟩
    · simp only [List.forall_mem_cons]
      exact ⟨h.1, ih h.2⟩

/-- A property of every entry of a table survives setting an entry that has it. -/
theorem tblSet_all {α : Type} {P : α → Prop} {t : Tbl α} {k : Nat} {a : α} (h : ∀ p ∈ t, P p.2) (ha : P a) :
    ∀ p ∈ tblSet t k a, P p.2 := by
  induction t with
  | nil => simpa [tblSet] using ha
  | cons p t ih =>
    obtain ⟨i, b⟩ := p
    simp only [List.forall_mem_cons] at h
    simp only [tblSet]
    split
    · simp only [List.forall_mem_cons]; exact ⟨ha, h.1, h.2⟩
    · split
      · simp only [List.forall_mem_cons]; exact ⟨ha, h.2⟩
      · simp only [List.forall_mem_cons]; exact ⟨h.1, ih h.2⟩

/-- A property that each round of a fold keeps holds after it. -/
theorem foldl_keeps {σ β : Type} {P : σ → Prop} {f : σ → β → σ} (hf : ∀ s b, P s → P (f s b)) (l : List β) {s : σ} (h : P s) :
    P (l.foldl f s) := by
  induction l generalizing s with
  | nil => exact h
  | cons b l ih => exact ih (hf s b h)

/-- The positions of a state are those of its queues and rings alone. -/
theorem positionsOk_congr {s t : State} (hq : t.cmd.queues = s.cmd.queues) (he : t.cmd.eventRings = s.cmd.eventRings)
    (ha : t.cmd.assistRings = s.cmd.assistRings) (h : positionsOk s) : positionsOk t := by
  unfold positionsOk at h ⊢
  rwa [hq, he, ha]

theorem modQueue_positions {q : QId} {f : Queue → Queue} {s : State} (h : positionsOk s)
    (hf : ∀ t : Queue, (t.sqTail < t.sqDepth ∧ t.sqHead < t.sqDepth ∧ t.cqHead < t.cqDepth ∧ t.cqWr < t.cqDepth) →
      ((f t).sqTail < (f t).sqDepth ∧ (f t).sqHead < (f t).sqDepth ∧ (f t).cqHead < (f t).cqDepth ∧ (f t).cqWr < (f t).cqDepth)) :
    positionsOk (modQueue q f s) :=
  ⟨tblModify_all (P := fun t : Queue => t.sqTail < t.sqDepth ∧ t.sqHead < t.sqDepth ∧ t.cqHead < t.cqDepth ∧ t.cqWr < t.cqDepth)
    h.1 hf, h.2.1, h.2.2⟩

theorem modFn_positions {f : FnId} {g : HostFn → HostFn} {s : State} (h : positionsOk s) : positionsOk (modFn f g s) := h

theorem raiseMsix_positions {f : FnId} {v : Nat} {s : State} (h : positionsOk s) : positionsOk (raiseMsix f v s) := by
  unfold raiseMsix; split
  · exact h
  · split <;> exact h

theorem hostWrite_positions {f : FnId} {a : Nat} {bs : List Byte} {s : State} (h : positionsOk s) :
    positionsOk (hostWrite f a bs s) := by
  unfold hostWrite; split
  · exact h
  · split <;> exact h

theorem coalesce_positions {q : QId} {n : Bool} {s : State} (h : positionsOk s) : positionsOk (coalesce q n s) := by
  unfold coalesce; split
  · exact h
  · split
    · exact h
    · split
      · exact raiseMsix_positions (modQueue_positions h fun _ ht => ht)
      · exact modQueue_positions h fun _ ht => ht

theorem putCompl_positions {q : QId} {c : Compl} {s : State} (h : positionsOk s) : positionsOk (putCompl q c s) := by
  unfold putCompl; split
  · exact h
  · rename_i t ht
    have hw : (t.cqWr + 1) % t.cqDepth < t.cqDepth :=
      Nat.mod_lt _ (Nat.lt_of_le_of_lt (Nat.zero_le _) (h.1 _ (tblGet_mem ht)).2.2.2)
    have key : ∀ s : State, positionsOk s → queueOf s q = some t → positionsOk (modQueue q (fun u => { u with
        cqWr := (t.cqWr + 1) % t.cqDepth
        phase := if (t.cqWr + 1) % t.cqDepth = 0 then !u.phase else u.phase }) s) := by
      intro s hs hq
      refine ⟨?_, hs.2.1, hs.2.2⟩
      have hg : tblGet s.cmd.queues (qKey q) = some t := hq
      show ∀ p ∈ tblModify s.cmd.queues (qKey q) _, _
      have := hs.1
      generalize s.cmd.queues = l at hg this
      induction l with
      | nil => simp [tblModify]
      | cons p l ih =>
        obtain ⟨i, b⟩ := p
        simp only [List.forall_mem_cons] at this
        simp only [tblModify]
        by_cases hk : qKey q = i
        · simp only [tblGet, hk, if_true] at hg
          cases hg
          simp only [hk, if_true, List.forall_mem_cons]
          exact ⟨⟨this.1.1, this.1.2.1, this.1.2.2.1, hw⟩, this.2⟩
        · simp only [tblGet, hk, if_false] at hg
          simp only [hk, if_false, List.forall_mem_cons]
          exact ⟨this.1, ih hg this.2⟩
    have hs := key _ (hostWrite_positions (f := t.via) (a := t.cqBase + 32 * t.cqWr) (bs := complBytes c t.sqHead t.phase) h)
      (by unfold hostWrite; split; exact ht; split <;> exact ht)
    split
    · exact coalesce_positions hs
    · exact hs

theorem drainHeld_positions (n : Nat) {q : QId} {s : State} (h : positionsOk s) : positionsOk (drainHeld n q s) := by
  induction n generalizing s with
  | zero => exact h
  | succ n ih =>
    unfold drainHeld; split
    · exact h
    · split
      · exact h
      · split
        · exact ih (putCompl_positions (modQueue_positions h fun _ ht => ht))
        · exact h

theorem drainAll_positions {s : State} (h : positionsOk s) : positionsOk (drainAll s) :=
  foldl_keeps (P := positionsOk) (fun _ _ hs => foldl_keeps (P := positionsOk) (fun _ _ hs => drainHeld_positions _ hs) _ hs) _ h

theorem postCompl_positions {q : QId} {c : Compl} {s : State} (h : positionsOk s) : positionsOk (postCompl q c s) :=
  drainAll_positions (modQueue_positions h fun _ ht => ht)

theorem putEvent_positions {k src time : Nat} {rec : List Byte} {s : State} (h : positionsOk s) :
    positionsOk (putEvent k src time rec s) := by
  unfold putEvent; split
  · exact h
  · rename_i r hr
    have hw := h.2.1 _ (tblGet_mem hr)
    have hl : (r.wr + 1) % r.depth < r.depth := Nat.mod_lt _ (Nat.lt_of_le_of_lt (Nat.zero_le _) hw.2)
    split
    · exact ⟨h.1, tblSet_all (P := fun r : EventRing => r.head < r.depth ∧ r.wr < r.depth) h.2.1 hw, h.2.2⟩
    · have hs := hostWrite_positions (f := r.via) (a := r.base + 64 * r.wr)
        (bs := eventBytes src r.phase r.dropped r.seq time rec) h
      exact raiseMsix_positions ⟨hs.1,
        tblSet_all (P := fun r : EventRing => r.head < r.depth ∧ r.wr < r.depth) hs.2.1 ⟨hw.1, hl⟩, hs.2.2⟩

theorem postEvent_positions {o src : Nat} {rec : List Byte} {s : State} (h : positionsOk s) :
    positionsOk (postEvent o src rec s) := by
  unfold postEvent; split
  · exact h
  · exact putEvent_positions h

theorem postQueueFault_positions {rec : List Byte} {court : Nat} {s : State} (h : positionsOk s) :
    positionsOk (postQueueFault rec court s) := by
  unfold postQueueFault; simp only; split
  · exact postEvent_positions (postEvent_positions h)
  · exact postEvent_positions h

theorem dropDeleted_positions {q : QId} {s : State} (h : positionsOk s) : positionsOk (dropDeleted q s) := by
  unfold dropDeleted; split
  · exact h
  · split
    · exact h
    · have he : positionsOk { s with cmd.queues := tblErase s.cmd.queues (qKey q) } :=
        ⟨fun p hp => h.1 p (List.mem_filter.1 hp).1, h.2.1, h.2.2⟩
      simp only; split <;> exact he

theorem retire_positions {c : Cmd} {f : CmdEnd} {s : State} (h : positionsOk s) : positionsOk (retire c f s) := by
  have hs : ∀ u : State, positionsOk u → positionsOk (modQueue c.q (fun t => { t with retired := (c.cid :: t.retired).take 4096 }) u) :=
    fun u hu => modQueue_positions hu fun _ ht => ht
  unfold retire; simp only; split
  · exact hs _ h
  · split
    · split
      · exact dropDeleted_positions (hs _ h)
      · exact dropDeleted_positions (postQueueFault_positions (hs _ h))
    · exact postCompl_positions (hs _ h)

theorem putAssist_positions {k : Nat} {r : AssistRec} {s : State} (h : positionsOk s) : positionsOk (putAssist k r s) := by
  unfold putAssist; split
  · exact h
  · rename_i g hg
    have hw := h.2.2 _ (tblGet_mem hg)
    have hl : (g.wr + 1) % g.depth < g.depth := Nat.mod_lt _ (Nat.lt_of_le_of_lt (Nat.zero_le _) hw.2)
    split
    · exact h
    · refine raiseMsix_positions ?_
      have : ∀ u : State, positionsOk u → ∀ g' : AssistRing, g'.head < g'.depth ∧ g'.wr < g'.depth → ∀ l,
          positionsOk { u with cmd.assistRings := tblSet u.cmd.assistRings k g', cmd.assists := l } :=
        fun u hu g' hg' l => ⟨hu.1, hu.2.1,
          tblSet_all (P := fun r : AssistRing => r.head < r.depth ∧ r.wr < r.depth) hu.2.2 hg'⟩
      refine this _ (hostWrite_positions ?_) _ (by exact ⟨hw.1, hl⟩) _
      split
      · exact hostWrite_positions h
      · exact h

theorem pumpAssists_positions {row : Nat} {s : State} (h : positionsOk s) : positionsOk (pumpAssists row s) := by
  unfold pumpAssists; split
  · exact h
  · exact foldl_keeps (P := positionsOk) (fun _ _ hs => putAssist_positions hs) _ h

end Sys2Proof.Machine
end

