-- ==== Sys2Proof/Laws/Memory.lean ====
section
/-! SUPPORT. The laws of byte stores: a read after a write, and that each operation keeps the canonical form. -/

namespace Sys2Proof.Machine

/-- The canonical form, spelled out: addresses strictly rise, and no entry equals what an unlisted address reads as. -/
theorem Memory.wf_iff (d : Option Byte) (m : List Host.Cell) :
    Memory.wf d m = true ↔ m.Pairwise (fun p q => p.1 < q.1) ∧ ∀ p ∈ m, d ≠ some p.2 := by
  induction m with
  | nil => simp [Memory.wf]
  | cons p t ih =>
    obtain ⟨i, b⟩ := p
    cases t with
    | nil => simp [Memory.wf]
    | cons r t =>
      obtain ⟨j, c⟩ := r
      simp only [Memory.wf, Bool.and_eq_true, ih, List.pairwise_cons, List.forall_mem_cons, decide_eq_true_eq, bne_iff_ne]
      constructor
      · rintro ⟨⟨hb, hij⟩, ⟨hj, hp⟩, hc, hd⟩
        exact ⟨⟨⟨hij, fun q hq => Nat.lt_trans hij (hj q hq)⟩, hj, hp⟩, hb, hc, hd⟩
      · rintro ⟨⟨⟨hij, _⟩, hj, hp⟩, hb, hc, hd⟩
        exact ⟨⟨hb, hij⟩, ⟨hj, hp⟩, hc, hd⟩

/-- An entry of a store after a write is the written one or was there before. -/
theorem mem_memPut {d : Option Byte} {m : List Host.Cell} {a : Nat} {b : Byte} {p : Host.Cell} (h : p ∈ memPut d m a b) :
    (p = (a, b) ∧ d ≠ some b) ∨ p ∈ m := by
  induction m with
  | nil =>
    unfold memPut at h; split at h
    · simp at h
    · exact .inl ⟨by simpa using h, by assumption⟩
  | cons q t ih =>
    obtain ⟨i, c⟩ := q
    unfold memPut at h
    split at h
    · split at h
      · exact .inr h
      · rcases List.mem_cons.1 h with h | h
        · exact .inl ⟨h, by assumption⟩
        · exact .inr h
    · split at h
      · split at h
        · exact .inr (List.mem_cons_of_mem _ h)
        · rcases List.mem_cons.1 h with h | h
          · exact .inl ⟨h, by assumption⟩
          · exact .inr (List.mem_cons_of_mem _ h)
      · rcases List.mem_cons.1 h with h | h
        · exact .inr (by simp [h])
        · exact (ih h).imp id (List.mem_cons_of_mem _)

/-- A write keeps the canonical form. -/
theorem memPut_wf {d : Option Byte} {m : List Host.Cell} (a : Nat) (b : Byte) (h : Memory.wf d m = true) :
    Memory.wf d (memPut d m a b) = true := by
  rw [Memory.wf_iff] at h ⊢
  refine ⟨?_, fun p hp => ?_⟩
  · have hs := h.1
    clear h
    induction m with
    | nil => unfold memPut; split <;> simp
    | cons q t ih =>
      obtain ⟨i, c⟩ := q
      obtain ⟨hi, ht⟩ := List.pairwise_cons.1 hs
      unfold memPut
      split
      · split
        · exact hs
        · refine List.pairwise_cons.2 ⟨fun q hq => ?_, hs⟩
          rcases List.mem_cons.1 hq with rfl | hq
          · assumption
          · exact Nat.lt_trans (by assumption) (hi q hq)
      · split
        · split
          · exact ht
          · rename_i he _
            exact List.pairwise_cons.2 ⟨fun q hq => by simpa [he] using hi q hq, ht⟩
        · refine List.pairwise_cons.2 ⟨fun q hq => ?_, ih ht⟩
          rcases mem_memPut hq with ⟨rfl, _⟩ | hq
          · simp only; omega
          · exact hi q hq
  · rcases mem_memPut hp with ⟨rfl, hb⟩ | hp
    · exact hb
    · exact h.2 p hp

/-- Reading one byte after a write gives what was written there, and elsewhere what was read before. -/
theorem memGet_memPut {d : Option Byte} {m : List Host.Cell} (a x : Nat) (b : Byte) (h : Memory.wf d m = true) :
    (memGet (memPut d m a b) x).or d = if x = a then some b else (memGet m x).or d := by
  have hs := ((Memory.wf_iff d m).1 h).1
  clear h
  induction m with
  | nil =>
    unfold memPut; split
    · rename_i hd; by_cases hx : x = a <;> simp [memGet, hx, hd]
    · by_cases hx : x = a <;> simp [memGet, hx]
  | cons q t ih =>
    obtain ⟨i, c⟩ := q
    obtain ⟨hi, ht⟩ := List.pairwise_cons.1 hs
    have none_of : ∀ l : List Host.Cell, ∀ y, (∀ q ∈ l, y < q.1) → memGet l y = none := by
      intro l y hl
      induction l with
      | nil => rfl
      | cons r l ihl =>
        obtain ⟨j, e⟩ := r
        have := hl (j, e) (by simp)
        simp only [memGet]
        rw [if_neg (by simp at this; omega), ihl fun q hq => hl q (List.mem_cons_of_mem _ hq)]
    unfold memPut
    split
    · rename_i hlt
      have hn : memGet ((i, c) :: t) a = none := none_of _ _ fun q hq => by
        rcases List.mem_cons.1 hq with rfl | hq
        · exact hlt
        · exact Nat.lt_trans hlt (hi q hq)
      split
      · rename_i hd; by_cases hx : x = a
        · subst hx; simp [hn, hd]
        · simp [hx]
      · by_cases hx : x = a
        · simp [memGet, hx]
        · conv_lhs => rw [memGet]
          simp [hx]
    · split
      · rename_i he; subst he
        have hn : memGet t a = none := none_of _ _ hi
        split
        · rename_i hd; by_cases hx : x = a
          · subst hx; simp [hn, hd]
          · simp [memGet, hx]
        · by_cases hx : x = a <;> simp [memGet, hx]
      · by_cases hx : x = i
        · subst hx; rename_i hne; simp [memGet, Ne.symm hne]
        · simp only [memGet, hx, if_false]; exact ih ht

/-- Dropping a range keeps the canonical form. -/
theorem memDrop_wf {d : Option Byte} {m : List Host.Cell} (lo hi : Nat) (h : Memory.wf d m = true) :
    Memory.wf d (memDrop m lo hi) = true := by
  rw [Memory.wf_iff] at h ⊢
  exact ⟨h.1.filter _, fun p hp => h.2 p (List.mem_filter.1 hp).1⟩

/-- The entries of a byte string. -/
theorem mem_zipIdx_map {bs : List Byte} {a : Nat} {p : Host.Cell} (h : p ∈ (bs.zipIdx a).map (fun q => (q.2, q.1))) :
    a ≤ p.1 ∧ p.1 < a + bs.length := by
  obtain ⟨q, hq, rfl⟩ := List.mem_map.1 h
  exact ⟨List.le_snd_of_mem_zipIdx hq, by simpa [Nat.add_comm] using List.snd_lt_add_of_mem_zipIdx hq⟩

/-- The entries of a byte string rise. -/
theorem zipIdx_map_rising (bs : List Byte) (a : Nat) :
    ((bs.zipIdx a).map (fun q => ((q.2, q.1) : Host.Cell))).Pairwise (fun p q => p.1 < q.1) := by
  induction bs generalizing a with
  | nil => simp
  | cons b t ih =>
    simp only [List.zipIdx_cons, List.map_cons, List.pairwise_cons]
    exact ⟨fun q hq => (mem_zipIdx_map hq).1, ih (a + 1)⟩

/-- A byte string written keeps the canonical form. -/
theorem memPutBytes_wf {d : Option Byte} {m : List Host.Cell} (a : Nat) (bs : List Byte) (h : Memory.wf d m = true) :
    Memory.wf d (memPutBytes d m a bs) = true := by
  rw [Memory.wf_iff] at h ⊢
  obtain ⟨hs, hd⟩ := h
  unfold memPutBytes
  refine ⟨?_, fun p hp => ?_⟩
  · rw [List.append_assoc, List.pairwise_append, List.pairwise_append]
    refine ⟨hs.filter _, ⟨(zipIdx_map_rising bs a).filter _, hs.filter _, fun p hp q hq => ?_⟩, fun p hp q hq => ?_⟩
    · have := mem_zipIdx_map (List.mem_filter.1 hp).1
      have := of_decide_eq_true (List.mem_filter.1 hq).2
      omega
    · have h1 := of_decide_eq_true (List.mem_filter.1 hp).2
      rcases List.mem_append.1 hq with hq | hq
      · have := mem_zipIdx_map (List.mem_filter.1 hq).1
        omega
      · have := of_decide_eq_true (List.mem_filter.1 hq).2
        omega
  · rcases List.mem_append.1 hp with hp | hp
    · rcases List.mem_append.1 hp with hp | hp
      · exact hd p (List.mem_filter.1 hp).1
      · simpa using (List.mem_filter.1 hp).2
    · exact hd p (List.mem_filter.1 hp).1

/-- Nothing is listed at an address that no entry has. -/
theorem memGet_none {m : List Host.Cell} {x : Nat} (h : ∀ p ∈ m, p.1 ≠ x) : memGet m x = none := by
  induction m with
  | nil => rfl
  | cons q t ih =>
    obtain ⟨i, c⟩ := q
    simp only [memGet]
    rw [if_neg (fun e => h (i, c) (by simp) e.symm), ih fun p hp => h p (List.mem_cons_of_mem _ hp)]

/-- A filter that keeps the entries at an address leaves what is listed there. -/
theorem memGet_filter {m : List Host.Cell} {x : Nat} {f : Host.Cell → Bool} (h : ∀ b, f (x, b) = true) :
    memGet (m.filter f) x = memGet m x := by
  induction m with
  | nil => rfl
  | cons q t ih =>
    obtain ⟨i, c⟩ := q
    by_cases hx : x = i
    · subst hx; simp [h, memGet]
    · rw [List.filter_cons]; split <;> simp [memGet, hx, ih]

/-- What is listed in two stores joined. -/
theorem memGet_append (l m : List Host.Cell) (x : Nat) : memGet (l ++ m) x = (memGet l x).or (memGet m x) := by
  induction l with
  | nil => simp [memGet]
  | cons q t ih => obtain ⟨i, c⟩ := q; by_cases hx : x = i <;> simp [memGet, hx, ih]

/-- What a byte string lists, where the entries equal to the unlisted value are dropped. -/
theorem memGet_zipIdx (d : Option Byte) (bs : List Byte) (a x : Nat) :
    (memGet (((bs.zipIdx a).map (fun p => (p.2, p.1))).filter (fun p => d != some p.2)) x).or d =
      if a ≤ x ∧ x < a + bs.length then bs[x - a]? else d := by
  induction bs generalizing a with
  | nil => simp [memGet]
  | cons b t ih =>
    have hi := ih (a + 1)
    by_cases hx : x = a
    · subst hx
      have hn : memGet (((t.zipIdx (x + 1)).map (fun p => (p.2, p.1))).filter (fun p => d != some p.2)) x = none :=
        memGet_none fun p hp => by have := (mem_zipIdx_map (List.mem_filter.1 hp).1).1; omega
      simp only [List.zipIdx_cons, List.map_cons, List.filter_cons]
      by_cases hd : d = some b
      · simp [hd] at hn ⊢; simp [hn]
      · simp [hd, memGet]
    · have : memGet ((((b :: t).zipIdx a).map (fun p => (p.2, p.1))).filter (fun p => d != some p.2)) x =
          memGet (((t.zipIdx (a + 1)).map (fun p => (p.2, p.1))).filter (fun p => d != some p.2)) x := by
        simp only [List.zipIdx_cons, List.map_cons, List.filter_cons]
        split <;> simp [memGet, hx]
      rw [this, hi]
      by_cases hr : a + 1 ≤ x ∧ x < a + 1 + t.length
      · rw [if_pos hr, if_pos (by simp only [List.length_cons]; omega), show x - a = x - (a + 1) + 1 by omega,
          List.getElem?_cons_succ]
      · rw [if_neg hr, if_neg (by simp only [List.length_cons]; omega)]

/-- Reading after a byte string was written gives the string's byte inside, and elsewhere what was read before. -/
theorem memGet_memPutBytes (d : Option Byte) (m : List Host.Cell) (a x : Nat) (bs : List Byte) :
    (memGet (memPutBytes d m a bs) x).or d =
      if a ≤ x ∧ x < a + bs.length then bs[x - a]? else (memGet m x).or d := by
  have hz := memGet_zipIdx d bs a x
  unfold memPutBytes
  rw [memGet_append, memGet_append]
  by_cases hr : a ≤ x ∧ x < a + bs.length
  · rw [if_pos hr] at hz ⊢
    rw [memGet_none (m := m.filter _) (fun p hp => by have := of_decide_eq_true (List.mem_filter.1 hp).2; omega),
      memGet_none (m := m.filter fun p => decide (a + bs.length ≤ p.1))
        (fun p hp => by have := of_decide_eq_true (List.mem_filter.1 hp).2; omega)]
    simpa using hz
  · rw [if_neg hr]
    rw [memGet_none (m := List.filter _ (List.map _ _))
      (fun p hp => by have := mem_zipIdx_map (List.mem_filter.1 hp).1; omega)]
    rcases Nat.lt_or_ge x a with hx | hx
    · rw [memGet_filter (fun b => by simpa using hx),
        memGet_none (m := m.filter fun p => decide (a + bs.length ≤ p.1))
          (fun p hp => by have := of_decide_eq_true (List.mem_filter.1 hp).2; omega)]
      simp
    · rw [memGet_none (m := m.filter fun p => decide (p.1 < a))
          (fun p hp => by have := of_decide_eq_true (List.mem_filter.1 hp).2; omega),
        memGet_filter (fun b => by simp; omega)]
      simp

/-- The entry at an address of a falling list, taken from its end. -/
theorem memFill_eq (a : Nat) (n : Nat) (cells : List Host.Cell) (acc : List (Option Byte))
    (hs : cells.Pairwise (fun p q => q.1 < p.1)) (hr : ∀ p ∈ cells, p.1 < a + n) :
    memFill a n cells acc = (List.range n).map (fun i => memGet cells (a + i)) ++ acc := by
  induction n generalizing cells acc with
  | zero => simp [memFill]
  | succ n ih =>
    cases cells with
    | nil => rw [memFill, ih [] _ (by simp) (by simp), List.range_succ]; simp [memGet]
    | cons q t =>
      obtain ⟨i, b⟩ := q
      obtain ⟨hi, ht⟩ := List.pairwise_cons.1 hs
      unfold memFill
      split
      · rename_i he
        rw [ih t _ ht (fun p hp => by have := hi p hp; simp only at this; omega), List.range_succ]
        simp only [List.map_append, List.map_cons, List.map_nil, List.append_assoc, List.singleton_append]
        congr 1
        · apply List.map_congr_left
          intro k hk
          have := List.mem_range.1 hk
          simp only [memGet]
          rw [if_neg (by omega)]
        · simp [memGet, he]
      · rename_i he
        have hlt : i < a + n := by have := hr (i, b) (by simp); simp only at this; omega
        rw [ih _ _ hs (fun p hp => by
          rcases List.mem_cons.1 hp with rfl | hp
          · exact hlt
          · have := hi p hp; simp only at this; omega), List.range_succ]
        have hn : memGet ((i, b) :: t) (a + n) = none := memGet_none fun p hp => by
          rcases List.mem_cons.1 hp with rfl | hp
          · simp only; omega
          · have := hi p hp; simp only at this; omega
        simp [hn]

/-- A range of a canonical store is read byte by byte. -/
theorem memRange_eq {d : Option Byte} {m : List Host.Cell} (a n : Nat) (h : Memory.wf d m = true) :
    memRange m a n = (List.range n).map (fun i => memGet m (a + i)) := by
  have hs := ((Memory.wf_iff d m).1 h).1
  unfold memRange
  rw [memFill_eq]
  · simp only [List.append_nil]
    apply List.map_congr_left
    intro k hk
    have hk := List.mem_range.1 hk
    have hrev : ∀ l : List Host.Cell, l.Pairwise (fun p q => p.1 < q.1) → ∀ x, memGet l.reverse x = memGet l x := by
      intro l hl x
      induction l with
      | nil => rfl
      | cons q t ih =>
        obtain ⟨i, c⟩ := q
        obtain ⟨hi, ht⟩ := List.pairwise_cons.1 hl
        rw [List.reverse_cons, memGet_append, ih ht]
        by_cases hx : x = i
        · subst hx
          rw [memGet_none (m := t) (fun p hp => by have := hi p hp; simp only at this; omega)]
          simp [memGet]
        · simp [memGet, hx]
    rw [hrev _ (hs.filter _)]
    exact memGet_filter (fun b => by simp; omega)
  · rw [List.pairwise_reverse]; exact hs.filter _
  · intro p hp
    have := (List.mem_filter.1 (List.mem_reverse.1 hp)).2
    simp only [Bool.and_eq_true, decide_eq_true_eq] at this
    omega

/-- A range of a canonical HBM is read byte by byte. -/
theorem hbmRead_eq {s : State} (dpa len : Nat) (h : Memory.wf (some 0#8) s.mem.hbm = true) :
    hbmRead s dpa len = (List.range len).map (fun i => hbmByte s (dpa + i)) := by
  unfold hbmRead
  rw [memRange_eq dpa len h]
  apply List.ext_getElem
  · simp
  · intro i h1 h2
    simp [hbmByte]

theorem hbmPut_wf {dpa : Nat} {b : Byte} {s : State} (h : Memory.wf (some 0#8) s.mem.hbm = true) :
    Memory.wf (some 0#8) (hbmPut dpa b s).mem.hbm = true := by
  unfold hbmPut; split
  · exact h
  · exact memPut_wf dpa b h

/-- Curing a line leaves the bytes. -/
@[simp] theorem cureLine_hbm (l : Nat) (s : State) : (cureLine l s).mem.hbm = s.mem.hbm := by
  unfold cureLine; (repeat' split) <;> rfl

theorem cureLines_wf {dpa n : Nat} {s : State} (h : Memory.wf (some 0#8) s.mem.hbm = true) :
    Memory.wf (some 0#8) (cureLines dpa n s).mem.hbm = true := by
  unfold cureLines forUpto
  exact foldl_keeps (P := fun s : State => Memory.wf (some 0#8) s.mem.hbm = true) (fun s _ hs => by simpa using hs) _ h

theorem hbmPutBytes_wf {dpa : Nat} {bs : List Byte} {s : State} (h : Memory.wf (some 0#8) s.mem.hbm = true) :
    Memory.wf (some 0#8) (hbmPutBytes dpa bs s).mem.hbm = true := by
  unfold hbmPutBytes; split
  · exact memPutBytes_wf dpa bs h
  · exact foldl_keeps (P := fun s : State => Memory.wf (some 0#8) s.mem.hbm = true) (fun _ _ hs => hbmPut_wf hs) _ h

theorem hbmWrite_wf {dpa : Nat} {bs : List Byte} {s : State} (h : Memory.wf (some 0#8) s.mem.hbm = true) :
    Memory.wf (some 0#8) (hbmWrite dpa bs s).mem.hbm = true := by
  unfold hbmWrite
  exact cureLines_wf (hbmPutBytes_wf h)

theorem courtWrite_wf {c : Court} {ca : Nat} {bs : List Byte} {s : State} (h : Memory.wf (some 0#8) s.mem.hbm = true) :
    Memory.wf (some 0#8) (courtWrite c ca bs s).mem.hbm = true := by
  unfold courtWrite forUpto
  refine foldl_keeps (P := fun s : State => Memory.wf (some 0#8) s.mem.hbm = true) (fun s _ hs => ?_) _
    (foldl_keeps (P := fun s : State => Memory.wf (some 0#8) s.mem.hbm = true) (fun s _ hs => ?_) _ h)
  · beta_reduce; split
    · simpa using hs
    · exact hs
  · split
    · exact hbmPutBytes_wf hs
    · exact hs

theorem clearGranule_wf {G : Nat} {o : GranOwner} {conf : Bool} {s : State} (h : Memory.wf (some 0#8) s.mem.hbm = true) :
    Memory.wf (some 0#8) (clearGranule G o conf s).mem.hbm = true := memDrop_wf _ _ h

theorem moveGranule_wf {G H : Nat} {s : State} (h : Memory.wf (some 0#8) s.mem.hbm = true) :
    Memory.wf (some 0#8) (moveGranule G H s).mem.hbm = true :=
  foldl_keeps (P := fun m : List Host.Cell => Memory.wf (some 0#8) m = true) (fun _ p hm => memPut_wf _ p.2 hm) _
    (memDrop_wf _ _ (memDrop_wf _ _ h))

end Sys2Proof.Machine
end

