-- ==== Sys2Proof/Laws/State.lean ====
section
/-! SUPPORT. What each named update of the state leaves as it was, field by field, and what a look-up gives after it. -/

namespace Sys2Proof.Machine

variable (s : State)

/-! `emit` -/

@[simp] theorem emit_sq (e : OutEv) : (emit e s).sq = s.sq := rfl
@[simp] theorem emit_cmd (e : OutEv) : (emit e s).cmd = s.cmd := rfl
@[simp] theorem emit_mem (e : OutEv) : (emit e s).mem = s.mem := rfl
@[simp] theorem emit_blocks (e : OutEv) : (emit e s).blocks = s.blocks := rfl
@[simp] theorem emit_courts (e : OutEv) : (emit e s).courts = s.courts := rfl
@[simp] theorem emit_pkgs (e : OutEv) : (emit e s).pkgs = s.pkgs := rfl
@[simp] theorem emit_runs (e : OutEv) : (emit e s).runs = s.runs := rfl
@[simp] theorem emit_nextRun (e : OutEv) : (emit e s).nextRun = s.nextRun := rfl
@[simp] theorem emit_barriers (e : OutEv) : (emit e s).barriers = s.barriers := rfl
@[simp] theorem emit_semWait (e : OutEv) : (emit e s).semWait = s.semWait := rfl
@[simp] theorem emit_runDone (e : OutEv) : (emit e s).runDone = s.runDone := rfl
@[simp] theorem emit_gaz (e : OutEv) : (emit e s).gaz = s.gaz := rfl
@[simp] theorem emit_grps (e : OutEv) : (emit e s).grps = s.grps := rfl
@[simp] theorem emit_jobs (e : OutEv) : (emit e s).jobs = s.jobs := rfl
@[simp] theorem emit_ue (e : OutEv) : (emit e s).ue = s.ue := rfl
@[simp] theorem emit_avs (e : OutEv) : (emit e s).avs = s.avs := rfl
@[simp] theorem emit_inbox (e : OutEv) : (emit e s).inbox = s.inbox := rfl
@[simp] theorem emit_part (e : OutEv) : (emit e s).part = s.part := rfl
@[simp] theorem emit_tt (e : OutEv) : (emit e s).tt = s.tt := rfl
@[simp] theorem emit_srv (e : OutEv) : (emit e s).srv = s.srv := rfl
@[simp] theorem emit_sec (e : OutEv) : (emit e s).sec = s.sec := rfl
@[simp] theorem emit_age (e : OutEv) : (emit e s).age = s.age := rfl
@[simp] theorem emit_pwr (e : OutEv) : (emit e s).pwr = s.pwr := rfl
@[simp] theorem emit_flash (e : OutEv) : (emit e s).flash = s.flash := rfl
@[simp] theorem emit_smp (e : OutEv) : (emit e s).smp = s.smp := rfl
@[simp] theorem emit_tap (e : OutEv) : (emit e s).tap = s.tap := rfl
@[simp] theorem emit_mgm (e : OutEv) : (emit e s).mgm = s.mgm := rfl
@[simp] theorem emit_free (e : OutEv) : (emit e s).free = s.free := rfl
@[simp] theorem emit_pending (e : OutEv) : (emit e s).pending = s.pending := rfl

/-! `bumpFree` -/

@[simp] theorem bumpFree_sq  : (bumpFree s).sq = s.sq := rfl
@[simp] theorem bumpFree_cmd  : (bumpFree s).cmd = s.cmd := rfl
@[simp] theorem bumpFree_mem  : (bumpFree s).mem = s.mem := rfl
@[simp] theorem bumpFree_blocks  : (bumpFree s).blocks = s.blocks := rfl
@[simp] theorem bumpFree_courts  : (bumpFree s).courts = s.courts := rfl
@[simp] theorem bumpFree_pkgs  : (bumpFree s).pkgs = s.pkgs := rfl
@[simp] theorem bumpFree_runs  : (bumpFree s).runs = s.runs := rfl
@[simp] theorem bumpFree_nextRun  : (bumpFree s).nextRun = s.nextRun := rfl
@[simp] theorem bumpFree_barriers  : (bumpFree s).barriers = s.barriers := rfl
@[simp] theorem bumpFree_semWait  : (bumpFree s).semWait = s.semWait := rfl
@[simp] theorem bumpFree_runDone  : (bumpFree s).runDone = s.runDone := rfl
@[simp] theorem bumpFree_gaz  : (bumpFree s).gaz = s.gaz := rfl
@[simp] theorem bumpFree_grps  : (bumpFree s).grps = s.grps := rfl
@[simp] theorem bumpFree_jobs  : (bumpFree s).jobs = s.jobs := rfl
@[simp] theorem bumpFree_ue  : (bumpFree s).ue = s.ue := rfl
@[simp] theorem bumpFree_avs  : (bumpFree s).avs = s.avs := rfl
@[simp] theorem bumpFree_inbox  : (bumpFree s).inbox = s.inbox := rfl
@[simp] theorem bumpFree_part  : (bumpFree s).part = s.part := rfl
@[simp] theorem bumpFree_tt  : (bumpFree s).tt = s.tt := rfl
@[simp] theorem bumpFree_srv  : (bumpFree s).srv = s.srv := rfl
@[simp] theorem bumpFree_sec  : (bumpFree s).sec = s.sec := rfl
@[simp] theorem bumpFree_age  : (bumpFree s).age = s.age := rfl
@[simp] theorem bumpFree_pwr  : (bumpFree s).pwr = s.pwr := rfl
@[simp] theorem bumpFree_flash  : (bumpFree s).flash = s.flash := rfl
@[simp] theorem bumpFree_smp  : (bumpFree s).smp = s.smp := rfl
@[simp] theorem bumpFree_tap  : (bumpFree s).tap = s.tap := rfl
@[simp] theorem bumpFree_mgm  : (bumpFree s).mgm = s.mgm := rfl
@[simp] theorem bumpFree_out  : (bumpFree s).out = s.out := rfl
@[simp] theorem bumpFree_pending  : (bumpFree s).pending = s.pending := rfl

/-! `modQueue` -/

@[simp] theorem modQueue_sq (q : QId) (f : Queue → Queue) : (modQueue q f s).sq = s.sq := rfl
@[simp] theorem modQueue_mem (q : QId) (f : Queue → Queue) : (modQueue q f s).mem = s.mem := rfl
@[simp] theorem modQueue_blocks (q : QId) (f : Queue → Queue) : (modQueue q f s).blocks = s.blocks := rfl
@[simp] theorem modQueue_courts (q : QId) (f : Queue → Queue) : (modQueue q f s).courts = s.courts := rfl
@[simp] theorem modQueue_pkgs (q : QId) (f : Queue → Queue) : (modQueue q f s).pkgs = s.pkgs := rfl
@[simp] theorem modQueue_runs (q : QId) (f : Queue → Queue) : (modQueue q f s).runs = s.runs := rfl
@[simp] theorem modQueue_nextRun (q : QId) (f : Queue → Queue) : (modQueue q f s).nextRun = s.nextRun := rfl
@[simp] theorem modQueue_barriers (q : QId) (f : Queue → Queue) : (modQueue q f s).barriers = s.barriers := rfl
@[simp] theorem modQueue_semWait (q : QId) (f : Queue → Queue) : (modQueue q f s).semWait = s.semWait := rfl
@[simp] theorem modQueue_runDone (q : QId) (f : Queue → Queue) : (modQueue q f s).runDone = s.runDone := rfl
@[simp] theorem modQueue_gaz (q : QId) (f : Queue → Queue) : (modQueue q f s).gaz = s.gaz := rfl
@[simp] theorem modQueue_grps (q : QId) (f : Queue → Queue) : (modQueue q f s).grps = s.grps := rfl
@[simp] theorem modQueue_jobs (q : QId) (f : Queue → Queue) : (modQueue q f s).jobs = s.jobs := rfl
@[simp] theorem modQueue_ue (q : QId) (f : Queue → Queue) : (modQueue q f s).ue = s.ue := rfl
@[simp] theorem modQueue_avs (q : QId) (f : Queue → Queue) : (modQueue q f s).avs = s.avs := rfl
@[simp] theorem modQueue_inbox (q : QId) (f : Queue → Queue) : (modQueue q f s).inbox = s.inbox := rfl
@[simp] theorem modQueue_part (q : QId) (f : Queue → Queue) : (modQueue q f s).part = s.part := rfl
@[simp] theorem modQueue_tt (q : QId) (f : Queue → Queue) : (modQueue q f s).tt = s.tt := rfl
@[simp] theorem modQueue_srv (q : QId) (f : Queue → Queue) : (modQueue q f s).srv = s.srv := rfl
@[simp] theorem modQueue_sec (q : QId) (f : Queue → Queue) : (modQueue q f s).sec = s.sec := rfl
@[simp] theorem modQueue_age (q : QId) (f : Queue → Queue) : (modQueue q f s).age = s.age := rfl
@[simp] theorem modQueue_pwr (q : QId) (f : Queue → Queue) : (modQueue q f s).pwr = s.pwr := rfl
@[simp] theorem modQueue_flash (q : QId) (f : Queue → Queue) : (modQueue q f s).flash = s.flash := rfl
@[simp] theorem modQueue_smp (q : QId) (f : Queue → Queue) : (modQueue q f s).smp = s.smp := rfl
@[simp] theorem modQueue_tap (q : QId) (f : Queue → Queue) : (modQueue q f s).tap = s.tap := rfl
@[simp] theorem modQueue_mgm (q : QId) (f : Queue → Queue) : (modQueue q f s).mgm = s.mgm := rfl
@[simp] theorem modQueue_free (q : QId) (f : Queue → Queue) : (modQueue q f s).free = s.free := rfl
@[simp] theorem modQueue_out (q : QId) (f : Queue → Queue) : (modQueue q f s).out = s.out := rfl
@[simp] theorem modQueue_pending (q : QId) (f : Queue → Queue) : (modQueue q f s).pending = s.pending := rfl
@[simp] theorem modQueue_cmd_cmds (q : QId) (f : Queue → Queue) : (modQueue q f s).cmd.cmds = s.cmd.cmds := rfl
@[simp] theorem modQueue_cmd_retireSeq (q : QId) (f : Queue → Queue) : (modQueue q f s).cmd.retireSeq = s.cmd.retireSeq := rfl
@[simp] theorem modQueue_cmd_fns (q : QId) (f : Queue → Queue) : (modQueue q f s).cmd.fns = s.cmd.fns := rfl
@[simp] theorem modQueue_cmd_eventRings (q : QId) (f : Queue → Queue) : (modQueue q f s).cmd.eventRings = s.cmd.eventRings := rfl
@[simp] theorem modQueue_cmd_assistRings (q : QId) (f : Queue → Queue) : (modQueue q f s).cmd.assistRings = s.cmd.assistRings := rfl
@[simp] theorem modQueue_cmd_assists (q : QId) (f : Queue → Queue) : (modQueue q f s).cmd.assists = s.cmd.assists := rfl
@[simp] theorem modQueue_cmd_expired (q : QId) (f : Queue → Queue) : (modQueue q f s).cmd.expired = s.cmd.expired := rfl
@[simp] theorem modQueue_cmd_heldWrites (q : QId) (f : Queue → Queue) : (modQueue q f s).cmd.heldWrites = s.cmd.heldWrites := rfl
@[simp] theorem modQueue_cmd_modes (q : QId) (f : Queue → Queue) : (modQueue q f s).cmd.modes = s.cmd.modes := rfl
@[simp] theorem modQueue_cmd_modeDeadlines (q : QId) (f : Queue → Queue) : (modQueue q f s).cmd.modeDeadlines = s.cmd.modeDeadlines := rfl

/-! `modCmd` -/

@[simp] theorem modCmd_sq (q : QId) (cid : Nat) (f : Cmd → Cmd) : (modCmd q cid f s).sq = s.sq := rfl
@[simp] theorem modCmd_mem (q : QId) (cid : Nat) (f : Cmd → Cmd) : (modCmd q cid f s).mem = s.mem := rfl
@[simp] theorem modCmd_blocks (q : QId) (cid : Nat) (f : Cmd → Cmd) : (modCmd q cid f s).blocks = s.blocks := rfl
@[simp] theorem modCmd_courts (q : QId) (cid : Nat) (f : Cmd → Cmd) : (modCmd q cid f s).courts = s.courts := rfl
@[simp] theorem modCmd_pkgs (q : QId) (cid : Nat) (f : Cmd → Cmd) : (modCmd q cid f s).pkgs = s.pkgs := rfl
@[simp] theorem modCmd_runs (q : QId) (cid : Nat) (f : Cmd → Cmd) : (modCmd q cid f s).runs = s.runs := rfl
@[simp] theorem modCmd_nextRun (q : QId) (cid : Nat) (f : Cmd → Cmd) : (modCmd q cid f s).nextRun = s.nextRun := rfl
@[simp] theorem modCmd_barriers (q : QId) (cid : Nat) (f : Cmd → Cmd) : (modCmd q cid f s).barriers = s.barriers := rfl
@[simp] theorem modCmd_semWait (q : QId) (cid : Nat) (f : Cmd → Cmd) : (modCmd q cid f s).semWait = s.semWait := rfl
@[simp] theorem modCmd_runDone (q : QId) (cid : Nat) (f : Cmd → Cmd) : (modCmd q cid f s).runDone = s.runDone := rfl
@[simp] theorem modCmd_gaz (q : QId) (cid : Nat) (f : Cmd → Cmd) : (modCmd q cid f s).gaz = s.gaz := rfl
@[simp] theorem modCmd_grps (q : QId) (cid : Nat) (f : Cmd → Cmd) : (modCmd q cid f s).grps = s.grps := rfl
@[simp] theorem modCmd_jobs (q : QId) (cid : Nat) (f : Cmd → Cmd) : (modCmd q cid f s).jobs = s.jobs := rfl
@[simp] theorem modCmd_ue (q : QId) (cid : Nat) (f : Cmd → Cmd) : (modCmd q cid f s).ue = s.ue := rfl
@[simp] theorem modCmd_avs (q : QId) (cid : Nat) (f : Cmd → Cmd) : (modCmd q cid f s).avs = s.avs := rfl
@[simp] theorem modCmd_inbox (q : QId) (cid : Nat) (f : Cmd → Cmd) : (modCmd q cid f s).inbox = s.inbox := rfl
@[simp] theorem modCmd_part (q : QId) (cid : Nat) (f : Cmd → Cmd) : (modCmd q cid f s).part = s.part := rfl
@[simp] theorem modCmd_tt (q : QId) (cid : Nat) (f : Cmd → Cmd) : (modCmd q cid f s).tt = s.tt := rfl
@[simp] theorem modCmd_srv (q : QId) (cid : Nat) (f : Cmd → Cmd) : (modCmd q cid f s).srv = s.srv := rfl
@[simp] theorem modCmd_sec (q : QId) (cid : Nat) (f : Cmd → Cmd) : (modCmd q cid f s).sec = s.sec := rfl
@[simp] theorem modCmd_age (q : QId) (cid : Nat) (f : Cmd → Cmd) : (modCmd q cid f s).age = s.age := rfl
@[simp] theorem modCmd_pwr (q : QId) (cid : Nat) (f : Cmd → Cmd) : (modCmd q cid f s).pwr = s.pwr := rfl
@[simp] theorem modCmd_flash (q : QId) (cid : Nat) (f : Cmd → Cmd) : (modCmd q cid f s).flash = s.flash := rfl
@[simp] theorem modCmd_smp (q : QId) (cid : Nat) (f : Cmd → Cmd) : (modCmd q cid f s).smp = s.smp := rfl
@[simp] theorem modCmd_tap (q : QId) (cid : Nat) (f : Cmd → Cmd) : (modCmd q cid f s).tap = s.tap := rfl
@[simp] theorem modCmd_mgm (q : QId) (cid : Nat) (f : Cmd → Cmd) : (modCmd q cid f s).mgm = s.mgm := rfl
@[simp] theorem modCmd_free (q : QId) (cid : Nat) (f : Cmd → Cmd) : (modCmd q cid f s).free = s.free := rfl
@[simp] theorem modCmd_out (q : QId) (cid : Nat) (f : Cmd → Cmd) : (modCmd q cid f s).out = s.out := rfl
@[simp] theorem modCmd_pending (q : QId) (cid : Nat) (f : Cmd → Cmd) : (modCmd q cid f s).pending = s.pending := rfl
@[simp] theorem modCmd_cmd_queues (q : QId) (cid : Nat) (f : Cmd → Cmd) : (modCmd q cid f s).cmd.queues = s.cmd.queues := rfl
@[simp] theorem modCmd_cmd_retireSeq (q : QId) (cid : Nat) (f : Cmd → Cmd) : (modCmd q cid f s).cmd.retireSeq = s.cmd.retireSeq := rfl
@[simp] theorem modCmd_cmd_fns (q : QId) (cid : Nat) (f : Cmd → Cmd) : (modCmd q cid f s).cmd.fns = s.cmd.fns := rfl
@[simp] theorem modCmd_cmd_eventRings (q : QId) (cid : Nat) (f : Cmd → Cmd) : (modCmd q cid f s).cmd.eventRings = s.cmd.eventRings := rfl
@[simp] theorem modCmd_cmd_assistRings (q : QId) (cid : Nat) (f : Cmd → Cmd) : (modCmd q cid f s).cmd.assistRings = s.cmd.assistRings := rfl
@[simp] theorem modCmd_cmd_assists (q : QId) (cid : Nat) (f : Cmd → Cmd) : (modCmd q cid f s).cmd.assists = s.cmd.assists := rfl
@[simp] theorem modCmd_cmd_expired (q : QId) (cid : Nat) (f : Cmd → Cmd) : (modCmd q cid f s).cmd.expired = s.cmd.expired := rfl
@[simp] theorem modCmd_cmd_heldWrites (q : QId) (cid : Nat) (f : Cmd → Cmd) : (modCmd q cid f s).cmd.heldWrites = s.cmd.heldWrites := rfl
@[simp] theorem modCmd_cmd_modes (q : QId) (cid : Nat) (f : Cmd → Cmd) : (modCmd q cid f s).cmd.modes = s.cmd.modes := rfl
@[simp] theorem modCmd_cmd_modeDeadlines (q : QId) (cid : Nat) (f : Cmd → Cmd) : (modCmd q cid f s).cmd.modeDeadlines = s.cmd.modeDeadlines := rfl

/-! `modFn` -/

@[simp] theorem modFn_sq (f : FnId) (g : HostFn → HostFn) : (modFn f g s).sq = s.sq := rfl
@[simp] theorem modFn_mem (f : FnId) (g : HostFn → HostFn) : (modFn f g s).mem = s.mem := rfl
@[simp] theorem modFn_blocks (f : FnId) (g : HostFn → HostFn) : (modFn f g s).blocks = s.blocks := rfl
@[simp] theorem modFn_courts (f : FnId) (g : HostFn → HostFn) : (modFn f g s).courts = s.courts := rfl
@[simp] theorem modFn_pkgs (f : FnId) (g : HostFn → HostFn) : (modFn f g s).pkgs = s.pkgs := rfl
@[simp] theorem modFn_runs (f : FnId) (g : HostFn → HostFn) : (modFn f g s).runs = s.runs := rfl
@[simp] theorem modFn_nextRun (f : FnId) (g : HostFn → HostFn) : (modFn f g s).nextRun = s.nextRun := rfl
@[simp] theorem modFn_barriers (f : FnId) (g : HostFn → HostFn) : (modFn f g s).barriers = s.barriers := rfl
@[simp] theorem modFn_semWait (f : FnId) (g : HostFn → HostFn) : (modFn f g s).semWait = s.semWait := rfl
@[simp] theorem modFn_runDone (f : FnId) (g : HostFn → HostFn) : (modFn f g s).runDone = s.runDone := rfl
@[simp] theorem modFn_gaz (f : FnId) (g : HostFn → HostFn) : (modFn f g s).gaz = s.gaz := rfl
@[simp] theorem modFn_grps (f : FnId) (g : HostFn → HostFn) : (modFn f g s).grps = s.grps := rfl
@[simp] theorem modFn_jobs (f : FnId) (g : HostFn → HostFn) : (modFn f g s).jobs = s.jobs := rfl
@[simp] theorem modFn_ue (f : FnId) (g : HostFn → HostFn) : (modFn f g s).ue = s.ue := rfl
@[simp] theorem modFn_avs (f : FnId) (g : HostFn → HostFn) : (modFn f g s).avs = s.avs := rfl
@[simp] theorem modFn_inbox (f : FnId) (g : HostFn → HostFn) : (modFn f g s).inbox = s.inbox := rfl
@[simp] theorem modFn_part (f : FnId) (g : HostFn → HostFn) : (modFn f g s).part = s.part := rfl
@[simp] theorem modFn_tt (f : FnId) (g : HostFn → HostFn) : (modFn f g s).tt = s.tt := rfl
@[simp] theorem modFn_srv (f : FnId) (g : HostFn → HostFn) : (modFn f g s).srv = s.srv := rfl
@[simp] theorem modFn_sec (f : FnId) (g : HostFn → HostFn) : (modFn f g s).sec = s.sec := rfl
@[simp] theorem modFn_age (f : FnId) (g : HostFn → HostFn) : (modFn f g s).age = s.age := rfl
@[simp] theorem modFn_pwr (f : FnId) (g : HostFn → HostFn) : (modFn f g s).pwr = s.pwr := rfl
@[simp] theorem modFn_flash (f : FnId) (g : HostFn → HostFn) : (modFn f g s).flash = s.flash := rfl
@[simp] theorem modFn_smp (f : FnId) (g : HostFn → HostFn) : (modFn f g s).smp = s.smp := rfl
@[simp] theorem modFn_tap (f : FnId) (g : HostFn → HostFn) : (modFn f g s).tap = s.tap := rfl
@[simp] theorem modFn_mgm (f : FnId) (g : HostFn → HostFn) : (modFn f g s).mgm = s.mgm := rfl
@[simp] theorem modFn_free (f : FnId) (g : HostFn → HostFn) : (modFn f g s).free = s.free := rfl
@[simp] theorem modFn_out (f : FnId) (g : HostFn → HostFn) : (modFn f g s).out = s.out := rfl
@[simp] theorem modFn_pending (f : FnId) (g : HostFn → HostFn) : (modFn f g s).pending = s.pending := rfl
@[simp] theorem modFn_cmd_queues (f : FnId) (g : HostFn → HostFn) : (modFn f g s).cmd.queues = s.cmd.queues := rfl
@[simp] theorem modFn_cmd_cmds (f : FnId) (g : HostFn → HostFn) : (modFn f g s).cmd.cmds = s.cmd.cmds := rfl
@[simp] theorem modFn_cmd_retireSeq (f : FnId) (g : HostFn → HostFn) : (modFn f g s).cmd.retireSeq = s.cmd.retireSeq := rfl
@[simp] theorem modFn_cmd_eventRings (f : FnId) (g : HostFn → HostFn) : (modFn f g s).cmd.eventRings = s.cmd.eventRings := rfl
@[simp] theorem modFn_cmd_assistRings (f : FnId) (g : HostFn → HostFn) : (modFn f g s).cmd.assistRings = s.cmd.assistRings := rfl
@[simp] theorem modFn_cmd_assists (f : FnId) (g : HostFn → HostFn) : (modFn f g s).cmd.assists = s.cmd.assists := rfl
@[simp] theorem modFn_cmd_expired (f : FnId) (g : HostFn → HostFn) : (modFn f g s).cmd.expired = s.cmd.expired := rfl
@[simp] theorem modFn_cmd_heldWrites (f : FnId) (g : HostFn → HostFn) : (modFn f g s).cmd.heldWrites = s.cmd.heldWrites := rfl
@[simp] theorem modFn_cmd_modes (f : FnId) (g : HostFn → HostFn) : (modFn f g s).cmd.modes = s.cmd.modes := rfl
@[simp] theorem modFn_cmd_modeDeadlines (f : FnId) (g : HostFn → HostFn) : (modFn f g s).cmd.modeDeadlines = s.cmd.modeDeadlines := rfl

/-! `modCourt` -/

@[simp] theorem modCourt_sq (c : Nat) (f : Court → Court) : (modCourt c f s).sq = s.sq := rfl
@[simp] theorem modCourt_cmd (c : Nat) (f : Court → Court) : (modCourt c f s).cmd = s.cmd := rfl
@[simp] theorem modCourt_mem (c : Nat) (f : Court → Court) : (modCourt c f s).mem = s.mem := rfl
@[simp] theorem modCourt_blocks (c : Nat) (f : Court → Court) : (modCourt c f s).blocks = s.blocks := rfl
@[simp] theorem modCourt_pkgs (c : Nat) (f : Court → Court) : (modCourt c f s).pkgs = s.pkgs := rfl
@[simp] theorem modCourt_runs (c : Nat) (f : Court → Court) : (modCourt c f s).runs = s.runs := rfl
@[simp] theorem modCourt_nextRun (c : Nat) (f : Court → Court) : (modCourt c f s).nextRun = s.nextRun := rfl
@[simp] theorem modCourt_barriers (c : Nat) (f : Court → Court) : (modCourt c f s).barriers = s.barriers := rfl
@[simp] theorem modCourt_semWait (c : Nat) (f : Court → Court) : (modCourt c f s).semWait = s.semWait := rfl
@[simp] theorem modCourt_runDone (c : Nat) (f : Court → Court) : (modCourt c f s).runDone = s.runDone := rfl
@[simp] theorem modCourt_gaz (c : Nat) (f : Court → Court) : (modCourt c f s).gaz = s.gaz := rfl
@[simp] theorem modCourt_grps (c : Nat) (f : Court → Court) : (modCourt c f s).grps = s.grps := rfl
@[simp] theorem modCourt_jobs (c : Nat) (f : Court → Court) : (modCourt c f s).jobs = s.jobs := rfl
@[simp] theorem modCourt_ue (c : Nat) (f : Court → Court) : (modCourt c f s).ue = s.ue := rfl
@[simp] theorem modCourt_avs (c : Nat) (f : Court → Court) : (modCourt c f s).avs = s.avs := rfl
@[simp] theorem modCourt_inbox (c : Nat) (f : Court → Court) : (modCourt c f s).inbox = s.inbox := rfl
@[simp] theorem modCourt_part (c : Nat) (f : Court → Court) : (modCourt c f s).part = s.part := rfl
@[simp] theorem modCourt_tt (c : Nat) (f : Court → Court) : (modCourt c f s).tt = s.tt := rfl
@[simp] theorem modCourt_srv (c : Nat) (f : Court → Court) : (modCourt c f s).srv = s.srv := rfl
@[simp] theorem modCourt_sec (c : Nat) (f : Court → Court) : (modCourt c f s).sec = s.sec := rfl
@[simp] theorem modCourt_age (c : Nat) (f : Court → Court) : (modCourt c f s).age = s.age := rfl
@[simp] theorem modCourt_pwr (c : Nat) (f : Court → Court) : (modCourt c f s).pwr = s.pwr := rfl
@[simp] theorem modCourt_flash (c : Nat) (f : Court → Court) : (modCourt c f s).flash = s.flash := rfl
@[simp] theorem modCourt_smp (c : Nat) (f : Court → Court) : (modCourt c f s).smp = s.smp := rfl
@[simp] theorem modCourt_tap (c : Nat) (f : Court → Court) : (modCourt c f s).tap = s.tap := rfl
@[simp] theorem modCourt_mgm (c : Nat) (f : Court → Court) : (modCourt c f s).mgm = s.mgm := rfl
@[simp] theorem modCourt_free (c : Nat) (f : Court → Court) : (modCourt c f s).free = s.free := rfl
@[simp] theorem modCourt_out (c : Nat) (f : Court → Court) : (modCourt c f s).out = s.out := rfl
@[simp] theorem modCourt_pending (c : Nat) (f : Court → Court) : (modCourt c f s).pending = s.pending := rfl

/-! `modBlock` -/

@[simp] theorem modBlock_sq (b : Nat) (f : Block → Block) : (modBlock b f s).sq = s.sq := rfl
@[simp] theorem modBlock_cmd (b : Nat) (f : Block → Block) : (modBlock b f s).cmd = s.cmd := rfl
@[simp] theorem modBlock_mem (b : Nat) (f : Block → Block) : (modBlock b f s).mem = s.mem := rfl
@[simp] theorem modBlock_courts (b : Nat) (f : Block → Block) : (modBlock b f s).courts = s.courts := rfl
@[simp] theorem modBlock_pkgs (b : Nat) (f : Block → Block) : (modBlock b f s).pkgs = s.pkgs := rfl
@[simp] theorem modBlock_runs (b : Nat) (f : Block → Block) : (modBlock b f s).runs = s.runs := rfl
@[simp] theorem modBlock_nextRun (b : Nat) (f : Block → Block) : (modBlock b f s).nextRun = s.nextRun := rfl
@[simp] theorem modBlock_barriers (b : Nat) (f : Block → Block) : (modBlock b f s).barriers = s.barriers := rfl
@[simp] theorem modBlock_semWait (b : Nat) (f : Block → Block) : (modBlock b f s).semWait = s.semWait := rfl
@[simp] theorem modBlock_runDone (b : Nat) (f : Block → Block) : (modBlock b f s).runDone = s.runDone := rfl
@[simp] theorem modBlock_gaz (b : Nat) (f : Block → Block) : (modBlock b f s).gaz = s.gaz := rfl
@[simp] theorem modBlock_grps (b : Nat) (f : Block → Block) : (modBlock b f s).grps = s.grps := rfl
@[simp] theorem modBlock_jobs (b : Nat) (f : Block → Block) : (modBlock b f s).jobs = s.jobs := rfl
@[simp] theorem modBlock_ue (b : Nat) (f : Block → Block) : (modBlock b f s).ue = s.ue := rfl
@[simp] theorem modBlock_avs (b : Nat) (f : Block → Block) : (modBlock b f s).avs = s.avs := rfl
@[simp] theorem modBlock_inbox (b : Nat) (f : Block → Block) : (modBlock b f s).inbox = s.inbox := rfl
@[simp] theorem modBlock_part (b : Nat) (f : Block → Block) : (modBlock b f s).part = s.part := rfl
@[simp] theorem modBlock_tt (b : Nat) (f : Block → Block) : (modBlock b f s).tt = s.tt := rfl
@[simp] theorem modBlock_srv (b : Nat) (f : Block → Block) : (modBlock b f s).srv = s.srv := rfl
@[simp] theorem modBlock_sec (b : Nat) (f : Block → Block) : (modBlock b f s).sec = s.sec := rfl
@[simp] theorem modBlock_age (b : Nat) (f : Block → Block) : (modBlock b f s).age = s.age := rfl
@[simp] theorem modBlock_pwr (b : Nat) (f : Block → Block) : (modBlock b f s).pwr = s.pwr := rfl
@[simp] theorem modBlock_flash (b : Nat) (f : Block → Block) : (modBlock b f s).flash = s.flash := rfl
@[simp] theorem modBlock_smp (b : Nat) (f : Block → Block) : (modBlock b f s).smp = s.smp := rfl
@[simp] theorem modBlock_tap (b : Nat) (f : Block → Block) : (modBlock b f s).tap = s.tap := rfl
@[simp] theorem modBlock_mgm (b : Nat) (f : Block → Block) : (modBlock b f s).mgm = s.mgm := rfl
@[simp] theorem modBlock_free (b : Nat) (f : Block → Block) : (modBlock b f s).free = s.free := rfl
@[simp] theorem modBlock_out (b : Nat) (f : Block → Block) : (modBlock b f s).out = s.out := rfl
@[simp] theorem modBlock_pending (b : Nat) (f : Block → Block) : (modBlock b f s).pending = s.pending := rfl

/-! `modRun` -/

@[simp] theorem modRun_sq (r : Nat) (f : Run → Run) : (modRun r f s).sq = s.sq := rfl
@[simp] theorem modRun_cmd (r : Nat) (f : Run → Run) : (modRun r f s).cmd = s.cmd := rfl
@[simp] theorem modRun_mem (r : Nat) (f : Run → Run) : (modRun r f s).mem = s.mem := rfl
@[simp] theorem modRun_blocks (r : Nat) (f : Run → Run) : (modRun r f s).blocks = s.blocks := rfl
@[simp] theorem modRun_courts (r : Nat) (f : Run → Run) : (modRun r f s).courts = s.courts := rfl
@[simp] theorem modRun_pkgs (r : Nat) (f : Run → Run) : (modRun r f s).pkgs = s.pkgs := rfl
@[simp] theorem modRun_nextRun (r : Nat) (f : Run → Run) : (modRun r f s).nextRun = s.nextRun := rfl
@[simp] theorem modRun_barriers (r : Nat) (f : Run → Run) : (modRun r f s).barriers = s.barriers := rfl
@[simp] theorem modRun_semWait (r : Nat) (f : Run → Run) : (modRun r f s).semWait = s.semWait := rfl
@[simp] theorem modRun_runDone (r : Nat) (f : Run → Run) : (modRun r f s).runDone = s.runDone := rfl
@[simp] theorem modRun_gaz (r : Nat) (f : Run → Run) : (modRun r f s).gaz = s.gaz := rfl
@[simp] theorem modRun_grps (r : Nat) (f : Run → Run) : (modRun r f s).grps = s.grps := rfl
@[simp] theorem modRun_jobs (r : Nat) (f : Run → Run) : (modRun r f s).jobs = s.jobs := rfl
@[simp] theorem modRun_ue (r : Nat) (f : Run → Run) : (modRun r f s).ue = s.ue := rfl
@[simp] theorem modRun_avs (r : Nat) (f : Run → Run) : (modRun r f s).avs = s.avs := rfl
@[simp] theorem modRun_inbox (r : Nat) (f : Run → Run) : (modRun r f s).inbox = s.inbox := rfl
@[simp] theorem modRun_part (r : Nat) (f : Run → Run) : (modRun r f s).part = s.part := rfl
@[simp] theorem modRun_tt (r : Nat) (f : Run → Run) : (modRun r f s).tt = s.tt := rfl
@[simp] theorem modRun_srv (r : Nat) (f : Run → Run) : (modRun r f s).srv = s.srv := rfl
@[simp] theorem modRun_sec (r : Nat) (f : Run → Run) : (modRun r f s).sec = s.sec := rfl
@[simp] theorem modRun_age (r : Nat) (f : Run → Run) : (modRun r f s).age = s.age := rfl
@[simp] theorem modRun_pwr (r : Nat) (f : Run → Run) : (modRun r f s).pwr = s.pwr := rfl
@[simp] theorem modRun_flash (r : Nat) (f : Run → Run) : (modRun r f s).flash = s.flash := rfl
@[simp] theorem modRun_smp (r : Nat) (f : Run → Run) : (modRun r f s).smp = s.smp := rfl
@[simp] theorem modRun_tap (r : Nat) (f : Run → Run) : (modRun r f s).tap = s.tap := rfl
@[simp] theorem modRun_mgm (r : Nat) (f : Run → Run) : (modRun r f s).mgm = s.mgm := rfl
@[simp] theorem modRun_free (r : Nat) (f : Run → Run) : (modRun r f s).free = s.free := rfl
@[simp] theorem modRun_out (r : Nat) (f : Run → Run) : (modRun r f s).out = s.out := rfl
@[simp] theorem modRun_pending (r : Nat) (f : Run → Run) : (modRun r f s).pending = s.pending := rfl

/-! `modSlot` -/

@[simp] theorem modSlot_sq (n : Nat) (f : ModelSlot → ModelSlot) : (modSlot n f s).sq = s.sq := rfl
@[simp] theorem modSlot_cmd (n : Nat) (f : ModelSlot → ModelSlot) : (modSlot n f s).cmd = s.cmd := rfl
@[simp] theorem modSlot_mem (n : Nat) (f : ModelSlot → ModelSlot) : (modSlot n f s).mem = s.mem := rfl
@[simp] theorem modSlot_blocks (n : Nat) (f : ModelSlot → ModelSlot) : (modSlot n f s).blocks = s.blocks := rfl
@[simp] theorem modSlot_courts (n : Nat) (f : ModelSlot → ModelSlot) : (modSlot n f s).courts = s.courts := rfl
@[simp] theorem modSlot_pkgs (n : Nat) (f : ModelSlot → ModelSlot) : (modSlot n f s).pkgs = s.pkgs := rfl
@[simp] theorem modSlot_runs (n : Nat) (f : ModelSlot → ModelSlot) : (modSlot n f s).runs = s.runs := rfl
@[simp] theorem modSlot_nextRun (n : Nat) (f : ModelSlot → ModelSlot) : (modSlot n f s).nextRun = s.nextRun := rfl
@[simp] theorem modSlot_barriers (n : Nat) (f : ModelSlot → ModelSlot) : (modSlot n f s).barriers = s.barriers := rfl
@[simp] theorem modSlot_semWait (n : Nat) (f : ModelSlot → ModelSlot) : (modSlot n f s).semWait = s.semWait := rfl
@[simp] theorem modSlot_runDone (n : Nat) (f : ModelSlot → ModelSlot) : (modSlot n f s).runDone = s.runDone := rfl
@[simp] theorem modSlot_grps (n : Nat) (f : ModelSlot → ModelSlot) : (modSlot n f s).grps = s.grps := rfl
@[simp] theorem modSlot_jobs (n : Nat) (f : ModelSlot → ModelSlot) : (modSlot n f s).jobs = s.jobs := rfl
@[simp] theorem modSlot_ue (n : Nat) (f : ModelSlot → ModelSlot) : (modSlot n f s).ue = s.ue := rfl
@[simp] theorem modSlot_avs (n : Nat) (f : ModelSlot → ModelSlot) : (modSlot n f s).avs = s.avs := rfl
@[simp] theorem modSlot_inbox (n : Nat) (f : ModelSlot → ModelSlot) : (modSlot n f s).inbox = s.inbox := rfl
@[simp] theorem modSlot_part (n : Nat) (f : ModelSlot → ModelSlot) : (modSlot n f s).part = s.part := rfl
@[simp] theorem modSlot_tt (n : Nat) (f : ModelSlot → ModelSlot) : (modSlot n f s).tt = s.tt := rfl
@[simp] theorem modSlot_srv (n : Nat) (f : ModelSlot → ModelSlot) : (modSlot n f s).srv = s.srv := rfl
@[simp] theorem modSlot_sec (n : Nat) (f : ModelSlot → ModelSlot) : (modSlot n f s).sec = s.sec := rfl
@[simp] theorem modSlot_age (n : Nat) (f : ModelSlot → ModelSlot) : (modSlot n f s).age = s.age := rfl
@[simp] theorem modSlot_pwr (n : Nat) (f : ModelSlot → ModelSlot) : (modSlot n f s).pwr = s.pwr := rfl
@[simp] theorem modSlot_flash (n : Nat) (f : ModelSlot → ModelSlot) : (modSlot n f s).flash = s.flash := rfl
@[simp] theorem modSlot_smp (n : Nat) (f : ModelSlot → ModelSlot) : (modSlot n f s).smp = s.smp := rfl
@[simp] theorem modSlot_tap (n : Nat) (f : ModelSlot → ModelSlot) : (modSlot n f s).tap = s.tap := rfl
@[simp] theorem modSlot_mgm (n : Nat) (f : ModelSlot → ModelSlot) : (modSlot n f s).mgm = s.mgm := rfl
@[simp] theorem modSlot_free (n : Nat) (f : ModelSlot → ModelSlot) : (modSlot n f s).free = s.free := rfl
@[simp] theorem modSlot_out (n : Nat) (f : ModelSlot → ModelSlot) : (modSlot n f s).out = s.out := rfl
@[simp] theorem modSlot_pending (n : Nat) (f : ModelSlot → ModelSlot) : (modSlot n f s).pending = s.pending := rfl
@[simp] theorem modSlot_gaz_entries (n : Nat) (f : ModelSlot → ModelSlot) : (modSlot n f s).gaz.entries = s.gaz.entries := rfl
@[simp] theorem modSlot_gaz_drains (n : Nat) (f : ModelSlot → ModelSlot) : (modSlot n f s).gaz.drains = s.gaz.drains := rfl
@[simp] theorem modSlot_gaz_stamp (n : Nat) (f : ModelSlot → ModelSlot) : (modSlot n f s).gaz.stamp = s.gaz.stamp := rfl

/-! `modEntry` -/

@[simp] theorem modEntry_sq (h : Nat) (f : GazEntry → GazEntry) : (modEntry h f s).sq = s.sq := rfl
@[simp] theorem modEntry_cmd (h : Nat) (f : GazEntry → GazEntry) : (modEntry h f s).cmd = s.cmd := rfl
@[simp] theorem modEntry_mem (h : Nat) (f : GazEntry → GazEntry) : (modEntry h f s).mem = s.mem := rfl
@[simp] theorem modEntry_blocks (h : Nat) (f : GazEntry → GazEntry) : (modEntry h f s).blocks = s.blocks := rfl
@[simp] theorem modEntry_courts (h : Nat) (f : GazEntry → GazEntry) : (modEntry h f s).courts = s.courts := rfl
@[simp] theorem modEntry_pkgs (h : Nat) (f : GazEntry → GazEntry) : (modEntry h f s).pkgs = s.pkgs := rfl
@[simp] theorem modEntry_runs (h : Nat) (f : GazEntry → GazEntry) : (modEntry h f s).runs = s.runs := rfl
@[simp] theorem modEntry_nextRun (h : Nat) (f : GazEntry → GazEntry) : (modEntry h f s).nextRun = s.nextRun := rfl
@[simp] theorem modEntry_barriers (h : Nat) (f : GazEntry → GazEntry) : (modEntry h f s).barriers = s.barriers := rfl
@[simp] theorem modEntry_semWait (h : Nat) (f : GazEntry → GazEntry) : (modEntry h f s).semWait = s.semWait := rfl
@[simp] theorem modEntry_runDone (h : Nat) (f : GazEntry → GazEntry) : (modEntry h f s).runDone = s.runDone := rfl
@[simp] theorem modEntry_grps (h : Nat) (f : GazEntry → GazEntry) : (modEntry h f s).grps = s.grps := rfl
@[simp] theorem modEntry_jobs (h : Nat) (f : GazEntry → GazEntry) : (modEntry h f s).jobs = s.jobs := rfl
@[simp] theorem modEntry_ue (h : Nat) (f : GazEntry → GazEntry) : (modEntry h f s).ue = s.ue := rfl
@[simp] theorem modEntry_avs (h : Nat) (f : GazEntry → GazEntry) : (modEntry h f s).avs = s.avs := rfl
@[simp] theorem modEntry_inbox (h : Nat) (f : GazEntry → GazEntry) : (modEntry h f s).inbox = s.inbox := rfl
@[simp] theorem modEntry_part (h : Nat) (f : GazEntry → GazEntry) : (modEntry h f s).part = s.part := rfl
@[simp] theorem modEntry_tt (h : Nat) (f : GazEntry → GazEntry) : (modEntry h f s).tt = s.tt := rfl
@[simp] theorem modEntry_srv (h : Nat) (f : GazEntry → GazEntry) : (modEntry h f s).srv = s.srv := rfl
@[simp] theorem modEntry_sec (h : Nat) (f : GazEntry → GazEntry) : (modEntry h f s).sec = s.sec := rfl
@[simp] theorem modEntry_age (h : Nat) (f : GazEntry → GazEntry) : (modEntry h f s).age = s.age := rfl
@[simp] theorem modEntry_pwr (h : Nat) (f : GazEntry → GazEntry) : (modEntry h f s).pwr = s.pwr := rfl
@[simp] theorem modEntry_flash (h : Nat) (f : GazEntry → GazEntry) : (modEntry h f s).flash = s.flash := rfl
@[simp] theorem modEntry_smp (h : Nat) (f : GazEntry → GazEntry) : (modEntry h f s).smp = s.smp := rfl
@[simp] theorem modEntry_tap (h : Nat) (f : GazEntry → GazEntry) : (modEntry h f s).tap = s.tap := rfl
@[simp] theorem modEntry_mgm (h : Nat) (f : GazEntry → GazEntry) : (modEntry h f s).mgm = s.mgm := rfl
@[simp] theorem modEntry_free (h : Nat) (f : GazEntry → GazEntry) : (modEntry h f s).free = s.free := rfl
@[simp] theorem modEntry_out (h : Nat) (f : GazEntry → GazEntry) : (modEntry h f s).out = s.out := rfl
@[simp] theorem modEntry_pending (h : Nat) (f : GazEntry → GazEntry) : (modEntry h f s).pending = s.pending := rfl
@[simp] theorem modEntry_gaz_drains (h : Nat) (f : GazEntry → GazEntry) : (modEntry h f s).gaz.drains = s.gaz.drains := rfl
@[simp] theorem modEntry_gaz_slots (h : Nat) (f : GazEntry → GazEntry) : (modEntry h f s).gaz.slots = s.gaz.slots := rfl
@[simp] theorem modEntry_gaz_stamp (h : Nat) (f : GazEntry → GazEntry) : (modEntry h f s).gaz.stamp = s.gaz.stamp := rfl

/-! `modGrp` -/

@[simp] theorem modGrp_sq (k : Nat) (f : Group → Group) : (modGrp k f s).sq = s.sq := rfl
@[simp] theorem modGrp_cmd (k : Nat) (f : Group → Group) : (modGrp k f s).cmd = s.cmd := rfl
@[simp] theorem modGrp_mem (k : Nat) (f : Group → Group) : (modGrp k f s).mem = s.mem := rfl
@[simp] theorem modGrp_blocks (k : Nat) (f : Group → Group) : (modGrp k f s).blocks = s.blocks := rfl
@[simp] theorem modGrp_courts (k : Nat) (f : Group → Group) : (modGrp k f s).courts = s.courts := rfl
@[simp] theorem modGrp_pkgs (k : Nat) (f : Group → Group) : (modGrp k f s).pkgs = s.pkgs := rfl
@[simp] theorem modGrp_runs (k : Nat) (f : Group → Group) : (modGrp k f s).runs = s.runs := rfl
@[simp] theorem modGrp_nextRun (k : Nat) (f : Group → Group) : (modGrp k f s).nextRun = s.nextRun := rfl
@[simp] theorem modGrp_barriers (k : Nat) (f : Group → Group) : (modGrp k f s).barriers = s.barriers := rfl
@[simp] theorem modGrp_semWait (k : Nat) (f : Group → Group) : (modGrp k f s).semWait = s.semWait := rfl
@[simp] theorem modGrp_runDone (k : Nat) (f : Group → Group) : (modGrp k f s).runDone = s.runDone := rfl
@[simp] theorem modGrp_gaz (k : Nat) (f : Group → Group) : (modGrp k f s).gaz = s.gaz := rfl
@[simp] theorem modGrp_jobs (k : Nat) (f : Group → Group) : (modGrp k f s).jobs = s.jobs := rfl
@[simp] theorem modGrp_ue (k : Nat) (f : Group → Group) : (modGrp k f s).ue = s.ue := rfl
@[simp] theorem modGrp_avs (k : Nat) (f : Group → Group) : (modGrp k f s).avs = s.avs := rfl
@[simp] theorem modGrp_inbox (k : Nat) (f : Group → Group) : (modGrp k f s).inbox = s.inbox := rfl
@[simp] theorem modGrp_part (k : Nat) (f : Group → Group) : (modGrp k f s).part = s.part := rfl
@[simp] theorem modGrp_tt (k : Nat) (f : Group → Group) : (modGrp k f s).tt = s.tt := rfl
@[simp] theorem modGrp_srv (k : Nat) (f : Group → Group) : (modGrp k f s).srv = s.srv := rfl
@[simp] theorem modGrp_sec (k : Nat) (f : Group → Group) : (modGrp k f s).sec = s.sec := rfl
@[simp] theorem modGrp_age (k : Nat) (f : Group → Group) : (modGrp k f s).age = s.age := rfl
@[simp] theorem modGrp_pwr (k : Nat) (f : Group → Group) : (modGrp k f s).pwr = s.pwr := rfl
@[simp] theorem modGrp_flash (k : Nat) (f : Group → Group) : (modGrp k f s).flash = s.flash := rfl
@[simp] theorem modGrp_smp (k : Nat) (f : Group → Group) : (modGrp k f s).smp = s.smp := rfl
@[simp] theorem modGrp_tap (k : Nat) (f : Group → Group) : (modGrp k f s).tap = s.tap := rfl
@[simp] theorem modGrp_mgm (k : Nat) (f : Group → Group) : (modGrp k f s).mgm = s.mgm := rfl
@[simp] theorem modGrp_free (k : Nat) (f : Group → Group) : (modGrp k f s).free = s.free := rfl
@[simp] theorem modGrp_out (k : Nat) (f : Group → Group) : (modGrp k f s).out = s.out := rfl
@[simp] theorem modGrp_pending (k : Nat) (f : Group → Group) : (modGrp k f s).pending = s.pending := rfl

/-! `modAv` -/

@[simp] theorem modAv_sq (a : Nat) (f : Avenue → Avenue) : (modAv a f s).sq = s.sq := rfl
@[simp] theorem modAv_cmd (a : Nat) (f : Avenue → Avenue) : (modAv a f s).cmd = s.cmd := rfl
@[simp] theorem modAv_mem (a : Nat) (f : Avenue → Avenue) : (modAv a f s).mem = s.mem := rfl
@[simp] theorem modAv_blocks (a : Nat) (f : Avenue → Avenue) : (modAv a f s).blocks = s.blocks := rfl
@[simp] theorem modAv_courts (a : Nat) (f : Avenue → Avenue) : (modAv a f s).courts = s.courts := rfl
@[simp] theorem modAv_pkgs (a : Nat) (f : Avenue → Avenue) : (modAv a f s).pkgs = s.pkgs := rfl
@[simp] theorem modAv_runs (a : Nat) (f : Avenue → Avenue) : (modAv a f s).runs = s.runs := rfl
@[simp] theorem modAv_nextRun (a : Nat) (f : Avenue → Avenue) : (modAv a f s).nextRun = s.nextRun := rfl
@[simp] theorem modAv_barriers (a : Nat) (f : Avenue → Avenue) : (modAv a f s).barriers = s.barriers := rfl
@[simp] theorem modAv_semWait (a : Nat) (f : Avenue → Avenue) : (modAv a f s).semWait = s.semWait := rfl
@[simp] theorem modAv_runDone (a : Nat) (f : Avenue → Avenue) : (modAv a f s).runDone = s.runDone := rfl
@[simp] theorem modAv_gaz (a : Nat) (f : Avenue → Avenue) : (modAv a f s).gaz = s.gaz := rfl
@[simp] theorem modAv_grps (a : Nat) (f : Avenue → Avenue) : (modAv a f s).grps = s.grps := rfl
@[simp] theorem modAv_jobs (a : Nat) (f : Avenue → Avenue) : (modAv a f s).jobs = s.jobs := rfl
@[simp] theorem modAv_ue (a : Nat) (f : Avenue → Avenue) : (modAv a f s).ue = s.ue := rfl
@[simp] theorem modAv_inbox (a : Nat) (f : Avenue → Avenue) : (modAv a f s).inbox = s.inbox := rfl
@[simp] theorem modAv_part (a : Nat) (f : Avenue → Avenue) : (modAv a f s).part = s.part := rfl
@[simp] theorem modAv_tt (a : Nat) (f : Avenue → Avenue) : (modAv a f s).tt = s.tt := rfl
@[simp] theorem modAv_srv (a : Nat) (f : Avenue → Avenue) : (modAv a f s).srv = s.srv := rfl
@[simp] theorem modAv_sec (a : Nat) (f : Avenue → Avenue) : (modAv a f s).sec = s.sec := rfl
@[simp] theorem modAv_age (a : Nat) (f : Avenue → Avenue) : (modAv a f s).age = s.age := rfl
@[simp] theorem modAv_pwr (a : Nat) (f : Avenue → Avenue) : (modAv a f s).pwr = s.pwr := rfl
@[simp] theorem modAv_flash (a : Nat) (f : Avenue → Avenue) : (modAv a f s).flash = s.flash := rfl
@[simp] theorem modAv_smp (a : Nat) (f : Avenue → Avenue) : (modAv a f s).smp = s.smp := rfl
@[simp] theorem modAv_tap (a : Nat) (f : Avenue → Avenue) : (modAv a f s).tap = s.tap := rfl
@[simp] theorem modAv_mgm (a : Nat) (f : Avenue → Avenue) : (modAv a f s).mgm = s.mgm := rfl
@[simp] theorem modAv_free (a : Nat) (f : Avenue → Avenue) : (modAv a f s).free = s.free := rfl
@[simp] theorem modAv_out (a : Nat) (f : Avenue → Avenue) : (modAv a f s).out = s.out := rfl
@[simp] theorem modAv_pending (a : Nat) (f : Avenue → Avenue) : (modAv a f s).pending = s.pending := rfl

/-! `modSeq` -/

@[simp] theorem modSeq_sq (i : Nat) (f : Seq → Seq) : (modSeq i f s).sq = s.sq := rfl
@[simp] theorem modSeq_cmd (i : Nat) (f : Seq → Seq) : (modSeq i f s).cmd = s.cmd := rfl
@[simp] theorem modSeq_mem (i : Nat) (f : Seq → Seq) : (modSeq i f s).mem = s.mem := rfl
@[simp] theorem modSeq_blocks (i : Nat) (f : Seq → Seq) : (modSeq i f s).blocks = s.blocks := rfl
@[simp] theorem modSeq_courts (i : Nat) (f : Seq → Seq) : (modSeq i f s).courts = s.courts := rfl
@[simp] theorem modSeq_pkgs (i : Nat) (f : Seq → Seq) : (modSeq i f s).pkgs = s.pkgs := rfl
@[simp] theorem modSeq_runs (i : Nat) (f : Seq → Seq) : (modSeq i f s).runs = s.runs := rfl
@[simp] theorem modSeq_nextRun (i : Nat) (f : Seq → Seq) : (modSeq i f s).nextRun = s.nextRun := rfl
@[simp] theorem modSeq_barriers (i : Nat) (f : Seq → Seq) : (modSeq i f s).barriers = s.barriers := rfl
@[simp] theorem modSeq_semWait (i : Nat) (f : Seq → Seq) : (modSeq i f s).semWait = s.semWait := rfl
@[simp] theorem modSeq_runDone (i : Nat) (f : Seq → Seq) : (modSeq i f s).runDone = s.runDone := rfl
@[simp] theorem modSeq_gaz (i : Nat) (f : Seq → Seq) : (modSeq i f s).gaz = s.gaz := rfl
@[simp] theorem modSeq_grps (i : Nat) (f : Seq → Seq) : (modSeq i f s).grps = s.grps := rfl
@[simp] theorem modSeq_jobs (i : Nat) (f : Seq → Seq) : (modSeq i f s).jobs = s.jobs := rfl
@[simp] theorem modSeq_ue (i : Nat) (f : Seq → Seq) : (modSeq i f s).ue = s.ue := rfl
@[simp] theorem modSeq_avs (i : Nat) (f : Seq → Seq) : (modSeq i f s).avs = s.avs := rfl
@[simp] theorem modSeq_inbox (i : Nat) (f : Seq → Seq) : (modSeq i f s).inbox = s.inbox := rfl
@[simp] theorem modSeq_part (i : Nat) (f : Seq → Seq) : (modSeq i f s).part = s.part := rfl
@[simp] theorem modSeq_tt (i : Nat) (f : Seq → Seq) : (modSeq i f s).tt = s.tt := rfl
@[simp] theorem modSeq_sec (i : Nat) (f : Seq → Seq) : (modSeq i f s).sec = s.sec := rfl
@[simp] theorem modSeq_age (i : Nat) (f : Seq → Seq) : (modSeq i f s).age = s.age := rfl
@[simp] theorem modSeq_pwr (i : Nat) (f : Seq → Seq) : (modSeq i f s).pwr = s.pwr := rfl
@[simp] theorem modSeq_flash (i : Nat) (f : Seq → Seq) : (modSeq i f s).flash = s.flash := rfl
@[simp] theorem modSeq_smp (i : Nat) (f : Seq → Seq) : (modSeq i f s).smp = s.smp := rfl
@[simp] theorem modSeq_tap (i : Nat) (f : Seq → Seq) : (modSeq i f s).tap = s.tap := rfl
@[simp] theorem modSeq_mgm (i : Nat) (f : Seq → Seq) : (modSeq i f s).mgm = s.mgm := rfl
@[simp] theorem modSeq_free (i : Nat) (f : Seq → Seq) : (modSeq i f s).free = s.free := rfl
@[simp] theorem modSeq_out (i : Nat) (f : Seq → Seq) : (modSeq i f s).out = s.out := rfl
@[simp] theorem modSeq_pending (i : Nat) (f : Seq → Seq) : (modSeq i f s).pending = s.pending := rfl
@[simp] theorem modSeq_srv_nextSeq (i : Nat) (f : Seq → Seq) : (modSeq i f s).srv.nextSeq = s.srv.nextSeq := rfl
@[simp] theorem modSeq_srv_admitted (i : Nat) (f : Seq → Seq) : (modSeq i f s).srv.admitted = s.srv.admitted := rfl
@[simp] theorem modSeq_srv_batches (i : Nat) (f : Seq → Seq) : (modSeq i f s).srv.batches = s.srv.batches := rfl
@[simp] theorem modSeq_srv_nextBatch (i : Nat) (f : Seq → Seq) : (modSeq i f s).srv.nextBatch = s.srv.nextBatch := rfl
@[simp] theorem modSeq_srv_rings (i : Nat) (f : Seq → Seq) : (modSeq i f s).srv.rings = s.srv.rings := rfl

/-! `modBatch` -/

@[simp] theorem modBatch_sq (b : Nat) (f : Batch → Batch) : (modBatch b f s).sq = s.sq := rfl
@[simp] theorem modBatch_cmd (b : Nat) (f : Batch → Batch) : (modBatch b f s).cmd = s.cmd := rfl
@[simp] theorem modBatch_mem (b : Nat) (f : Batch → Batch) : (modBatch b f s).mem = s.mem := rfl
@[simp] theorem modBatch_blocks (b : Nat) (f : Batch → Batch) : (modBatch b f s).blocks = s.blocks := rfl
@[simp] theorem modBatch_courts (b : Nat) (f : Batch → Batch) : (modBatch b f s).courts = s.courts := rfl
@[simp] theorem modBatch_pkgs (b : Nat) (f : Batch → Batch) : (modBatch b f s).pkgs = s.pkgs := rfl
@[simp] theorem modBatch_runs (b : Nat) (f : Batch → Batch) : (modBatch b f s).runs = s.runs := rfl
@[simp] theorem modBatch_nextRun (b : Nat) (f : Batch → Batch) : (modBatch b f s).nextRun = s.nextRun := rfl
@[simp] theorem modBatch_barriers (b : Nat) (f : Batch → Batch) : (modBatch b f s).barriers = s.barriers := rfl
@[simp] theorem modBatch_semWait (b : Nat) (f : Batch → Batch) : (modBatch b f s).semWait = s.semWait := rfl
@[simp] theorem modBatch_runDone (b : Nat) (f : Batch → Batch) : (modBatch b f s).runDone = s.runDone := rfl
@[simp] theorem modBatch_gaz (b : Nat) (f : Batch → Batch) : (modBatch b f s).gaz = s.gaz := rfl
@[simp] theorem modBatch_grps (b : Nat) (f : Batch → Batch) : (modBatch b f s).grps = s.grps := rfl
@[simp] theorem modBatch_jobs (b : Nat) (f : Batch → Batch) : (modBatch b f s).jobs = s.jobs := rfl
@[simp] theorem modBatch_ue (b : Nat) (f : Batch → Batch) : (modBatch b f s).ue = s.ue := rfl
@[simp] theorem modBatch_avs (b : Nat) (f : Batch → Batch) : (modBatch b f s).avs = s.avs := rfl
@[simp] theorem modBatch_inbox (b : Nat) (f : Batch → Batch) : (modBatch b f s).inbox = s.inbox := rfl
@[simp] theorem modBatch_part (b : Nat) (f : Batch → Batch) : (modBatch b f s).part = s.part := rfl
@[simp] theorem modBatch_tt (b : Nat) (f : Batch → Batch) : (modBatch b f s).tt = s.tt := rfl
@[simp] theorem modBatch_sec (b : Nat) (f : Batch → Batch) : (modBatch b f s).sec = s.sec := rfl
@[simp] theorem modBatch_age (b : Nat) (f : Batch → Batch) : (modBatch b f s).age = s.age := rfl
@[simp] theorem modBatch_pwr (b : Nat) (f : Batch → Batch) : (modBatch b f s).pwr = s.pwr := rfl
@[simp] theorem modBatch_flash (b : Nat) (f : Batch → Batch) : (modBatch b f s).flash = s.flash := rfl
@[simp] theorem modBatch_smp (b : Nat) (f : Batch → Batch) : (modBatch b f s).smp = s.smp := rfl
@[simp] theorem modBatch_tap (b : Nat) (f : Batch → Batch) : (modBatch b f s).tap = s.tap := rfl
@[simp] theorem modBatch_mgm (b : Nat) (f : Batch → Batch) : (modBatch b f s).mgm = s.mgm := rfl
@[simp] theorem modBatch_free (b : Nat) (f : Batch → Batch) : (modBatch b f s).free = s.free := rfl
@[simp] theorem modBatch_out (b : Nat) (f : Batch → Batch) : (modBatch b f s).out = s.out := rfl
@[simp] theorem modBatch_pending (b : Nat) (f : Batch → Batch) : (modBatch b f s).pending = s.pending := rfl
@[simp] theorem modBatch_srv_seqs (b : Nat) (f : Batch → Batch) : (modBatch b f s).srv.seqs = s.srv.seqs := rfl
@[simp] theorem modBatch_srv_nextSeq (b : Nat) (f : Batch → Batch) : (modBatch b f s).srv.nextSeq = s.srv.nextSeq := rfl
@[simp] theorem modBatch_srv_admitted (b : Nat) (f : Batch → Batch) : (modBatch b f s).srv.admitted = s.srv.admitted := rfl
@[simp] theorem modBatch_srv_nextBatch (b : Nat) (f : Batch → Batch) : (modBatch b f s).srv.nextBatch = s.srv.nextBatch := rfl
@[simp] theorem modBatch_srv_rings (b : Nat) (f : Batch → Batch) : (modBatch b f s).srv.rings = s.srv.rings := rfl

/-! `modDie` -/

@[simp] theorem modDie_sq (n : Nat) (f : Die → Die) : (modDie n f s).sq = s.sq := rfl
@[simp] theorem modDie_cmd (n : Nat) (f : Die → Die) : (modDie n f s).cmd = s.cmd := rfl
@[simp] theorem modDie_mem (n : Nat) (f : Die → Die) : (modDie n f s).mem = s.mem := rfl
@[simp] theorem modDie_blocks (n : Nat) (f : Die → Die) : (modDie n f s).blocks = s.blocks := rfl
@[simp] theorem modDie_courts (n : Nat) (f : Die → Die) : (modDie n f s).courts = s.courts := rfl
@[simp] theorem modDie_pkgs (n : Nat) (f : Die → Die) : (modDie n f s).pkgs = s.pkgs := rfl
@[simp] theorem modDie_runs (n : Nat) (f : Die → Die) : (modDie n f s).runs = s.runs := rfl
@[simp] theorem modDie_nextRun (n : Nat) (f : Die → Die) : (modDie n f s).nextRun = s.nextRun := rfl
@[simp] theorem modDie_barriers (n : Nat) (f : Die → Die) : (modDie n f s).barriers = s.barriers := rfl
@[simp] theorem modDie_semWait (n : Nat) (f : Die → Die) : (modDie n f s).semWait = s.semWait := rfl
@[simp] theorem modDie_runDone (n : Nat) (f : Die → Die) : (modDie n f s).runDone = s.runDone := rfl
@[simp] theorem modDie_gaz (n : Nat) (f : Die → Die) : (modDie n f s).gaz = s.gaz := rfl
@[simp] theorem modDie_grps (n : Nat) (f : Die → Die) : (modDie n f s).grps = s.grps := rfl
@[simp] theorem modDie_jobs (n : Nat) (f : Die → Die) : (modDie n f s).jobs = s.jobs := rfl
@[simp] theorem modDie_ue (n : Nat) (f : Die → Die) : (modDie n f s).ue = s.ue := rfl
@[simp] theorem modDie_avs (n : Nat) (f : Die → Die) : (modDie n f s).avs = s.avs := rfl
@[simp] theorem modDie_inbox (n : Nat) (f : Die → Die) : (modDie n f s).inbox = s.inbox := rfl
@[simp] theorem modDie_part (n : Nat) (f : Die → Die) : (modDie n f s).part = s.part := rfl
@[simp] theorem modDie_tt (n : Nat) (f : Die → Die) : (modDie n f s).tt = s.tt := rfl
@[simp] theorem modDie_srv (n : Nat) (f : Die → Die) : (modDie n f s).srv = s.srv := rfl
@[simp] theorem modDie_sec (n : Nat) (f : Die → Die) : (modDie n f s).sec = s.sec := rfl
@[simp] theorem modDie_pwr (n : Nat) (f : Die → Die) : (modDie n f s).pwr = s.pwr := rfl
@[simp] theorem modDie_flash (n : Nat) (f : Die → Die) : (modDie n f s).flash = s.flash := rfl
@[simp] theorem modDie_smp (n : Nat) (f : Die → Die) : (modDie n f s).smp = s.smp := rfl
@[simp] theorem modDie_tap (n : Nat) (f : Die → Die) : (modDie n f s).tap = s.tap := rfl
@[simp] theorem modDie_mgm (n : Nat) (f : Die → Die) : (modDie n f s).mgm = s.mgm := rfl
@[simp] theorem modDie_free (n : Nat) (f : Die → Die) : (modDie n f s).free = s.free := rfl
@[simp] theorem modDie_out (n : Nat) (f : Die → Die) : (modDie n f s).out = s.out := rfl
@[simp] theorem modDie_pending (n : Nat) (f : Die → Die) : (modDie n f s).pending = s.pending := rfl
@[simp] theorem modDie_age_rw (n : Nat) (f : Die → Die) : (modDie n f s).age.rw = s.age.rw := rfl
@[simp] theorem modDie_age_avail (n : Nat) (f : Die → Die) : (modDie n f s).age.avail = s.age.avail := rfl
@[simp] theorem modDie_age_flash (n : Nat) (f : Die → Die) : (modDie n f s).age.flash = s.age.flash := rfl
@[simp] theorem modDie_age_countedAt (n : Nat) (f : Die → Die) : (modDie n f s).age.countedAt = s.age.countedAt := rfl

/-! Look-ups -/

/-- The queue pair of a key after a change. -/
theorem queueOf_modQueue (q r : QId) (f : Queue → Queue) :
    queueOf (modQueue q f s) r = if qKey r = qKey q then (queueOf s r).map f else queueOf s r := by
  simp [queueOf, modQueue]

/-- The function of a key after a change. -/
theorem fnOf_modFn (f g : FnId) (h : HostFn → HostFn) :
    fnOf (modFn f h s) g = if fnKey g = fnKey f then (fnOf s g).map h else fnOf s g := by
  simp [fnOf, modFn]

/-- The Court of a number after a change. -/
theorem courtOf_modCourt (c d : Nat) (f : Court → Court) :
    courtOf (modCourt c f s) d = if d = c then (courtOf s d).map f else courtOf s d := by
  simp [courtOf, modCourt]

@[simp] theorem courtOf_modQueue (q : QId) (f : Queue → Queue) (c : Nat) : courtOf (modQueue q f s) c = courtOf s c := rfl
@[simp] theorem courtOf_modCmd (q : QId) (cid : Nat) (f : Cmd → Cmd) (c : Nat) : courtOf (modCmd q cid f s) c = courtOf s c := rfl
@[simp] theorem courtOf_modFn (f : FnId) (g : HostFn → HostFn) (c : Nat) : courtOf (modFn f g s) c = courtOf s c := rfl
@[simp] theorem queueOf_modCmd (q r : QId) (cid : Nat) (f : Cmd → Cmd) : queueOf (modCmd q cid f s) r = queueOf s r := rfl
@[simp] theorem queueOf_modFn (f : FnId) (g : HostFn → HostFn) (r : QId) : queueOf (modFn f g s) r = queueOf s r := rfl
@[simp] theorem queueOf_modCourt (c : Nat) (f : Court → Court) (r : QId) : queueOf (modCourt c f s) r = queueOf s r := rfl
@[simp] theorem queueOf_emit (e : OutEv) (r : QId) : queueOf (emit e s) r = queueOf s r := rfl
@[simp] theorem fnOf_modQueue (q : QId) (f : Queue → Queue) (g : FnId) : fnOf (modQueue q f s) g = fnOf s g := rfl
@[simp] theorem fnOf_emit (e : OutEv) (g : FnId) : fnOf (emit e s) g = fnOf s g := rfl

/-! Retiring a command -/

/-- Posting and retiring leave everything but queues, rings, functions, commands, keys no longer used, and outputs. -/
structure OnlyPosts (s t : State) : Prop where
  sq : t.sq = s.sq
  mem : t.mem = s.mem
  blocks : t.blocks = s.blocks
  courts : t.courts = s.courts
  pkgs : t.pkgs = s.pkgs
  runs : t.runs = s.runs
  gaz : t.gaz = s.gaz
  grps : t.grps = s.grps
  avs : t.avs = s.avs
  part : t.part = s.part
  srv : t.srv = s.srv
  age : t.age = s.age

theorem OnlyPosts.refl : OnlyPosts s s := ⟨rfl, rfl, rfl, rfl, rfl, rfl, rfl, rfl, rfl, rfl, rfl, rfl⟩

theorem OnlyPosts.trans {s t u : State} (h : OnlyPosts s t) (k : OnlyPosts t u) : OnlyPosts s u :=
  ⟨k.sq.trans h.sq, k.mem.trans h.mem, k.blocks.trans h.blocks, k.courts.trans h.courts, k.pkgs.trans h.pkgs,
    k.runs.trans h.runs, k.gaz.trans h.gaz, k.grps.trans h.grps, k.avs.trans h.avs, k.part.trans h.part,
    k.srv.trans h.srv, k.age.trans h.age⟩

theorem raiseMsix_posts (f : FnId) (v : Nat) : OnlyPosts s (raiseMsix f v s) := by
  unfold raiseMsix; (repeat' split) <;> exact ⟨rfl, rfl, rfl, rfl, rfl, rfl, rfl, rfl, rfl, rfl, rfl, rfl⟩

theorem hostWrite_posts (f : FnId) (a : Nat) (bs : List Byte) : OnlyPosts s (hostWrite f a bs s) := by
  unfold hostWrite; (repeat' split) <;> exact ⟨rfl, rfl, rfl, rfl, rfl, rfl, rfl, rfl, rfl, rfl, rfl, rfl⟩

theorem modQueue_posts (q : QId) (f : Queue → Queue) : OnlyPosts s (modQueue q f s) :=
  ⟨rfl, rfl, rfl, rfl, rfl, rfl, rfl, rfl, rfl, rfl, rfl, rfl⟩

theorem coalesce_posts (q : QId) (n : Bool) : OnlyPosts s (coalesce q n s) := by
  unfold coalesce; split
  · exact .refl s
  · split
    · exact .refl s
    · split
      · exact .trans (modQueue_posts s q _) (raiseMsix_posts _ _ _)
      · exact modQueue_posts s q _

theorem putCompl_posts (q : QId) (c : Compl) : OnlyPosts s (putCompl q c s) := by
  unfold putCompl; split
  · exact .refl s
  · simp only; split
    · exact .trans (hostWrite_posts s _ _ _) (.trans (modQueue_posts _ q _) (coalesce_posts _ _ _))
    · exact .trans (hostWrite_posts s _ _ _) (modQueue_posts _ q _)

theorem drainHeld_posts (n : Nat) (q : QId) (s : State) : OnlyPosts s (drainHeld n q s) := by
  induction n generalizing s with
  | zero => exact .refl s
  | succ n ih =>
    unfold drainHeld; split
    · exact .refl s
    · split
      · exact .refl s
      · split
        · exact .trans (modQueue_posts s q _) (.trans (putCompl_posts _ q _) (ih _))
        · exact .refl s

theorem foldl_posts {β : Type} (f : State → β → State) (hf : ∀ s b, OnlyPosts s (f s b)) (l : List β) (s : State) :
    OnlyPosts s (l.foldl f s) := by
  induction l generalizing s with
  | nil => exact .refl s
  | cons b l ih => exact .trans (hf s b) (ih _)

theorem drainAll_posts : OnlyPosts s (drainAll s) :=
  foldl_posts _ (fun _ _ => foldl_posts _ (fun _ _ => drainHeld_posts _ _ _) _ _) _ _

theorem postCompl_posts (q : QId) (c : Compl) : OnlyPosts s (postCompl q c s) :=
  .trans (modQueue_posts s q _) (drainAll_posts _)

theorem putEvent_posts (k src time : Nat) (rec : List Byte) : OnlyPosts s (putEvent k src time rec s) := by
  unfold putEvent; split
  · exact .refl s
  · dsimp only; split
    · exact ⟨rfl, rfl, rfl, rfl, rfl, rfl, rfl, rfl, rfl, rfl, rfl, rfl⟩
    · rename_i r _ _
      have h := hostWrite_posts s r.via (r.base + 64 * r.wr) (eventBytes src r.phase r.dropped r.seq time rec)
      refine .trans ?_ (raiseMsix_posts _ r.via r.vector)
      exact ⟨h.sq, h.mem, h.blocks, h.courts, h.pkgs, h.runs, h.gaz, h.grps, h.avs, h.part, h.srv, h.age⟩

theorem postEvent_posts (o src : Nat) (rec : List Byte) : OnlyPosts s (postEvent o src rec s) := by
  unfold postEvent; split
  · exact .refl s
  · exact putEvent_posts s _ _ _ _

theorem postQueueFault_posts (rec : List Byte) (court : Nat) : OnlyPosts s (postQueueFault rec court s) := by
  unfold postQueueFault; simp only; split
  · exact .trans (postEvent_posts s _ _ _) (postEvent_posts _ _ _ _)
  · exact postEvent_posts s _ _ _

end Sys2Proof.Machine
end

