-- ==== Sys2Proof/WellFormed.lean ====
section
/-! DEFINITION. Which commands are well formed: every operand that names a thing of the device lies in the range that the
spec gives that thing. What lies outside is no command the device can be sent; exec does not rely on it. -/

namespace Sys2Proof

/-- A queue pair: a Court's 0 to 63, or the operator's one (06 R183). -/
def QId.ok (q : QId) : Bool := if q.owner = 16 then decide (q.qp = 0) else decide (q.owner < 16) && decide (q.qp < 64)

/-- A host function: one PF and 16 VFs on each of two ports (06 R176). -/
def FnId.ok (f : FnId) : Bool := decide (f.port < 2) && decide (f.fn ≤ 16)

/-- A command identifier of 16 bits (06 R184). -/
def cidOk (cid : Nat) : Bool := decide (cid < 65536)

/-- A Court (00 R3). -/
def courtOk (c : Nat) : Bool := decide (c < 16)

/-- A write on a host port: at most 8 bytes wide, with a value of 64 bits (06 R179). -/
def DoorbellWrite.ok (w : DoorbellWrite) : Bool := decide (w.width ≤ 8) && decide (w.value < 2 ^ 64)

/-- A written register value. -/
def wordOk (v : Nat) : Bool := decide (v < 2 ^ 64)

/-- A submission entry of 64 bytes (06 R184). -/
def entryOk (e : List Byte) : Bool := decide (e.length = 64)

/-- A flit of 600 bytes (12 R378). -/
def flitOk (f : List Byte) : Bool := decide (f.length = 600)

/-- An Avenue (12 R374). -/
def avenueOk (a : Nat) : Bool := decide (a < 8)

/-- A 7-bit I3C address (12 R405). -/
def i3cAddrOk (a : Nat) : Bool := decide (a < 128)

/-- A die of the package by its code: compute dies, memory base dies, Junctions, Squares (14 R474). -/
def dieOk (d : Nat) : Bool :=
  decide (d < 16) || (decide (0x20 ≤ d) && decide (d ≤ 0x2B)) || (decide (0x30 ≤ d) && decide (d ≤ 0x33)) || d == 0x40 || d == 0x41

/-- A physical Block (01 R29). -/
def blockOk (b : Nat) : Bool := decide (b < 288)

/-- An HBM channel slot (04 R107). -/
def channelOk (c : Nat) : Bool := decide (c < 384)

/-- A line of HBM by its device address (04 R102). -/
def lineOk (l : Nat) : Bool := decide (l < 1152 * 2 ^ 30) && decide (l % 64 = 0)

/-- Strap pins of the widths of 17 R528. -/
def Straps.ok (p : Straps) : Bool :=
  decide (p.addr < 2 ^ 16) && decide (p.size < 2 ^ 16) && decide (p.wrap < 16) && decide (p.i3cSa < 128) &&
  decide (p.i3cInst < 16) && decide (p.hclk < 4)

/-- Readings of numeric sensors as FP32 words (12 R408). -/
def readsOk (l : List (Nat × F32)) : Bool := l.all (fun p => decide (1 ≤ p.1) && decide (p.1 ≤ 64) && decide (p.2 < 2 ^ 32))

/-- The command is well formed. -/
def Instr.wf : Instr → Bool
  | .deviceInfo q cid => q.ok && cidOk cid
  | .createQueuePair q cid => q.ok && cidOk cid
  | .deleteQueuePair q cid => q.ok && cidOk cid
  | .setRing q cid => q.ok && cidOk cid
  | .abort q cid => q.ok && cidOk cid
  | .setFunctionMode q cid => q.ok && cidOk cid
  | .createCourt q cid _ => q.ok && cidOk cid
  | .destroyCourt q cid _ => q.ok && cidOk cid
  | .resetCourt q cid _ => q.ok && cidOk cid
  | .resizeCourt q cid _ => q.ok && cidOk cid
  | .loadPackage q cid _ => q.ok && cidOk cid
  | .unloadPackage q cid => q.ok && cidOk cid
  | .run q cid => q.ok && cidOk cid
  | .setSemaphore q cid => q.ok && cidOk cid
  | .dmaWrite q cid _ _ => q.ok && cidOk cid
  | .dmaRead q cid _ _ => q.ok && cidOk cid
  | .loadBase q cid _ _ => q.ok && cidOk cid
  | .evictBase q cid => q.ok && cidOk cid
  | .pinBase q cid => q.ok && cidOk cid
  | .replaceBase q cid _ _ => q.ok && cidOk cid
  | .registerAdapter q cid _ _ => q.ok && cidOk cid
  | .replace q cid _ => q.ok && cidOk cid
  | .retireAdapter q cid => q.ok && cidOk cid
  | .pinContract q cid _ => q.ok && cidOk cid
  | .releaseContract q cid => q.ok && cidOk cid
  | .claimSlot q cid => q.ok && cidOk cid
  | .rebindAdapter q cid _ => q.ok && cidOk cid
  | .queryAdapter q cid => q.ok && cidOk cid
  | .serve q cid _ => q.ok && cidOk cid
  | .setStreamRing q cid => q.ok && cidOk cid
  | .park q cid => q.ok && cidOk cid
  | .resume q cid => q.ok && cidOk cid
  | .step q cid => q.ok && cidOk cid
  | .checkpoint q cid _ _ => q.ok && cidOk cid
  | .restore q cid _ _ => q.ok && cidOk cid
  | .distilJobOpen q cid => q.ok && cidOk cid
  | .distilJobEnd q cid => q.ok && cidOk cid
  | .distilStep q cid => q.ok && cidOk cid
  | .formGroup q cid => q.ok && cidOk cid
  | .dissolveGroup q cid => q.ok && cidOk cid
  | .groupStatus q cid => q.ok && cidOk cid
  | .setTimetable q cid => q.ok && cidOk cid
  | .migrate q cid => q.ok && cidOk cid
  | .setMapoutReserve q cid => q.ok && cidOk cid
  | .attest q cid => q.ok && cidOk cid
  | .getCourtKey q cid => q.ok && cidOk cid
  | .installWrappedKeyInstall q cid => q.ok && cidOk cid
  | .installWrappedKeyRemove q cid => q.ok && cidOk cid
  | .registerSignerAdd q cid => q.ok && cidOk cid
  | .registerSignerRemove q cid => q.ok && cidOk cid
  | .zeroiseCourt q cid _ => q.ok && cidOk cid
  | .stageFirmware q cid _ _ => q.ok && cidOk cid
  | .activateFirmwareHot q cid => q.ok && cidOk cid
  | .activateFirmwareWarm q cid _ => q.ok && cidOk cid
  | .handover q cid => q.ok && cidOk cid
  | .handoverQuery q cid => q.ok && cidOk cid
  | .clearRepairList q cid => q.ok && cidOk cid
  | .runRoadworks q cid => q.ok && cidOk cid
  | .readCounters q cid => q.ok && cidOk cid
  | .readSensors q cid => q.ok && cidOk cid
  | .readSurvey q cid => q.ok && cidOk cid
  | .assistReply q cid _ => q.ok && cidOk cid
  | .invalidOpcodeCommand q cid => q.ok && cidOk cid
  | .sqTailWrite via q wr => via.ok && q.ok && wr.ok
  | .cqHeadWrite via q wr => via.ok && q.ok && wr.ok
  | .assistHeadWrite via owner wr => via.ok && decide (owner ≤ 16) && wr.ok
  | .eventHeadWrite via owner wr => via.ok && decide (owner ≤ 16) && wr.ok
  | .q0Enable via value => via.ok && wordOk value
  | .q0Disable via value => via.ok && wordOk value
  | .q0IrqConfig via value => via.ok && wordOk value
  | .controlWindowWrite via off wd value => via.ok && decide (off < 4096) && decide (wd ≤ 8) && wordOk value
  | .msixUnmask via vector => via.ok && decide (vector < 64)
  | .commandFetch q entry _ => q.ok && entryOk entry
  | .coalesceTimerExpiry q => q.ok
  | .deadlineExpiry q cid => q.ok && cidOk cid
  | .assistDeadlineExpiry row id => decide (row ≤ 16) && decide (id < 2 ^ 32)
  | .gemm _ _ => true
  | .groupedLowrank _ _ => true
  | .attention _ _ => true
  | .norm _ _ => true
  | .elementwiseAdd _ _ => true
  | .elementwiseMul _ _ => true
  | .elementwiseAxpy _ _ => true
  | .elementwiseSilu _ _ => true
  | .elementwiseSwiglu _ _ => true
  | .elementwiseRelu _ _ => true
  | .elementwiseConvert _ _ => true
  | .elementwiseWadd _ _ => true
  | .elementwisePassFold _ _ => true
  | .elementwiseWfin _ _ => true
  | .copyPlain _ _ => true
  | .copySkew _ _ => true
  | .copyGather _ _ => true
  | .copyRemote _ _ => true
  | .reduceSendLayer _ _ => true
  | .reduceSendTile _ _ => true
  | .update _ _ => true
  | .viaductPairPass1 _ _ => true
  | .viaductPairPass2 _ _ => true
  | .semAcquire _ => true
  | .semRelease _ => true
  | .semAdd _ => true
  | .fence _ => true
  | .nop _ => true
  | .workOrderRetire _ => true
  | .semHoldLimit _ => true
  | .viaductHoldLimit _ => true
  | .sliceExpiry _ => true
  | .contextSaveComplete _ _ => true
  | .timetableCycle => true
  | .slotLeadStart court slot => courtOk court && decide (slot < 256)
  | .slotStart court slot => courtOk court && decide (slot < 256)
  | .slotEnd court slot => courtOk court && decide (slot < 256)
  | .stepBoundary _ _ => true
  | .servingStepRetire _ _ => true
  | .parkCopyComplete _ _ => true
  | .returnCopyComplete _ _ => true
  | .parkTtlExpiry _ => true
  | .adapterColdFetch handle version _ => decide (handle < 65536) && decide (version < 2 ^ 32)
  | .baseReload slot _ => decide (slot < 32)
  | .contractEnd handle => decide (handle < 65536)
  | .stepOpen court group => courtOk court && decide (group < 65536)
  | .ueEnd j word => decide (j < 4) && decide (word < 2 ^ 64)
  | .ueMov j word => decide (j < 4) && decide (word < 2 ^ 64)
  | .ueAdd j word => decide (j < 4) && decide (word < 2 ^ 64)
  | .ueSub j word => decide (j < 4) && decide (word < 2 ^ 64)
  | .ueMul j word => decide (j < 4) && decide (word < 2 ^ 64)
  | .ueMadd j word => decide (j < 4) && decide (word < 2 ^ 64)
  | .ueDiv j word => decide (j < 4) && decide (word < 2 ^ 64)
  | .ueSqrt j word => decide (j < 4) && decide (word < 2 ^ 64)
  | .ueMax j word => decide (j < 4) && decide (word < 2 ^ 64)
  | .ueMin j word => decide (j < 4) && decide (word < 2 ^ 64)
  | .ueAbs j word => decide (j < 4) && decide (word < 2 ^ 64)
  | .ueSign j word => decide (j < 4) && decide (word < 2 ^ 64)
  | .ueSel j word => decide (j < 4) && decide (word < 2 ^ 64)
  | .voteCast court group => courtOk court && decide (group < 65536)
  | .progressTimeout court group => courtOk court && decide (group < 65536)
  | .reduceFrame => true
  | .resultFrame _ => true
  | .broadcastFrame => true
  | .voteFrame => true
  | .outcomeFrame => true
  | .repairFrame => true
  | .formFrame => true
  | .leaveFrame => true
  | .avenueTraining av _ => avenueOk av
  | .avenueTrainRetry av _ => avenueOk av
  | .avenueHello av _ => avenueOk av
  | .avenueKeyResponse av _ => avenueOk av
  | .avenueKeyConfirm av _ => avenueOk av
  | .avenueAuthRetry av => avenueOk av
  | .dataFlit av flit _ => avenueOk av && flitOk flit
  | .idleFlit av flit _ => avenueOk av && flitOk flit
  | .nak av flit _ => avenueOk av && flitOk flit
  | .laneSwap av flit _ => avenueOk av && flitOk flit
  | .width av flit _ => avenueOk av && flitOk flit
  | .retrain av flit _ => avenueOk av && flitOk flit
  | .replayTimeout av => avenueOk av
  | .avenueKeyRollover av _ => avenueOk av
  | .laneFailure av lane => avenueOk av && decide (lane < 17)
  | .put => true
  | .get _ => true
  | .data => true
  | .done => true
  | .forwarded => true
  | .notice => true
  | .lastInEpoch => true
  | .adopt => true
  | .timer => true
  | .unreachable => true
  | .partnerRetry _ => true
  | .partnerRangeExpiry court _ => courtOk court
  | .functionLevelReset f => f.ok
  | .busMasterEnableClear f => f.ok
  | .busMasterEnableSet f => f.ok
  | .d3hotEntry f => f.ok
  | .d0Return f => f.ok
  | .hostLinkDown port => decide (port < 2)
  | .hostLinkTrain port _ => decide (port < 2)
  | .vfEnableChange port vfs => decide (port < 2) && decide (vfs ≤ 16)
  | .hostReadFault q _ => q.ok
  | .hostReadTimeout q _ => q.ok
  | .ideStreamFail f => f.ok
  | .spdmMessage port _ => decide (port < 2)
  | .ideKm port _ => decide (port < 2)
  | .i3cEntdaa addr => i3cAddrOk addr
  | .i3cSetdasa static addr => i3cAddrOk static && i3cAddrOk addr
  | .i3cCcc code _ => decide (code < 256)
  | .setEndpointId _ => true
  | .mctpControlMessage _ => true
  | .mctpUnsupportedType _ => true
  | .getTid _ => true
  | .setTid _ => true
  | .getPldmVersion _ => true
  | .getPldmTypes _ => true
  | .getPldmCommands _ => true
  | .getPdrRepositoryInfo _ => true
  | .getPdr _ => true
  | .getSensorReading _ => true
  | .getStateSensorReadings _ => true
  | .setEventReceiver _ => true
  | .getFruRecordTableMetadata _ => true
  | .getFruRecordTable _ => true
  | .requestUpdate _ => true
  | .pldmFirmwareTransfer _ => true
  | .pldmActivateFirmware _ => true
  | .getStatus _ => true
  | .cancelUpdate _ => true
  | .pldmUnsupportedCmd _ => true
  | .pldmUpdateIdleTimeout => true
  | .sensorRefresh reads => readsOk reads
  | .statusSample => true
  | .squareHeartbeat => true
  | .squareTimeSync => true
  | .squareTakeover _ _ => true
  | .standbyResyncComplete => true
  | .firmwareCommit => true
  | .scrubRead line _ => lineOk line
  | .ecsCounterRead slot _ => channelOk slot
  | .errorBucketRoll => true
  | .channelMapout => true
  | .mapoutDone => true
  | .channelHardFail slot => channelOk slot
  | .refclkSwitch die _ => dieOk die
  | .refclkBothLost die _ => dieOk die
  | .junctionRefLost die _ => dieOk die
  | .pllUnlock die => dieOk die
  | .dieLinkLaneRepair => true
  | .surveyMeasure die _ => dieOk die
  | .avsRailConfirm die _ _ => dieOk die
  | .spareSwap block _ => blockOk block
  | .roadworksDecision die _ => dieOk die
  | .sliceComplete block _ _ _ => blockOk block
  | .sliceAbandon block => blockOk block
  | .visitLapsed block => blockOk block
  | .blockFault block check => blockOk block && decide (check < 256)
  | .blockWatchdogTrip block => blockOk block
  | .availabilityHourlyWrite => true
  | .glitchTrip die => dieOk die
  | .powerMeasure _ => true
  | .pwrbrkAssert => true
  | .pwrbrkDeassert => true
  | .thermalTrip die => dieOk die
  | .powerOn => true
  | .powerLoss => true
  | .vddIoLoss => true
  | .perstAssert => true
  | .perstDeassert straps _ => straps.ok
  | .bootFabricTimeout => true
  | .tapBypass => true
  | .tapIdcode => true
  | .tapSamplePreload _ _ => true
  | .tapExtest _ _ => true
  | .tapClamp => true
  | .tapHighz => true
  | .tapPrivate ir => decide (ir < 256)
  | .fatalDieFault die => dieOk die
  | .standbySquareFailure => true
  | .clockGlideComplete die _ => dieOk die
  | .neighbourReset av => avenueOk av

end Sys2Proof
end

