-- ==== Sys2Proof/Tests/Slice0.lean ====
section
/-! SUPPORT. Own tests: ill-formed commands refused, worked examples of the spec, and a witness for each statement's
hypotheses. -/

namespace Sys2Proof.Tests

open Sys2Proof.Machine

set_option Elab.async false

/-! ### Small states -/

/-- The PF on H0. -/
def pf : FnId := ⟨0, 0⟩
/-- The admin queue. -/
def aq : QId := ⟨16, 0⟩
/-- Queue pair 1 of Court 0. -/
def cq : QId := ⟨0, 1⟩
/-- Bytes from numbers. -/
def by_ (l : List Nat) : List Byte := l.map (BitVec.ofNat 8)

/-- A plain Court with two granules and Block 0. -/
def court : Court :=
  { state := .ready, by_ := none, conf := false, signed := false, service := 1, units := 1, unit0 := 0, wayMask := 0, weight := 1,
    general := 2, store := 0, serve := 0, pool := 0, contexts := 8, blocks := [0], gtab := [(0, 5), (1, 6)], sems := [],
    satCount := 0, nonfinCount := 0, slotLate := 0, slotOverrun := 0, slotShort := 0, row := ⟨[], 10000, 10000⟩, rowNext := none }

/-- A fetched command with CID 7. -/
def cmd (q : QId) (op : Nat) (pb : List Byte) : Cmd :=
  { q := q, cid := 7, opcode := op, flags := 0, rsvd := 0, deadlineMs := 0, fetchedAt := 0, pbLength := pb.length, entryOk := true,
    pb := pb, via := pf, started := false, progress := 0, interimLost := false, snap := 0, uncounted := false, kt := 0, work := [] }

/-- A ready device at 5 s with Court 0, the admin queue and a queue pair of the Court. -/
def up : State := { State.reset with
  sq := { State.reset.sq with ready := true, perst := false, stage := 0xFF, time := 500000000 }
  cmd := { State.reset.cmd with
    fns := [(0, HostFn.fresh), (1, HostFn.fresh)]
    queues := [(1, newQueue pf 16 16 0x1000 0x2000 true 0 0 0), (1024, newQueue pf 16 16 0x3000 0x4000 true 0 0 0)] }
  mem := { State.reset.mem with granules := [(5, ⟨.court 0, 0, false⟩), (6, ⟨.court 0, 0, false⟩)] }
  courts := [(0, court)] }

/-- That device with one unretired command. -/
def st (c : Cmd) : State := { up with cmd.cmds := [c] }

/-! ### Ill-formed commands -/

theorem test_wf_queue : Instr.wf (.deviceInfo ⟨17, 0⟩ 1) = false := by decide
theorem test_wf_admin_queue : Instr.wf (.deviceInfo ⟨16, 1⟩ 1) = false := by decide
theorem test_wf_cid : Instr.wf (.abort cq 65536) = false := by decide
theorem test_wf_function : Instr.wf (.functionLevelReset ⟨2, 0⟩) = false := by decide
theorem test_wf_court : Instr.wf (.slotStart 16 0) = false := by decide
theorem test_wf_doorbell : Instr.wf (.sqTailWrite pf cq ⟨9, true, 0⟩) = false := by decide
theorem test_wf_word : Instr.wf (.q0Enable pf (2 ^ 64)) = false := by decide
theorem test_wf_window : Instr.wf (.controlWindowWrite pf 4096 4 0) = false := by decide
theorem test_wf_entry : Instr.wf (.commandFetch cq [] []) = false := by decide
theorem test_wf_vector : Instr.wf (.msixUnmask pf 64) = false := by decide
theorem test_wf_flit : Instr.wf (.nak 0 [] ⟨true, 0⟩) = false := by decide
theorem test_wf_avenue : Instr.wf (.replayTimeout 8) = false := by decide
theorem test_wf_lane : Instr.wf (.laneFailure 0 17) = false := by decide
theorem test_wf_i3c : Instr.wf (.i3cEntdaa 128) = false := by decide
theorem test_wf_die : Instr.wf (.pllUnlock 0x10) = false := by decide
theorem test_wf_block : Instr.wf (.sliceAbandon 288) = false := by decide
theorem test_wf_channel : Instr.wf (.channelHardFail 384) = false := by decide
theorem test_wf_line : Instr.wf (.scrubRead 1 []) = false := by decide
theorem test_wf_straps : Instr.wf (.perstDeassert ⟨0, 0, 16, 0, 0, 0, false⟩ ⟨[], [], [], [], [], none⟩) = false := by decide
theorem test_wf_reads : Instr.wf (.sensorRefresh [(65, 0)]) = false := by decide
theorem test_wf_handle : Instr.wf (.contractEnd 65536) = false := by decide
theorem test_wf_slot : Instr.wf (.baseReload 32 []) = false := by decide
theorem test_wf_junction : Instr.wf (.ueEnd 4 0) = false := by decide
theorem test_wf_row : Instr.wf (.assistDeadlineExpiry 17 0) = false := by decide
theorem test_wf_owner : Instr.wf (.eventHeadWrite pf 17 ⟨4, true, 0⟩) = false := by decide
theorem test_wf_group : Instr.wf (.voteCast 0 65536) = false := by decide
theorem test_wf_version : Instr.wf (.adapterColdFetch 0 (2 ^ 32) []) = false := by decide
theorem test_wf_port : Instr.wf (.hostLinkDown 2) = false := by decide
theorem test_wf_vfs : Instr.wf (.vfEnableChange 0 17) = false := by decide
theorem test_wf_ccc : Instr.wf (.i3cCcc 256 []) = false := by decide
theorem test_wf_check : Instr.wf (.blockFault 0 256) = false := by decide
theorem test_wf_ir : Instr.wf (.tapPrivate 256) = false := by decide

/-- No row of the table gives bits. -/
theorem test_no_word : decodeTableWord 16 0 = none := by decide

/-! ### Worked examples of the spec -/

/-- 02 R53: 464 is a tie in E4M3 and goes to 448 uncounted; 465 is counted. -/
theorem test_e4m3_max : runFp (encElem 4 .rne ⟨false, 464, 0⟩) = (0x7E, ⟨0, 0⟩) ∧
    runFp (encElem 4 .rne ⟨false, 465, 0⟩) = (0x7E, ⟨1, 0⟩) := by decide +kernel
/-- 02 R57: an MXFP4 block that starts with 12.0, −2.5 and 0.3 has scale 0x80 and first byte 0xA7. -/
theorem test_mxfp4_block :
    let b := (runFp (encBlock 7 (fun _ => .rne) ([some 0x41400000, some 0xC0200000, some 0x3E99999A]))).1
    b.1 = 0x80 ∧ b.2 = [7, 0xA, 0] ∧ (packElems 7 b.2).head? = some 0xA7#8 := by decide +kernel
/-- 02 R49: an RB8 block whose largest root is 0.003 has X = 118, and that element encodes as 0xC5. -/
theorem test_rb8_block : rb8Scale ⟨false, 3298534883, -40⟩ = 118 ∧
    fpVal (encRb8 .rne (dyScale ⟨false, 3298534883, -40⟩ (127 - 118))) = 0xC5 := by decide +kernel
/-- 02, the MXFP8 dot product bit by bit: the register holds 0x18_0000_0000_0000 at emax 17, which is 3.0. -/
theorem test_mxfp8_dot :
    let w := passReal 4 4 (passVec 0x84 [0x48, 0x3C, 0xC2] [0x7D]) (passVec 0x84 [0x40, 0x34, 0x3A] [0x80])
    w.a = 0x18000000000000 ∧ w.emax = some 17 ∧ fpVal (winF32 w) = 0x40400000 := by decide +kernel
/-- 02, truncation and order: 2^10, 1.5 × 2^−60 and −2^10 sum to +0 at emax 12. -/
theorem test_bf16_truncation :
    let w := passReal 1 1 (passVec 1 [0x4480, 0x21C0, 0xC480] []) (passVec 1 [0x3F80, 0x3F80, 0x3F80] [])
    w.a = 0 ∧ w.emax = some 12 ∧ fpVal (winF32 w) = 0 := by decide +kernel
/-- 04 R104: Court address 0x2_4000_0140 with entry 9 holding device granule 301 is DPA 0x4B_4000_0140; the slot is 171 and the
row 0x32_2AAA (04 R107). -/
theorem test_translation : courtDpa { court with gtab := [(9, 301)] } 0x240000140 = some 0x4B40000140 ∧
    slotOf 0x4B40000140 = 171 ∧ rowOf 0x4B40000140 = 0x322AAA ∧ stackOf 171 = 3 ∧ channelOf 171 = 14 := by decide +kernel
/-- 00 R5: two channels mapped out leave 1 146 GiB usable. -/
theorem test_usable : hbmUsable { up with mem.mapped := [3, 200] } = 1146 := by decide
/-- 17 R528: the straps of 2:0:5:11 in a system of 16 × 16 × 8 × 4. -/
theorem test_straps :
    let t := sampleStraps ⟨0x205B, 0x37FF, 7, 0, 0, 0, false⟩ State.reset
    t.sq.addr = 0x205B ∧ t.sq.torus = [16, 16, 8, 4] ∧ t.sq.wrap = [true, true, false, false] ∧ t.sq.strapsBad = false := by decide
/-- 12 R386: from 3:15:2:1 to 3:0:14:1 five hops, the first on A3, and from d1 = 0 the hop crosses the wrap. -/
theorem test_route :
    let t (a : Nat) : State := { up with sq.torus := [16, 16, 16, 16], sq.wrap := [true, true, true, true], sq.addr := a }
    hopCount (t 0x3F21) 0x3F21 0x30E1 = 5 ∧ nextHop (t 0x3F21) 0x30E1 = some (3, false) ∧
    nextHop (t 0x3F01) 0x30E1 = some (3, true) ∧ nextHop (t 0x3FE1) 0x30E1 = some (4, true) := by decide +kernel
/-- 10 R338: 1.5 × 2^15 and 2^14 promote their FP16 block, and the element leaves as 0x4780_0000. -/
theorem test_promotion :
    let r := blockAdd 2 ⟨[0x47400000], false, false, false⟩ ⟨[0x46800000], false, false, false⟩
    r.1.elems = [0x47800000] ∧ r.1.promoted = true ∧ r.2 = true := by decide +kernel
/-- 08 R272: the root row samples 17 and node 0's row 51: node 0 alone is accepted. -/
theorem test_verify : verify [⟨17, none⟩, ⟨44, some 0⟩, ⟨44, none⟩] [some 17, some 51, some 9, some 9] 4 none = [0] := by decide
/-- 06 R180: a queue of depth 16 with head 15 and write position 2 holds three entries. -/
theorem test_ring_used : ringUsed 16 15 2 = 3 := by decide
/-- 02 R45: a written row of FP6 elements reads back. -/
theorem test_fp6_row : packElems 5 [0x3F, 0, 0x15, 0x2A] = by_ [0x3F, 0x50, 0xA9] ∧
    elemRaw 5 (by_ [0x3F, 0x50, 0xA9]) 3 = 0x2A := by decide +kernel
/-- SHA-256 of "abc" (FIPS 180-4), and the reflected CRC-32 of "123456789". -/
theorem test_sha_crc : (sha256 (by_ [0x61, 0x62, 0x63])).take 4 = by_ [0xBA, 0x78, 0x16, 0xBF] ∧
    crc32 (by_ [0x31, 0x32, 0x33, 0x34, 0x35, 0x36, 0x37, 0x38, 0x39]) = 0xCBF43926#32 := by decide +kernel
/-- Memory: a written byte reads back, and writing zero removes the entry. -/
theorem test_memory : (hbmPut 70 5#8 up).mem.hbm = [(70, 5#8)] ∧ (hbmPut 70 0#8 (hbmPut 70 5#8 up)).mem.hbm = [] := by decide +kernel

/-! ### Steps -/

/-- A step on an empty queue passes one unit of Square time. -/
theorem test_idle : ∃ t, step up = .next t ∧ t.sq.time = 500000001 := ⟨_, rfl, rfl⟩
/-- IDCODE shifts out the device's code. -/
theorem test_idcode : ∃ t, step { up with pending := [.tapIdcode] } = .next t ∧ t.out = [.tdo 0x21296B4B 32] ∧ t.pending = [] :=
  ⟨_, rfl, rfl, rfl⟩

/-! ### Witnesses: the block, queues, doorbells, the control window -/

theorem witness_StepRunsFront : ({ up with pending := [.nop ⟨0, 0⟩] } : State).pending = [.nop ⟨0, 0⟩] ∧
    up.pending = [] ∧ squareRuns up = true ∧ squareRuns State.reset = false ∧ State.reset.pending = [] := by decide
theorem witness_StepKeepsMemoryCanonical : Memory.wf (some 0#8) up.mem.hbm = true ∧ ∃ t, step up = .next t := ⟨by decide, _, rfl⟩

def replyPb : List Byte := natLe 8 0x8000 ++ natLe 4 4096 ++ zeros 4
theorem witness_ReplyCommands_info : Due opDeviceInfo 16 [(12, 4)] aq 7 (cmd aq opDeviceInfo replyPb) (st (cmd aq opDeviceInfo replyPb)) := by decide
theorem witness_ReplyCommands_sensors : Due opReadSensors 16 [(12, 4)] aq 7 (cmd aq opReadSensors replyPb) (st (cmd aq opReadSensors replyPb)) := by
  decide
theorem witness_ReplyCommands_survey : Due opReadSurvey 16 [(12, 4)] aq 7 (cmd aq opReadSurvey replyPb) (st (cmd aq opReadSurvey replyPb)) := by decide
/-- Keys of a Court, with nothing in them. -/
def keys0 : CourtKeys := ⟨[], [], [], none, none, 0, [], 0⟩
theorem witness_ReplyCommands_key :
    let s := { st (cmd cq opGetCourtKey replyPb) with sec := { up.sec with courts := [(0, keys0)] } }
    Due opGetCourtKey 16 [(12, 4)] cq 7 (cmd cq opGetCourtKey replyPb) s ∧ tblGet s.sec.courts cq.owner = some keys0 := by decide
theorem witness_ReplyCommands_opcode : findCmd (st (cmd cq 0x0FFF [])) cq 7 = some (cmd cq 0x0FFF []) ∧ opRow 0x0FFF = none ∧
    up.sq.ready = true ∧ canStart (st (cmd cq 0x0FFF [])) (cmd cq 0x0FFF []) = true := by decide

def createQp : Cmd := cmd cq opCreateQueuePair ([2#8, 0#8] ++ natLe 2 15 ++ natLe 2 15 ++ natLe 2 0 ++ natLe 8 0x10000 ++ natLe 8 0x11000 ++ zeros 8)
theorem witness_QueueSetUp_pair : Due opCreateQueuePair 32 [(29, 3)] cq 7 createQp (st createQp) ∧ cq.owner ≠ 16 ∧
    createQpOk createQp.pb = true ∧ queueOf (st createQp) ⟨cq.owner, fld createQp.pb 0 1⟩ = none := by decide
def setRing (kind : Nat) : Cmd := cmd cq opSetRing ([BitVec.ofNat 8 kind, 0#8] ++ natLe 2 63 ++ natLe 2 0 ++ zeros 2 ++ natLe 8 0x10000 ++ zeros 16)
theorem witness_QueueSetUp_ring : Due opSetRing 32 [(1, 1), (6, 2)] cq 7 (setRing 0) (st (setRing 0)) ∧ setRingOk (setRing 0).pb = true ∧
    fld (setRing 0).pb 0 1 = 0 ∧ tblGet (st (setRing 0)).cmd.eventRings (ringKey pf.port cq.owner) = none := by decide
def setMode : Cmd := cmd aq opSetFunctionMode (natLe 2 16 ++ natLe 2 1023 ++ natLe 20 60000)
theorem witness_QueueSetUp_mode : Due opSetFunctionMode 24 [(1, 1)] aq 7 setMode (st setMode) ∧ fld setMode.pb 0 1 ≤ 16 ∧ fld setMode.pb 2 2 < 1024 ∧
    (modeDeadlinesOf setMode.pb).all (fun d => decide (d ≤ 60000)) = true := by decide

/-- An event ring and an assist ring of Court 0 on H0. -/
def ringed : State := { up with
  cmd.eventRings := [(0, ⟨pf, 0x8000, 64, 0, 0, 3, true, 3, 0, []⟩)]
  cmd.assistRings := [(0, ⟨pf, 0x9000, 64, 1, 0, 0, 0, 3, true, 3, 0, []⟩)] }
theorem witness_Doorbells_tail : ∃ t, pageLive up pf cq.owner = true ∧ queueOf up cq = some t ∧ t.via = pf ∧ 15 < 65536 ∧ 15 < t.sqDepth :=
  ⟨newQueue pf 16 16 0x1000 0x2000 true 0 0 0, by decide⟩
theorem witness_Doorbells_head : ∃ t, pageLive up pf cq.owner = true ∧ queueOf up cq = some t ∧ t.via = pf ∧ 0 < t.cqDepth ∧
    ringUsed t.cqDepth t.cqHead 0 ≤ ringUsed t.cqDepth t.cqHead t.cqWr := ⟨newQueue pf 16 16 0x1000 0x2000 true 0 0 0, by decide⟩
theorem witness_Doorbells_rings : pageLive ringed pf cq.owner = true ∧
    (tblGet ringed.cmd.assistRings (ringKey pf.port cq.owner)).map (fun r => (r.via, r.depth, ringUsed r.depth r.head 3, ringUsed r.depth r.head r.wr))
      = some (pf, 64, 3, 3) ∧
    (tblGet ringed.cmd.eventRings (ringKey pf.port cq.owner)).map (fun r => (r.via, r.depth, ringUsed r.depth r.head 3, ringUsed r.depth r.head r.wr))
      = some (pf, 64, 3, 3) := by decide
theorem witness_Doorbells_dead : pageLive up pf 3 = false := by decide
theorem witness_Doorbells_fault : ∃ t h, pageLive up pf cq.owner = true ∧ queueOf up cq = some t ∧ fnOf up pf = some h ∧ t.sqDepth ≤ 16 :=
  ⟨newQueue pf 16 16 0x1000 0x2000 true 0 0 0, HostFn.fresh, by decide⟩

/-- A queue pair with one entry to fetch. -/
def waiting : Queue := { newQueue pf 16 16 0x1000 0x2000 true 0 0 0 with sqTail := 1 }
def fetching : State := { up with cmd.queues := [(1, waiting)] }
theorem witness_FetchTakesNext : queueOf fetching cq = some waiting ∧ mayFetch fetching cq waiting = true ∧ ideEnded fetching waiting.via = false ∧
    (zeros 64).length = 64 ∧ findCmd fetching cq (fld (zeros 64) 2 2) = none ∧ fld (zeros 64) 0 2 ≠ opAbort ∧ fld (zeros 64) 12 4 ≤ 40 := by decide
theorem witness_FetchTakesNext_long : 40 < fld (natLe 12 0 ++ natLe 4 262144 ++ zeros 48) 12 4 ∧
    fld (natLe 12 0 ++ natLe 4 262144 ++ zeros 48) 12 4 ≤ 262144 := by decide
theorem witness_FetchTakesNext_duplicate :
    let s := { fetching with cmd.cmds := [{ cmd cq opRun [] with cid := 0 }] }
    mayFetch s cq waiting = true ∧ (findCmd s cq (fld (zeros 64) 2 2)).isSome = true := by decide

/-- A function whose bootstrap registers describe a queue pair. -/
def bootFn (ctrl : Nat) (ready : Bool) : HostFn := { HostFn.fresh with
  q0SqBase := 0x10000, q0CqBase := 0x20000, q0Size := 15 + 15 * 65536, q0Ctrl := ctrl, q0Ready := ready }
def booted (ctrl : Nat) (ready : Bool) : State := { up with cmd.fns := [(0, bootFn ctrl ready)], cmd.queues := [] }
theorem witness_ControlWindow_enable : fnOf (booted 0 false) pf = some (bootFn 0 false) ∧ (booted 0 false).sq.stage = 0xFF ∧
    (bootFn 0 false).enabled = true ∧ bit (bootFn 0 false).q0Ctrl 0 = false ∧ bit 1 0 = true ∧ bootOk (booted 0 false) pf (bootFn 0 false) = true := by
  decide
theorem witness_ControlWindow_irq : fnOf (booted 1 true) pf = some (bootFn 1 true) ∧ bit (bootFn 1 true).q0Ctrl 0 = bit 3 0 ∧
    (bootFn 1 true).q0Ready = true := by decide
theorem witness_ControlWindow_disable : bit (bootFn 1 true).q0Ctrl 0 = true ∧ bit 0 0 = false ∧ queueOf (booted 1 true) (bootQ pf) = none := by decide

def pended (m p : Nat) : HostFn := { HostFn.fresh with msixMask := m, msixPend := p }
theorem witness_Interrupts_unmask : fnOf { up with cmd.fns := [(0, pended 1 1)] } pf = some (pended 1 1) ∧ 0 ≤ 63 ∧ bit (pended 1 1).msixPend 0 = true ∧
    fnWrites { up with cmd.fns := [(0, pended 1 1)] } pf = true ∧ bit (pended 1 1).msixPend 63 = false := by decide
theorem witness_Interrupts_coalesce :
    let t := { waiting with firstUnsig := some 0, coalUs := 1000, unsignalled := 1 }
    let s := { up with cmd.queues := [(1, t)], cmd.fns := [(0, pended 0 0)] }
    queueOf s cq = some t ∧ t.firstUnsig = some 0 ∧ 0 + t.coalUs * 100 ≤ s.sq.time ∧ fnOf s t.via = some (pended 0 0) ∧ fnWrites s t.via = true ∧
    bit (pended 0 0).msixMask t.vector = false := by decide
theorem witness_PositionsKept :
    let s := { fetching with pending := [.sqTailWrite pf cq ⟨4, true, 5⟩] }
    s.pending = [.sqTailWrite pf cq ⟨4, true, 5⟩] ∧ positionsOk s ∧ ∃ t, step s = .next t := by
  refine ⟨rfl, ?_, _, rfl⟩
  simp [positionsOk, fetching, up, waiting, newQueue, State.reset]
theorem witness_ElementsPacked : (0x05 = 0x05 ∨ 0x05 = 0x06) ∧ 3 < 4 ∧ (0x0C, 16) ∈ [((0x0C : Nat), (16 : Nat))] ∧
    (∀ y ∈ [63, 0, 21], y < 2 ^ elemBits 0x06) ∧ [63, 0, 21][2]? = some 21 := by decide

/-! ### Witnesses: withdrawal, deletion, decisions -/

/-- A state with the commands given. -/
def sts (l : List Cmd) : State := { up with cmd.cmds := l }
def abortOf (target : Nat) : Cmd := cmd cq opAbort ([1#8, 0#8] ++ natLe 2 target ++ zeros 4)
def targetCmd (op : Nat) : Cmd := { cmd cq op [] with cid := 9 }
theorem witness_AbortsAndDeadlines_wins :
    let s := sts [abortOf 9, targetCmd opRun]
    Due opAbort 8 [(1, 1), (4, 4)] cq 7 (abortOf 9) s ∧ cq.owner ≠ 16 ∧ (abortOf 9).work = [] ∧ abortFetching s (abortOf 9) cq = false ∧
    findCmd s ⟨cq.owner, fld (abortOf 9).pb 0 1⟩ (fld (abortOf 9).pb 2 2) = some (targetCmd opRun) ∧ opAbortable opRun = true ∧ (9 : Nat) ≠ 7 := by decide
theorem witness_AbortsAndDeadlines_no :
    let s := sts [abortOf 9, targetCmd opSetSemaphore]
    Due opAbort 8 [(1, 1), (4, 4)] cq 7 (abortOf 9) s ∧ findCmd s cq 9 = some (targetCmd opSetSemaphore) ∧ opAbortable opSetSemaphore = false := by decide
theorem witness_AbortsAndDeadlines_done :
    let t := { waiting with sqTail := 0, retired := [9] }
    let s := { sts [abortOf 9] with cmd.queues := [(1, t)] }
    Due opAbort 8 [(1, 1), (4, 4)] cq 7 (abortOf 9) s ∧ abortFetching s (abortOf 9) cq = false ∧ findCmd s cq 9 = none ∧ queueOf s cq = some t ∧
    9 ∈ t.retired := by decide
theorem witness_AbortsAndDeadlines_unknown :
    Due opAbort 8 [(1, 1), (4, 4)] cq 7 (abortOf 9) (st (abortOf 9)) ∧ findCmd (st (abortOf 9)) cq 9 = none ∧
    (queueOf (st (abortOf 9)) cq).all (fun u => !u.retired.contains 9) = true := by decide
theorem witness_AbortsAndDeadlines_deadline :
    let c := { targetCmd opRun with deadlineMs := 5000 }
    findCmd (st c) cq 9 = some c ∧ up.sq.takeover = false ∧ c.deadlineMs ≠ 0 ∧ c.fetchedAt + c.deadlineMs * 100000 ≤ (st c).sq.time ∧
    c.started = false := by decide
theorem witness_AbortsAndDeadlines_early :
    let c := { targetCmd opRun with deadlineMs := 5001 }
    findCmd (st c) cq 9 = some c ∧ (st c).sq.time < c.fetchedAt + c.deadlineMs * 100000 := by decide

def deleteOf (qp : Nat) : Cmd := cmd cq opDeleteQueuePair (natLe 8 qp)
def twoPairs (l : List Cmd) : State := { sts l with cmd.queues := [(1, waiting), (2, newQueue pf 16 16 0x5000 0x6000 true 0 0 0)] }
theorem witness_DeleteQueuePair_idle :
    let s := twoPairs [deleteOf 2]
    Due opDeleteQueuePair 8 [(2, 6)] cq 7 (deleteOf 2) s ∧ (⟨0, 2⟩ : QId) ≠ cq ∧ (queueOf s ⟨0, 2⟩).isSome = true ∧
    (∀ d ∈ s.cmd.cmds, d.q ≠ ⟨0, 2⟩) := by decide
theorem witness_DeleteQueuePair_busy :
    let d := { targetCmd opSetSemaphore with q := ⟨0, 2⟩ }
    let s := twoPairs [deleteOf 2, d]
    Due opDeleteQueuePair 8 [(2, 6)] cq 7 (deleteOf 2) s ∧ (queueOf s ⟨0, 2⟩).isSome = true ∧ d ∈ s.cmd.cmds ∧
    (∀ e ∈ s.cmd.cmds, e.q = ⟨0, 2⟩ → opAbortable e.opcode = false) := by decide
theorem witness_DeleteQueuePair_own : Due opDeleteQueuePair 8 [(2, 6)] cq 7 (deleteOf 1) (st (deleteOf 1)) ∧
    (⟨cq.owner, fld (deleteOf 1).pb 0 1⟩ : QId) = cq := by decide

def decision (deadline : Nat) : AssistRec := ⟨3, 0, 16, deadline, [], [], true, .roadworks 4⟩
def deciding (l : List Cmd) (deadline : Nat) : State := { sts l with cmd.assists := [decision deadline] }
theorem witness_AssistSettles_expires : assistOf (deciding [] 500000000) 16 3 = some (decision 500000000) ∧
    (decision 500000000).deadline ≤ (deciding [] 500000000).sq.time ∧ up.sq.ready = true := by decide
def replyOf (id disp : Nat) : Cmd := cmd aq opAssistReply (natLe 4 id ++ natLe 1 disp ++ zeros 19)
theorem witness_AssistSettles_reply : Due opAssistReply 24 [(5, 3), (20, 4)] aq 7 (replyOf 3 2) (deciding [replyOf 3 2] 600000000) ∧
    fld (replyOf 3 2).pb 4 1 = 2 ∧ assistOf (deciding [replyOf 3 2] 600000000) aq.owner (fld (replyOf 3 2).pb 0 4) = some (decision 600000000) := by decide
theorem witness_AssistSettles_expired :
    let s := { st (replyOf 3 2) with cmd.expired := [(16, 3)] }
    Due opAssistReply 24 [(5, 3), (20, 4)] aq 7 (replyOf 3 2) s ∧ assistOf s aq.owner 3 = none ∧ (aq.owner, 3) ∈ s.cmd.expired := by decide
theorem witness_AssistSettles_unknown : assistOf (st (replyOf 3 2)) aq.owner 3 = none ∧ (aq.owner, 3) ∉ (st (replyOf 3 2)).cmd.expired ∧
    Due opAssistReply 24 [(5, 3), (20, 4)] aq 7 (replyOf 3 3) (st (replyOf 3 3)) ∧ 2 < fld (replyOf 3 3).pb 4 1 := by decide

/-! ### Witnesses: packages, runs, semaphores, DMA, counters -/

/-- A package image with one stream of one NOP. -/
def pkgBody : List Byte := natLe 4 0 ++ natLe 4 1 ++ natLe 8 128 ++ zeros 112 ++ padTo 128 (natLe 1 12)
def pkgDir : List Byte := natLe 4 1 ++ natLe 4 256 ++ natLe 8 128
def pkgImage : List Byte := natLe 4 0x4B504855 ++ natLe 2 1 ++ natLe 2 1 ++ natLe 2 1 ++ natLe 2 0 ++ natLe 4 0 ++ natLe 2 0 ++ zeros 14 ++
  sha256 (pkgDir ++ pkgBody) ++ pkgDir ++ zeros 48 ++ pkgBody
def loadPkg : Cmd := cmd cq opLoadPackage (natLe 8 0x100000 ++ natLe 8 384 ++ natLe 8 0 ++ zeros 8)
theorem witness_Packages_load : Due opLoadPackage 32 [(28, 4)] cq 7 loadPkg (st loadPkg) ∧ courtOf (st loadPkg) cq.owner = some court ∧
    court.conf = false ∧ fld loadPkg.pb 24 4 < 2 ∧ fld loadPkg.pb 16 8 % 128 = 0 ∧ pkgImage.length = fld loadPkg.pb 8 8 ∧
    (pkgParse pkgImage).any (fun p => (pkgRefusal (st loadPkg) court cq.owner 0 false pkgImage p).isNone) = true ∧
    freePkg (st loadPkg) cq.owner = some 1 := by decide +kernel
/-- A loaded package of one stream. -/
def pkg : Package := ⟨0, 0, 384, 4, 0, [⟨false, 0, 1, 256⟩], [], 0, 0, [], none⟩
def unload : Cmd := cmd cq opUnloadPackage (natLe 8 1)
theorem witness_Packages_unknown : Due opUnloadPackage 8 [(4, 4)] cq 7 unload (st unload) ∧ pkgOf (st unload) cq.owner (fld unload.pb 0 4) = none := by decide
/-- A run of that package. -/
def aRun : Run := ⟨.cmd cq 9, 0, 1, 0, 0xFFFF, 0, 0, 0, [], [], [RunStream.fresh false 0 1 256], 0⟩
theorem witness_Packages_busy :
    let s := { st unload with pkgs := [(1, pkg)], runs := [(0, aRun)] }
    Due opUnloadPackage 8 [(4, 4)] cq 7 unload s ∧ pkgOf s cq.owner (fld unload.pb 0 4) = some pkg ∧ (0, aRun) ∈ s.runs ∧
    aRun.pkg = fld unload.pb 0 4 := by decide
theorem witness_Packages_free :
    let s := { st unload with pkgs := [(1, pkg)] }
    Due opUnloadPackage 8 [(4, 4)] cq 7 unload s ∧ pkgOf s cq.owner (fld unload.pb 0 4) = some pkg ∧ (∀ r ∈ s.runs, r.2.pkg ≠ 1) ∧
    (∀ d ∈ s.cmd.cmds, d = unload) := by decide
def runCmd_ (sem : Nat) : Cmd := cmd cq opRun (natLe 4 1 ++ natLe 2 sem ++ natLe 2 0xFFFF ++ zeros 32 ++ natLe 8 0x8000 ++ natLe 4 4096 ++ zeros 4)
def runSt (sem : Nat) (p : Package) : State := { st (runCmd_ sem) with pkgs := [(1, p)] }
theorem witness_Packages_run : Due opRun (runLay (runCmd_ 0)) [(32, 8)] cq 7 (runCmd_ 0) (st (runCmd_ 0)) ∧ runOfCmd (st (runCmd_ 0)) (runCmd_ 0) = none ∧
    pkgOf (st (runCmd_ 0)) cq.owner (fld (runCmd_ 0).pb 0 4) = none := by decide
theorem witness_RunAdmits : Due opRun (runLay (runCmd_ 4092)) [(32, 8)] cq 7 (runCmd_ 4092) (runSt 4092 pkg) ∧
    runOfCmd (runSt 4092 pkg) (runCmd_ 4092) = none ∧ runFieldsOk (runCmd_ 4092).pb = true ∧
    pkgOf (runSt 4092 pkg) cq.owner (fld (runCmd_ 4092).pb 0 4) = some pkg ∧ courtOf (runSt 4092 pkg) cq.owner = some court ∧
    courtRangeOk court (fld (runCmd_ 4092).pb 8 8) (16 * fld (runCmd_ 4092).pb 16 4) = true ∧ runHandles (runCmd_ 4092).pb = [] ∧
    fld (runCmd_ 4092).pb 6 2 = 0xFFFF ∧ fld (runCmd_ 4092).pb 4 2 + pkg.sems ≤ 4096 ∧ pkg.symbols = [] := by decide
theorem witness_RunAdmits_range : Due opRun (runLay (runCmd_ 4093)) [(32, 8)] cq 7 (runCmd_ 4093) (runSt 4093 pkg) ∧
    4096 < fld (runCmd_ 4093).pb 4 2 + pkg.sems := by decide
/-- A package with a buffer symbol that a RUN must supply. -/
def pkgSym : Package := { pkg with symbols := [⟨5, 2, false, 64, 0⟩] }
theorem witness_RunAdmits_symbol : ∃ i, Due opRun (runLay (runCmd_ 0)) [(32, 8)] cq 7 (runCmd_ 0) (runSt 0 pkgSym) ∧
    pkgOf (runSt 0 pkgSym) cq.owner (fld (runCmd_ 0).pb 0 4) = some pkgSym ∧ (match resolveSyms (begun cq 7 (runSt 0 pkgSym))
      ⟨cq.owner, pkgSym, runBufs (runCmd_ 0).pb, 1, [], none⟩ with | .error j => j == i | .ok _ => false) = true := ⟨0, by decide⟩
def setSem (i : Nat) : Cmd := cmd cq opSetSemaphore (natLe 4 i ++ natLe 4 0xFFFFFFFF)
theorem witness_SemaphoreValues : Due opSetSemaphore 8 [(2, 2)] cq 7 (setSem 4095) (st (setSem 4095)) ∧ fld (setSem 4095).pb 0 2 < 4096 ∧
    semHeld (st (setSem 4095)) cq.owner 4095 = false ∧ Due opSetSemaphore 8 [(2, 2)] cq 7 (setSem 4096) (st (setSem 4096)) ∧
    4096 ≤ fld (setSem 4096).pb 0 2 ∧ courtOf up 0 = some court := by decide
theorem witness_SemaphoreValues_held :
    let s := { st (setSem 3) with runs := [(0, { aRun with streams := [{ RunStream.fresh false 0 1 256 with held := [(3, 1)] }] })] }
    Due opSetSemaphore 8 [(2, 2)] cq 7 (setSem 3) s ∧ semHeld s cq.owner 3 = true := by decide
theorem witness_SemaphoreValues_sum : semAdd 0 3 1 (semSet 0 3 0xFFFFFFFF up) = none ∧ (semAdd 0 3 1 (semSet 0 3 0xFFFFFFFE up)).isSome = true := by decide
def dma (op at_ : Nat) : Cmd := cmd cq op (natLe 8 0x8000 ++ natLe 8 at_ ++ natLe 8 2 ++ zeros 8)
theorem witness_DmaMoves_write : courtOf (st (dma opDmaWrite 64)) cq.owner = some court ∧ court.conf = false ∧ (dma opDmaWrite 64).progress = 0 ∧
    1 ≤ fld (dma opDmaWrite 64).pb 16 8 ∧ fld (dma opDmaWrite 64).pb 16 8 ≤ 2 ^ 40 ∧ fld (dma opDmaWrite 64).pb 24 1 < 3 ∧
    Due opDmaWrite 32 [(25, 7)] cq 7 (dma opDmaWrite 64) (st (dma opDmaWrite 64)) ∧
    courtRangeOk court (fld (dma opDmaWrite 64).pb 8 8) (fld (dma opDmaWrite 64).pb 16 8) = true ∧ ([1#8, 2#8] : List Byte).length = 2 := by decide
theorem witness_DmaMoves_read : Due opDmaRead 32 [(25, 7)] cq 7 (dma opDmaRead 64) (st (dma opDmaRead 64)) ∧
    courtRangeOk court 64 2 = true ∧ fnWrites (st (dma opDmaRead 64)) pf = true ∧ cleanLen (st (dma opDmaRead 64)) court [] 64 2 = 2 := by decide +kernel
theorem witness_DmaMoves_fault : Due opDmaWrite 32 [(25, 7)] cq 7 (dma opDmaWrite (2 ^ 31)) (st (dma opDmaWrite (2 ^ 31))) ∧
    courtRangeOk court (2 ^ 31) 2 = false := by decide
theorem witness_MemoryReadAfterWrite : Memory.wf (some 0#8) up.mem.hbm = true ∧ lineDown up (lineOf 70) = false ∧
    tblGet up.mem.lastUse (lineOf 70) = none ∧ (71 : Nat) ≠ 70 := by decide
def counters (q : QId) (scope : Nat) : Cmd := cmd q opReadCounters (natLe 8 scope ++ natLe 8 0x8000 ++ natLe 4 4096 ++ zeros 4)
theorem witness_ReplyCommands_counters : Due opReadCounters 24 [(2, 6)] cq 7 (counters cq 0) (st (counters cq 0)) ∧ cq.owner < 16 ∧
    courtOf (st (counters cq 0)) cq.owner = some court ∧ court.state = .ready ∧ Due opReadCounters 24 [(2, 6)] cq 7 (counters cq 2) (st (counters cq 2)) ∧
    Due opReadCounters 24 [(2, 6)] cq 7 (counters cq 3) (st (counters cq 3)) ∧ fld (counters cq 3).pb 0 1 = 3 := by decide
theorem witness_ReplyCommands_counters_device :
    let s := { st (counters aq 3) with smp := ⟨5, [1, 2, 3, 4], []⟩ }
    Due opReadCounters 24 [(2, 6)] aq 7 (counters aq 3) s ∧ aq.owner = 16 ∧ fld (counters aq 3).pb 0 1 = 3 ∧ s.smp.throttle = [1, 2, 3, 4] := by decide

/-! ### Witnesses: Courts, maintenance -/

theorem ok_of {ε α : Type} {e : Except ε α} {a : α} (h : e.toOption = some a) : e = .ok a := by
  cases e with
  | error x => simp [Except.toOption] at h
  | ok b => simp [Except.toOption] at h; rw [h]

theorem error_of {ε α : Type} {e : Except ε α} {a : ε} (h : (match e with | .error x => some x | .ok _ => none) = some a) : e = .error a := by
  cases e with
  | error x => simpa using h
  | ok b => simp at h

/-- The device with Blocks 0 and 1 of C0. -/
def blocked (c : Cmd) : State := { st c with blocks := [(0, Block.fresh 0), (1, Block.fresh 1)] }
def courtPb (n gib count : Nat) : List Byte := natLe 1 n ++ natLe 1 0 ++ natLe 1 1 ++ natLe 1 1 ++ natLe 2 0 ++ natLe 2 1 ++ natLe 2 gib ++ natLe 2 0 ++
  natLe 2 0 ++ natLe 2 0 ++ natLe 2 8 ++ natLe 2 count ++ zeros 44
def create (n : Nat) : Cmd := cmd aq opCreateCourt (courtPb n 1 1)
theorem witness_CourtsComplete_create : Due opCreateCourt 64 [(20, 12)] aq 7 (create 15) (blocked (create 15)) ∧ (create 15).work = [] ∧
    placeAsked (blocked (create 15)) aq 7 = false ∧ modeBit (blocked (create 15)) 16 0 = false ∧ courtFieldsOk (create 15).pb = true ∧
    courtOf (blocked (create 15)) 15 = none ∧ (createCheck (begun aq 7 (blocked (create 15))) (create 15).pb).toOption = some ([1], 1) := by decide +kernel
theorem witness_CourtsComplete_refused : Due opCreateCourt 64 [(20, 12)] aq 7 (create 0) (blocked (create 0)) ∧ courtFieldsOk (create 0).pb = true ∧
    transits (begun aq 7 (blocked (create 0))) 0 (began (blocked (create 0)) (create 0)) .creating = false ∧
    createCheck (begun aq 7 (blocked (create 0))) (create 0).pb = .error 0x3007 := ⟨by decide, by decide, by decide, rfl⟩
def lifecycle (op : Nat) : Cmd := cmd aq op (zeros 8)
theorem witness_CourtsComplete_end : Due opDestroyCourt 8 [(1, 7)] aq 7 (lifecycle opDestroyCourt) (st (lifecycle opDestroyCourt)) ∧
    Due opResetCourt 8 [(1, 7)] aq 7 (lifecycle opResetCourt) (st (lifecycle opResetCourt)) ∧
    Due opZeroiseCourt 8 [(1, 7)] aq 7 (lifecycle opZeroiseCourt) (st (lifecycle opZeroiseCourt)) ∧ courtOf up 0 = some court ∧ court.state = .ready := by
  decide
def resize : Cmd := cmd aq opResizeCourt (courtPb 0 2 2)
theorem witness_CourtsComplete_resize : Due opResizeCourt 64 [(20, 12)] aq 7 resize (blocked resize) ∧ courtFieldsOk resize.pb = true ∧
    courtOf (blocked resize) 0 = some court ∧ court.state = .ready ∧ (resizing (begun aq 7 (blocked resize))).any (fun d => fld d.pb 0 1 == 0) = false ∧
    (resizeCheck (begun aq 7 (blocked resize)) 0 court resize.pb).toOption = some [0, 1] ∧ (∀ g ∈ court.blocks, g ∈ [0, 1]) ∧
    fld resize.pb 12 2 = court.serve ∧ fld resize.pb 14 2 = court.pool := by decide +kernel
theorem witness_CourtsLeave : courtOf up 0 = some court ∧ fld (lifecycle opResetCourt).pb 0 1 = 0 ∧ (0, 5) ∈ court.gtab := by decide

def reserve (r : Nat) : Cmd := cmd aq opSetMapoutReserve (natLe 8 r)
theorem witness_Maintenance_reserve : Due opSetMapoutReserve 8 [(1, 7)] aq 7 (reserve 48) (st (reserve 48)) ∧ fld (reserve 48).pb 0 1 % 3 = 0 ∧
    Due opSetMapoutReserve 8 [(1, 7)] aq 7 (reserve 51) (st (reserve 51)) ∧ ¬ fld (reserve 51).pb 0 1 ≤ 48 := by decide
theorem witness_Maintenance_repair : Due opClearRepairList 0 [] aq 7 (cmd aq opClearRepairList []) (st (cmd aq opClearRepairList [])) := by decide
def roadworks (die : Nat) : Cmd := cmd aq opRunRoadworks (natLe 1 2 ++ natLe 7 die)
theorem witness_Maintenance_roadworks : Due opRunRoadworks 8 [(4, 4)] aq 7 (roadworks 0) (blocked (roadworks 0)) ∧
    rwNamed (blocked (roadworks 0)) (roadworks 0).pb = some [0, 1] ∧ Due opRunRoadworks 8 [(4, 4)] aq 7 (roadworks 15) (blocked (roadworks 15)) ∧
    rwNamed (blocked (roadworks 15)) (roadworks 15).pb = some [] := by decide +kernel

/-! ### Witnesses: base models and the Gazetteer -/

/-- A base image of one 2 × 2 BF16 linear tensor in layer 0. -/
def baseBody : List Byte := natLe 2 0 ++ natLe 1 0 ++ natLe 1 1 ++ natLe 4 0 ++ natLe 4 2 ++ natLe 4 2 ++ natLe 8 128 ++ natLe 4 4 ++ zeros 4 ++ zeros 40
def baseImage : List Byte := natLe 4 0x53414255 ++ natLe 2 1 ++ natLe 2 1 ++ natLe 4 9 ++ natLe 4 1 ++ natLe 4 1 ++ natLe 4 0 ++ natLe 8 40 ++
  sha256 baseBody ++ baseBody
/-- The tensor it names, and a resident slot that holds it. -/
def tensor0 : BaseTensor := ⟨0, 0, 1, 0, 0, 2, 2, 128, 4⟩
def slot0 : ModelSlot := { ModelSlot.fresh with
  state := .resident, modelId := 9, modelVersion := 1, layers := 1, tensors := [tensor0], access := 1, imageLen := 136, granules := [9] }
/-- Court 0 with a pool of 1 GiB. -/
def pooled : Court := { court with general := 1, pool := 1, gtab := [(0, 5), (1151, 6)] }
def based (l : Tbl ModelSlot) (c : Cmd) : State := { st c with gaz.slots := l, courts := [(0, pooled)] }
def loadBase : Cmd := cmd aq opLoadBase (natLe 8 0x100000 ++ natLe 8 136 ++ natLe 2 1 ++ natLe 1 0 ++ zeros 13)
theorem witness_BaseSlots_load :
    let b := begun aq 7 (based [] loadBase)
    let k := began (based [] loadBase) loadBase
    Due opLoadBase 32 [(19, 5)] aq 7 loadBase (based [] loadBase) ∧ loadRefusal b k = none ∧ takeSlot b aq.owner = some 0 ∧
    (match (loadSlot { k with work := [0] } 0 baseImage (fun _ => true) (claimModelSlot k 0 b)).2 with | some (.ok ()) => true | _ => false) = true := by
  decide +kernel
def slotCmd (op x : Nat) : Cmd := cmd aq op (natLe 1 0 ++ natLe 7 x)
theorem witness_BaseSlots_pin : Due opPinBase 8 [(2, 6)] aq 7 (slotCmd opPinBase 1) (based [(0, slot0)] (slotCmd opPinBase 1)) ∧
    fld (slotCmd opPinBase 1).pb 1 1 < 2 ∧ tblGet (based [(0, slot0)] (slotCmd opPinBase 1)).gaz.slots 0 = some slot0 ∧ slot0.owner = aq.owner ∧
    slot0.state ≠ .loading := by decide
theorem witness_BaseSlots_evict :
    Due opEvictBase 8 [(2, 6)] aq 7 (slotCmd opEvictBase 0) (based [(0, { slot0 with refs := 1 })] (slotCmd opEvictBase 0)) ∧
    Due opEvictBase 8 [(2, 6)] aq 7 (slotCmd opEvictBase 0) (based [(0, { slot0 with state := .cold })] (slotCmd opEvictBase 0)) ∧
    Due opEvictBase 8 [(2, 6)] aq 7 (slotCmd opEvictBase 1) (based [(0, slot0)] (slotCmd opEvictBase 1)) ∧ fld (slotCmd opEvictBase 1).pb 1 1 = 1 ∧
    slot0.refs = 0 := by decide
def oldSlot : ModelSlot := { slot0 with modelVersion := 7 }
def replaceBase : Cmd := cmd aq opReplaceBase (natLe 8 0x100000 ++ natLe 8 136 ++ natLe 2 1 ++ natLe 1 0 ++ natLe 13 0)
theorem witness_BaseSlots_replace :
    let s := based [(0, oldSlot)] replaceBase
    let b := begun aq 7 s
    let k := began s replaceBase
    Due opReplaceBase 32 [(20, 4)] aq 7 replaceBase s ∧ loadRefusal b k = none ∧ oldRefusal b aq.owner (fld replaceBase.pb 19 1) = none ∧
    takeSlot { b with gaz.slots := tblModify b.gaz.slots 0 (fun m => { m with state := .resident }) } aq.owner = some 1 ∧
    tblGet s.gaz.slots 0 = some oldSlot ∧ oldSlot.replacedBy ≠ some 1 ∧
    (match (loadSlot { k with work := [1] } 1 baseImage (fun x => x.modelId == oldSlot.modelId && x.modelVersion != oldSlot.modelVersion)
      (claimModelSlot k 1 b)).2 with | some (.ok ()) => true | _ => false) = true := by decide +kernel
def coldSlot : ModelSlot := { slot0 with state := .cold, wanted := true, hash := sha256 baseBody }
theorem witness_BaseSlots_reload :
    let s := based [(0, coldSlot)] loadBase
    tblGet s.gaz.slots 0 = some coldSlot ∧ coldSlot.state = .cold ∧ coldSlot.wanted = true ∧ s.sq.ready = true ∧ hostReads s coldSlot.via = true ∧
    ([] : List Byte).length < slotHostLen coldSlot ∧ coldSlot.keyId = 0 ∧ slotHostLen coldSlot ≤ baseImage.length ∧
    (baseRoom coldSlot.owner coldSlot.imageLen coldSlot.granules (coldSlot.granules != []) ⟨16, 64⟩ 0 s).2 = .granules [9] ∧
    (baseParse (baseImage.take (slotHostLen coldSlot))).map (fun x => (x.modelId, x.modelVersion, x.hash)) =
      some (coldSlot.modelId, coldSlot.modelVersion, coldSlot.hash) := by decide +kernel

/-- A SCALING image for that base. -/
def adBody : List Byte := natLe 2 0 ++ natLe 1 3 ++ natLe 1 0 ++ zeros 4 ++ natLe 8 128 ++ zeros 56
def adImage : List Byte := natLe 4 0x50444155 ++ natLe 2 1 ++ natLe 1 3 ++ natLe 1 1 ++ natLe 4 9 ++ natLe 4 1 ++ natLe 2 1 ++ natLe 2 0 ++ natLe 4 0 ++
  natLe 4 0 ++ natLe 4 56 ++ sha256 adBody ++ adBody
def register : Cmd := cmd cq opRegisterAdapter (natLe 8 0x100000 ++ natLe 4 136 ++ zeros 28)
theorem witness_EntriesAssigned_register :
    let s := based [(0, slot0)] register
    let r := makeRoom cq.owner adImage.length cq 7 (claimHandle (began s register) 0 (begun cq 7 s))
    Due opRegisterAdapter 40 [(13, 3), (32, 8)] cq 7 register s ∧ register.work = [] ∧ fld register.pb 12 1 < 4 ∧ coldOk (fld register.pb 24 8) = true ∧
    fld register.pb 16 8 = 0 ∧ confCourt s cq.owner = false ∧ courtOf s cq.owner = some pooled ∧ lowestFree s pooled = some 0 ∧
    adImage.length = fld register.pb 8 4 ∧ r.2 = .at_ 0x11FC0000000 ∧ (findSlot r.1 cq.owner 9 1).bind (fun n => tblGet r.1.gaz.slots n) = some slot0 ∧
    ((adHeader adImage).bind (fun i => adCheck i slot0)).isSome = true ∧ ((adHeader adImage).map (fun i => (i.modelId, i.modelVersion))) = some (9, 1) := by
  decide +kernel
/-- A READY entry whose version 4 lies in the pool. -/
def version4 : AdVersion := ⟨4, 1, 0, 0, 0, [⟨0, 3, 0, 128, 1, 2, 4⟩], 136, [], 0, 0, some 0x11FC0000000, false, [], 0, 0, false, none⟩
def entry0 : GazEntry := { GazEntry.fresh with state := .ready, kind := 3, modelId := 9, modelVersion := 1, cur := some version4 }
def entered (e : GazEntry) (c : Cmd) : State := { based [(0, slot0)] c with gaz.entries := [(0, e)] }
def replace (commit : Nat) : Cmd := cmd cq opReplace (natLe 2 0 ++ natLe 2 commit ++ natLe 4 136 ++ natLe 16 0)
theorem witness_EntriesAssigned_replace :
    let s := entered entry0 (replace 0)
    let r := replaceLoad (began s (replace 0)) 0 adImage (begun cq 7 s)
    handleCheck s cq.owner 0 = none ∧ Due opReplace 24 [(3, 1)] cq 7 (replace 0) s ∧ fld (replace 0).pb 2 1 < 2 ∧ (entryOf s 0).nextCmd = none ∧
    (entryOf s 0).train = 0 ∧ drainShort (stampUp r.1) (entryOf s 0) = false ∧ (match r.2 with | .ok (some _) => true | _ => false) = true := by
  decide +kernel
theorem witness_EntriesAssigned_training :
    let s := entered { entry0 with train := 1 } (replace 1)
    let r := replaceLoad (began s (replace 1)) 0 adImage (begun cq 7 s)
    Due opReplace 24 [(3, 1)] cq 7 (replace 1) s ∧ (entryOf s 0).train = 1 ∧ fld (replace 1).pb 2 1 = 1 ∧
    (match r.2 with | .ok (some _) => true | _ => false) = true ∧
    Due opReplace 24 [(3, 1)] cq 7 (replace 0) (entered { entry0 with train := 1 } (replace 0)) ∧ fld (replace 0).pb 2 1 = 0 := by decide +kernel
def handleCmd (op : Nat) : Cmd := cmd cq op (zeros 8)
theorem witness_EntriesAssigned_retire :
    Due opRetireAdapter 8 [(2, 6)] cq 7 (handleCmd opRetireAdapter) (entered { entry0 with state := .retiring } (handleCmd opRetireAdapter)) ∧
    handleCheck (entered { entry0 with state := .retiring } (handleCmd opRetireAdapter)) cq.owner 0 = none ∧
    Due opRetireAdapter 8 [(2, 6)] cq 7 (handleCmd opRetireAdapter) (entered entry0 (handleCmd opRetireAdapter)) ∧
    (entryOf (entered entry0 (handleCmd opRetireAdapter)) 0).state = .ready ∧ (entryOf (entered entry0 (handleCmd opRetireAdapter)) 0).train = 0 ∧
    (entryOf (entered { entry0 with train := 1 } (handleCmd opRetireAdapter)) 0).train ≠ 0 := by decide
def pin (tier : Nat) : Cmd := cmd cq opPinContract (natLe 2 0 ++ natLe 2 tier ++ natLe 4 10 ++ natLe 4 15 ++ zeros 4)
theorem witness_Contracts_pin :
    let s := entered entry0 (pin 2)
    handleCheck s cq.owner 0 = none ∧ Due opPinContract 16 [(3, 1), (12, 4)] cq 7 (pin 2) s ∧ 2 ≤ fld (pin 2).pb 2 1 ∧ fld (pin 2).pb 2 1 ≤ 3 ∧
    fld (pin 2).pb 4 4 ≤ 604800 ∧ nowS s + fld (pin 2).pb 4 4 ≤ fld (pin 2).pb 8 4 ∧ nowS s < fld (pin 2).pb 8 4 ∧ underContract (entryOf s 0) = false ∧
    (entryOf s 0).state = .ready ∧ courtOf s cq.owner = some pooled ∧ (entryOf s 0).cur = some version4 ∧ version4.poolAt.isSome = true ∧
    pinFits (begun cq 7 s) pooled 0 2 version4 = true := by decide +kernel
def contracted (hold : Nat) (c : Cmd) : State := entered { entry0 with minTier := 2, contractEnd := 15, holdUntil := hold } c
theorem witness_Contracts_release :
    Due opReleaseContract 8 [(2, 6)] cq 7 (handleCmd opReleaseContract) (contracted 10 (handleCmd opReleaseContract)) ∧
    underContract (entryOf (contracted 10 (handleCmd opReleaseContract)) 0) = true ∧
    nowS (contracted 10 (handleCmd opReleaseContract)) < (entryOf (contracted 10 (handleCmd opReleaseContract)) 0).holdUntil ∧
    (entryOf (contracted 5 (handleCmd opReleaseContract)) 0).holdUntil ≤ nowS (contracted 5 (handleCmd opReleaseContract)) ∧
    underContract (entryOf (entered entry0 (handleCmd opReleaseContract)) 0) = false := by decide
theorem witness_Contracts_end : handleOwner (contracted 5 (handleCmd 0)) 0 = some 0 ∧ nowS (contracted 5 (handleCmd 0)) < 15 ∧
    (entryOf (contracted 5 (handleCmd 0)) 0).contractEnd = 15 ∧
    (entryOf { contracted 5 (handleCmd 0) with sq.time := 1500000000 } 0).contractEnd ≤ nowS { contracted 5 (handleCmd 0) with sq.time := 1500000000 } := by
  decide
/-- A base with one reserved expert slot, and an EXPERT entry. -/
def expertSlot (holder : Nat) : ModelSlot := { slot0 with
  reservedExperts := 1, tensors := [{ tensor0 with role := 1 }], claims := if holder = 0xFFFF then [] else [(0, holder)] }
def expert : GazEntry := { entry0 with kind := 2, cur := some { version4 with parts := [⟨0, 4, 0xFF, 128, 1, 2, 4⟩] } }
def claim (new : Nat) : Cmd := cmd cq opClaimSlot (natLe 4 0 ++ natLe 2 0xFFFF ++ natLe 2 new)
def claiming (holder new : Nat) : State := { entered expert (claim new) with gaz.slots := [(0, expertSlot holder)] }
theorem witness_ClaimCompares : Due opClaimSlot 8 [] cq 7 (claim 0) (claiming 0xFFFF 0) ∧ tblGet (claiming 0xFFFF 0).gaz.slots 0 = some (expertSlot 0xFFFF) ∧
    isReserved (expertSlot 0xFFFF) 0 0 = true ∧ slotFor (expertSlot 0xFFFF) cq.owner = true ∧ handleOwner (claiming 0xFFFF 0) 0 = some cq.owner ∧
    claimant (claiming 0xFFFF 0) (expertSlot 0xFFFF) 0 0 = true ∧ claimsHeld (claiming 0xFFFF 0) (expertSlot 0xFFFF) cq.owner 0 < 16 ∧
    claimOf (expertSlot 0xFFFF) 0 0 = fld (claim 0).pb 4 2 ∧ claimOf (expertSlot 3) 0 0 ≠ fld (claim 0xFFFF).pb 4 2 ∧
    Due opClaimSlot 8 [] cq 7 (claim 0xFFFF) (claiming 3 0xFFFF) := by decide
def rebind : Cmd := cmd cq opRebindAdapter (natLe 4 0 ++ natLe 4 2 ++ zeros 24)
theorem witness_RebindQueryFetch_rebind :
    let s := { entered entry0 rebind with gaz.slots := [(0, { slot0 with modelVersion := 2 })] }
    handleCheck s cq.owner 0 = none ∧ Due opRebindAdapter 32 [(2, 2), (20, 4)] cq 7 rebind s ∧ (entryOf s 0).state = .ready ∧ (entryOf s 0).train = 0 ∧
    fld rebind.pb 16 4 = 0 ∧ findSlot s cq.owner 9 (fld rebind.pb 4 4) = some 0 ∧ tblGet s.gaz.slots 0 = some { slot0 with modelVersion := 2 } ∧
    (entryOf s 0).cur = some version4 ∧ version4.refs = 0 ∧ (adCheck (asImage entry0 version4 2) { slot0 with modelVersion := 2 }).isSome = true := by
  decide +kernel
def query : Cmd := cmd cq opQueryAdapter (zeros 8 ++ natLe 8 0x8000 ++ natLe 4 4096 ++ zeros 4)
theorem witness_RebindQueryFetch_query : Due opQueryAdapter 24 [(2, 6), (20, 4)] cq 7 query (entered entry0 query) ∧
    handleCheck (entered entry0 query) cq.owner 0 = none := by decide
def coldVersion : AdVersion := { version4 with poolAt := none, wanted := true, coldHeld := true }
theorem witness_RebindQueryFetch_fetch :
    let s := entered { entry0 with cur := some coldVersion, coldAt := 2 ^ 62 } query
    handleOwner s 0 = some 0 ∧ courtOf s 0 = some pooled ∧ pooled.conf = false ∧ (entryOf s 0).cur = some coldVersion ∧ coldVersion.wanted = true ∧
    coldVersion.poolAt = none ∧ coldKind (entryOf s 0).coldAt = 1 ∧ ideEnded s (entryOf s 0).via = false ∧ fnWrites s (entryOf s 0).via = true ∧
    coldVersion.imageLen ≤ adImage.length ∧ (makeRoom 0 coldVersion.imageLen ⟨0, 64⟩ 0 s).2 = .at_ 0x11FC0000000 := by decide +kernel

/-! ### Witnesses: serving -/

/-- A plan with the three buffers that R252 asks for, and its SERVE. -/
def servePkg : Package := { pkg with symbols :=
  [⟨reservedName "serve.tokens", 2, true, 4, 0⟩, ⟨reservedName "serve.positions", 2, true, 4, 0⟩, ⟨reservedName "serve.logits", 2, true, 64, 0⟩] }
def serve : Cmd := cmd cq opServe (natLe 4 1 ++ natLe 4 0 ++ natLe 2 0xFFFF ++ natLe 2 0xFFFF ++ natLe 2 0xFFFF ++ natLe 2 0 ++ natLe 8 0x8000 ++
  natLe 4 1 ++ natLe 4 1 ++ zeros 656)
def ring0 : StreamRing := ⟨pf, 0x9000, 256, none, 0, 0, true, 0, 0, 0⟩
def batch0 : Batch := ⟨0, 1, 0, 0, [], .boundary, 0, [], [], 64, 4096, none, 1, 16, 0, 0, none, [], 0, []⟩
/-- A running sequence of SERVE 9 with one page, and its parked form. -/
def seq0 : Seq := { newSeq { serve with cid := 9 } 0 (zeros 4) with
  state := .running, ttl := 60, parkAt := 0x4000000000008000, parkBytes := 65536, pos := 8, pages := [[0x1000]] }
def serving (l : Tbl Seq) (bs : Tbl Batch) (c : Cmd) : State := { sts [c, { serve with cid := 9 }] with
  pkgs := [(1, servePkg)], srv := { up.srv with rings := [(streamKey 0 0, ring0)], seqs := l, batches := bs, nextSeq := 5, nextBatch := 5 } }
theorem witness_ServeJoins_new :
    let s := { serving [] [] serve with courts := [(0, { court with serve := 1 })] }
    Due opServe 688 [(44, 4), (58, 2)] cq 7 serve s ∧ seqOfCmd s cq 7 = none ∧ serveRefusal (begun cq 7 s) (began s serve) = none ∧
    pkgOf s cq.owner (fld serve.pb 0 4) = some servePkg ∧ findBatch (begun cq 7 s) cq.owner (fld serve.pb 0 4) (fld serve.pb 4 1) = none ∧
    (newBatch (begun cq 7 s) cq.owner (fld serve.pb 0 4) (fld serve.pb 4 1) servePkg).isSome = true := by decide +kernel
theorem witness_ServeJoins_batch :
    let s := serving [(0, { seq0 with ring := 1 })] [(0, batch0)] serve
    Due opServe 688 [(44, 4), (58, 2)] cq 7 serve s ∧ seqOfCmd s cq 7 = none ∧ serveRefusal (begun cq 7 s) (began s serve) = none ∧
    pkgOf s cq.owner (fld serve.pb 0 4) = some servePkg ∧ findBatch (begun cq 7 s) cq.owner (fld serve.pb 0 4) (fld serve.pb 4 1) = some 0 := by
  decide +kernel
def streamRing : Cmd := cmd cq opSetStreamRing (natLe 2 16383 ++ natLe 2 255 ++ natLe 4 63 ++ natLe 8 0x9000)
theorem witness_ServeJoins_ring : Due opSetStreamRing 16 [(6, 2)] cq 7 streamRing (st streamRing) ∧ confCourt (st streamRing) cq.owner = false ∧
    fld streamRing.pb 0 2 ≤ 16383 ∧ 255 ≤ fld streamRing.pb 2 2 ∧ fld streamRing.pb 4 2 ≤ 63 ∧ fld streamRing.pb 8 8 % 4096 = 0 := by decide

def seqCmd (op ttl : Nat) : Cmd := cmd cq op (natLe 2 1 ++ natLe 2 9 ++ natLe 4 ttl)
theorem witness_ParkAndReturn_park :
    let s := serving [(0, seq0)] [(0, batch0)] (seqCmd opPark 604800)
    Due opPark 8 [(1, 1)] cq 7 (seqCmd opPark 604800) s ∧ (∀ e ∈ s.srv.seqs, e.2.parkReq ≠ some (cq, 7)) ∧
    fld (seqCmd opPark 604800).pb 4 4 ≤ 604800 ∧ serveTarget (begun cq 7 s) (seqCmd opPark 604800) = some (some (0, seq0)) ∧
    seq0.state = .running ∧ seq0.copy = .none ∧ seq0.parkReq = none ∧ seq0.ended = none ∧ parkable (begun cq 7 s) seq0 = true := by decide +kernel
def parkedSeq : Seq := { seq0 with state := .parkedAuto, pages := [[]], expires := some 600000000 }
theorem witness_ParkAndReturn_resume :
    let s (u : Seq) := serving [(0, u)] [(0, batch0)] (seqCmd opResume 0)
    let u := { parkedSeq with state := .parked }
    Due opResume 8 [(1, 1), (4, 4)] cq 7 (seqCmd opResume 0) (s seq0) ∧ (∀ e ∈ (s seq0).srv.seqs, e.2.resumeReq ≠ some (cq, 7)) ∧
    serveTarget (begun cq 7 (s seq0)) (seqCmd opResume 0) = some (some (0, seq0)) ∧
    serveTarget (begun cq 7 (s u)) (seqCmd opResume 0) = some (some (0, u)) ∧ u.resumeReq = none ∧
    serveTarget (begun cq 7 (s parkedSeq)) (seqCmd opPark 0) = some (some (0, parkedSeq)) ∧ parkedSeq.state = .parkedAuto ∧
    serveTarget (begun cq 7 (st (seqCmd opPark 0))) (seqCmd opPark 0) = none := by decide +kernel
theorem witness_ParkAndReturn_copies :
    let s (u : Seq) := serving [(0, u)] [(0, batch0)] (seqCmd opPark 0)
    let out := { seq0 with copy := .out }
    let back := { parkedSeq with copy := .back, pages := [[0x1000]] }
    seqOf (s out) 0 = some out ∧ out.gone = false ∧ up.sq.ready = true ∧ courtOf (s out) out.q.owner = some court ∧ batchOf (s out) out.batch = some batch0 ∧
    xferOf (s out) (.park 0) = none ∧ court.conf = false ∧ coldKind out.parkAt = 1 ∧ pagesPoisoned (s out) [] out = none ∧
    findCmd (s out) out.q out.cid = some { serve with cid := 9 } ∧ fnWrites (s out) pf = true ∧
    findCmd (s back) back.q back.cid = some { serve with cid := 9 } ∧ ideEnded (s back) pf = false ∧
    back.pages.length * batch0.kvLayers * (2 * batch0.kvHalf) ≤ 8192 ∧ coldKind back.parkAt = 1 := by decide +kernel
theorem witness_ParkAndReturn_expiry :
    seqOf (serving [(0, parkedSeq)] [(0, batch0)] serve) 0 = some parkedSeq ∧ parkedSeq.copy = .none ∧ parkedSeq.expires = some 600000000 ∧
    up.sq.time < 600000000 ∧ (600000000 : Nat) ≤ 600000000 := by decide +kernel

theorem witness_ServingSteps_empty :
    let t := { batch0 with stage := 4 }
    let s := serving [] [(0, t)] serve
    batchOf s 0 = some t ∧ courtOf s t.court = some court ∧ court.state = .ready ∧ s.sq.ready = true ∧ s.sq.takeover = false ∧ t.phase = .boundary ∧
    t.stopWait = 0 ∧ t.asking = none ∧ t.stage ≠ 0 ∧ copying s t.court 0 = false ∧ batchSeqs s 0 = [] := by decide
theorem witness_ServingSteps_retire :
    let t := { batch0 with phase := .stepping, step := 1 }
    let s := { serving [] [(0, t)] serve with runDone := [(.serving 0 0 1, 0, 0, 0, 3)] }
    batchOf s 0 = some t ∧ pkgOf s t.court t.plan = some servePkg ∧ (takeRun s (.serving t.court 0 t.step)).map (·.1) = some 0 ∧ bit t.modes 6 = false ∧
    (batchOf (sampleStep 0 0 court servePkg [] { s with runDone := [] }) 0).map (·.modes) = some t.modes ∧
    batchOf (serving [] [(0, { batch0 with phase := .decided })] serve) 0 = some { batch0 with phase := .decided } := by decide +kernel

/-! ### Witnesses: training, checkpoints, groups -/

/-- FORM_GROUP's block of a group with the extent of d0 given, and the group formed of it. -/
def grpPb (n : Nat) : List Byte := natLe 2 3 ++ natLe 1 0 ++ natLe 1 1 ++ natLe 4 5 ++ natLe 8 1 ++ natLe 2 0 ++ natLe 2 n ++ natLe 2 0 ++ natLe 2 1 ++
  natLe 4 1 ++ natLe 4 1000 ++ natLe 4 0 ++ zeros 28 ++ natLe 4 32 ++ zeros 4
def grp0 : Group := ⟨grpPb 0, .formed, none, [], none, false, [0], 1, 0, none, 0, 0, 0⟩
/-- A step of it that has ended. -/
def tstep : TrainStep :=
  { q := cq, cid := 9, number := 1, job := none, phase := .opened, modes := 0, resync := false, rewarm := false, ledgerAt := 0, entries := 0, run := 0,
    binds := [], base := none, teacher := none, cause := 0, own := none, ended := true, scales := [], kinds := [], amax := [], marked := [],
    buckets := [], shards := [], promoted := 0, progress := 400000000, votedAt := 0, acc := [], votes := [], sentUp := false, outcome := [],
    outGot := [], first := [], posted := false, verdict := none, repair := [], repaired := [], second := false, clip := none, asked := false,
    hostState := [] }
def grouped (g : Group) (c : Cmd) : State := { st c with grps := [(3, g)], pkgs := [(1, pkg)] }
def stepOf_ (op n : Nat) (tail : List Byte) : Cmd := cmd cq op (natLe 4 1 ++ natLe 2 3 ++ natLe 1 0xFF ++ natLe 1 0 ++ natLe 8 n ++ zeros 26 ++ tail)
def trainCmd (n : Nat) : Cmd := stepOf_ opStep n (zeros 6)
theorem witness_StepsStartAndRun_step : Due opStep (stepLay (trainCmd 1)) [(42, 6)] cq 7 (trainCmd 1) (grouped grp0 (trainCmd 1)) ∧
    stepRefusal (begun cq 7 (grouped grp0 (trainCmd 1))) (trainCmd 1) false = none ∧
    Due opStep (stepLay (trainCmd 2)) [(42, 6)] cq 7 (trainCmd 2) (grouped grp0 (trainCmd 2)) ∧ grpOf (grouped grp0 (trainCmd 2)) (stepKey (trainCmd 2)) = some grp0 ∧
    fld (trainCmd 2).pb 8 8 ≠ grp0.nextStep ∧ (trainCmd 1).work = [] := by decide +kernel
def distilCmd : Cmd := stepOf_ opDistilStep 1 (zeros 6)
def job0 : DistilJob := ⟨0, 3, 4, 0x3F800000, 64, 64, 64, 9, 1⟩
theorem witness_StepsStartAndRun_distil :
    let s := { grouped grp0 distilCmd with jobs := [(0, job0)] }
    Due opDistilStep (stepLay distilCmd) [(44, 4)] cq 7 distilCmd s ∧ stepRefusal (begun cq 7 s) distilCmd true = none := by decide +kernel
def waitingStep : Cmd := { trainCmd 1 with work := [1], started := true }
theorem witness_StepsStartAndRun_open :
    let s := grouped grp0 waitingStep
    grpOf s (grpKey 0 3) = some grp0 ∧ grp0.step = none ∧ stepCmd s (grpKey 0 3) = some waitingStep ∧ courtOf s 0 = some court ∧
    checkpointRuns s (grpKey 0 3) waitingStep = false ∧ grp0.state = .formed ∧ pkgOf s 0 (fld waitingStep.pb 0 4) = some pkg ∧
    bindsRefusal s 0 (stepBinds waitingStep.pb) = none ∧ (stepBase s 0 waitingStep).toOption = some none ∧
    (teacherSlot s 0 waitingStep).toOption = some none ∧ stepSyms s ⟨0, pkg, stepBufs waitingStep.pb, 1, [], none⟩ none = some [] ∧
    (demandAll [] [] s).2 = .ok := by decide +kernel
theorem witness_StepsStartAndRun_failing :
    stepCmd (grouped { grp0 with state := .broken } waitingStep) (grpKey 0 3) = some waitingStep ∧
    pkgOf { grouped grp0 waitingStep with pkgs := [] } 0 (fld waitingStep.pb 0 4) = none ∧
    checkpointRuns { grouped grp0 waitingStep with pkgs := [] } (grpKey 0 3) waitingStep = false := by decide +kernel
def stepping (t : TrainStep) : State := grouped { grp0 with step := some t } serve
theorem witness_StepsStartAndRun_vote : grpOf (stepping tstep) (grpKey 0 3) = some { grp0 with step := some tstep } ∧ tstep.phase = .opened ∧
    tstep.ended = true ∧ takeRun (stepping tstep) (.training (grpCourt (grpKey 0 3)) 3) = none ∧
    tstep.progress + fld grp0.pb 28 4 * msUnits ≤ up.sq.time ∧ tstep.buckets.all (fun b => bucketOver 0 grp0 tstep b.1) = true ∧
    (let t := { tstep with progress := 400000001, buckets := [(0, BucketRun.fresh)] }
     up.sq.time < t.progress + fld grp0.pb 28 4 * msUnits ∧ t.buckets.all (fun b => bucketOver 0 grp0 t b.1) = false) := by decide +kernel

def checkpoint : Cmd := cmd cq opCheckpoint (natLe 2 3 ++ natLe 2 1 ++ zeros 4 ++ natLe 8 0x8000 ++ natLe 8 4096 ++ natLe 8 0 ++ zeros 8 ++
  (natLe 1 1 ++ zeros 1 ++ natLe 2 0xFFFF ++ zeros 4 ++ natLe 8 0x10000 ++ natLe 8 64))
theorem witness_CheckpointsAndJobs_checkpoint :
    let s := grouped grp0 checkpoint
    let u := modCmd cq 7 (fun d => { d with work := [], progress := max 1 d.progress }) (begun cq 7 s)
    Due opCheckpoint (ckLay checkpoint) [(4, 4), (32, 8)] cq 7 checkpoint s ∧ grpOf s (grpKey cq.owner (fld checkpoint.pb 0 2)) = some grp0 ∧
    ckFieldsOk checkpoint.pb = true ∧ checkpoint.progress = 0 ∧ ckAwaits (begun cq 7 s) (grpKey cq.owner (fld checkpoint.pb 0 2)) = [] ∧
    ckHandles checkpoint.pb = [] ∧ (demand [] none u).2 = .ok ∧
    (ckRanges (demand [] none u).1 court checkpoint.pb).all (fun r => courtRangeOk court r.1 r.2) = true ∧
    rangesPoison (demand [] none u).1 court [] (ckRanges (demand [] none u).1 court checkpoint.pb ++ ckPools (demand [] none u).1 checkpoint.pb) = none ∧
    128 + (ckBody (ckImage (demand [] none u).1 court checkpoint.pb)).length ≤ fld checkpoint.pb 16 8 ∧ fnWrites s checkpoint.via = true := by
  decide +kernel
/-- A checkpoint image of one area of four bytes for rank 0. -/
def ckData : List Byte := ckBody [⟨3, 0x10000, by_ [1, 2, 3, 4]⟩]
def ckptImage : List Byte := natLe 4 0x504B4355 ++ natLe 2 1 ++ natLe 2 1 ++ natLe 2 3 ++ natLe 2 0 ++ natLe 4 1 ++ natLe 8 5 ++
  natLe 8 (128 + ckData.length) ++ sha256 ckData ++ zeros 64 ++ ckData
def restore : Cmd := cmd cq opRestore (natLe 8 0x8000 ++ natLe 8 ckptImage.length ++ natLe 8 3)
theorem witness_CheckpointsAndJobs_restore :
    let s := grouped grp0 restore
    Due opRestore 24 [(18, 6)] cq 7 restore s ∧ grpOf s (grpKey cq.owner (fld restore.pb 16 2)) = some grp0 ∧
    groupBusy (begun cq 7 s) (grpKey cq.owner 3) cq 7 = false ∧ ckptImage.length = fld restore.pb 8 8 ∧
    ckParse ckptImage = some (rankOf grp0.pb s.sq.addr, 5, [⟨3, 0x10000, by_ [1, 2, 3, 4]⟩]) ∧ courtRangeOk court 0x10000 4 = true := by decide +kernel
def distilJob (op : Nat) : Cmd := cmd cq opDistilJob (natLe 1 op ++ natLe 1 3 ++ natLe 2 0 ++ natLe 2 3 ++ natLe 2 4 ++ natLe 4 0x3F800000 ++ natLe 4 64 ++
  natLe 4 64 ++ natLe 4 64 ++ zeros 8)
def twoBlocks : Court := { court with blocks := [0, 1] }
def distilling (c : Cmd) (l : Tbl DistilJob) : State := { grouped grp0 c with
  courts := [(0, twoBlocks)], blocks := (blocked c).blocks, gaz.slots := [(0, slot0)], jobs := l }
theorem witness_CheckpointsAndJobs_open :
    let c := distilJob 1
    Due opDistilJob 32 [(3, 1), (24, 8)] cq 7 c (distilling c []) ∧ jobFieldsOk c.pb = true ∧ fld c.pb 0 1 = 1 ∧
    tblGet (distilling c []).gaz.slots (fld c.pb 2 1) = some slot0 ∧ slot0.state = .resident ∧
    grpOf (distilling c []) (grpKey cq.owner (fld c.pb 4 2)) = some grp0 ∧ slotFor slot0 cq.owner = true ∧
    pairDie (distilling c []) twoBlocks.blocks = true := by decide +kernel
theorem witness_CheckpointsAndJobs_end :
    let c := distilJob 2
    let s := distilling c [(jobKey 0 3, job0)]
    Due opDistilJob 32 [(3, 1), (24, 8)] cq 7 c s ∧ fld c.pb 0 1 = 2 ∧ fld c.pb 1 1 < 4 ∧ jobBusy (begun cq 7 s) cq.owner (fld c.pb 1 1) = false ∧
    (tblGet s.jobs (jobKey cq.owner (fld c.pb 1 1))).isSome = true := by decide +kernel

def formGroup (n : Nat) : Cmd := cmd cq opFormGroup (grpPb n ++ zeros 16)
theorem witness_GroupsAndFrames_form :
    let s := { st (formGroup 1) with sq.torus := [2, 1, 1, 1] }
    courtOf s cq.owner = some court ∧ Due opFormGroup (formLay (formGroup 1)) [(36, 4), (48, 16)] cq 7 (formGroup 1) s ∧
    formRefusal (begun cq 7 s) cq.owner court (formPb (formGroup 1)) = none ∧ 1 < memberCount (formPb (formGroup 1)) ∧
    formRefusal (begun cq 7 (st (formGroup 1))) cq.owner court (formPb (formGroup 1)) = some 0x1002 ∧
    Due opFormGroup (formLay (formGroup 1)) [(36, 4), (48, 16)] cq 7 (formGroup 1) (st (formGroup 1)) := by decide +kernel
def grpStatus : Cmd := cmd cq opGroupStatus (natLe 8 3 ++ natLe 8 0x8000 ++ natLe 4 4096 ++ zeros 4)
def dissolve_ : Cmd := cmd cq opDissolveGroup (natLe 8 3)
theorem witness_GroupsAndFrames_status : Due opGroupStatus 24 [(2, 6)] cq 7 grpStatus (grouped grp0 grpStatus) ∧
    grpOf (grouped grp0 grpStatus) (grpKey cq.owner (fld grpStatus.pb 0 2)) = some grp0 ∧
    Due opDissolveGroup 8 [(2, 6)] cq 7 dissolve_ (grouped grp0 dissolve_) ∧ groupBusy (begun cq 7 (grouped grp0 dissolve_)) 3 cq 7 = false ∧
    (grpOf (grouped { grp0 with state := .forming } dissolve_) 3).all (fun g => g.state == .forming) = true := by decide +kernel
/-- A frame of the group with the kind given, and a state with it in the inbox. -/
def frame (kind : Nat) (p : List Byte) : List Byte := frameHdr 5 1 ⟨0, kind, 0, 0, 0, 0⟩ ++ p
def mail (g : Group) (m : List Byte) : State := { grouped g serve with inbox := [(2, 0, m)] }
/-- A group of two members along d0 whose home is this device. -/
def grp1 (t : Option TrainStep) : Group := { grp0 with pb := grpPb 1, step := t }
theorem witness_GroupsAndFrames_leave :
    (takeFrame (isKind frLeave) (mail grp0 (frame 8 []))).map (fun r => (r.1, r.2.1)) = some (2, frame 8 []) ∧
    grpByTag (mail grp0 (frame 8 [])) (fld (frame 8 []) 0 4) = some (3, grp0) ∧
    (takeFrame (isKind frForm) (mail { grp0 with state := .forming } (frame 7 []))).map (·.1) = some 2 ∧
    formingFor (mail { grp0 with state := .forming } (frame 7 [])) (frame 7 []) = some (3, { grp0 with state := .forming }) ∧
    isMember grp0.pb (addrOf grp0.pb (hdrOf (frame 7 [])).bucket) = true ∧ formingFor (mail grp0 (frame 7 [])) (frame 7 []) = none := by decide +kernel
theorem witness_GroupsAndFrames_reduce :
    let s := { mail (grp1 (some tstep)) (frame 1 (zeros 64)) with sq.addr := 1 }
    (takeFrame (fun m => isKind frReduce m && reduceReady s m) s).map (fun r => (r.1, r.2.1)) = some (2, frame 1 (zeros 64)) ∧
    frameStep s (frame 1 (zeros 64)) = some (3, grp1 (some tstep), tstep) ∧ reduceFits s (grp1 (some tstep)) tstep (hdrOf (frame 1 (zeros 64))) = true ∧
    frameStep (mail grp0 (frame 1 (zeros 64))) (frame 1 (zeros 64)) = none := by decide +kernel
theorem witness_GroupsAndFrames_result :
    let g := { grp1 (some tstep) with homes := [0] }
    (takeFrame (isKind frResult) (mail g (frame 2 (zeros 64)))).map (·.1) = some 2 ∧ frameStep (mail g (frame 2 (zeros 64))) (frame 2 (zeros 64)) = some (3, g, tstep) ∧
    resultDue (mail g (frame 2 (zeros 64))) g tstep (hdrOf (frame 2 (zeros 64))) = true ∧
    (takeFrame (fun m => isKind frBroadcast m && broadcastReady (mail g (frame 3 (zeros 64))) m) (mail g (frame 3 (zeros 64)))).map (·.1) = some 2 ∧
    g.homes[(hdrOf (frame 3 (zeros 64))).bucket]? = some 0 := by decide +kernel
theorem witness_GroupsAndFrames_vote :
    let s := { mail (grp1 (some { tstep with phase := .voted })) (frame 4 (zeros 72)) with sq.addr := 1 }
    (takeFrame (fun m => isKind frVote m && voteReady s m) s).map (·.1) = some 2 ∧
    (frameStep s (frame 4 (zeros 72))).isSome = true := by decide +kernel
/-- A helper of a group of 300 shards. -/
def grpHelp (t : TrainStep) : Group := { grp0 with pb := (grpPb 0).take 24 ++ natLe 4 300 ++ (grpPb 0).drop 28, step := some t }
theorem witness_GroupsAndFrames_outcome :
    let t := { tstep with phase := .voted, sentUp := true }
    let s := { mail (grpHelp t) (frame 5 (zeros 256)) with sq.addr := 4 }
    (takeFrame (fun m => isKind frOutcome m && outcomeReady s m) s).map (·.1) = some 2 ∧ frameStep s (frame 5 (zeros 256)) = some (3, grpHelp t, t) ∧
    inBox (grpHelp t).pb s.sq.addr = false ∧ t.outGot = [] ∧ 256 < voteLen (grpHelp t).pb (!inRepair t) := by decide +kernel
theorem witness_GroupsAndFrames_repair :
    let t := { tstep with phase := .repairing, repair := [(0, 0)] }
    let s := { mail (grpHelp t) (frame 6 (zeros 64)) with sq.addr := 4 }
    (takeFrame (fun m => isKind frRepair m && repairReady s m) s).map (·.1) = some 2 ∧ frameStep s (frame 6 (zeros 64)) = some (3, grpHelp t, t) ∧
    inBox (grpHelp t).pb s.sq.addr = false ∧ t.repair.find? (fun p => p.1 == (hdrOf (frame 6 (zeros 64))).bucket) = some (0, 0) := by decide +kernel
/-- A group of the whole first dimension with device 0x0010 as helper. -/
def grpRank : List Byte := natLe 2 3 ++ natLe 1 0 ++ natLe 1 1 ++ natLe 4 5 ++ natLe 8 1 ++ natLe 2 0 ++ natLe 2 15 ++ natLe 2 1 ++ natLe 2 1 ++
  natLe 4 1 ++ natLe 4 1000 ++ natLe 4 0 ++ zeros 28 ++ natLe 2 0x10 ++ zeros 6 ++ natLe 4 32 ++ zeros 4
theorem witness_CanonicalRanks : formOk { up with sq.torus := [16, 16, 1, 1] } court grpRank = true ∧ 0x10 ∈ grpHelpers grpRank ∧
    inBox grpRank 0xF = true := by decide +kernel

/-! ### Witnesses: work orders -/

/-- A UE word of operation `op` on V1, V2, V3 into V15. -/
def ueWord (op : Nat) : Nat := op + 256 * 15 + 65536 * 1 + 0x2000000 + 0x300000000
theorem witness_UpdateEngineSteps : (List.range 13).all (fun op => (ueInstr (natLe 8 (ueWord op))).any (fun i => i.op == op && i.dst == 15)) = true ∧
    (ueOf up 3).v.length = 16 ∧ (3 : Nat) < 4 := by decide +kernel

/-- A work order of a TYPE with one more byte set, in a stream with the head given. -/
def wo (type off x : Nat) : List Byte := natLe 1 type ++ zeros 1 ++ natLe 2 0xFFFF ++ zeros 4 ++ natLe 2 0xFFFF ++ zeros (off - 10) ++ natLe 1 x ++ zeros (127 - off)
def strm (w : List Byte) (h : Head) : RunStream := { RunStream.fresh false 0 1 256 with derived := [⟨w, false, [], none, 0, [], [], []⟩], head := h }
def running (o : RunOwner) (l : List RunStream) : State := { up with
  runs := [(0, { aRun with owner := o, streams := l })], blocks := [(0, { Block.fresh 0 with use := .busy 0 1 })] }
def w0 : WoRef := ⟨0, 0⟩
def sentAt (type off x : Nat) : State := running (.cmd cq 9) [strm (wo type off x) (.sent [0])]
def isSent (r : Option Sent) : Bool := r.any (fun e => e.k.court == 0 && e.bs == [0])
theorem witness_BlockWorkOrders : ([1, 2, 3, 4].all (fun t => isSent (sentWo (sentAt t 88 0) w0 t anyWo)) = true ∧
    [1, 2, 3, 4, 5, 6, 7, 8, 9, 10].all (fun o => isSent (sentWo (sentAt 5 88 o) w0 5 (eltIs o))) = true) ∧
    [0, 1, 2].all (fun o => isSent (sentWo (sentAt 6 72 o) w0 6 (copyIs o))) = true ∧
    [1, 2].all (fun o => isSent (sentWo (sentAt 9 112 o) w0 9 (pairIs o))) = true ∧ courtOf (sentAt 1 88 0) 0 = some court ∧
    runStep (sentAt 5 88 7) { aRun with streams := [strm (wo 5 88 7) (.sent [0])] } = none := by decide +kernel
theorem witness_BlockWorkOrders_remote :
    let s := running (.cmd cq 9) [strm ((wo 6 72 3).take 74 ++ natLe 2 1 ++ zeros 52) (.sent [0]), { strm (wo 1 32 0) (.sent [0]) with chain := [0] }]
    isSent (sentWo s w0 6 (remoteReady s w0)) = true ∧ (sentWo s w0 6 (remoteReady s w0)).any (fun e => boundBlock s 0 (fld e.wo 74 2) == some 0) = true := by
  decide +kernel
theorem witness_WorkOrderFrame : (⟨tcOk, [], 0, false, [], none⟩ : WoOut).supply = none ∧ runStep (sentAt 1 88 0) aRun = none ∧
    ((0, 1) : Nat × Nat) ≠ (w0.run, w0.stream) := by decide +kernel

/-- The group with bucket 0 of CLASS 1 and home 1, its step open, and a work order of the step. -/
def grpUp : Group := { grp0 with pb := (grpPb 0).take 68 ++ natLe 1 1 ++ zeros 3, homes := [1], step := some { tstep with ended := false } }
def inStepWo (w : List Byte) : State :=
  courtWrite court 0x2000 (natLe 2 1 ++ natLe 2 1 ++ zeros 4 ++ natLe 1 0xFF ++ zeros 39 ++ natLe 8 4096)
    { running (.training 0 3) [strm w (.sent [0])] with grps := [(3, grpUp)] }
def ctx0 (e : Sent) : Ctx := ⟨e.k.court, court, e.k, e.bs, [], false, []⟩
/-- REDUCE_SEND of FP32 elements at Court address 0x4000, by MODE, and an UPDATE of one block of CLASS 1. -/
def send (mode : Nat) : List Byte := (wo 7 48 3).take 32 ++ (if mode = 0 then natLe 6 0x4000 ++ natLe 2 0 ++ natLe 8 128 else natLe 6 locNone ++ zeros 10) ++
  natLe 4 3 ++ natLe 4 0 ++ natLe 4 32 ++ natLe 1 0 ++ natLe 1 mode ++ zeros 66
def upd : List Byte := (wo 8 48 3).take 32 ++ zeros 8 ++ natLe 8 0x6000 ++ zeros 16 ++ natLe 8 0 ++ natLe 8 0x2000 ++ natLe 4 3 ++ natLe 4 0 ++
  natLe 4 0 ++ natLe 4 32 ++ natLe 1 1 ++ zeros 31
def okIn {α : Type} (s : State) (type : Nat) (sel : List Byte → Bool) (f : Sent → Except Nat α) : Bool := (sentWo s w0 type sel).any (fun e => (f e).isOk)
theorem witness_StepWorkOrders_send :
    okIn (inStepWo (send 0)) 7 (sendIs 0) (fun e => sendOp (inStepWo (send 0)) (envOf (inStepWo (send 0)) e (ctx0 e)) 0 grpUp { tstep with ended := false }) = true ∧
    okIn (inStepWo (send 1)) 7 (sendIs 1) (fun e => sendOp (inStepWo (send 1)) (envOf (inStepWo (send 1)) e (ctx0 e)) 1 grpUp { tstep with ended := false }) = true ∧
    (sentWo (inStepWo (send 0)) w0 7 (sendIs 0)).any (fun e => runStep (inStepWo (send 0)) e.k == some (3, grpUp, { tstep with ended := false })) = true := by
  decide +kernel
theorem witness_StepWorkOrders_update :
    okIn (inStepWo upd) 8 anyWo (fun e => updateShard (inStepWo upd) (envOf (inStepWo upd) e (ctx0 e)) grpUp { tstep with ended := false } 0 0) = true ∧
    tstep.shards = [] := by decide +kernel
theorem witness_StepWorkOrders_outside :
    isSent (sentWo (sentAt 7 61 0) w0 7 (sendIs 0)) = true ∧ isSent (sentWo (sentAt 7 61 1) w0 7 (sendIs 1)) = true ∧
    isSent (sentWo (sentAt 8 61 0) w0 8 anyWo) = true ∧ runStep (sentAt 8 61 0) aRun = none := by decide +kernel

/-- A Square work order with a byte pair at 32, 34 and a word at 36. -/
def sq (type a i n : Nat) : List Byte := (wo type 40 0).take 32 ++ natLe 2 a ++ natLe 2 i ++ natLe 4 n ++ zeros 88
def sqAt (w : List Byte) (held : Tbl Nat) : State := running (.cmd cq 9) [{ strm w (.sent []) with held := held }]
theorem witness_SquareWorkOrders_sem :
    (squareWo (sqAt (sq 10 1 4 1) []) w0 10).isSome = true ∧ fld (sq 10 1 4 1) 32 1 = 1 ∧ (squareWo (sqAt (sq 10 2 4 3) [(4, 2)]) w0 10).isSome = true ∧
    fld (sq 10 2 4 3) 32 1 = 2 ∧ tblGetD [(4, 2)] 4 0 < fld (sq 10 2 4 3) 36 4 ∧ fld (sq 10 2 4 3) 36 4 ≤ tblGetD [(4, 3)] 4 0 ∧
    (semAdd 0 4 3 (sqAt (sq 10 2 4 3) [(4, 3)])).isSome = true ∧ semAdd 0 4 3 (semSet 0 4 0xFFFFFFFD (sqAt (sq 10 2 4 3) [(4, 3)])) = none ∧
    (squareWo (sqAt (sq 10 3 4 3) []) w0 10).isSome = true ∧ fld (sq 10 3 4 3) 32 1 = 3 := by decide +kernel
theorem witness_SquareWorkOrders_fence :
    let s := sqAt (sq 11 1 2 7) []
    let b : Barrier := ⟨0, 1, 7, 3, []⟩
    (squareWo s w0 11).isSome = true ∧ findBarrier s 0 1 7 = none ∧ 1 < fld (sq 11 1 2 7) 34 2 ∧
    findBarrier { s with barriers := [b] } 0 1 7 = some b ∧ b.count ≠ fld (sq 11 1 2 7) 34 2 ∧ (squareWo (sqAt (wo 12 40 0) []) w0 12).isSome = true ∧
    retiresNow s = true := by decide +kernel

/-- A chained stream on Block 0 in the use given, since 4 s. -/
def chained (t : RunStream) (u : BlockUse) : State := { running (.cmd cq 9) [{ t with chain := [0], chainSince := 400000000 }, strm (wo 1 32 0) (.ready 0)] with
  blocks := [(0, { Block.fresh 0 with use := u })] }
theorem witness_ContextsAndHolds_chain :
    let t := strm (wo 1 32 0) .blocked
    (streamOf (chained t (.chained 0 0)) 0 0).any (fun p => sliceOver (chained t (.chained 0 0)) 0 0 0 p.2) = true ∧
    mustYield (chained t (.chained 0 0)) 0 0 = true ∧ retiresNow (chained t (.chained 0 0)) = true ∧
    useOf (chained t (.saving 0 0)) 0 = some (.saving 0 0) ∧ t.saved = [] ∧ t.express = false ∧
    ({ t with saved := [(0, ⟨[], none, []⟩)] } : RunStream).saved ≠ [] := by decide +kernel
theorem witness_ContextsAndHolds_hold :
    let t := { strm (wo 1 32 0) .blocked with held := [(1, 1)], heldSince := 400000000 }
    let s := running (.cmd cq 9) [t]
    streamOf s 0 0 = some ({ aRun with streams := [t] }, t) ∧ t.express = false ∧ t.held ≠ [] ∧ t.heldSince + holdUnits s 0 ≤ s.sq.time ∧
    t.head ≠ .ended ∧ (let t := { strm (wo 9 112 1) (.sent [0]) with chainSince := 499000000 }
      viaSince (running (.cmd cq 9) [t]) { aRun with streams := [t] } t = some 499000000 ∧ (499000000 : Nat) + holdUnits s 0 ≤ s.sq.time) ∧
    (let t := { strm (wo 9 112 1) (.sent [0]) with chainSince := 499000001 }
     viaSince (running (.cmd cq 9) [t]) { aRun with streams := [t] } t = some 499000001 ∧ s.sq.time < 499000001 + holdUnits s 0) := by decide +kernel

/-! ### Witnesses: the Timetable and partner stores -/

/-- A row of one slot of one Block. -/
def slotT : TtSlot := ⟨100, 50, 20, 1, 1⟩
def timetable (owner : Nat) : Cmd := cmd aq opSetTimetable (if owner = 16 then natLe 4 16 ++ natLe 4 5000 ++ zeros 8 else
  natLe 2 owner ++ natLe 2 1 ++ natLe 4 0 ++ natLe 4 100 ++ natLe 4 100000 ++ natLe 4 100 ++ natLe 4 50 ++ natLe 4 20 ++ natLe 2 1 ++ natLe 2 1)
theorem witness_TimetableRows_set :
    Due opSetTimetable (16 + 16 * min (fld (timetable 0).pb 2 2) 257) [(1, 1)] aq 7 (timetable 0) (st (timetable 0)) ∧ fld (timetable 0).pb 2 2 ≤ 256 ∧
    (setRow (timetable 0).pb (begun aq 7 (st (timetable 0)))).2 = .fin (finSt 0x0000) ∧
    Due opSetTimetable (16 + 16 * min (fld (timetable 16).pb 2 2) 257) [(1, 1)] aq 7 (timetable 16) (st (timetable 16)) ∧ fld (timetable 16).pb 0 1 = 16 ∧
    (setCycle (timetable 16).pb (begun aq 7 (st (timetable 16)))).2 = .fin (finSt 0x0000) := by decide +kernel
theorem witness_TimetableRows_cycle : retiresNow up = true ∧ up.tt.t0 ≤ up.sq.time ∧ (up.sq.time - up.tt.t0) % up.tt.cycle = 0 ∧
    (up.sq.time + 1 - up.tt.t0) % up.tt.cycle ≠ 0 := by decide
/-- The device `x` units into the cycle, with the slot's record given. -/
def atPlace (x : Nat) (l : List TtActive) : State := { up with
  courts := [(0, { court with row := ⟨[slotT], 10000, 10000⟩ })], sq := { up.sq with time := 500000000 + x }, tt := { up.tt with active := l } }
theorem witness_TimetableRows_slot :
    let lead : TtActive := ⟨0, 0, false, [0]⟩
    slotActive (atPlace 80 []) 0 0 = none ∧ sincePlace (atPlace 80 []) (slotT.start + up.tt.cycle - slotT.lead) < slotT.lead ∧
    sincePlace (atPlace 99 []) (slotT.start + up.tt.cycle - slotT.lead) < slotT.lead ∧
    slotActive (atPlace 100 [lead]) 0 0 = some lead ∧ lead.inForce = false ∧ sincePlace (atPlace 100 [lead]) slotT.start < slotT.length ∧
    slotActive (atPlace 150 [{ lead with inForce := true }]) 0 0 = some { lead with inForce := true } ∧
    slotT.length ≤ sincePlace (atPlace 150 [{ lead with inForce := true }]) slotT.start ∧ (atPlace 150 []).tt.t0 ≤ (atPlace 150 []).sq.time := by decide

def store0 : Store := ⟨0, 0, .home, 1, 0, false, false, none, [], [], [(64, 8, 500000000)], [], none⟩
def storing (l : List PartnerReq) (c : Cmd) (m : List Byte) : State := { st c with
  courts := [(0, { court with general := 1, store := 1, gtab := [(0, 5), (1151, 6)] })],
  part := { up.part with stores := [store0], reqs := l }, inbox := [(2, 1, m)] }
def migrate (target : Nat) : Cmd := cmd cq opMigrate (natLe 1 1 ++ natLe 1 0 ++ natLe 2 target ++ zeros 4)
theorem witness_PartnerMessages_migrate :
    let s := storing [] (migrate 1) []
    Due opMigrate 8 [(4, 4)] cq 7 (migrate 1) s ∧ fld (migrate 1).pb 0 1 = 1 ∧ (∀ r ∈ s.part.stores, ∀ m ∈ r.move, ¬(m.q = cq ∧ m.cid = 7)) ∧
    s.part.stores.find? (fun t => t.court == cq.owner && t.role == .home) = some store0 ∧ store0.move = none ∧ fld (migrate 1).pb 2 2 ≠ s.sq.addr ∧
    fld (migrate 0).pb 2 2 = s.sq.addr ∧ Due opMigrate 8 [(4, 4)] cq 7 (migrate 0) (storing [] (migrate 0) []) := by decide
/-- A device message of a kind from device 1 to this one, with a body. -/
def dmsg (kind : Nat) (body : List Byte) : List Byte := devMsg { up with sq.addr := 1 } kind 0 1 1 body
def took (f : List Byte → Bool) (l : List PartnerReq) (m : List Byte) : Bool := (takeMsg f (storing l serve m)).any (fun r => r.1 == 1 && r.2.1 == m)
theorem witness_PartnerMessages_kinds :
    [0x10, 0x11, 0x12, 0x13, 0x15, 0x16].all (fun k => took (isKind k) [] (dmsg k (zeros 32))) = true ∧
    [2, 3, 4].all (fun k => took (isForward k) [] (dmsg 0x14 (forwardBody 0 k 1 2 1 0 1 []))) = true ∧
    took (fun m => isKind 0x14 m && !(isForward 2 m || isForward 3 m || isForward 4 m)) [] (dmsg 0x14 (forwardBody 0 1 1 2 1 0 1 (dmsg 0x10 (zeros 32)))) = true ∧
    isForward 1 (dmsg 0x14 (forwardBody 0 1 1 2 1 0 1 (dmsg 0x10 (zeros 32)))) = true := by decide +kernel
theorem witness_PartnerMessages_adopt :
    let m := dmsg 0x14 (forwardBody 1 4 0 2 1 0 1 [])
    let x := arrivalOf 1 m
    arrCourt x = 0 ∧ x.courts % 16 = 0 ∧ store0.written = false ∧ store0.adopted = false ∧ store0.move = none ∧ fld x.body 11 2 ≤ 1 := by decide +kernel
def req (kind : Nat) (u : ReqUse) (retry : Option Nat) : PartnerReq := ⟨5, u, 1, 1, 0, 8, devMsg up kind 0 1 1 (natLe 4 0 ++ natLe 4 5 ++ zeros 8), retry⟩
theorem witness_PartnerMessages_replies :
    let get := req 0x11 (.fetch 0 1) none
    let data := dmsg 0x12 (natLe 4 0 ++ natLe 4 5 ++ zeros 24)
    let done (st : Nat) := dmsg 0x13 (natLe 2 0 ++ natLe 1 st ++ zeros 1 ++ natLe 4 5 ++ zeros 8)
    ([get].find? (fun r => r.token == fld data 20 4 && isKind 0x11 r.msg)).isSome = true ∧ doneFor (storing [get] serve []) (done 0) = some get ∧
    fld (done 0) 18 1 = 0 ∧ fld (done 1) 18 1 = 1 ∧ isMove get.use = false ∧ doneFor (storing [] serve []) (done 0) = none ∧
    [get].find? (fun r => r.msg.take 16 == slice (dmsg 0x16 (get.msg.take 16)) 16 16) = some get ∧
    fld (slice (dmsg 0x16 (get.msg.take 16)) 16 16) 7 1 ≠ 0x14 := by decide +kernel
theorem witness_PartnerMessages_times :
    let s := storing [req 0x11 (.fetch 0 1) (some 500000000)] serve []
    s.part.reqs.find? (fun r => r.token == 5) = some (req 0x11 (.fetch 0 1) (some 500000000)) ∧ (500000000 : Nat) ≤ s.sq.time ∧
    store0.ranges[0]? = some (64, 8, 500000000) ∧ ¬ s.sq.time < 500000000 ∧ (storing [] serve []).sq.time < 500000001 := by decide +kernel

/-! ### Witnesses: Avenues -/

/-- The device at an end of a ring of d0, with Avenue 0 as given. -/
def linked (addr : Nat) (v : Avenue) : State := { up with sq := { up.sq with torus := [2, 1, 1, 1], addr := addr }, avs := [(0, v)] }
def training : Avenue := { Avenue.fresh with phase := .training }
def keying : Avenue := { Avenue.fresh with phase := .keying }
theorem witness_AvenuesComeUp_training : avOf (linked 0 training) 0 = some training ∧ avAwake (linked 0 training) = true ∧
    avenueUsed (linked 0 training) 0 = true ∧ (let v := { Avenue.fresh with retryAt := some 500000000 }
      avOf (linked 0 v) 0 = some v ∧ v.phase = .down ∧ (500000000 : Nat) ≤ (linked 0 v).sq.time ∧ (linked 0 v).sq.time < 500000001) := by decide
theorem witness_AvenuesComeUp_hello : avOf (linked 1 keying) 0 = some keying ∧ keying.retryAt = none ∧ initiator (linked 1 keying) 0 = false ∧
    (zeros 17568).length = 17568 ∧ ([] : List Byte).length ≠ 17568 := by decide +kernel
theorem witness_AvenuesComeUp_keys :
    let v := { keying with transcript := [1#8] }
    avOf (linked 1 v) 0 = some v ∧ v.transcript ≠ [] ∧ initiator (linked 1 v) 0 = false ∧ initiator (linked 0 v) 0 = true ∧
    (zeros 25424).length = 25424 ∧ ([] : List Byte).length ≠ 25424 ∧
    (let w := { keying with retryAt := some 500000000 }
     avOf (linked 0 w) 0 = some w ∧ (500000000 : Nat) ≤ (linked 0 w).sq.time ∧ (linked 0 w).sq.time < 500000001) := by decide +kernel
def upAv : Avenue := { Avenue.fresh with phase := .up, rxSlot := 2 ^ 32 - 1, unacked := [(5, ⟨2, 0, 0, 16, []⟩)], ackAt := 499999800 }
theorem witness_AvenuesComeUp_rollover : avOf (linked 0 { upAv with rxSlot := 2 ^ 32 }) 0 = some { upAv with rxSlot := 2 ^ 32 } ∧
    upAv.txSlot < 2 ^ 32 ∧ 2 ^ 32 ≤ ({ upAv with rxSlot := 2 ^ 32 } : Avenue).rxSlot := by decide
theorem witness_FlitsAct_taken : avOf (linked 0 upAv) 0 = some upAv ∧ upAv.phase = .up ∧ upAv.rxSlot < 2 ^ 32 ∧
    [0, 1, 2].all (fun k => (natLe 8 k ++ zeros 592).length == 600 && fld (natLe 8 k ++ zeros 592) 0 8 % 4 == k) = true := by decide +kernel
theorem witness_FlitsAct_replay : avOf (linked 0 upAv) 0 = some upAv ∧ upAv.unacked = [(5, ⟨2, 0, 0, 16, []⟩)] ∧
    upAv.ackAt + 200 ≤ (linked 0 upAv).sq.time ∧ (linked 0 upAv).sq.time < 499999801 + 200 ∧ upAv.failed = [] ∧ upAv.width = 16 ∧ (15 : Nat) < 16 := by decide

/-! ### Witnesses: security -/

def conf0 : Court := { court with conf := true }
def ck0 : CourtKeys := ⟨[], [], [], none, none, 0, [⟨false, 6, []⟩], 0⟩
def secured (c : Cmd) : State := { st c with courts := [(0, conf0)], sec := { up.sec with epochs := [(0, 4)], courts := [(0, ck0)] } }
def wrap (kind epoch id : Nat) : Cmd := cmd cq opInstallWrappedKey (natLe 1 1 ++ natLe 1 kind ++ natLe 2 0 ++ natLe 4 epoch ++ natLe 8 id ++ zeros 1632)
def unwrap_ (kind id : Nat) : Cmd := cmd cq opInstallWrappedKey (natLe 1 2 ++ natLe 1 kind ++ natLe 2 0 ++ natLe 4 4 ++ natLe 8 id)
theorem witness_KeysAndSigners_install :
    let s (c : Cmd) := secured c
    Due opInstallWrappedKey (wrapLay (wrap 1 4 0)) [] cq 7 (wrap 1 4 0) (s (wrap 1 4 0)) ∧ keysOf (s (wrap 1 4 0)) cq.owner = some ck0 ∧
    wrapOk (wrap 1 4 0).pb = true ∧ zeroFld (wrap 1 4 0).pb 1596 4 = true ∧ fld (wrap 1 4 0).pb 4 4 = epochOf (s (wrap 1 4 0)) cq.owner ∧ ck0.old = none ∧
    fld (wrap 1 3 0).pb 4 4 ≠ epochOf (s (wrap 1 3 0)) cq.owner ∧ wrapOk (wrap 2 4 5).pb = true ∧
    Due opInstallWrappedKey (wrapLay (wrap 2 4 5)) [] cq 7 (wrap 2 4 5) (s (wrap 2 4 5)) ∧
    ck0.keys.any (fun w => w.id == 5) = false ∧ ck0.keys.length < 256 := by decide +kernel
theorem witness_KeysAndSigners_remove :
    Due opInstallWrappedKey (wrapLay (unwrap_ 2 6)) [] cq 7 (unwrap_ 2 6) (secured (unwrap_ 2 6)) ∧ wrapOk (unwrap_ 2 6).pb = true ∧
    fld (unwrap_ 2 6).pb 0 1 = 2 ∧ fld (unwrap_ 2 6).pb 4 4 = epochOf (secured (unwrap_ 2 6)) cq.owner ∧
    ck0.keys.any (fun w => w.id == 6 && w.group == false) = true ∧ ck0.keys.any (fun w => w.id == 7 && w.group == false) = false := by decide +kernel
def signer (op : Nat) : Cmd := cmd cq opRegisterSigner (natLe 1 op ++ natLe 1 0 ++ natLe 2 1 ++ zeros 4 ++ zeros 48)
def signing (op : Nat) (l : List (List Byte)) : State := { st (signer op) with sec.signers := [(0, l)] }
theorem witness_KeysAndSigners_signers :
    let all := (List.range 16).map (fun i => natLe 32 (i + 1))
    Due opRegisterSigner 56 [(1, 1), (4, 4)] cq 7 (signer 1) (signing 1 all) ∧ confCourt (signing 1 all) cq.owner = false ∧
    zeroFld (signer 1).pb 40 16 = true ∧ fld (signer 1).pb 2 2 = 1 ∧ slice (signer 1).pb 8 32 ∉ all ∧ 16 ≤ (signersOf (signing 1 all) cq.owner).length ∧
    (all.drop 1).length < 16 ∧ slice (signer 2).pb 8 32 ∈ signersOf (signing 2 [zeros 32]) cq.owner ∧
    Due opRegisterSigner 56 [(1, 1), (4, 4)] cq 7 (signer 2) (signing 2 [zeros 32]) := by decide +kernel

def attest (scope : Nat) (q : QId) : Cmd := cmd q opAttest (zeros 32 ++ natLe 1 scope ++ natLe 1 0 ++ natLe 2 0 ++ zeros 4 ++ natLe 8 0x8000 ++ natLe 4 4096 ++ zeros 4)
def bak0 : Bak := ⟨[], [], [], []⟩
def attesting (c : Cmd) (a : Option Activation) : State := { st c with sec.bak := some bak0, sq := { up.sq with act := a } }
theorem witness_Attestation :
    let c := attest 0xFF aq
    findCmd (attesting c none) aq 7 = some c ∧ canStart (attesting c none) c = true ∧ startCheck (attesting c none) c (attestLay c) [(36, 4)] = none ∧
    windowHint (attesting c none) = none ∧ fld c.pb 32 1 = 0xFF ∧ attestOk c 0xFF = true ∧
    startCheck (attesting (attest 0 cq) none) (attest 0 cq) (attestLay (attest 0 cq)) [(36, 4)] = none ∧ attestOk (attest 0 cq) 0 = true ∧
    courtOf (attesting (attest 0 cq) none) 0 = some court ∧ (attestHandles (attest 0 cq).pb) = [] := by decide +kernel
theorem witness_Attestation_window :
    let c := attest 0xFF aq
    let s := attesting c (some ⟨aq, 9, true, .window 400000000⟩)
    canStart s c = true ∧ startCheck s c (attestLay c) [(36, 4)] = none ∧ (windowHint s).isSome = true := by decide +kernel

/-- A confidential Court with no transport key, and each command that would start were it a plain Court. -/
def unkeyedSt (c : Cmd) : State := { st c with courts := [(0, conf0)], sec := { up.sec with courts := [(0, ck0)] } }
def wouldStart (c : Cmd) (lay : Nat) (rsv : List (Nat × Nat)) : Bool :=
  findCmd (unkeyedSt c) cq 7 == some c && canStart (unkeyedSt c) c && !hostWaits (unkeyedSt c) c &&
  startCheck (modCourt cq.owner (fun k => { k with conf := false }) (unkeyedSt c)) c lay rsv == none
theorem witness_ConfidentialNeedsKey : curKey (unkeyedSt serve) cq.owner = 0 ∧ courtOf (unkeyedSt serve) cq.owner = some conf0 ∧
    wouldStart (dma opDmaWrite 64) 32 [(25, 7)] = true ∧ wouldStart (dma opDmaRead 64) 32 [(25, 7)] = true ∧ wouldStart loadPkg 32 [(28, 4)] = true ∧
    wouldStart serve 688 [(44, 4), (58, 2)] = true ∧ wouldStart streamRing 16 [(6, 2)] = true ∧
    wouldStart checkpoint (ckLay checkpoint) [(4, 4), (32, 8)] = true ∧ wouldStart restore 24 [(18, 6)] = true ∧
    wouldStart (signer 1) 56 [(1, 1), (4, 4)] = true ∧ wouldStart (signer 2) 56 [(1, 1), (4, 4)] = true ∧
    wouldStart (cmd cq opSetRing (natLe 1 1 ++ zeros 31)) 32 [(1, 1), (6, 2)] = true := by decide +kernel

/-! ### Witnesses: firmware, Squares, memory, dies, ageing -/

/-- STAGE_FIRMWARE of four bytes. -/
def stage : Cmd := cmd aq opStageFirmware (natLe 8 0x100000 ++ natLe 8 4 ++ zeros 8)
theorem witness_FirmwareCommands_stage : Due opStageFirmware 24 [(16, 8)] aq 7 stage (st stage) ∧ stage.progress = 0 ∧
    stagingBusy (begun aq 7 (st stage)) stage = false ∧ fld stage.pb 8 8 ≤ 2 ^ 25 ∧ (zeros 4).length = fld stage.pb 8 8 ∧ fwFormOk (zeros 4) = false := by
  decide +kernel
def fw (op x : Nat) : Cmd := cmd aq op (natLe 8 x)
/-- The device with both Squares in service, a staged image, and no Court. -/
def twoSquares (l : List Cmd) : State := { sts l with
  courts := [], flash := { up.flash with slotB := some FwImage.factory, staged := true }
  sq := { up.sq with standby := .inService, running := some FwImage.factory, microcode := some FwImage.factory.micro, beatAt := 497000000 } }
theorem witness_FirmwareCommands_activate :
    Due opActivateFirmware 8 [(1, 7)] aq 7 (fw opActivateFirmware 0) (twoSquares [fw opActivateFirmware 0]) ∧
    activateRefused (twoSquares [fw opActivateFirmware 0]) 0 = false ∧ (twoSquares [fw opActivateFirmware 0]).sq.act = none ∧
    Due opActivateFirmware 8 [(1, 7)] aq 7 (fw opActivateFirmware 1) (twoSquares [fw opActivateFirmware 1, { fw 0 0 with cid := 8 }]) ∧
    activateRefused (twoSquares [fw opActivateFirmware 1, { fw 0 0 with cid := 8 }]) 1 = false := by decide +kernel
theorem witness_FirmwareCommands_handover :
    Due opHandover 8 [(1, 7)] aq 7 (fw opHandover 0) (twoSquares [fw opHandover 0]) ∧
    Due opHandover 8 [(1, 7)] aq 7 (fw opHandover 1) (twoSquares [fw opHandover 1]) ∧ fld (fw opHandover 1).pb 0 1 = 1 := by decide +kernel

theorem witness_SquaresChange_takeover : (twoSquares []).sq.ready = true ∧ (twoSquares []).sq.standby = .inService ∧ (twoSquares []).sq.takeover = false ∧
    driftOk (twoSquares []) 20 = true ∧ (twoSquares []).sq.beatAt + 30 * msUnits ≤ (twoSquares []).sq.time ∧ up.sq.standby ≠ .inService ∧
    (let s := { twoSquares [] with sq.beatAt := 497000001 }
     s.sq.time < s.sq.beatAt + 30 * msUnits) := by decide
theorem witness_SquaresChange_window :
    let a : Activation := ⟨aq, 7, false, .window 480000000⟩
    a.hot = false ∧ a.phase = .window 480000000 ∧ (twoSquares []).sq.time ≤ 480000000 + 200 * msUnits ∧ 479999999 + 200 * msUnits < (twoSquares []).sq.time ∧
    driftOk { twoSquares [] with sq.takeover := true, sq.act := some a } (-20) = true := by decide
theorem witness_SquaresChange_standby :
    let s := { up with sq.standby := .resyncing }
    s.sq.takeover = false ∧ s.sq.standby = .resyncing ∧ s.sq.act = none ∧ s.sq.standby ≠ .absent ∧
    (let t := { twoSquares [] with sq.act := some ⟨aq, 7, true, .following⟩ }
     t.sq.running = some FwImage.factory ∧ t.sq.act = some ⟨aq, 7, true, .following⟩) := by decide

theorem witness_MemoryEvents : up.sq.ready = true ∧ 64 < dpaEnd ∧ 383 ∉ up.mem.hardDown ∧ 383 ∉ up.mem.mapped ∧ (chanOf up 383).l1Last = 0 ∧ 384 ≤ 384 := by decide
theorem witness_MemoryEvents_mapout :
    let s := { up with mem.mapQueue := [(5, false)] }
    s.mem.mapNow = none ∧ s.mem.mapQueue = (5, false) :: [] ∧ (∀ G ∈ retiring (s.mem.mapped.length + 1), tblGet s.mem.granules G = none) ∧
    ({ up with mem.mapNow := some (5, false) } : State).mem.mapNow = some (5, false) := by decide

theorem witness_DieFaults : alive up = true ∧ (let s := { up with sq.powered := true, sq.vddIo := true, sq.refs := [(3, 1)] }
    alive s = true ∧ refDie 3 = true ∧ refLost none = true ∧ refLost (some 1001) = true ∧ refLost (some (-1000)) = false ∧ tblGet s.sq.refs 3 = some 1 ∧
    tblGet s.sq.refs 4 = none ∧ refDie 4 = true ∧ junctionDie 0x33 = true ∧ dieCode 0x41 = true ∧ refDie 0x2B = true ∧ 0x2B < 0x40) := by decide
theorem witness_DieFaults_block :
    let k := { Block.fresh 0 with use := .busy 0 0 }
    let s := { up with blocks := [(0, k)] }
    s.sq.ready = true ∧ tblGet s.blocks 0 = some k ∧ canFault k = true ∧ k.use = .busy 0 0 ∧
    glitchCourts { s with courts := [(0, { court with conf := true })] } 0 = [0] := by decide

/-- Die 0 with no change on, and with the change given. -/
def die0 (ch : PlanChange) : Die := { Die.fresh 0 with rail := 700, railInit := 700, change := ch }
def ageing (d : Die) (b : Tbl Block) : State := { up with age.dies := [(0, d)], blocks := b }
theorem witness_AgeingRows_changes : dieState (ageing (die0 .none) []) 0 = some (die0 .none) ∧ dieMoving (die0 .none) = false ∧
    (die0 (.rail 705 2)).change = .rail 705 2 ∧ railOk 705 (some 710) = true ∧ railOk 705 (some 711) = false ∧ (die0 .clock).change = .clock := by decide
theorem witness_AgeingRows_swap :
    let k := { Block.fresh 0 with want := some .swap }
    let s := ageing (die0 .none) [(0, k), (256, { Block.fresh 256 with slack := some 60000, lastPass := some 400000000 })]
    tblGet s.blocks 0 = some k ∧ k.want = some .swap ∧ k.use = .idle ∧ spares s (dieOf 0) = [256] ∧ useOf s 256 = some .idle := by decide
theorem witness_AgeingRows_slice :
    let s := ageing (die0 .none) [(0, { Block.fresh 0 with use := .testing })]
    useOf s 0 = some .testing ∧ (List.range 64).length = 64 ∧
    (let s := ageing (die0 .none) [(0, Block.fresh 0)]
     s.sq.takeover = false ∧ sliceOn s 0 = false ∧ sliceOk (die0 .none) { railMv := 715, tj := 950, pllKhz := some (1000 * clockMhz (die0 .none)) } = true) := by decide
theorem witness_AgeingRows_lapse :
    let s : State := { up with sq := { up.sq with time := 24 * hourUnits } }
    gone (Block.fresh 0) = false ∧ visitOver s (Block.fresh 0) = true ∧ (Block.fresh 0).lapsed = false ∧ ({ Block.fresh 0 with lapsed := true } : Block).lapsed = true := by
  decide

/-! ### Witnesses: power, boot, TAP, ports, management -/

theorem witness_PowerAnswers : up.sq.ready = true ∧ 3000000 < 3000001 ∧ up.pwr.brake = false ∧ ({ up with pwr.brake := true } : State).pwr.brake = true ∧
    up.sq.powered = true ∧ up.sq.vddIo = true ∧ up.sq.perst = false ∧ up.sq.thermtripN = false := by decide
theorem witness_ResetsAndBoot : ({ up with sq.powered := false } : State).sq.powered = false ∧ up.sq.powered = true ∧ up.sq.perst = false ∧
    up.sq.fatal = false ∧ (let s := { up with sq.perst := true }
      s.sq.perst = true ∧ s.sq.powered = true ∧ s.sq.vddIo = true ∧ s.sq.thermtripN = false) ∧
    (let s := { up with sq.stage := 7, sq.stageAt := 200000000 }
     s.sq.stage = 7 ∧ s.sq.stageAt + 3 * secUnits ≤ s.sq.time ∧ s.sq.time < 200000001 + 3 * secUnits) := by decide
theorem witness_TapRows : (∃ p ∈ (secured serve).courts, p.2.conf = true) ∧ (∀ p ∈ up.courts, p.2.conf = false) := by decide

def f0 : HostFn := { HostFn.fresh with enabled := true }
theorem witness_HostPortRows_fn : fnOf up pf = some HostFn.fresh ∧ HostFn.fresh.enabled = true ∧
    (let s := { up with cmd.fns := [(0, { HostFn.fresh with d3hot := true, bme := false })] }
     (fnOf s pf).any (fun h => h.d3hot && !h.bme) = true) ∧ up.sq.hostUp[1]? = some 0 ∧ (16 : Nat) ≤ 16 := by decide
theorem witness_HostPortRows_faults :
    let t := newQueue pf 16 16 0x1000 0x2000 true 0 0 0
    let w := { t with sqTail := 1 }
    let s := { st serve with cmd.queues := [(1, w)] }
    queueOf s cq = some w ∧ mayFetch s cq w = true ∧ findCmd s cq 7 = some serve ∧ readsHost serve = true ∧ serve.started = false ∧
    canStart s serve = true ∧ ownerReady s cq.owner = true ∧
    (let s := { up with mgm.ide := [(0, true)], cmd.queues := [] }
     tblGet s.mgm.ide (fnKey pf) = some true ∧ s.cmd.cmds = [] ∧ s.cmd.queues = []) := by decide +kernel
theorem witness_HostPortRows_spdm :
    let s (p : Spdm) := { up with sq := { up.sq with stage := 3, hostUp := [2, 0] }, mgm := { up.mgm with spdm := [(0, p)] } }
    doeUp (s ⟨true, [], none⟩) 0 = true ∧ tblGet (s ⟨true, [], none⟩).mgm.spdm 0 = some ⟨true, [], none⟩ ∧
    tblGet (s ⟨true, [], some []⟩).mgm.spdm 0 = some ⟨true, [], some []⟩ ∧ fld (by_ [0x12, 0xE4, 0, 0]) 1 1 = 0xE4 := by decide

/-- The device with a dynamic address and sensor 1 read, and a PLDM request of type and command with a body. -/
def managed : State := { up with mgm := { up.mgm with dyn := some 9 }, sq := { up.sq with i3cSa := 0x40 }, pwr := { up.pwr with sensors := [(1, 400)] } }
def pldm (type cmd : Nat) (b : List Byte) : List Byte := by_ [1, 0x80, type, cmd] ++ b
theorem witness_ManagementRows_i3c : mgmtUp up = true ∧ up.mgm.dyn = none ∧ mgmtUp managed = true ∧ managed.sq.i3cSa ≠ 0 ∧
    (let s := { managed with mgm.dyn := none }
     mgmtUp s = true ∧ s.mgm.dyn = none ∧ s.sq.i3cSa ≠ 0) ∧ (127 : Nat) < 128 := by decide
theorem witness_ManagementRows_mctp : let m := by_ [0, 0x80, 0x01, 0, 8]
    reaches managed m 0 = true ∧ bit (fld m 1 1) 7 = true ∧ fld m 2 1 = 0x01 ∧ 5 ≤ m.length ∧ fld m 3 1 % 4 ≤ 1 ∧ fld m 4 1 ≠ 0 ∧ fld m 4 1 ≠ 0xFF ∧
    reaches managed (by_ [0, 0x80, 0x02]) 0 = true := by decide
theorem witness_ManagementRows_requests :
    [(0, 0x02), (0, 0x04), (2, 0x50), (4, 0x01)].all (fun p => isPldm managed (pldm p.1 p.2 []) p.1 p.2) = true ∧
    [(0, 0x01), (0, 0x03), (0, 0x05), (2, 0x51), (2, 0x11), (2, 0x21), (2, 0x04), (4, 0x02), (5, 0x10), (5, 0x1A)].all (fun p =>
      isPldm managed (pldm p.1 p.2 []) p.1 p.2) = true ∧ (pldm 5 0x1A []).length < 4 + 1 ∧
    isPldm managed (pldm 0 0x01 (by_ [254])) 0 0x01 = true ∧ fld (pldm 0 0x01 (by_ [254])) 4 1 = 254 ∧ pldmType (pldm 3 0 []) ∉ pldmTypes ∧
    reaches managed (pldm 3 0 []) 1 = true := by decide
theorem witness_ManagementRows_platform :
    let m := pldm 2 0x11 (by_ [1, 0, 0])
    isPldm managed m 2 0x11 = true ∧ 7 ≤ m.length ∧ fld m 4 2 = 1 ∧ tblGet managed.pwr.sensors 1 = some 400 ∧
    isPldm managed (pldm 2 0x21 (by_ [91, 0, 0, 0])) 2 0x21 = true ∧ fld (pldm 2 0x21 (by_ [91, 0, 0, 0])) 4 2 = 91 ∧ tblGet managed.pwr.sensors 91 = none ∧
    isPldm managed (pldm 2 0x04 (zeros 3)) 2 0x04 = true ∧ 7 ≤ (pldm 2 0x04 (zeros 3)).length ∧
    isPldm managed (pldm 0 0x05 (by_ [5, 0, 0, 0, 0])) 0 0x05 = true ∧ fld (pldm 0 0x05 (by_ [5, 0, 0, 0, 0])) 4 1 ∈ pldmTypes ∧
    isPldm managed (pldm 0 0x03 (by_ [0, 0, 0, 0, 1, 5])) 0 0x03 = true ∧ fld (pldm 0 0x03 (by_ [0, 0, 0, 0, 1, 5])) 8 1 ≤ 1 ∧
    isPldm managed (pldm 2 0x51 (by_ [1, 0, 0, 0, 0, 0, 0, 0, 1, 0xFF, 0xFF, 0, 0])) 2 0x51 = true ∧
    isPldm managed (pldm 4 0x02 (zeros 5)) 4 0x02 = true := by decide
theorem witness_ManagementRows_update :
    let u : PldmUpdate := ⟨64, 0, [], 0, 1, true⟩
    let s := { managed with mgm.upd := some u }
    mgmtUp s = true ∧ s.mgm.upd = some u ∧ u.verified = true ∧ isPldm s (pldm 5 0x1A [0#8]) 5 0x1A = true ∧ isPldm s (pldm 5 0x1D []) 5 0x1D = true ∧
    isPldm s (pldm 5 0x13 []) 5 0x13 = true ∧ s.sq.time < u.at_ + 60 * secUnits ∧ isPldm managed (pldm 5 0x10 (zeros 11)) 5 0x10 = true ∧
    15 ≤ (pldm 5 0x10 (zeros 11)).length ∧ stageUnretired managed = false ∧ managed.sq.act = none ∧ isPldm managed (pldm 5 0x1B []) 5 0x1B = true ∧
    managed.mgm.upd = none ∧ (let s := { s with sq.time := 60 * secUnits }
      mgmtUp s = true ∧ u.at_ + 60 * secUnits ≤ s.sq.time) := by decide

end Sys2Proof.Tests
end

section
/-! Packed elements (spec/02_number_formats_and_accumulation.md R45): what a field of a byte string reads, what a row that
`packElems` wrote holds, and the statement about both. -/

namespace Sys2Proof.Machine

/-! ### Little-endian fields -/

@[simp] theorem natLe_length (n v : Nat) : (natLe n v).length = n := by
  induction n generalizing v with
  | zero => rfl
  | succ n ih => simp [natLe, ih]

/-- Reading back the `n` low bytes of `v` gives `v` cut to `n` bytes. -/
theorem leNat_natLe (n v : Nat) : leNat (natLe n v) = v % 256 ^ n := by
  induction n generalizing v with
  | zero => simp [natLe, leNat, Nat.mod_one]
  | succ n ih => rw [natLe, leNat, ih, BitVec.toNat_ofNat, pow_succ' 256, Nat.mod_mul]

theorem leNat_lt (l : List Byte) : leNat l < 256 ^ l.length := by
  induction l with
  | nil => simp [leNat]
  | cons b t ih =>
    have hb : b.toNat < 256 := b.isLt
    rw [leNat, List.length_cons, pow_succ']
    omega

theorem fld_one_lt (row : List Byte) (off : Nat) : fld row off 1 < 256 := by
  have hlen : ((row.drop off).take 1).length ≤ 1 := List.length_take_le ..
  calc fld row off 1 < 256 ^ ((row.drop off).take 1).length := leNat_lt _
    _ ≤ 256 ^ 1 := Nat.pow_le_pow_right (by decide) hlen

/-- In a string of pieces of `w` bytes each, field `j` of `w` bytes is piece `j`. -/
theorem fld_flatMap {α : Type} {f : α → List Byte} {w : Nat} (hf : ∀ y, (f y).length = w) {l : List α} {j : Nat} {p : α}
    (hp : l[j]? = some p) : fld (l.flatMap f) (j * w) w = leNat (f p) := by
  induction l generalizing j with
  | nil => simp at hp
  | cons a t ih =>
    cases j with
    | zero =>
      obtain rfl : a = p := by simpa using hp
      simp [fld, ← hf a]
    | succ j =>
      have hskip : (f a ++ t.flatMap f).drop ((j + 1) * w) = (t.flatMap f).drop (j * w) := by
        rw [Nat.succ_mul, Nat.add_comm, ← List.drop_drop, ← hf a, List.drop_left]
      rw [List.flatMap_cons, fld, hskip]
      exact ih (by simpa using hp)

/-! ### Pieces of a list -/

/-- Piece `j` of a list cut into pieces of `n`, where enough fuel is given to cut all of it. -/
theorem chunks_getElem? {α : Type} {n fuel j : Nat} {l : List α} (hn : 0 < n) (hfuel : l.length ≤ fuel)
    (hj : j * n < l.length) : (chunks n fuel l)[j]? = some ((l.drop (j * n)).take n) := by
  induction fuel generalizing l j with
  | zero => omega
  | succ fuel ih =>
    have hne : l.isEmpty = false := by simpa [← List.length_pos_iff] using Nat.zero_lt_of_lt hj
    rw [chunks, hne]
    cases j with
    | zero => simp
    | succ j =>
      rw [Nat.succ_mul] at hj ⊢
      have hrest := ih (l := l.drop n) (j := j) (by rw [List.length_drop]; omega) (by rw [List.length_drop]; omega)
      simpa [List.drop_drop, Nat.add_comm] using hrest

theorem getD_take_drop {n k : Nat} (qs : List Nat) (a : Nat) (hk : k < n) :
    ((qs.drop a).take n).getD k 0 = qs.getD (a + k) 0 := by
  simp [List.getD_eq_getElem?_getD, List.getElem?_take_of_lt hk]

theorem getD_zero_lt {b : Nat} {qs : List Nat} (hb : 0 < b) (hqs : ∀ y ∈ qs, y < b) (k : Nat) : qs.getD k 0 < b := by
  rcases lt_or_ge k qs.length with hk | hk
  · rw [List.getD_eq_getElem _ _ hk]
    exact hqs _ (List.getElem_mem hk)
  · rwa [List.getD_eq_default _ _ hk]

/-! ### The three layouts of R45 -/

/-- An element is a half byte, a six-bit field or whole bytes. -/
theorem elemBits_cases (code : Nat) : elemBits code = 4 ∨ elemBits code = 6 ∨ 8 ∣ elemBits code := by
  unfold elemBits
  split <;> decide

theorem elemRaw_of_four {code : Nat} (h : elemBits code = 4) (row : List Byte) (i : Nat) :
    elemRaw code row i = fld row (i / 2) 1 / 16 ^ (i % 2) % 16 := by
  simp only [elemRaw, h]

theorem elemRaw_of_six {code : Nat} (h : elemBits code = 6) (row : List Byte) (i : Nat) :
    elemRaw code row i = fld row (i / 4 * 3) 3 / 64 ^ (i % 4) % 64 := by
  simp only [elemRaw, h]

theorem elemRaw_of_bytes {code w : Nat} (h : elemBits code = 8 * w) (row : List Byte) (i : Nat) :
    elemRaw code row i = fld row (w * i) w := by
  have hw : elemBits code / 8 = w := by omega
  unfold elemRaw
  split
  · omega
  · omega
  · rw [hw, Nat.mul_comm]

theorem packElems_of_bytes {code w : Nat} (h : elemBits code = 8 * w) (qs : List Nat) :
    packElems code qs = qs.flatMap (natLe w) := by
  have hw : elemBits code / 8 = w := by omega
  unfold packElems
  split
  · omega
  · omega
  · rw [hw]

/-! ### What a written row holds -/

/-- Byte `j` of a written FP4 row holds elements `2j` and `2j + 1`; one past the end counts as zero. -/
theorem fld_packElems_of_four {code j : Nat} (h : elemBits code = 4) {qs : List Nat} (hj : j * 2 < qs.length) :
    fld (packElems code qs) j 1 = (qs.getD (j * 2) 0 + 16 * qs.getD (j * 2 + 1) 0) % 256 ^ 1 := by
  have hread := fld_flatMap (fun p : List Nat => natLe_length 1 (p.getD 0 0 + 16 * p.getD 1 0))
    (chunks_getElem? (n := 2) (by decide) le_rfl hj)
  simpa (disch := decide) only [packElems, h, Nat.mul_one, leNat_natLe, getD_take_drop, Nat.add_zero] using hread

/-- Bytes `3j` to `3j + 2` of a written FP6 row hold elements `4j` to `4j + 3`; those past the end count as zero. -/
theorem fld_packElems_of_six {code j : Nat} (h : elemBits code = 6) {qs : List Nat} (hj : j * 4 < qs.length) :
    fld (packElems code qs) (j * 3) 3 = (qs.getD (j * 4) 0 + 64 * qs.getD (j * 4 + 1) 0 + 4096 * qs.getD (j * 4 + 2) 0 +
      262144 * qs.getD (j * 4 + 3) 0) % 256 ^ 3 := by
  have hread := fld_flatMap
    (fun p : List Nat => natLe_length 3 (p.getD 0 0 + 64 * p.getD 1 0 + 4096 * p.getD 2 0 + 262144 * p.getD 3 0))
    (chunks_getElem? (n := 4) (by decide) le_rfl hj)
  simpa (disch := decide) only [packElems, h, leNat_natLe, getD_take_drop, Nat.add_zero] using hread

theorem elemRaw_packElems_of_four {code i : Nat} (h : elemBits code = 4) {qs : List Nat} (hqs : ∀ y ∈ qs, y < 16)
    (hi : i < qs.length) : elemRaw code (packElems code qs) i = qs.getD i 0 := by
  have hlo := getD_zero_lt (by decide) hqs (i / 2 * 2)
  have hhi := getD_zero_lt (by decide) hqs (i / 2 * 2 + 1)
  rw [elemRaw_of_four h, fld_packElems_of_four h (by omega)]
  have hik : qs.getD i 0 = qs.getD (i / 2 * 2 + i % 2) 0 := by rw [Nat.div_add_mod']
  obtain hk | hk : i % 2 = 0 ∨ i % 2 = 1 := by omega
  all_goals
    simp only [hik, hk, Nat.add_zero]
    omega

theorem elemRaw_packElems_of_six {code i : Nat} (h : elemBits code = 6) {qs : List Nat} (hqs : ∀ y ∈ qs, y < 64)
    (hi : i < qs.length) : elemRaw code (packElems code qs) i = qs.getD i 0 := by
  have h0 := getD_zero_lt (by decide) hqs (i / 4 * 4)
  have h1 := getD_zero_lt (by decide) hqs (i / 4 * 4 + 1)
  have h2 := getD_zero_lt (by decide) hqs (i / 4 * 4 + 2)
  have h3 := getD_zero_lt (by decide) hqs (i / 4 * 4 + 3)
  rw [elemRaw_of_six h, fld_packElems_of_six h (by omega)]
  have hik : qs.getD i 0 = qs.getD (i / 4 * 4 + i % 4) 0 := by rw [Nat.div_add_mod']
  obtain hk | hk | hk | hk : i % 4 = 0 ∨ i % 4 = 1 ∨ i % 4 = 2 ∨ i % 4 = 3 := by omega
  all_goals
    simp only [hik, hk, Nat.add_zero]
    omega

theorem elemRaw_packElems_of_bytes {code w i x : Nat} (h : elemBits code = 8 * w) {qs : List Nat} (hx : x < 2 ^ (8 * w))
    (hi : qs[i]? = some x) : elemRaw code (packElems code qs) i = x := by
  rw [elemRaw_of_bytes h, packElems_of_bytes h, Nat.mul_comm w i, fld_flatMap (natLe_length w) hi, leNat_natLe]
  exact Nat.mod_eq_of_lt (by rwa [pow_mul] at hx)

/-- A row that is written holds, element for element, what was written (R45). -/
theorem elemRaw_packElems {code i x : Nat} {qs : List Nat} (hqs : ∀ y ∈ qs, y < 2 ^ elemBits code) (hi : qs[i]? = some x) :
    elemRaw code (packElems code qs) i = x := by
  have hlen : i < qs.length := (List.getElem?_eq_some_iff.1 hi).1
  have hget : qs.getD i 0 = x := by rw [List.getD_eq_getElem?_getD, hi, Option.getD_some]
  rcases elemBits_cases code with h | h | ⟨w, h⟩
  · rw [h] at hqs
    rw [elemRaw_packElems_of_four h hqs hlen, hget]
  · rw [h] at hqs
    rw [elemRaw_packElems_of_six h hqs hlen, hget]
  · exact elemRaw_packElems_of_bytes h (h ▸ hqs x (List.mem_of_getElem? hi)) hi

/-! ### Where an element of a row lies -/

theorem elemRaw_fp4_even (row : List Byte) (i : Nat) : elemRaw 0x07 row (2 * i) = fld row i 1 % 16 := by
  rw [elemRaw_of_four rfl, Nat.mul_div_cancel_left i (by decide), Nat.mul_mod_right, pow_zero, Nat.div_one]

theorem elemRaw_fp4_odd (row : List Byte) (i : Nat) : elemRaw 0x07 row (2 * i + 1) = fld row i 1 / 16 := by
  have hbyte := fld_one_lt row i
  rw [elemRaw_of_four rfl, show (2 * i + 1) / 2 = i by omega, show (2 * i + 1) % 2 = 1 by omega]
  omega

theorem elemRaw_fp6 {code k : Nat} (h : elemBits code = 6) (row : List Byte) (i : Nat) (hk : k < 4) :
    elemRaw code row (4 * i + k) = bits (fld row (3 * i) 3) (6 * k + 5) (6 * k) := by
  rw [elemRaw_of_six h, show (4 * i + k) / 4 * 3 = 3 * i by omega, show (4 * i + k) % 4 = k by omega, bits,
    show 6 * k + 5 + 1 - 6 * k = 6 by omega, pow_mul, show (2 : Nat) ^ 6 = 64 by rfl]

end Sys2Proof.Machine

open Sys2Proof.Machine

/-- Settles O14: each layout by its own reading of `elemRaw`, and a written row by cutting the packed bytes back into the
groups they were written from. -/
theorem elementsPacked : Obligations.ElementsPacked := by
  unfold Obligations.ElementsPacked
  refine ⟨fun row i => ⟨elemRaw_fp4_even row i, elemRaw_fp4_odd row i, ?_, ?_⟩, ?_⟩
  · rintro code k (rfl | rfl) hk
    · exact elemRaw_fp6 rfl row i hk
    · exact elemRaw_fp6 rfl row i hk
  · intro code w hcode
    have hwidth : elemBits code = 8 * w := by fin_cases hcode <;> rfl
    exact elemRaw_of_bytes hwidth row i
  · intro code qs i x _ hqs hi
    exact elemRaw_packElems hqs hi

end

section
/-! Canonical ranks of a collective group (spec/10_collective_reduction.md R326): the relative coordinates of a member are
the base-16 digits of its rank, so ranks and box coordinates say the same thing. -/

namespace Sys2Proof.Machine

/-! ### Four base-16 digits -/

/-- The coordinates packed as R16 packs an address, from which they are read back. -/
theorem digit_of_packed {d : Nat → Nat} (hd : ∀ j, d j < 16) {i : Nat} (hi : i < 4) :
    (d 3 * 4096 + d 2 * 256 + d 1 * 16 + d 0) / 16 ^ i % 16 = d i := by
  have h0 := hd 0
  have h1 := hd 1
  have h2 := hd 2
  have h3 := hd 3
  interval_cases i <;> omega

/-! ### Relative coordinates and the rank -/

theorem boxN_pred_lt (pb : List Byte) (i : Nat) : boxN pb i - 1 < 16 := by
  rw [boxN, Nat.add_sub_cancel]
  exact Nat.mod_lt _ (by decide)

theorem boxN_pos (pb : List Byte) (i : Nat) : 0 < boxN pb i := Nat.succ_pos _

theorem relCoord_lt (pb : List Byte) (addr i : Nat) : relCoord pb addr i < 16 := Nat.mod_lt _ (by decide)

/-- The natural subtraction of `relCoord` loses nothing: it is the difference modulo 16 (R326). -/
theorem relCoord_eq_sub_emod (pb : List Byte) (addr i : Nat) :
    (relCoord pb addr i : Int) = ((addr / 16 ^ i % 16 : Nat) - (fld pb 16 2 / 16 ^ i % 16 : Nat) : Int) % 16 := by
  unfold relCoord
  generalize addr / 16 ^ i = d
  generalize fld pb 16 2 / 16 ^ i = lo
  omega

theorem inBox_iff (pb : List Byte) (addr : Nat) : inBox pb addr = true ↔ ∀ i < 4, relCoord pb addr i < boxN pb i := by
  simp [inBox]

theorem rankOf_digit (pb : List Byte) (addr : Nat) {i : Nat} (hi : i < 4) :
    rankOf pb addr / 16 ^ i % 16 = relCoord pb addr i :=
  digit_of_packed (relCoord_lt pb addr) hi

theorem rankOf_congr {pb : List Byte} {a b : Nat} (h : ∀ i < 4, relCoord pb a i = relCoord pb b i) :
    rankOf pb a = rankOf pb b := by
  rw [rankOf, rankOf, h 0 (by decide), h 1 (by decide), h 2 (by decide), h 3 (by decide)]

theorem relCoord_eq_of_rankOf_eq {pb : List Byte} {a b : Nat} (h : rankOf pb a = rankOf pb b) {i : Nat} (hi : i < 4) :
    relCoord pb a i = relCoord pb b i := by
  rw [← rankOf_digit pb a hi, h, rankOf_digit pb b hi]

/-- Box membership can be read off the rank alone. -/
theorem inBox_of_rankOf_eq {pb : List Byte} {a b : Nat} (h : rankOf pb a = rankOf pb b) (ha : inBox pb a = true) :
    inBox pb b = true := by
  rw [inBox_iff] at ha ⊢
  intro i hi
  rw [← relCoord_eq_of_rankOf_eq h hi]
  exact ha i hi

/-! ### Helpers -/

theorem not_inBox_of_mem_grpHelpers {s : State} {k : Court} {pb : List Byte} {addr : Nat} (hform : formOk s k pb = true)
    (hmem : addr ∈ grpHelpers pb) : ¬ inBox pb addr = true := by
  have houtside : (grpHelpers pb).all (fun a => !inBox pb a) = true := by
    simp only [formOk, Bool.and_eq_true] at hform
    tauto
  simpa using List.all_eq_true.1 houtside addr hmem

/-! ### The device at given coordinates, and the terminal -/

/-- Coordinate `i` of the device that a rank names: the rank's digit moved back by the box's origin. -/
def deviceCoord (pb : List Byte) (rank i : Nat) : Nat := (rank / 16 ^ i % 16 + fld pb 16 2 / 16 ^ i % 16) % 16

theorem deviceCoord_lt (pb : List Byte) (rank i : Nat) : deviceCoord pb rank i < 16 := Nat.mod_lt _ (by decide)

theorem addrOf_eq_packed (pb : List Byte) (rank : Nat) :
    addrOf pb rank =
      deviceCoord pb rank 3 * 4096 + deviceCoord pb rank 2 * 256 + deviceCoord pb rank 1 * 16 + deviceCoord pb rank 0 := by
  have hsum : addrOf pb rank = ((List.range 4).map (fun i => deviceCoord pb rank i * 16 ^ i)).sum := rfl
  rw [hsum, List.sum_range_succ, List.sum_range_succ, List.sum_range_succ, List.sum_range_succ, List.range_zero,
    List.map_nil, List.sum_nil]
  omega

theorem addrOf_digit (pb : List Byte) (rank : Nat) {i : Nat} (hi : i < 4) :
    addrOf pb rank / 16 ^ i % 16 = deviceCoord pb rank i := by
  rw [addrOf_eq_packed]
  exact digit_of_packed (deviceCoord_lt pb rank) hi

theorem relCoord_addrOf (pb : List Byte) (rank : Nat) {i : Nat} (hi : i < 4) :
    relCoord pb (addrOf pb rank) i = rank / 16 ^ i % 16 := by
  have hdigit := addrOf_digit pb rank hi
  unfold deviceCoord at hdigit
  unfold relCoord
  generalize addrOf pb rank / 16 ^ i = d at *
  generalize rank / 16 ^ i = r at *
  generalize fld pb 16 2 / 16 ^ i = lo at *
  omega

theorem relCoord_terminalOf (pb : List Byte) {i : Nat} (hi : i < 4) : relCoord pb (terminalOf pb) i = boxN pb i - 1 := by
  rw [terminalOf, relCoord_addrOf pb _ hi]
  exact digit_of_packed (boxN_pred_lt pb) hi

theorem inBox_terminalOf (pb : List Byte) : inBox pb (terminalOf pb) = true := by
  rw [inBox_iff]
  intro i hi
  rw [relCoord_terminalOf pb hi]
  exact Nat.sub_one_lt_of_lt (boxN_pos pb i)

end Sys2Proof.Machine

open Sys2Proof.Machine

/-- Settles O36: the relative coordinates are the base-16 digits of the rank, so a rank shared with a box member would put a
helper in the box, and the terminal's coordinates are the digits its address was packed from. -/
theorem canonicalRanks : Obligations.CanonicalRanks := by
  unfold Obligations.CanonicalRanks
  intro pb addr
  refine ⟨fun i _ => relCoord_eq_sub_emod pb addr i, rfl, inBox_iff pb addr, ?helper, fun i hi => relCoord_terminalOf pb hi,
    inBox_terminalOf pb, ?terminalRank⟩
  case helper =>
    intro s k hform hmem
    have hout := not_inBox_of_mem_grpHelpers hform hmem
    constructor
    · simpa [inBox_iff] using hout
    · intro a ha hrank
      exact hout (inBox_of_rankOf_eq hrank ha)
  case terminalRank =>
    intro a ha
    exact rankOf_congr fun i hi => by rw [ha i hi, relCoord_terminalOf pb hi]

end

section
/-! A confidential Court without a transport key (spec/14_security_and_attestation.md R443): the start checks of a sealed
command differ from those in a plain Court by the key check alone, and that check comes last. -/

namespace Sys2Proof.Machine

/-! ### A command that a check ends at its start -/

/-- The command stands on its queue, has not started, and nothing holds it back from the checks of its start: neither a
takeover, nor the commands before it, nor the host port (06 R181, R184, R189; 12 R402). -/
structure MeetsChecks (q : QId) (cid : Nat) (c : Cmd) (s : State) : Prop where
  found : findCmd s q cid = some c
  ready : s.sq.ready = true
  noTakeover : s.sq.takeover = false
  unstarted : c.started = false
  inTurn : canStart s c = true
  hostReady : hostWaits s c = false

/-- A failed check of the start retires the command with the check's status, and its body does not act. -/
theorem runCmd_startCheck_some {op : Nat} {q : QId} {cid : Nat} {lay : Cmd → Nat} {rsv : List (Nat × Nat)}
    {body : Cmd → State → State × Did} {s : State} {c : Cmd} {st : Nat} (h : MeetsChecks q cid c s) (hop : c.opcode = op)
    (hcheck : startCheck s c (lay c) rsv = some st) :
    runCmd op q cid lay rsv body s = retire c (finSt st) s := by
  simp [runCmd, h.found, h.ready, h.noTakeover, h.unstarted, h.inTurn, h.hostReady, hop, hcheck]

/-! ### The key check of R443 -/

theorem unkeyed_of_conf {s : State} {owner : Nat} {k : Court} (hk : courtOf s owner = some k) (hconf : k.conf = true)
    (hkey : curKey s owner = 0) : unkeyed s owner = true := by
  simp [unkeyed, hk, hconf, hkey]

/-- Whether a Court is ready does not depend on whether it is confidential. -/
theorem ownerReady_modCourt_conf (s : State) (n owner : Nat) (b : Bool) :
    ownerReady (modCourt n (fun k => { k with conf := b }) s) owner = ownerReady s owner := by
  by_cases hn : owner = n
  · subst hn
    cases hk : courtOf s owner <;> simp [ownerReady, courtOf_modCourt, hk]
  · simp [ownerReady, courtOf_modCourt, hn]

/-- Of two states in which the owner is alike ready, a sealed command that meets every check in the one fails in the other,
where the owner is unkeyed, by the key check alone. -/
theorem startCheck_of_unkeyed {s t : State} {c : Cmd} {lay : Nat} {rsv : List (Nat × Nat)}
    (hready : ownerReady t c.q.owner = ownerReady s c.q.owner) (hplain : startCheck t c lay rsv = none)
    (hsealed : sealedOp c = true) (hunkeyed : unkeyed s c.q.owner = true) :
    startCheck s c lay rsv = some stNotPermitted := by
  unfold startCheck at hplain ⊢
  rw [hready] at hplain
  cases hrow : opRow c.opcode with
  | none => simp [hrow] at hplain
  | some r =>
    simp only [hrow] at hplain ⊢
    generalize (if c.q.owner = 16 then r.admin else r.court) = allowed at hplain ⊢
    split_ifs at hplain with howner hqueue hflags hentry hshort hrsv htail hreply
    rw [if_neg howner, if_neg hqueue, if_neg hflags, if_neg hentry, if_neg hshort, if_neg hrsv, if_neg htail, if_neg hreply,
      hsealed, hunkeyed, Bool.and_self, if_pos rfl]

/-- In a confidential Court without a transport key, a sealed command that would start in a plain Court retires with
NOT_PERMITTED, whatever its body is (R443). -/
theorem runCmd_unkeyed {op : Nat} {q : QId} {cid : Nat} {lay : Cmd → Nat} {rsv : List (Nat × Nat)}
    {body : Cmd → State → State × Did} {s : State} {c : Cmd} {k : Court} (h : MeetsChecks q cid c s)
    (hk : courtOf s q.owner = some k) (hconf : k.conf = true) (hkey : curKey s q.owner = 0) (hop : c.opcode = op)
    (hsealed : sealedOp c = true)
    (hplain : startCheck (modCourt q.owner (fun k => { k with conf := false }) s) c (lay c) rsv = none) :
    runCmd op q cid lay rsv body s = retire c (finSt stNotPermitted) s := by
  obtain ⟨rfl, -⟩ := findCmd_key h.found
  have hcheck : startCheck s c (lay c) rsv = some stNotPermitted :=
    startCheck_of_unkeyed (ownerReady_modCourt_conf s c.q.owner c.q.owner false) hplain hsealed
      (unkeyed_of_conf hk hconf hkey)
  exact runCmd_startCheck_some h hop hcheck

theorem pbIs_of_findCmd {s : State} {q : QId} {cid : Nat} {c : Cmd} {f : List Byte → Bool}
    (h : findCmd s q cid = some c) : pbIs s q cid f = f c.pb := by
  simp [pbIs, h]

end Sys2Proof.Machine

open Sys2Proof.Machine

/-- Settles O50: every command listed is a `runCmd` row of a sealed opcode, so the key check ends it before its body acts;
the three that move Court data end as `watched` rows, and REGISTER_SIGNER's two are one row chosen by OP. -/
theorem confidentialNeedsKey : Obligations.ConfidentialNeedsKey := by
  unfold Obligations.ConfidentialNeedsKey
  intro q cid c k s hfound hready htake hstarted hturn hhost hk hconf hkey plain t
  have hmeets : MeetsChecks q cid c s := ⟨hfound, hready, htake, hstarted, hturn, hhost⟩
  have hends {op : Nat} {lay : Cmd → Nat} {rsv : List (Nat × Nat)} {body : Cmd → State → State × Did}
      (hop : c.opcode = op) (hsealed : sealedOp c = true) (hplain : startCheck plain c (lay c) rsv = none) :
      (.next (runCmd op q cid lay rsv body s) : Res) = .next t :=
    congrArg Host.Outcome.next (runCmd_unkeyed hmeets hk hconf hkey hop hsealed hplain)
  refine ⟨?dmaWrite, ?dmaRead, ?loadPackage, ?serve, ?setStreamRing, ?checkpoint, ?restore, ?setRing, ?signerAdd,
    ?signerRemove⟩
  case dmaWrite => exact fun _ _ hop hplain => congrArg watched (hends hop (by simp [sealedOp, hop]) hplain)
  case dmaRead => exact fun _ _ hop hplain => congrArg watched (hends hop (by simp [sealedOp, hop]) hplain)
  case loadPackage => exact fun _ hop hplain => hends hop (by simp [sealedOp, hop]) hplain
  case serve => exact fun _ hop hplain => hends hop (by simp [sealedOp, hop]) hplain
  case setStreamRing => exact fun hop hplain => hends hop (by simp [sealedOp, hop]) hplain
  case checkpoint => exact fun _ _ hop hplain => congrArg watched (hends hop (by simp [sealedOp, hop]) hplain)
  case restore => exact fun _ _ hop hplain => hends hop (by simp [sealedOp, hop]) hplain
  case setRing => exact fun hop hassist hplain => hends hop (by simp [sealedOp, hop, hassist]) hplain
  case signerAdd =>
    intro hop hplain hadd
    have hrow : pbIs s q cid (fun b => fld b 0 1 != 2) = true := by simpa [pbIs_of_findCmd hfound] using hadd
    exact (congrArg Host.Outcome.next (if_pos hrow)).trans (hends hop (by simp [sealedOp, hop]) hplain)
  case signerRemove =>
    intro hop hplain hremove
    have hrow : pbIs s q cid (fun b => fld b 0 1 == 2) = true := by simpa [pbIs_of_findCmd hfound] using hremove
    exact (congrArg Host.Outcome.next (if_pos hrow)).trans (hends hop (by simp [sealedOp, hop]) hplain)

end

section
/-! The block as a whole: one step, the state after reset, and what retiring a command leaves as it was. -/

namespace Sys2Proof.Machine

/-! ### What posting to the host can change -/

/-- Posting completions, records and interrupts changes nothing but the queues, the functions' registers, the event rings,
the writes that are held back, and the output (06 R187, R191, R208; 12 R399, R402). -/
def Posted (s t : State) : Prop :=
  ∃ queues fns rings held out, t = { s with
    cmd.queues := queues, cmd.fns := fns, cmd.eventRings := rings, cmd.heldWrites := held, out := out }

namespace Posted

theorem refl (s : State) : Posted s s := ⟨_, _, _, _, _, rfl⟩

theorem trans {s t u : State} (h : Posted s t) (k : Posted t u) : Posted s u := by
  obtain ⟨_, _, _, _, _, rfl⟩ := h
  obtain ⟨_, _, _, _, _, rfl⟩ := k
  exact ⟨_, _, _, _, _, rfl⟩

theorem cmds {s t : State} (h : Posted s t) : t.cmd.cmds = s.cmd.cmds := by
  obtain ⟨_, _, _, _, _, rfl⟩ := h; rfl

theorem retireSeq {s t : State} (h : Posted s t) : t.cmd.retireSeq = s.cmd.retireSeq := by
  obtain ⟨_, _, _, _, _, rfl⟩ := h; rfl

theorem foldl {β : Type} {f : State → β → State} (hf : ∀ s b, Posted s (f s b)) (l : List β) (s : State) :
    Posted s (l.foldl f s) := by
  induction l generalizing s with
  | nil => exact refl s
  | cons b l ih => exact (hf s b).trans (ih _)

end Posted

theorem posted_modQueue (q : QId) (f : Queue → Queue) (s : State) : Posted s (modQueue q f s) := ⟨_, _, _, _, _, rfl⟩

theorem posted_raiseMsix (f : FnId) (v : Nat) (s : State) : Posted s (raiseMsix f v s) := by
  unfold raiseMsix
  (repeat' split) <;> exact ⟨_, _, _, _, _, rfl⟩

theorem posted_hostWrite (f : FnId) (a : Nat) (bs : List Byte) (s : State) : Posted s (hostWrite f a bs s) := by
  unfold hostWrite
  (repeat' split) <;> exact ⟨_, _, _, _, _, rfl⟩

theorem posted_coalesce (q : QId) (noIrq : Bool) (s : State) : Posted s (coalesce q noIrq s) := by
  unfold coalesce
  repeat' split
  · exact .refl s
  · exact .refl s
  · exact (posted_modQueue q _ s).trans (posted_raiseMsix _ _ _)
  · exact posted_modQueue q _ s

theorem posted_putCompl (q : QId) (c : Compl) (s : State) : Posted s (putCompl q c s) := by
  unfold putCompl
  split
  · exact .refl s
  · dsimp only
    split
    · exact ((posted_hostWrite _ _ _ s).trans (posted_modQueue q _ _)).trans (posted_coalesce _ _ _)
    · exact (posted_hostWrite _ _ _ s).trans (posted_modQueue q _ _)

theorem posted_drainHeld (n : Nat) (q : QId) (s : State) : Posted s (drainHeld n q s) := by
  induction n generalizing s with
  | zero => exact .refl s
  | succ n ih =>
    unfold drainHeld
    repeat' split
    · exact .refl s
    · exact .refl s
    · exact ((posted_modQueue q _ s).trans (posted_putCompl q _ _)).trans (ih _)
    · exact .refl s

theorem posted_drainAll (s : State) : Posted s (drainAll s) :=
  .foldl (fun _ _ => .foldl (fun _ _ => posted_drainHeld _ _ _) _ _) _ s

theorem posted_postCompl (q : QId) (c : Compl) (s : State) : Posted s (postCompl q c s) :=
  (posted_modQueue q _ s).trans (posted_drainAll _)

theorem posted_putEvent (key source time : Nat) (rec : List Byte) (s : State) : Posted s (putEvent key source time rec s) := by
  unfold putEvent
  split
  · exact .refl s
  dsimp only
  split
  · exact ⟨_, _, _, _, _, rfl⟩
  · exact ((posted_hostWrite _ _ _ s).trans ⟨_, _, _, _, _, rfl⟩).trans (posted_raiseMsix _ _ _)

theorem posted_postEvent (owner source : Nat) (rec : List Byte) (s : State) : Posted s (postEvent owner source rec s) := by
  unfold postEvent
  split
  · exact .refl s
  · exact posted_putEvent _ _ _ _ s

theorem posted_postQueueFault (rec : List Byte) (court : Nat) (s : State) : Posted s (postQueueFault rec court s) := by
  unfold postQueueFault
  dsimp only
  split
  · exact (posted_postEvent _ _ _ s).trans (posted_postEvent _ _ _ _)
  · exact posted_postEvent _ _ _ s

theorem posted_dropDeleted (q : QId) (s : State) : Posted s (dropDeleted q s) := by
  unfold dropDeleted
  dsimp only
  (repeat' split) <;> exact ⟨_, _, _, _, _, rfl⟩

/-- Retiring a command takes it off the list and its RETIRE_SEQ from its owner, may destroy a key that nothing is bound to
any more (14 R451), and else only posts. -/
theorem retire_posted (c : Cmd) (f : CmdEnd) (s : State) : ∃ courts, Posted { s with
    sec.courts := courts
    cmd.cmds := s.cmd.cmds.filter (fun d => !(d.q == c.q && d.cid == c.cid))
    cmd.retireSeq := tblSet s.cmd.retireSeq (seqOwner s c) (nextSeq s (seqOwner s c)) } (retire c f s) := by
  refine ⟨(purgeOld c.q.owner { s with
    cmd.cmds := s.cmd.cmds.filter (fun d => !(d.q == c.q && d.cid == c.cid))
    cmd.retireSeq := tblSet s.cmd.retireSeq (seqOwner s c) (nextSeq s (seqOwner s c)) }).sec.courts, ?_⟩
  unfold retire
  dsimp only
  split
  · exact posted_modQueue c.q _ _
  split
  · split
    · exact (posted_modQueue c.q _ _).trans (posted_dropDeleted _ _)
    · exact ((posted_modQueue c.q _ _).trans (posted_postQueueFault _ _ _)).trans (posted_dropDeleted _ _)
  · exact (posted_modQueue c.q _ _).trans (posted_postCompl _ _ _)

end Sys2Proof.Machine

open Sys2Proof.Machine

/-- Settles O1, by the definition of a step on the two forms of the queue. -/
theorem stepRunsFront : Obligations.StepRunsFront := by
  unfold Obligations.StepRunsFront
  refine ⟨fun c rest s h => ?_, fun s h hrun => ?_, fun s h hrun => ?_⟩
  · simp only [step, h]
  · simp only [step, h, idle, hrun, if_true]
  · simp only [step, h, idle, hrun, Bool.false_eq_true, if_false]

/-- Settles O3, each value by evaluation of the state after reset. -/
theorem resetState : Obligations.ResetState := by
  unfold Obligations.ResetState
  refine ⟨rfl, rfl, rfl, rfl, rfl, rfl, fun n => ⟨rfl, rfl, fun f => ?_⟩, rfl, rfl, fun n => rfl, rfl⟩
  simp [modeBit, State.reset, tblGetD, tblGet, bit]

/-- Settles O4: after reset memory lists nothing, and there is no queue pair and no ring. -/
theorem resetInvariants : Obligations.ResetInvariants := by
  unfold Obligations.ResetInvariants
  refine ⟨rfl, ?_, ?_, ?_⟩ <;> exact fun p hp => absurd hp (by simp [State.reset])

/-- Settles O6: what is neither posted nor the retired command itself stands, field by field. -/
theorem retireFrame : Obligations.RetireFrame := by
  unfold Obligations.RetireFrame
  intro c f s
  obtain ⟨_, _, _, _, _, _, h⟩ := retire_posted c f s
  rw [h]
  exact ⟨rfl, rfl, rfl, rfl, rfl, rfl, rfl, rfl, rfl, rfl, rfl, rfl, rfl, by simp [tblGetD]⟩

end

section
/-! The rows of the host interface keep the positions of queues and rings below their depths (06 R179, R180). -/

namespace Sys2Proof.Machine

/-- A queue pair's positions lie below its depths. -/
def Queue.PositionsOk (t : Queue) : Prop :=
  t.sqTail < t.sqDepth ∧ t.sqHead < t.sqDepth ∧ t.cqHead < t.cqDepth ∧ t.cqWr < t.cqDepth

/-- An event ring's positions lie below its depth. -/
def EventRing.PositionsOk (r : EventRing) : Prop := r.head < r.depth ∧ r.wr < r.depth

/-- An assist ring's positions lie below its depth. -/
def AssistRing.PositionsOk (r : AssistRing) : Prop := r.head < r.depth ∧ r.wr < r.depth

/-- A property of every entry of a table survives a change of the one entry found at a key that has it afterwards. -/
theorem tblModify_all_of_get {α : Type} {P : α → Prop} {t : Tbl α} {k : Nat} {a : α} {f : α → α} (h : ∀ p ∈ t, P p.2)
    (hget : tblGet t k = some a) (hf : P (f a)) : ∀ p ∈ tblModify t k f, P p.2 := by
  induction t with
  | nil => simp [tblModify]
  | cons p t ih =>
    obtain ⟨i, b⟩ := p
    rw [List.forall_mem_cons] at h
    by_cases hk : k = i
    · obtain rfl : b = a := by simpa [tblGet, hk] using hget
      rw [tblModify, if_pos hk, List.forall_mem_cons]
      exact ⟨hf, h.2⟩
    · rw [tblModify, if_neg hk, List.forall_mem_cons]
      exact ⟨h.1, ih h.2 (by simpa [tblGet, hk] using hget)⟩

/-! ### What one change does to the positions -/

theorem positionsOk_queue {s : State} (h : positionsOk s) {q : QId} {t : Queue} (ht : queueOf s q = some t) :
    t.PositionsOk := h.1 _ (tblGet_mem ht)

theorem positionsOk_eventRing {s : State} (h : positionsOk s) {k : Nat} {r : EventRing}
    (hr : tblGet s.cmd.eventRings k = some r) : r.PositionsOk := h.2.1 _ (tblGet_mem hr)

theorem positionsOk_assistRing {s : State} (h : positionsOk s) {k : Nat} {r : AssistRing}
    (hr : tblGet s.cmd.assistRings k = some r) : r.PositionsOk := h.2.2 _ (tblGet_mem hr)

/-- Changing the queue pair found under a name so that its positions stay below its depths. -/
theorem modQueue_found_positions {s : State} (h : positionsOk s) {q : QId} {t : Queue} {f : Queue → Queue}
    (ht : queueOf s q = some t) (hf : (f t).PositionsOk) : positionsOk (modQueue q f s) :=
  ⟨tblModify_all_of_get (P := Queue.PositionsOk) h.1 ht hf, h.2.1, h.2.2⟩

theorem setQueue_positions {s : State} (h : positionsOk s) {k : Nat} {t : Queue} (ht : t.PositionsOk) :
    positionsOk { s with cmd.queues := tblSet s.cmd.queues k t } :=
  ⟨tblSet_all (P := Queue.PositionsOk) h.1 ht, h.2.1, h.2.2⟩

theorem setEventRing_entry_positions {s : State} (h : positionsOk s) {k : Nat} {r : EventRing} (hr : r.PositionsOk) :
    positionsOk { s with cmd.eventRings := tblSet s.cmd.eventRings k r } :=
  ⟨h.1, tblSet_all (P := EventRing.PositionsOk) h.2.1 hr, h.2.2⟩

theorem setAssistRing_entry_positions {s : State} (h : positionsOk s) {k : Nat} {r : AssistRing} (hr : r.PositionsOk) :
    positionsOk { s with cmd.assistRings := tblSet s.cmd.assistRings k r } :=
  ⟨h.1, h.2.1, tblSet_all (P := AssistRing.PositionsOk) h.2.2 hr⟩

/-- A new queue pair's positions are zero, and its depths are not. -/
theorem newQueue_positionsOk (via : FnId) (sqd cqd sqb cqb : Nat) (irq : Bool) (vec us cnt : Nat) :
    (newQueue via (sqd + 1) (cqd + 1) sqb cqb irq vec us cnt).PositionsOk :=
  ⟨Nat.succ_pos _, Nat.succ_pos _, Nat.succ_pos _, Nat.succ_pos _⟩

theorem value_lt_of_doorbellOk {w : DoorbellWrite} {depth : Nat} (h : doorbellOk w depth = true) : w.value < depth := by
  simp only [doorbellOk, Bool.and_eq_true, decide_eq_true_eq] at h
  exact h.2

/-! ### Doorbells (06 R178, R179) -/

theorem doorbellFault_positions {f : FnId} {owner qp : Nat} {s : State} (h : positionsOk s) :
    positionsOk (doorbellFault f owner qp s) := by
  unfold doorbellFault
  dsimp only
  split
  · exact h
  split
  · split
    · exact h
    · exact postQueueFault_positions h
  · exact postQueueFault_positions h

theorem execSqTailWrite_positions {via : FnId} {q : QId} {w : DoorbellWrite} {s t : State} (h : positionsOk s)
    (ht : execSqTailWrite via q w s = .next t) : positionsOk t := by
  cases ht
  split
  · exact h
  split
  · exact doorbellFault_positions h
  next u hu =>
    split
    · exact doorbellFault_positions h
    next hok =>
      simp only [not_or, Bool.not_eq_true', Bool.not_eq_false] at hok
      exact modQueue_found_positions h hu ⟨value_lt_of_doorbellOk hok.2, (positionsOk_queue h hu).2⟩

theorem execCqHeadWrite_positions {via : FnId} {q : QId} {w : DoorbellWrite} {s t : State} (h : positionsOk s)
    (ht : execCqHeadWrite via q w s = .next t) : positionsOk t := by
  cases ht
  split
  · exact h
  split
  · exact doorbellFault_positions h
  next u hu =>
    split
    · exact doorbellFault_positions h
    next hok =>
      simp only [not_or, Bool.not_eq_true', Bool.not_eq_false] at hok
      obtain ⟨htail, hhead, -, hwr⟩ := positionsOk_queue h hu
      exact drainAll_positions (modQueue_found_positions h hu ⟨htail, hhead, value_lt_of_doorbellOk hok.2.1, hwr⟩)

theorem execAssistHeadWrite_positions {via : FnId} {owner : Nat} {w : DoorbellWrite} {s t : State} (h : positionsOk s)
    (ht : execAssistHeadWrite via owner w s = .next t) : positionsOk t := by
  cases ht
  split
  · exact h
  split
  · exact doorbellFault_positions h
  next r hr =>
    split
    · exact doorbellFault_positions h
    next hok =>
      simp only [not_or, Bool.not_eq_true', Bool.not_eq_false] at hok
      exact pumpAssists_positions (setAssistRing_entry_positions h
        ⟨value_lt_of_doorbellOk hok.2.1, (positionsOk_assistRing h hr).2⟩)

theorem execEventHeadWrite_positions {via : FnId} {owner : Nat} {w : DoorbellWrite} {s t : State} (h : positionsOk s)
    (ht : execEventHeadWrite via owner w s = .next t) : positionsOk t := by
  cases ht
  split
  · exact h
  split
  · exact doorbellFault_positions h
  next r hr =>
    split
    · exact doorbellFault_positions h
    next hok =>
      simp only [not_or, Bool.not_eq_true', Bool.not_eq_false] at hok
      exact setEventRing_entry_positions h ⟨value_lt_of_doorbellOk hok.2.1, (positionsOk_eventRing h hr).2⟩

/-! ### The control window and interrupts (06 R181, R182, R191; 12 R399) -/

theorem execQ0Enable_positions {via : FnId} {v : Nat} {s t : State} (h : positionsOk s)
    (ht : execQ0Enable via v s = .next t) : positionsOk t := by
  cases ht
  split
  · exact h
  split
  · exact h
  dsimp only
  split
  · exact setQueue_positions (s := modFn via _ s) h (newQueue_positionsOk _ _ _ _ _ _ _ _ _)
  · exact h

theorem execQ0IrqConfig_positions {via : FnId} {v : Nat} {s t : State} (h : positionsOk s)
    (ht : execQ0IrqConfig via v s = .next t) : positionsOk t := by
  cases ht
  split
  · exact h
  split
  · exact h
  dsimp only
  split
  · exact modQueue_positions (s := modFn via _ s) h fun _ hq => hq
  · exact h

theorem execControlWindowWrite_positions {via : FnId} {off n v : Nat} {s t : State} (h : positionsOk s)
    (ht : execControlWindowWrite via off n v s = .next t) : positionsOk t := by
  cases ht
  (repeat' split) <;> exact h

theorem execMsixUnmask_positions {via : FnId} {v : Nat} {s t : State} (h : positionsOk s)
    (ht : execMsixUnmask via v s = .next t) : positionsOk t := by
  cases ht
  split
  · exact h
  split
  · exact h
  dsimp only
  split <;> exact h

theorem execCoalesceTimerExpiry_positions {q : QId} {s t : State} (h : positionsOk s)
    (ht : execCoalesceTimerExpiry q s = .next t) : positionsOk t := by
  cases ht
  split
  · exact h
  split
  · exact h
  split
  · exact h
  · exact raiseMsix_positions (modQueue_positions h fun _ hq => hq)

/-! ### Fetching an entry (06 R184, R189) -/

theorem fetchFailed_positions {q : QId} {t : Queue} {s : State} (h : positionsOk s) : positionsOk (fetchFailed q t s) :=
  postQueueFault_positions (modQueue_positions h fun _ hq => hq)

theorem rejectDuplicate_positions {c : Cmd} {s : State} (h : positionsOk s) : positionsOk (rejectDuplicate c s) :=
  postCompl_positions h

theorem execCommandFetch_positions {q : QId} {e pb : List Byte} {s t : State} (h : positionsOk s)
    (ht : execCommandFetch q e pb s = .next t) : positionsOk t := by
  cases ht
  split
  · exact h
  split
  · exact h
  split
  · exact fetchFailed_positions h
  next u hu _ _ =>
    obtain ⟨htail, hhead, hcq⟩ := positionsOk_queue h hu
    have hfetched : positionsOk (modQueue q (fun t => { t with
        sqHead := (t.sqHead + 1) % t.sqDepth, fetched := t.fetched + 1 }) s) :=
      modQueue_found_positions h hu ⟨htail, Nat.mod_lt _ (Nat.zero_lt_of_lt hhead), hcq⟩
    dsimp only
    split
    · exact rejectDuplicate_positions hfetched
    · exact hfetched

/-! ### Commands (06 R195, R211) -/

theorem writeReply_positions {c : Cmd} {lay : Nat} {f : CmdEnd} {s : State} (h : positionsOk s) :
    positionsOk (writeReply c lay f s).2 := by
  unfold writeReply
  split
  · exact h
  split
  · exact h
  dsimp only
  split <;> exact hostWrite_positions h

/-- A command row keeps what its body, a retirement, a reply and the start of a command keep. -/
theorem runCmd_keeps {P : State → Prop} (hstart : ∀ q cid f s, P s → P (modCmd q cid f s))
    (hreply : ∀ c n f s, P s → P (writeReply c n f s).2) (hretire : ∀ c f s, P s → P (retire c f s)) {op : Nat} {q : QId}
    {cid : Nat} {lay : Cmd → Nat} {rsv : List (Nat × Nat)} {body : Cmd → State → State × Did}
    (hbody : ∀ c s, P s → P (body c s).1) {s : State} (h : P s) : P (runCmd op q cid lay rsv body s) := by
  have hends (c : Cmd) (r : State × Did) : P r.1 → P (match r with
      | (s, .stay) => s
      | (s, .fin f) => retire c (writeReply c (lay c - 16) f s).1 (writeReply c (lay c - 16) f s).2) := by
    intro hr
    obtain ⟨s, f | _⟩ := r
    · exact hretire _ _ _ (hreply _ _ _ _ hr)
    · exact hr
  unfold runCmd
  split
  · exact h
  split
  · exact h
  split
  · exact hends _ _ (hbody _ _ h)
  split
  · exact h
  split
  · exact hretire _ _ _ h
  split
  · exact hretire _ _ _ h
  · exact hends _ _ (hbody _ _ (hstart _ _ _ _ h))

theorem runCmd_positions {op : Nat} {q : QId} {cid : Nat} {lay : Cmd → Nat} {rsv : List (Nat × Nat)}
    {body : Cmd → State → State × Did} {s : State} (hbody : ∀ c s, positionsOk s → positionsOk (body c s).1)
    (h : positionsOk s) : positionsOk (runCmd op q cid lay rsv body s) :=
  runCmd_keeps (fun _ _ _ _ hs => hs) (fun _ _ _ _ => writeReply_positions) (fun _ _ _ => retire_positions) hbody h

theorem createQpBody_positions (c : Cmd) (s : State) (h : positionsOk s) : positionsOk (createQpBody c s).1 := by
  unfold createQpBody
  split
  · exact h
  split
  · exact h
  · exact setQueue_positions h (newQueue_positionsOk _ _ _ _ _ _ _ _ _)

theorem setEventRing_positions {key : Nat} {via : FnId} {n vec base : Nat} {s : State} (h : positionsOk s) :
    positionsOk (setEventRing key via (n + 1) vec base s) :=
  foldl_keeps (P := positionsOk) (fun _ _ hs => putEvent_positions hs) _
    (setEventRing_entry_positions h ⟨Nat.succ_pos _, Nat.succ_pos _⟩)

theorem setAssistRing_positions {key : Nat} {via : FnId} {n vec base dbase dbytes : Nat} {s : State} (h : positionsOk s) :
    positionsOk (setAssistRing key via (n + 1) vec base dbase dbytes s) :=
  pumpAssists_positions (foldl_keeps (P := positionsOk) (fun _ _ hs => putAssist_positions hs) _
    (setAssistRing_entry_positions h ⟨Nat.succ_pos _, Nat.succ_pos _⟩))

theorem setRingBody_positions (c : Cmd) (s : State) (h : positionsOk s) : positionsOk (setRingBody c s).1 := by
  unfold setRingBody
  split
  · exact h
  dsimp only
  split
  · exact setEventRing_positions h
  · exact setAssistRing_positions h

theorem setModeBody_positions (c : Cmd) (s : State) (h : positionsOk s) : positionsOk (setModeBody c s).1 := by
  unfold setModeBody
  dsimp only
  split <;> exact h

end Sys2Proof.Machine

open Sys2Proof.Machine

/-- Settles O13: a step runs the row at the front of the queue, and each of the rows named keeps the positions. -/
theorem positionsKept : Obligations.PositionsKept := by
  unfold Obligations.PositionsKept
  intro i rest s t hpending h hrow hstep
  have hexec : exec i { s with pending := rest } = .next t := by simpa only [step, hpending] using hstep
  have hs : positionsOk { s with pending := rest } := h
  obtain (⟨via, q, w, rfl | rfl⟩ | ⟨via, o, w, rfl | rfl⟩ | ⟨via, off, n, v, rfl | rfl | rfl | rfl⟩ | ⟨q, e, pb, rfl | rfl⟩ |
    ⟨q, cid, rfl | rfl | rfl | rfl | rfl⟩) := hrow
  · exact execSqTailWrite_positions hs hexec
  · exact execCqHeadWrite_positions hs hexec
  · exact execAssistHeadWrite_positions hs hexec
  · exact execEventHeadWrite_positions hs hexec
  · exact execQ0Enable_positions hs hexec
  · exact execQ0IrqConfig_positions hs hexec
  · exact execControlWindowWrite_positions hs hexec
  · exact execMsixUnmask_positions hs hexec
  · exact execCommandFetch_positions hs hexec
  · exact execCoalesceTimerExpiry_positions hs hexec
  · cases hexec; exact runCmd_positions createQpBody_positions hs
  · cases hexec; exact runCmd_positions setRingBody_positions hs
  · cases hexec; exact runCmd_positions setModeBody_positions hs
  · cases hexec; exact runCmd_positions (fun _ _ h => h) hs
  · cases hexec; exact runCmd_positions (fun _ _ h => h) hs

end

section
/-! Every row answers a next state, but for a memory event at a place that the device does not have (04 R107, R128). -/

namespace Sys2Proof.Machine

theorem Answers.next (t : State) : Answers (.next t) := ⟨t, rfl⟩

/-- The Watch's settling leaves an answer an answer. -/
theorem Answers.watched {r : Res} (h : Answers r) : Answers (watched r) := by
  obtain ⟨t, rfl⟩ := h
  exact .next _

/-! ### Frames of collective groups (10 R337) -/

theorem execFormFrame_answers (s : State) : Answers (execFormFrame s) := by
  unfold execFormFrame
  (repeat' split) <;> exact .next _

theorem execLeaveFrame_answers (s : State) : Answers (execLeaveFrame s) := by
  unfold execLeaveFrame
  (repeat' split) <;> exact .next _

theorem execReduceFrame_answers (s : State) : Answers (execReduceFrame s) := by
  unfold execReduceFrame
  dsimp only
  (repeat' split) <;> exact .next _

theorem resultFrameRow_answers (mem : Findings) (s : State) : Answers (resultFrameRow mem s) := by
  unfold resultFrameRow
  dsimp only
  (repeat' split) <;> exact .next _

theorem execBroadcastFrame_answers (s : State) : Answers (execBroadcastFrame s) := by
  unfold execBroadcastFrame
  dsimp only
  (repeat' split) <;> exact .next _

theorem execVoteFrame_answers (s : State) : Answers (execVoteFrame s) := by
  unfold execVoteFrame
  (repeat' split) <;> exact .next _

theorem execOutcomeFrame_answers (s : State) : Answers (execOutcomeFrame s) := by
  unfold execOutcomeFrame
  (repeat' split) <;> exact .next _

theorem execRepairFrame_answers (s : State) : Answers (execRepairFrame s) := by
  unfold execRepairFrame
  (repeat' split) <;> exact .next _

/-! ### Training steps (09 R289; 10 R346, R348) -/

theorem execVoteCast_answers (court group : Nat) (s : State) : Answers (execVoteCast court group s) := by
  unfold execVoteCast
  dsimp only
  (repeat' split) <;> exact .next _

theorem execStepOpen_answers (court group : Nat) (s : State) : Answers (execStepOpen court group s) := by
  unfold execStepOpen
  dsimp only
  (repeat' split) <;> exact .next _

theorem execProgressTimeout_answers (court group : Nat) (s : State) : Answers (execProgressTimeout court group s) := by
  unfold execProgressTimeout
  dsimp only
  (repeat' split) <;> exact .next _

/-! ### Serving (08 R261, R276, R281) -/

theorem execStepBoundary_answers (batch : Nat) (heads : List (Nat × Option Nat)) (s : State) :
    Answers (execStepBoundary batch heads s) := by
  unfold execStepBoundary
  split <;> exact .next _

theorem parkCopyRow_answers (seq : Nat) (mem : Findings) (s : State) : Answers (parkCopyRow seq mem s) := by
  unfold parkCopyRow
  dsimp only
  (repeat' split) <;> exact .next _

theorem execReturnCopyComplete_answers (seq : Nat) (image : List Byte) (s : State) :
    Answers (execReturnCopyComplete seq image s) := by
  unfold execReturnCopyComplete
  dsimp only
  (repeat' split) <;> exact .next _

theorem execParkTtlExpiry_answers (seq : Nat) (s : State) : Answers (execParkTtlExpiry seq s) := by
  unfold execParkTtlExpiry
  (repeat' split) <;> exact .next _

theorem servingStepRow_answers (batch : Nat) (mem : Findings) (s : State) : Answers (servingStepRow batch mem s) := by
  unfold servingStepRow
  dsimp only
  (repeat' split) <;> exact .next _

/-! ### Memory events (04 R107, R124, R127, R128) -/

theorem scrubReadRow_of_lt {line : Nat} (h : line < dpaEnd) (found : Findings) (s : State) :
    Answers (scrubReadRow line found s) := by
  unfold scrubReadRow
  rw [if_neg (Nat.not_le.2 h)]
  split <;> exact .next _

theorem execEcsCounterRead_of_lt {slot : Nat} (h : slot < 384) (value : Nat) (s : State) :
    Answers (execEcsCounterRead slot value s) := by
  unfold execEcsCounterRead
  rw [if_neg (Nat.not_le.2 h)]
  split <;> exact .next _

theorem execChannelHardFail_of_lt {slot : Nat} (h : slot < 384) (s : State) : Answers (execChannelHardFail slot s) := by
  unfold execChannelHardFail
  rw [if_neg (Nat.not_le.2 h)]
  exact .next _

theorem execScrubRead_of_le {line : Nat} (h : dpaEnd ≤ line) (found : Findings) (s : State) :
    execScrubRead line found s = .fault .noSuchAddress := by
  simp [execScrubRead, scrubReadRow, h, watched]

theorem execEcsCounterRead_of_le {slot : Nat} (h : 384 ≤ slot) (value : Nat) (s : State) :
    execEcsCounterRead slot value s = .fault .noSuchAddress := if_pos h

theorem execChannelHardFail_of_le {slot : Nat} (h : 384 ≤ slot) (s : State) :
    execChannelHardFail slot s = .fault .noSuchAddress := if_pos h

end Sys2Proof.Machine

open Sys2Proof.Machine

/-- Settles O2: the rows that branch on what they find answer in every branch, the three that name a place answer exactly
where it exists, and every other row is a next state by its form. -/
theorem everyRowAnswers : Obligations.EveryRowAnswers := by
  unfold Obligations.EveryRowAnswers
  intro i s
  cases i with
  | formFrame => exact .inl (execFormFrame_answers s)
  | leaveFrame => exact .inl (execLeaveFrame_answers s)
  | reduceFrame => exact .inl (execReduceFrame_answers s)
  | resultFrame mem => exact .inl (resultFrameRow_answers mem s).watched
  | broadcastFrame => exact .inl (execBroadcastFrame_answers s)
  | voteFrame => exact .inl (execVoteFrame_answers s)
  | outcomeFrame => exact .inl (execOutcomeFrame_answers s)
  | repairFrame => exact .inl (execRepairFrame_answers s)
  | voteCast court group => exact .inl (execVoteCast_answers court group s)
  | stepOpen court group => exact .inl (execStepOpen_answers court group s)
  | progressTimeout court group => exact .inl (execProgressTimeout_answers court group s)
  | stepBoundary batch heads => exact .inl (execStepBoundary_answers batch heads s)
  | parkCopyComplete seq mem => exact .inl (parkCopyRow_answers seq mem s).watched
  | returnCopyComplete seq image => exact .inl (execReturnCopyComplete_answers seq image s)
  | parkTtlExpiry seq => exact .inl (execParkTtlExpiry_answers seq s)
  | servingStepRetire batch mem => exact .inl (servingStepRow_answers batch mem s).watched
  | scrubRead line found =>
    rcases Nat.lt_or_ge line dpaEnd with h | h
    · exact .inl (scrubReadRow_of_lt h found s).watched
    · exact .inr ⟨execScrubRead_of_le h found s, .inl ⟨line, found, rfl, h⟩⟩
  | ecsCounterRead slot value =>
    rcases Nat.lt_or_ge slot 384 with h | h
    · exact .inl (execEcsCounterRead_of_lt h value s)
    · exact .inr ⟨execEcsCounterRead_of_le h value s, .inr (.inl ⟨slot, value, rfl, h⟩)⟩
  | channelHardFail slot =>
    rcases Nat.lt_or_ge slot 384 with h | h
    · exact .inl (execChannelHardFail_of_lt h s)
    · exact .inr ⟨execChannelHardFail_of_le h s, .inr (.inr ⟨slot, rfl, h⟩)⟩
  | _ => exact .inl ⟨_, rfl⟩

end

section
/-! Every operation of the model keeps memory in its canonical form (04 R102): one lemma for each, in the order of the
model, each citing those of the operations it uses. -/

namespace Sys2Proof.Machine

/-- Memory is in its canonical form. -/
def MemOk (s : State) : Prop := Memory.wf (some 0#8) s.mem.hbm = true

/-- Where the row answers a next state, memory is in its canonical form there. -/
def ResOk (r : Res) : Prop := ∀ t, r = .next t → MemOk t

theorem ResOk.next {t : State} (h : MemOk t) : ResOk (.next t) := by
  rintro _ ⟨⟩
  exact h

theorem ResOk.fault (e : Fault) : ResOk (.fault e) := fun _ h => by cases h

theorem forUpto_keeps {σ : Type} {P : σ → Prop} {f : Nat → σ → σ} (hf : ∀ i s, P s → P (f i s)) {n : Nat} {s : σ} (h : P s) :
    P (forUpto n f s) :=
  foldl_keeps (fun s i hs => hf i s hs) _ h

/-! ### The operations on device memory (04 R102) -/

theorem hbmWrite_memOk {dpa : Nat} {bs : List Byte} {s : State} (h : MemOk s) : MemOk (hbmWrite dpa bs s) :=
  hbmWrite_wf h

theorem courtWrite_memOk {c : Court} {ca : Nat} {bs : List Byte} {s : State} (h : MemOk s) : MemOk (courtWrite c ca bs s) :=
  courtWrite_wf h

theorem clearGranule_memOk {G : Nat} {o : GranOwner} {conf : Bool} {s : State}
    (h : MemOk s) : MemOk (clearGranule G o conf s) :=
  clearGranule_wf h

theorem moveGranule_memOk {G H : Nat} {s : State} (h : MemOk s) : MemOk (moveGranule G H s) :=
  moveGranule_wf h

/-! ### Posting and retiring (06 R186 to R191, R208) -/

theorem MemOk.of_posted {s t : State} (h : MemOk s) (hp : Posted s t) : MemOk t := by
  obtain ⟨_, _, _, _, _, rfl⟩ := hp
  exact h

theorem raiseMsix_memOk {f : FnId} {v : Nat} {s : State} (h : MemOk s) : MemOk (raiseMsix f v s) :=
  h.of_posted (posted_raiseMsix f v s)

theorem hostWrite_memOk {f : FnId} {a : Nat} {bs : List Byte} {s : State} (h : MemOk s) : MemOk (hostWrite f a bs s) :=
  h.of_posted (posted_hostWrite f a bs s)

theorem putEvent_memOk {key source time : Nat} {rec : List Byte} {s : State} (h : MemOk s) :
    MemOk (putEvent key source time rec s) :=
  h.of_posted (posted_putEvent key source time rec s)

theorem postEvent_memOk {owner source : Nat} {rec : List Byte} {s : State} (h : MemOk s) :
    MemOk (postEvent owner source rec s) :=
  h.of_posted (posted_postEvent owner source rec s)

theorem postQueueFault_memOk {rec : List Byte} {court : Nat} {s : State} (h : MemOk s) :
    MemOk (postQueueFault rec court s) :=
  h.of_posted (posted_postQueueFault rec court s)

theorem drainAll_memOk {s : State} (h : MemOk s) : MemOk (drainAll s) := h.of_posted (posted_drainAll s)

theorem postCompl_memOk {q : QId} {c : Compl} {s : State} (h : MemOk s) : MemOk (postCompl q c s) :=
  h.of_posted (posted_postCompl q c s)

theorem dropDeleted_memOk {q : QId} {s : State} (h : MemOk s) : MemOk (dropDeleted q s) :=
  h.of_posted (posted_dropDeleted q s)

theorem retire_memOk {c : Cmd} {f : CmdEnd} {s : State} (h : MemOk s) : MemOk (retire c f s) := by
  obtain ⟨_, hp⟩ := retire_posted c f s
  refine MemOk.of_posted ?_ hp
  exact h

theorem writeReply_memOk {c : Cmd} {lay : Nat} {f : CmdEnd} {s : State} (h : MemOk s) {r : CmdEnd × State}
    (e : writeReply c lay f s = r) : MemOk r.2 := by
  subst e
  unfold writeReply
  split
  · exact h
  split
  · exact h
  dsimp only
  split <;> exact hostWrite_memOk h

theorem runCmd_memOk {op : Nat} {q : QId} {cid : Nat} {lay : Cmd → Nat} {rsv : List (Nat × Nat)}
    {body : Cmd → State → State × Did} {s : State} (hbody : ∀ c s, MemOk s → MemOk (body c s).1) (h : MemOk s) :
    MemOk (runCmd op q cid lay rsv body s) :=
  runCmd_keeps (P := MemOk) (fun _ _ _ _ hs => hs) (fun _ _ _ _ hs => writeReply_memOk hs rfl)
    (fun _ _ _ => retire_memOk) hbody h

theorem takeFree_memOk {s : State} (h : MemOk s) {r : Nat × State} (e : takeFree s = r) : MemOk r.2 := by
  subst e
  unfold takeFree
  exact h

theorem bumpFree_memOk {s : State} (h : MemOk s) : MemOk (bumpFree s) :=
  h

theorem emit_memOk {e : OutEv} {s : State} (h : MemOk s) : MemOk (emit e s) :=
  h

theorem markLastUse_memOk {dpa len : Nat} {s : State} (h : MemOk s) : MemOk (markLastUse dpa len s) :=
  forUpto_keeps (P := MemOk) (fun _ _ hs => by exact hs) h

theorem poisonLine_memOk {line : Nat} {s : State} (h : MemOk s) : MemOk (poisonLine line s) :=
  h

theorem modCourt_memOk {c : Nat} {f : Court → Court} {s : State} (h : MemOk s) : MemOk (modCourt c f s) :=
  h

theorem courtLastUse_memOk {c : Court} {ca len : Nat} {s : State} (h : MemOk s) : MemOk (courtLastUse c ca len s) := by
  refine forUpto_keeps (P := MemOk) (fun _ _ hs => ?_) h
  split
  · exact markLastUse_memOk hs
  · exact hs

theorem addCounts_memOk {c : Nat} {k : Counts} {s : State} (h : MemOk s) : MemOk (addCounts c k s) :=
  modCourt_memOk h

theorem modFn_memOk {f : FnId} {g : HostFn → HostFn} {s : State} (h : MemOk s) : MemOk (modFn f g s) :=
  h

theorem modQueue_memOk {q : QId} {f : Queue → Queue} {s : State} (h : MemOk s) : MemOk (modQueue q f s) :=
  h

theorem modCmd_memOk {q : QId} {cid : Nat} {f : Cmd → Cmd} {s : State} (h : MemOk s) : MemOk (modCmd q cid f s) :=
  h

theorem purgeOld_memOk {owner : Nat} {s : State} (h : MemOk s) : MemOk (purgeOld owner s) :=
  h

theorem interim_memOk {c : Cmd} {status : Nat} {result : List Byte} {s : State} (h : MemOk s) :
    MemOk (interim c status result s) := by
  unfold interim
  split
  · exact h
  · split
    · exact h
    · split
      · exact modCmd_memOk h
      · exact postCompl_memOk h

theorem storeWrite_memOk {b a : Nat} {bs : List Byte} {s : State} (h : MemOk s) : MemOk (storeWrite b a bs s) :=
  h

theorem storeZero_memOk {b : Nat} {s : State} (h : MemOk s) : MemOk (storeZero b s) :=
  h

theorem storeForget_memOk {b : Nat} {s : State} (h : MemOk s) : MemOk (storeForget b s) :=
  h

theorem placeWrite_memOk {x : Ctx} {p : Place} {disp : Nat} {bs : List Byte} {s : State} (h : MemOk s) :
    MemOk (placeWrite x p disp bs s) := by
  unfold placeWrite
  split
  · exact courtWrite_memOk h
  · exact storeWrite_memOk h
  · split
    · exact h
    · exact courtWrite_memOk h
  · exact h

theorem applyWrites_memOk {x : Ctx} {ws : List WoWrite} {s : State} (h : MemOk s) : MemOk (applyWrites x ws s) :=
  foldl_keeps (P := MemOk) (fun _ _ hs => placeWrite_memOk hs) _ h

theorem placeLastUse_memOk {x : Ctx} {p : Place} {disp len : Nat} {s : State} (h : MemOk s) :
    MemOk (placeLastUse x p disp len s) := by
  unfold placeLastUse
  split
  · exact h
  · split
    · exact courtLastUse_memOk h
    · split
      · exact h
      · exact courtLastUse_memOk h
    · exact h

theorem tensorLastUse_memOk {x : Ctx} {t : TRef} {n lo hi : Nat} {s : State} (h : MemOk s) :
    MemOk (tensorLastUse x t n lo hi s) := by
  unfold tensorLastUse
  split
  · exact h
  · exact forUpto_keeps (P := MemOk) (fun _ _ hs => foldl_keeps (P := MemOk) (fun _ _ hs => placeLastUse_memOk hs) _ hs) h

theorem modBlock_memOk {b : Nat} {f : Block → Block} {s : State} (h : MemOk s) : MemOk (modBlock b f s) :=
  h

theorem setUse_memOk {bs : List Nat} {u : BlockUse} {s : State} (h : MemOk s) : MemOk (setUse bs u s) :=
  foldl_keeps (P := MemOk) (fun _ _ hs => modBlock_memOk hs) _ h

theorem modRun_memOk {r : Nat} {f : Run → Run} {s : State} (h : MemOk s) : MemOk (modRun r f s) :=
  h

theorem modStream_memOk {r i : Nat} {f : RunStream → RunStream} {s : State} (h : MemOk s) : MemOk (modStream r i f s) :=
  modRun_memOk h

theorem semSet_memOk {cn i v : Nat} {s : State} (h : MemOk s) : MemOk (semSet cn i v s) :=
  modCourt_memOk h

theorem readyOne_memOk {r i : Nat} {s : State} (h : MemOk s) : MemOk (readyOne r i s) := by
  unfold readyOne
  split
  · exact h
  · split
    · exact h
    · dsimp only
      split
      · exact modStream_memOk h
      · split
        · exact modStream_memOk h
        · exact h

theorem readyAll_memOk {s : State} (h : MemOk s) : MemOk (readyAll s) :=
  foldl_keeps (P := MemOk) (fun _ _ hs => readyOne_memOk hs) _ h

theorem fenceIfDue_memOk {b : Nat} {s : State} (h : MemOk s) : MemOk (fenceIfDue b s) :=
  modBlock_memOk h

theorem releaseBlocks_memOk {bs : List Nat} {s : State} (h : MemOk s) : MemOk (releaseBlocks bs s) := by
  refine foldl_keeps (P := MemOk) (fun _ _ hs => ?_) _ h
  split
  · exact fenceIfDue_memOk (storeForget_memOk (setUse_memOk hs))
  · exact fenceIfDue_memOk (storeForget_memOk (setUse_memOk hs))
  · exact fenceIfDue_memOk (storeForget_memOk (setUse_memOk hs))
  · exact hs

theorem dispatchOne_memOk {r i : Nat} {s : State} (h : MemOk s) : MemOk (dispatchOne r i s) := by
  unfold dispatchOne
  split
  · exact h
  · split
    · exact h
    · dsimp only
      split
      · exact h
      · split
        · exact modStream_memOk h
        · split
          · split
            · exact h
            · split
              · split
                · exact setUse_memOk (modStream_memOk h)
                · exact h
              · split
                · exact setUse_memOk (modStream_memOk h)
                · exact h
          · split
            · exact h
            · split
              · exact setUse_memOk (modStream_memOk h)
              · split
                · split
                  · exact setUse_memOk (modStream_memOk (modStream_memOk (releaseBlocks_memOk h)))
                  · exact modStream_memOk (releaseBlocks_memOk h)
                · split
                  · exact setUse_memOk (modStream_memOk h)
                  · exact h

theorem settle_memOk {s : State} (h : MemOk s) : MemOk (settle s) := by
  unfold settle
  dsimp only
  exact foldl_keeps (P := MemOk) (fun _ _ hs => dispatchOne_memOk hs) _ (readyAll_memOk h)

theorem refVersion_memOk {handle v : Nat} {d : Int} {s : State} (h : MemOk s) : MemOk (refVersion handle v d s) := by
  unfold refVersion
  dsimp only
  exact h

theorem sweepHandle_memOk {handle : Nat} {s : State} (h : MemOk s) : MemOk (sweepHandle handle s) := by
  unfold sweepHandle
  dsimp only
  split
  · exact h
  · split
    · dsimp only [MemOk]
      exact h
    · exact h

theorem dropVersion_memOk {handle v : Nat} {s : State} (h : MemOk s) : MemOk (dropVersion handle v s) :=
  sweepHandle_memOk (refVersion_memOk h)

theorem modSlot_memOk {n : Nat} {f : ModelSlot → ModelSlot} {s : State} (h : MemOk s) : MemOk (modSlot n f s) :=
  h

theorem emptySlot_memOk {n : Nat} {s : State} (h : MemOk s) : MemOk (emptySlot n s) := by
  unfold emptySlot
  split
  · exact h
  · dsimp only
    dsimp only [MemOk]
    split
    · exact foldl_keeps (P := MemOk) (fun _ _ hs => clearGranule_memOk hs) _ h
    · exact h

theorem sweepSlots_memOk {s : State} (h : MemOk s) : MemOk (sweepSlots s) := by
  refine foldl_keeps (P := MemOk) (fun _ _ hs => ?_) _ h
  split
  · split
    · exact emptySlot_memOk hs
    · exact hs
  · exact hs

theorem refSlot_memOk {n : Nat} {d : Int} {s : State} (h : MemOk s) : MemOk (refSlot n d s) :=
  sweepSlots_memOk (modSlot_memOk h)

theorem addBackHeld_memOk {k : Run} {s : State} (h : MemOk s) : MemOk (addBackHeld k s) :=
  foldl_keeps (P := MemOk) (fun _ _ hs => foldl_keeps (P := MemOk) (fun _ _ hs => semSet_memOk hs) _ hs) _ h

theorem writeStatus_memOk {k : Run} {wo : List Byte} {w : WoResult} {pre : Bool} {s : State} (h : MemOk s) :
    MemOk (writeStatus k wo w pre s) := by
  unfold writeStatus
  split
  · split
    · exact courtWrite_memOk h
    · exact h
  · exact h

theorem withdrawStream_memOk {k : Run} {t : RunStream} {s : State} (h : MemOk s) : MemOk (withdrawStream k t s) := by
  unfold withdrawStream
  dsimp only
  split
  · exact releaseBlocks_memOk (writeStatus_memOk h)
  · exact releaseBlocks_memOk (writeStatus_memOk h)
  · exact releaseBlocks_memOk (writeStatus_memOk h)
  · exact releaseBlocks_memOk h

theorem dropRun_memOk {r : Nat} {s : State} (h : MemOk s) : MemOk (dropRun r s) := by
  unfold dropRun
  split
  · exact h
  · dsimp only
    split
    · split
      · refine foldl_keeps (P := MemOk) (fun _ _ hs => dropVersion_memOk hs) _ ?_
        dsimp only [MemOk]
        exact addBackHeld_memOk h
      · refine refSlot_memOk (foldl_keeps (P := MemOk) (fun _ _ hs => dropVersion_memOk hs) _ ?_)
        dsimp only [MemOk]
        exact addBackHeld_memOk h
    · dsimp only [MemOk]
      exact addBackHeld_memOk h

theorem endRun_memOk {r code stream seq : Nat} {s : State} (h : MemOk s) : MemOk (endRun r code stream seq s) := by
  unfold endRun
  split
  · exact h
  · dsimp only
    split
    · split
      · exact dropRun_memOk h
      · split
        · exact retire_memOk (dropRun_memOk h)
        · exact retire_memOk (dropRun_memOk h)
    · dsimp only [MemOk]
      exact dropRun_memOk h

theorem withdrawAll_memOk {r : Nat} {except : Option Nat} {s : State} (h : MemOk s) : MemOk (withdrawAll r except s) := by
  unfold withdrawAll
  split
  · exact h
  · exact foldl_keeps (P := MemOk) (fun _ _ hs => withdrawStream_memOk hs) _ h

theorem semAdd_memOk {cn i n : Nat} {s t : State} (h : MemOk s) (e : semAdd cn i n s = some t) : MemOk t := by
  unfold semAdd at e
  dsimp only at e
  split at e
  · cases e
  · cases e
    exact semSet_memOk h

theorem signal_memOk {k : Run} {wo : List Byte} {s t : State} (h : MemOk s) (e : signal k wo s = some t) : MemOk t := by
  unfold signal at e
  split at e
  · cases e
    exact h
  · exact semAdd_memOk h e

theorem serveWaiter_memOk {w : Nat × Nat × Nat} {s : State} (h : MemOk s) : MemOk (serveWaiter w s) := by
  unfold serveWaiter
  split
  · exact h
  · dsimp only
    split
    · exact h
    · refine modStream_memOk ?_
      dsimp only [MemOk]
      exact semSet_memOk h

theorem serveWaiters_memOk {s : State} (h : MemOk s) : MemOk (serveWaiters s) :=
  forUpto_keeps (P := MemOk) (fun _ _ hs => foldl_keeps (P := MemOk) (fun _ _ hs => serveWaiter_memOk hs) _ hs) h

theorem abortRun_memOk {r : Nat} {s : State} (h : MemOk s) : MemOk (abortRun r s) :=
  settle_memOk (serveWaiters_memOk (dropRun_memOk (withdrawAll_memOk h)))

theorem preempt_memOk {r i : Nat} {s : State} (h : MemOk s) : MemOk (preempt r i s) := by
  unfold preempt
  split
  · exact h
  · exact setUse_memOk h

theorem failPart_memOk {r seq code : Nat} {s : State} (h : MemOk s) : MemOk (failPart r seq code s) :=
  h

theorem settlePart_memOk {r : Nat} {t : RunStream} {w : WoResult} {s : State} (h : MemOk s) {z : WoResult × State}
    (e : settlePart r t w s = z) : MemOk z.2 := by
  subst e
  unfold settlePart
  split
  · exact h
  · split
    · exact h
    · exact failPart_memOk h

theorem retireWo_memOk {r i : Nat} {s : State} (h : MemOk s) : MemOk (retireWo r i s) := by
  unfold retireWo
  split
  · exact h
  split
  · extract_lets wo pw w s1 p w2 s2 keep s3 chain s4 s5 s6 s7
    have h1 : MemOk s1 := settlePart_memOk h rfl
    have hp : MemOk p.1 := by
      dsimp only [p]
      split
      · split
        next heq => exact signal_memOk h1 heq
        · exact h1
      · exact h1
    have h3 : MemOk s3 := by
      dsimp only [s3]
      split
      · exact writeStatus_memOk hp
      split
      · exact setUse_memOk (writeStatus_memOk hp)
      · exact releaseBlocks_memOk (writeStatus_memOk hp)
    have h6 : MemOk s6 := serveWaiters_memOk (modStream_memOk (modRun_memOk h3))
    split
    · exact settle_memOk (serveWaiters_memOk (endRun_memOk (withdrawAll_memOk (releaseBlocks_memOk h3))))
    split
    · exact settle_memOk h6
    split
    · exact settle_memOk (serveWaiters_memOk (endRun_memOk
        (foldl_keeps (P := MemOk) (fun _ _ hs => releaseBlocks_memOk hs) _ h6)))
    · refine settle_memOk ?_
      split
      · exact preempt_memOk (readyAll_memOk h6)
      · exact readyAll_memOk h6
  · exact h

theorem faultStream_memOk {r i code : Nat} {s : State} (h : MemOk s) : MemOk (faultStream r i code s) := by
  unfold faultStream
  split
  · exact h
  · split
    · exact h
    · dsimp only
      exact retireWo_memOk (modStream_memOk h)

theorem finishWo_memOk {r i : Nat} {w : WoResult} {s : State} (h : MemOk s) : MemOk (finishWo r i w s) :=
  modStream_memOk h

theorem takeRun_memOk {o : RunOwner} {s : State} (h : MemOk s) {r : Nat × State} (e : takeRun s o = some r) : MemOk r.2 := by
  unfold takeRun at e
  split at e
  · cases e
  · cases e
    exact h

theorem execDeviceInfo_memOk {q : QId} {cid : Nat} {s : State} (h : MemOk s) : ResOk (execDeviceInfo q cid s) :=
  .next (runCmd_memOk (fun _ _ hs => hs) h)

theorem createQpBody_memOk {c : Cmd} {s : State} (h : MemOk s) {r : State × Did} (e : createQpBody c s = r) : MemOk r.1 := by
  subst e
  unfold createQpBody
  split
  · exact h
  · split
    · exact h
    · dsimp only
      exact h

theorem execCreateQueuePair_memOk {q : QId} {cid : Nat} {s : State} (h : MemOk s) : ResOk (execCreateQueuePair q cid s) :=
  .next (runCmd_memOk (fun _ _ hs => createQpBody_memOk hs rfl) h)

theorem setEventRing_memOk {key : Nat} {via : FnId} {depth vec base : Nat} {s : State} (h : MemOk s) :
    MemOk (setEventRing key via depth vec base s) := by
  unfold setEventRing
  dsimp only
  exact foldl_keeps (P := MemOk) (fun _ _ hs => putEvent_memOk hs) _ h

theorem putAssist_memOk {key : Nat} {r : AssistRec} {s : State} (h : MemOk s) : MemOk (putAssist key r s) := by
  unfold putAssist
  split
  · exact h
  · split
    · exact h
    · dsimp only
      refine raiseMsix_memOk ?_
      dsimp only [MemOk]
      refine hostWrite_memOk ?_
      split
      · exact hostWrite_memOk h
      · exact h

theorem pumpAssists_memOk {row : Nat} {s : State} (h : MemOk s) : MemOk (pumpAssists row s) := by
  unfold pumpAssists
  split
  · exact h
  · exact foldl_keeps (P := MemOk) (fun _ _ hs => putAssist_memOk hs) _ h

theorem askHost_memOk {row func : Nat} {data plain : List Byte} {purpose : AssistPurpose} {s : State} (h : MemOk s)
    {r : Bool × State}
    (e : askHost row func data plain purpose s = r) : MemOk r.2 := by
  subst e
  unfold askHost
  split
  · exact postQueueFault_memOk h
  · dsimp only
    exact pumpAssists_memOk h

theorem setAssistRing_memOk {key : Nat} {via : FnId} {depth vec base dbase dbytes : Nat} {s : State} (h : MemOk s) :
    MemOk (setAssistRing key via depth vec base dbase dbytes s) := by
  unfold setAssistRing
  dsimp only
  exact pumpAssists_memOk (foldl_keeps (P := MemOk) (fun _ _ hs => putAssist_memOk hs) _ h)

theorem setRingBody_memOk {c : Cmd} {s : State} (h : MemOk s) {r : State × Did} (e : setRingBody c s = r) : MemOk r.1 := by
  subst e
  unfold setRingBody
  split
  · exact h
  · dsimp only
    split
    · exact setEventRing_memOk h
    · exact setAssistRing_memOk h

theorem execSetRing_memOk {q : QId} {cid : Nat} {s : State} (h : MemOk s) : ResOk (execSetRing q cid s) :=
  .next (runCmd_memOk (fun _ _ hs => setRingBody_memOk hs rfl) h)

theorem setModeBody_memOk {c : Cmd} {s : State} (h : MemOk s) {r : State × Did} (e : setModeBody c s = r) : MemOk r.1 := by
  subst e
  unfold setModeBody
  dsimp only
  split
  · exact h
  · dsimp only
    exact h

theorem execSetFunctionMode_memOk {q : QId} {cid : Nat} {s : State} (h : MemOk s) : ResOk (execSetFunctionMode q cid s) :=
  .next (runCmd_memOk (fun _ _ hs => setModeBody_memOk hs rfl) h)

theorem execInvalidOpcodeCommand_memOk {q : QId} {cid : Nat} {s : State} (h : MemOk s) :
    ResOk (execInvalidOpcodeCommand q cid s) := by
  refine .next ?_
  split
  · exact h
  · split
    · exact retire_memOk h
    · exact h

theorem doorbellFault_memOk {f : FnId} {owner qp : Nat} {s : State} (h : MemOk s) : MemOk (doorbellFault f owner qp s) := by
  unfold doorbellFault
  split
  · exact h
  · dsimp only
    split
    · split
      · exact modFn_memOk (modFn_memOk h)
      · exact postQueueFault_memOk (modFn_memOk (modFn_memOk h))
    · exact postQueueFault_memOk (modFn_memOk (modFn_memOk h))

theorem execSqTailWrite_memOk {via : FnId} {q : QId} {wr : DoorbellWrite} {s : State} (h : MemOk s) :
    ResOk (execSqTailWrite via q wr s) := by
  refine .next ?_
  split
  · exact h
  · split
    · exact doorbellFault_memOk h
    · split
      · exact doorbellFault_memOk h
      · exact modQueue_memOk h

theorem execCqHeadWrite_memOk {via : FnId} {q : QId} {wr : DoorbellWrite} {s : State} (h : MemOk s) :
    ResOk (execCqHeadWrite via q wr s) := by
  refine .next ?_
  split
  · exact h
  · split
    · exact doorbellFault_memOk h
    · split
      · exact doorbellFault_memOk h
      · exact drainAll_memOk (modQueue_memOk h)

theorem execAssistHeadWrite_memOk {via : FnId} {owner : Nat} {wr : DoorbellWrite} {s : State} (h : MemOk s) :
    ResOk (execAssistHeadWrite via owner wr s) := by
  unfold execAssistHeadWrite
  dsimp only
  refine .next ?_
  split
  · exact h
  · split
    · exact doorbellFault_memOk h
    · split
      · exact doorbellFault_memOk h
      · exact pumpAssists_memOk h

theorem execEventHeadWrite_memOk {via : FnId} {owner : Nat} {wr : DoorbellWrite} {s : State} (h : MemOk s) :
    ResOk (execEventHeadWrite via owner wr s) := by
  unfold execEventHeadWrite
  dsimp only
  refine .next ?_
  split
  · exact h
  · split
    · exact doorbellFault_memOk h
    · split
      · exact doorbellFault_memOk h
      · exact h

theorem execQ0Enable_memOk {via : FnId} {value : Nat} {s : State} (h : MemOk s) : ResOk (execQ0Enable via value s) := by
  refine .next ?_
  split
  · exact h
  · split
    · exact h
    · dsimp only
      split
      · refine modFn_memOk ?_
        dsimp only [MemOk]
        exact modFn_memOk h
      · exact modFn_memOk (modFn_memOk h)

theorem execQ0IrqConfig_memOk {via : FnId} {value : Nat} {s : State} (h : MemOk s) :
    ResOk (execQ0IrqConfig via value s) := by
  refine .next ?_
  split
  · exact h
  · split
    · exact h
    · dsimp only
      split
      · exact modQueue_memOk (modFn_memOk h)
      · exact modFn_memOk h

theorem execControlWindowWrite_memOk {via : FnId} {off width value : Nat} {s : State} (h : MemOk s) :
    ResOk (execControlWindowWrite via off width value s) := by
  refine .next ?_
  split
  · exact h
  · split
    · exact h
    · split
      · exact modFn_memOk h
      · split
        · exact modFn_memOk h
        · split
          · exact modFn_memOk h
          · exact h

theorem execMsixUnmask_memOk {via : FnId} {vector : Nat} {s : State} (h : MemOk s) :
    ResOk (execMsixUnmask via vector s) := by
  refine .next ?_
  split
  · exact h
  · split
    · exact h
    · dsimp only
      split
      · exact emit_memOk (modFn_memOk (modFn_memOk h))
      · exact modFn_memOk h

theorem rejectDuplicate_memOk {c : Cmd} {s : State} (h : MemOk s) : MemOk (rejectDuplicate c s) := by
  unfold rejectDuplicate
  dsimp only
  exact postCompl_memOk h

theorem fetchFailed_memOk {q : QId} {t : Queue} {s : State} (h : MemOk s) : MemOk (fetchFailed q t s) :=
  postQueueFault_memOk (modQueue_memOk h)

theorem execCommandFetch_memOk {q : QId} {entry pb : List Byte} {s : State} (h : MemOk s) :
    ResOk (execCommandFetch q entry pb s) := by
  refine .next ?_
  split
  · exact h
  · split
    · exact h
    · split
      · exact fetchFailed_memOk h
      · dsimp only
        split
        · exact rejectDuplicate_memOk (modQueue_memOk h)
        · dsimp only [MemOk]
          exact modQueue_memOk h

theorem execCoalesceTimerExpiry_memOk {q : QId} {s : State} (h : MemOk s) : ResOk (execCoalesceTimerExpiry q s) := by
  refine .next ?_
  split
  · exact h
  · split
    · exact h
    · split
      · exact h
      · exact raiseMsix_memOk (modQueue_memOk h)

theorem draw_memOk {n : Nat} {s : State} (h : MemOk s) {r : List Byte × State} (e : draw n s = r) : MemOk r.2 := by
  subst e
  unfold draw
  exact h

theorem makeBak_memOk {f : FwImage} {s : State} (h : MemOk s) : MemOk (makeBak f s) := by
  unfold makeBak
  dsimp only
  dsimp only [MemOk]
  exact draw_memOk (draw_memOk h rfl) rfl

theorem destroyKeys_memOk {c : Nat} {s : State} (h : MemOk s) : MemOk (destroyKeys c s) :=
  h

theorem freshKeys_memOk {c : Nat} {s : State} (h : MemOk s) : MemOk (freshKeys c s) := by
  unfold freshKeys
  dsimp only
  dsimp only [MemOk]
  exact draw_memOk (draw_memOk h rfl) rfl

theorem modTransport_memOk {c id : Nat} {f : TransportKey → TransportKey} {s : State} (h : MemOk s) :
    MemOk (modTransport c id f s) := by
  unfold modTransport
  dsimp only
  exact h

theorem postSec_memOk {type court die av count detail : Nat} {s : State} (h : MemOk s) :
    MemOk (postSec type court die av count detail s) := by
  unfold postSec
  dsimp only
  split
  · exact postEvent_memOk (postEvent_memOk h)
  · exact postEvent_memOk h

theorem postSecLimited_memOk {type court die av detail : Nat} {s : State} (h : MemOk s) :
    MemOk (postSecLimited type court die av detail s) := by
  unfold postSecLimited
  dsimp only
  split
  · exact postSec_memOk h
  · split
    · exact h
    · exact postSec_memOk h

theorem sealFail_memOk {court purpose chunk : Nat} {s : State} (h : MemOk s) : MemOk (sealFail court purpose chunk s) :=
  postSecLimited_memOk h

theorem sealHost_memOk {c kt purpose binding : Nat} {plain : List Byte} {s : State} (h : MemOk s) {r : List Byte × State}
    (e : sealHost c kt purpose binding plain s = r) : MemOk r.2 := by
  subst e
  unfold sealHost
  split
  · exact h
  · exact modTransport_memOk h

theorem sealColdObj_memOk {c binding : Nat} {plain : List Byte} {s : State} (h : MemOk s) {r : List Byte × State}
    (e : sealColdObj c binding plain s = r) : MemOk r.2 := by
  subst e
  unfold sealColdObj
  split
  · exact h
  · dsimp only
    dsimp only [MemOk]
    exact draw_memOk h rfl

theorem ask_memOk {row func : Nat} {data : List Byte} {purpose : AssistPurpose} {s : State} (h : MemOk s) {r : Bool × State}
    (e : ask row func data purpose s = r) : MemOk r.2 := by
  subst e
  unfold ask
  split
  · dsimp only
    exact askHost_memOk (sealHost_memOk h rfl) rfl
  · exact askHost_memOk h rfl

theorem modDie_memOk {n : Nat} {f : Die → Die} {s : State} (h : MemOk s) : MemOk (modDie n f s) :=
  h

theorem postAge_memOk {r : AgeRec} {s : State} (h : MemOk s) : MemOk (postAge r s) := by
  unfold postAge
  dsimp only
  split
  · exact postEvent_memOk (postEvent_memOk (bumpFree_memOk h))
  · exact postEvent_memOk (bumpFree_memOk h)

theorem postBlockFault_memOk {b check : Nat} {s : State} (h : MemOk s) : MemOk (postBlockFault b check s) := by
  unfold postBlockFault
  split
  · exact h
  · dsimp only
    split
    · exact postAge_memOk (modBlock_memOk h)
    · split
      · exact modBlock_memOk h
      · exact postAge_memOk (modBlock_memOk h)

theorem postClock_memOk {type die : Nat} {ppm : Option Int} {s : State} (h : MemOk s) : MemOk (postClock type die ppm s) :=
  postEvent_memOk h

theorem rwRetire_memOk {s : State} (h : MemOk s) : MemOk (rwRetire s) := by
  refine foldl_keeps (P := MemOk) (fun _ _ hs => ?_) _ h
  extract_lets
  split
  · exact hs
  · exact retire_memOk hs

theorem rwEnd_memOk {b how : Nat} {s : State} (h : MemOk s) : MemOk (rwEnd b how s) :=
  rwRetire_memOk h

theorem abandonSlice_memOk {b cause : Nat} {s : State} (h : MemOk s) : MemOk (abandonSlice b cause s) := by
  unfold abandonSlice
  split
  · exact h
  · split
    · exact h
    · dsimp only
      exact rwEnd_memOk (postAge_memOk (modBlock_memOk (storeZero_memOk h)))

theorem evacuate_memOk {b : Nat} {why : EvacWhy} {s : State} (h : MemOk s) : MemOk (evacuate b why s) := by
  unfold evacuate
  dsimp only
  split
  · split
    · exact preempt_memOk (modBlock_memOk h)
    · exact modBlock_memOk h
  · exact fenceIfDue_memOk (modBlock_memOk h)
  · exact modBlock_memOk h

theorem breakPair_memOk {b : Nat} {s : State} (h : MemOk s) : MemOk (breakPair b s) := by
  unfold breakPair
  split
  · exact h
  · split
    · split
      · split
        · exact faultStream_memOk h
        · exact h
      · exact h
    · split
      · split
        · exact faultStream_memOk h
        · exact h
      · exact h
    · exact h

theorem retireBlock_memOk {b : Nat} {s : State} (h : MemOk s) : MemOk (retireBlock b s) := by
  unfold retireBlock
  split
  · exact h
  · split
    · dsimp only
      refine postAge_memOk (modDie_memOk ?_)
      dsimp only [MemOk]
      exact modBlock_memOk (storeZero_memOk h)
    · exact h

theorem leaveService_memOk {b : Nat} {s : State} (h : MemOk s) : MemOk (leaveService b s) := by
  unfold leaveService
  dsimp only
  split
  · exact retireBlock_memOk (modBlock_memOk h)
  · exact modBlock_memOk h

theorem swapIn_memOk {old spare : Nat} {s : State} (h : MemOk s) : MemOk (swapIn old spare s) := by
  unfold swapIn
  split
  · exact h
  · split
    · dsimp only
      exact postAge_memOk (modDie_memOk (modBlock_memOk (storeZero_memOk (modBlock_memOk (storeZero_memOk h)))))
    · exact h

theorem recordMeas_memOk {n : Nat} {m : Meas} {s : State} (h : MemOk s) : MemOk (recordMeas n m s) := by
  unfold recordMeas
  dsimp only
  split
  · exact foldl_keeps (P := MemOk) (fun _ _ hs => modBlock_memOk hs) _ h
  · exact modDie_memOk (foldl_keeps (P := MemOk) (fun _ _ hs => modBlock_memOk hs) _ h)

theorem beginChange_memOk {n : Nat} {c : Margin} {s : State} (h : MemOk s) : MemOk (beginChange n c s) := by
  unfold beginChange
  split
  · split
    · exact modDie_memOk h
    · exact emit_memOk (modDie_memOk h)
  · exact evacuate_memOk (modDie_memOk h)
  · split
    · exact modDie_memOk h
    · exact modDie_memOk h

theorem startWaiting_memOk {s : State} (h : MemOk s) : MemOk (startWaiting s) := by
  refine foldl_keeps (P := MemOk) (fun _ _ hs => ?_) _ h
  split
  · exact hs
  · split
    · exact beginChange_memOk hs
    · exact beginChange_memOk hs
    · exact hs

theorem clearSlice_memOk {n : Nat} {c : Margin} {s : State} (h : MemOk s) : MemOk (clearSlice n c s) := by
  unfold clearSlice
  split
  · exact h
  · exact settle_memOk (abandonSlice_memOk h)
  · exact h

theorem ordinary_memOk {n : Nat} {c : Margin} {s : State} (h : MemOk s) : MemOk (ordinary n c s) :=
  beginChange_memOk (modDie_memOk h)

theorem proposeOrdinary_memOk {n : Nat} {d : Die} {c : Margin} {s : State} (h : MemOk s) :
    MemOk (proposeOrdinary n d c s) := by
  unfold proposeOrdinary
  split
  · exact h
  · split
    · dsimp only
      split
      next heq => exact modDie_memOk (ask_memOk (bumpFree_memOk h) heq)
      next heq => exact ordinary_memOk (ask_memOk (bumpFree_memOk h) heq)
    · exact ordinary_memOk h

theorem decideMargin_memOk {n : Nat} {s : State} (h : MemOk s) : MemOk (decideMargin n s) := by
  unfold decideMargin
  split
  · exact h
  · split
    · exact modDie_memOk h
    · dsimp only
      split
      · split
        · exact breakPair_memOk (modDie_memOk h)
        · exact h
      · exact h
      · exact h
      · split
        · exact postAge_memOk (modDie_memOk h)
        · split
          · split
            · exact breakPair_memOk (beginChange_memOk (clearSlice_memOk (modDie_memOk h)))
            · exact beginChange_memOk (clearSlice_memOk (modDie_memOk h))
          · split
            · exact proposeOrdinary_memOk (modDie_memOk h)
            · exact modDie_memOk h

theorem measureDie_memOk {n : Nat} {m : Meas} {s : State} (h : MemOk s) : MemOk (measureDie n m s) := by
  unfold measureDie
  split
  · exact decideMargin_memOk (recordMeas_memOk h)
  · exact h

theorem marginReply_memOk {n kind to_ : Nat} {refuse : Bool} {s : State} (h : MemOk s) :
    MemOk (marginReply n kind to_ refuse s) := by
  unfold marginReply
  split
  · exact h
  · dsimp only
    split
    · exact modDie_memOk h
    · split
      · exact modDie_memOk h
      · split
        · exact settle_memOk (ordinary_memOk (modDie_memOk h))
        · exact modDie_memOk h

theorem execSurveyMeasure_memOk {die : Nat} {meas : Meas} {s : State} (h : MemOk s) :
    ResOk (execSurveyMeasure die meas s) := by
  refine .next ?_
  split
  · exact h
  · split
    · exact h
    · exact settle_memOk (measureDie_memOk h)

theorem execAvsRailConfirm_memOk {die : Nat} {read : Option Nat} {meas : Meas} {s : State} (h : MemOk s) :
    ResOk (execAvsRailConfirm die read meas s) := by
  refine .next ?_
  split
  · exact h
  · split
    · split
      · exact h
      · split
        · dsimp only
          exact settle_memOk (measureDie_memOk (startWaiting_memOk (postAge_memOk (modDie_memOk h))))
        · split
          · exact emit_memOk (modDie_memOk h)
          · dsimp only
            exact startWaiting_memOk (postAge_memOk (modDie_memOk h))
    · exact h

theorem execClockGlideComplete_memOk {die : Nat} {meas : Meas} {s : State} (h : MemOk s) :
    ResOk (execClockGlideComplete die meas s) := by
  refine .next ?_
  split
  · exact h
  · split
    · split
      · exact h
      · dsimp only
        exact settle_memOk (measureDie_memOk (postAge_memOk (modDie_memOk h)))
    · exact h

theorem execSpareSwap_memOk {block : Nat} {meas : Meas} {s : State} (h : MemOk s) : ResOk (execSpareSwap block meas s) := by
  unfold execSpareSwap
  dsimp only
  refine .next ?_
  split
  · exact h
  · split
    · exact h
    · split
      · split
        · exact settle_memOk (measureDie_memOk (swapIn_memOk h))
        · exact h
      · split
        · exact settle_memOk (retireBlock_memOk h)
        · exact settle_memOk (modDie_memOk (modBlock_memOk h))

theorem startSlice_memOk {b : Nat} {s : State} (h : MemOk s) : MemOk (startSlice b s) := by
  unfold startSlice
  split
  · exact modBlock_memOk h
  · exact evacuate_memOk h

theorem proposeSlice_memOk {b court : Nat} {k : Block} {s : State} (h : MemOk s) : MemOk (proposeSlice b court k s) := by
  unfold proposeSlice
  split
  next heq => exact modBlock_memOk (ask_memOk h heq)
  next heq => exact modBlock_memOk (ask_memOk h heq)

theorem decideDue_memOk {l : List Nat} {s : State} (h : MemOk s) : MemOk (decideDue l s) := by
  induction l generalizing s with
  | nil => exact h
  | cons b t ih =>
    unfold decideDue
    split
    · exact startSlice_memOk h
    · exact ih (proposeSlice_memOk h)
    · exact ih h

theorem execRoadworksDecision_memOk {die : Nat} {look : SliceCheck} {s : State} (h : MemOk s) :
    ResOk (execRoadworksDecision die look s) := by
  refine .next ?_
  split
  · exact h
  · split
    · exact h
    · refine settle_memOk ?_
      split
      · exact startSlice_memOk h
      · exact decideDue_memOk h

theorem roadReply_memOk {b disp start : Nat} {s : State} (h : MemOk s) : MemOk (roadReply b disp start s) :=
  modBlock_memOk h

theorem slicePassed_memOk {b result rows : Nat} {s : State} (h : MemOk s) : MemOk (slicePassed b result rows s) := by
  unfold slicePassed
  dsimp only
  split
  · exact postAge_memOk (modBlock_memOk (storeZero_memOk h))
  · exact modBlock_memOk (storeZero_memOk h)

theorem sliceFailed_memOk {b result : Nat} {s : State} (h : MemOk s) : MemOk (sliceFailed b result s) := by
  unfold sliceFailed
  dsimp only
  split
  · exact leaveService_memOk (postAge_memOk (modBlock_memOk (storeZero_memOk h)))
  · exact postAge_memOk (modBlock_memOk (postAge_memOk (modBlock_memOk (storeZero_memOk h))))

theorem execSliceComplete_memOk {block result rows : Nat} {meas : Meas} {s : State} (h : MemOk s) :
    ResOk (execSliceComplete block result rows meas s) := by
  refine .next ?_
  split
  · exact h
  · dsimp only
    refine settle_memOk (decideMargin_memOk (startWaiting_memOk (rwEnd_memOk ?_)))
    split
    · exact slicePassed_memOk (recordMeas_memOk h)
    · exact sliceFailed_memOk (recordMeas_memOk h)

theorem execSliceAbandon_memOk {block : Nat} {s : State} (h : MemOk s) : ResOk (execSliceAbandon block s) := by
  refine .next ?_
  split
  · exact settle_memOk (startWaiting_memOk (abandonSlice_memOk h))
  · exact h

theorem execVisitLapsed_memOk {block : Nat} {s : State} (h : MemOk s) : ResOk (execVisitLapsed block s) := by
  refine .next ?_
  split
  · exact h
  · split
    · exact h
    · exact postAge_memOk (modBlock_memOk h)

theorem isolate_memOk {b : Nat} {s : State} (h : MemOk s) : MemOk (isolate b s) :=
  storeForget_memOk (modBlock_memOk h)

theorem tripCheck_memOk {b check : Nat} {k : Block} {s : State} (h : MemOk s) : MemOk (tripCheck b check k s) := by
  unfold tripCheck
  extract_lets recent s1 s2 s3 s4
  have h2 : MemOk s2 := isolate_memOk (modBlock_memOk (postBlockFault_memOk h))
  have h3 : MemOk s3 := by
    dsimp only [s3]
    split
    · exact faultStream_memOk h2
    · exact faultStream_memOk h2
    · exact faultStream_memOk h2
    · exact h2
  refine settle_memOk ?_
  dsimp only [s4]
  split
  · exact h3
  split
  · exact leaveService_memOk h3
  · exact modBlock_memOk h3

theorem tripFixes_memOk {b : Nat} {s : State} (h : MemOk s) : MemOk (tripFixes b s) := by
  unfold tripFixes
  dsimp only
  exact evacuate_memOk (postBlockFault_memOk (modBlock_memOk h))

theorem execBlockFault_memOk {block check : Nat} {s : State} (h : MemOk s) : ResOk (execBlockFault block check s) := by
  refine .next ?_
  split
  · exact h
  · split
    · exact h
    · split
      · exact tripCheck_memOk h
      · split
        · exact settle_memOk (tripFixes_memOk h)
        · exact h

theorem execBlockWatchdogTrip_memOk {block : Nat} {s : State} (h : MemOk s) : ResOk (execBlockWatchdogTrip block s) := by
  refine .next ?_
  split
  · exact h
  · split
    · split
      · exact tripCheck_memOk h
      · exact h
    · exact h

theorem runRoadworksBody_memOk {c : Cmd} {s : State} (h : MemOk s) {r : State × Did}
    (e : runRoadworksBody c s = r) : MemOk r.1 := by
  subst e
  unfold runRoadworksBody
  split
  · exact h
  · exact h
  · exact h

theorem execRunRoadworks_memOk {q : QId} {cid : Nat} {s : State} (h : MemOk s) : ResOk (execRunRoadworks q cid s) := by
  refine .next ?_
  split
  · exact h
  · split
    · exact h
    · exact runCmd_memOk (fun _ _ hs => runRoadworksBody_memOk hs rfl) h

theorem accrue_memOk {s : State} (h : MemOk s) : MemOk (accrue s) := by
  unfold accrue
  dsimp only
  exact h

theorem openInterval_memOk {device fatal : Bool} {s : State} (h : MemOk s) : MemOk (openInterval device fatal s) := by
  unfold openInterval
  dsimp only
  dsimp only [MemOk]
  exact accrue_memOk h

theorem closeInterval_memOk {s : State} (h : MemOk s) : MemOk (closeInterval s) := by
  unfold closeInterval
  dsimp only
  dsimp only [MemOk]
  exact accrue_memOk h

theorem execAvailabilityHourlyWrite_memOk {s : State} (h : MemOk s) : ResOk (execAvailabilityHourlyWrite s) := by
  refine .next ?_
  dsimp only
  dsimp only [MemOk]
  exact accrue_memOk h

theorem execReadSurvey_memOk {q : QId} {cid : Nat} {s : State} (h : MemOk s) : ResOk (execReadSurvey q cid s) :=
  .next (runCmd_memOk (fun _ _ hs => hs) h)

theorem getCourtKeyBody_memOk {c : Cmd} {s : State} (h : MemOk s) {r : State × Did}
    (e : getCourtKeyBody c s = r) : MemOk r.1 := by
  subst e
  unfold getCourtKeyBody
  split
  · exact h
  · exact h

theorem execGetCourtKey_memOk {q : QId} {cid : Nat} {s : State} (h : MemOk s) : ResOk (execGetCourtKey q cid s) :=
  .next (runCmd_memOk (fun _ _ hs => getCourtKeyBody_memOk hs rfl) h)

theorem installTransport_memOk {c : Nat} {key nonce : List Byte} {s : State} (h : MemOk s) :
    MemOk (installTransport c key nonce s) :=
  purgeOld_memOk h

theorem installBody_memOk {c : Cmd} {s : State} (h : MemOk s) {r : State × Did} (e : installBody c s = r) : MemOk r.1 := by
  subst e
  unfold installBody
  dsimp only
  split
  · exact h
  · split
    · exact h
    · split
      · exact h
      · split
        · exact h
        · split
          · exact h
          · split
            · exact h
            · split
              · exact h
              · split
                · dsimp only
                  exact installTransport_memOk (draw_memOk h rfl)
                · exact h

theorem removeKeyBody_memOk {c : Cmd} {s : State} (h : MemOk s) {r : State × Did}
    (e : removeKeyBody c s = r) : MemOk r.1 := by
  subst e
  unfold removeKeyBody
  dsimp only
  split
  · exact h
  · split
    · exact h
    · split
      · exact h
      · split
        · exact h
        · split
          · exact h
          · exact h

theorem execInstallWrappedKeyInstall_memOk {q : QId} {cid : Nat} {s : State} (h : MemOk s) :
    ResOk (execInstallWrappedKeyInstall q cid s) := by
  refine .next ?_
  split
  · exact runCmd_memOk (fun _ _ hs => installBody_memOk hs rfl) h
  · exact h

theorem execInstallWrappedKeyRemove_memOk {q : QId} {cid : Nat} {s : State} (h : MemOk s) :
    ResOk (execInstallWrappedKeyRemove q cid s) := by
  refine .next ?_
  split
  · exact runCmd_memOk (fun _ _ hs => removeKeyBody_memOk hs rfl) h
  · exact h

theorem signerBody_memOk {c : Cmd} {s : State} (h : MemOk s) {r : State × Did} (e : signerBody c s = r) : MemOk r.1 := by
  subst e
  unfold signerBody
  dsimp only
  split
  · exact h
  · split
    · exact h
    · split
      · split
        · exact h
        · split
          · exact h
          · exact h
      · split
        · exact h
        · exact h

theorem execRegisterSignerAdd_memOk {q : QId} {cid : Nat} {s : State} (h : MemOk s) :
    ResOk (execRegisterSignerAdd q cid s) := by
  refine .next ?_
  split
  · exact runCmd_memOk (fun _ _ hs => signerBody_memOk hs rfl) h
  · exact h

theorem execRegisterSignerRemove_memOk {q : QId} {cid : Nat} {s : State} (h : MemOk s) :
    ResOk (execRegisterSignerRemove q cid s) := by
  refine .next ?_
  split
  · exact runCmd_memOk (fun _ _ hs => signerBody_memOk hs rfl) h
  · exact h

theorem attestBody_memOk {c : Cmd} {s : State} (h : MemOk s) {r : State × Did} (e : attestBody c s = r) : MemOk r.1 := by
  subst e
  unfold attestBody
  extract_lets court
  split
  · exact h
  split
  · exact h
  split
  · exact h
  split
  · exact h
  split
  · exact h
  split
  · exact h
  split <;> exact h

theorem execAttest_memOk {q : QId} {cid : Nat} {s : State} (h : MemOk s) : ResOk (execAttest q cid s) :=
  .next (runCmd_memOk (fun _ _ hs => attestBody_memOk hs rfl) h)

theorem setFatal_memOk {device : Bool} {s : State} (h : MemOk s) : MemOk (setFatal device s) := by
  unfold setFatal
  split
  · exact h
  · dsimp only
    dsimp only [MemOk]
    exact openInterval_memOk h

theorem execRefclkSwitch_memOk {die : Nat} {ppm : Option Int} {s : State} (h : MemOk s) :
    ResOk (execRefclkSwitch die ppm s) := by
  refine .next ?_
  split
  · exact h
  · exact postClock_memOk h

theorem execRefclkBothLost_memOk {die : Nat} {ppm : Option Int} {s : State} (h : MemOk s) :
    ResOk (execRefclkBothLost die ppm s) := by
  refine .next ?_
  split
  · exact h
  · exact setFatal_memOk (postClock_memOk h)

theorem execJunctionRefLost_memOk {die : Nat} {ppm : Option Int} {s : State} (h : MemOk s) :
    ResOk (execJunctionRefLost die ppm s) := by
  refine .next ?_
  split
  · exact h
  · exact setFatal_memOk (postClock_memOk h)

theorem execPllUnlock_memOk {die : Nat} {s : State} (h : MemOk s) : ResOk (execPllUnlock die s) := by
  refine .next ?_
  split
  · exact h
  · exact postClock_memOk h

theorem execFatalDieFault_memOk {die : Nat} {s : State} (h : MemOk s) : ResOk (execFatalDieFault die s) := by
  refine .next ?_
  split
  · exact h
  · exact setFatal_memOk h

theorem execDieLinkLaneRepair_memOk {s : State} (h : MemOk s) : ResOk (execDieLinkLaneRepair s) := by
  refine .next ?_
  split
  · exact h
  · exact h

theorem noteExcursion_memOk {mw : Nat} {s : State} (h : MemOk s) : MemOk (noteExcursion mw s) := by
  unfold noteExcursion
  split
  · split
    · exact h
    · exact h
  · split
    · exact h
    · exact h

theorem execPowerMeasure_memOk {mw : Nat} {s : State} (h : MemOk s) : ResOk (execPowerMeasure mw s) := by
  refine .next ?_
  split
  · exact h
  extract_lets _ s1 s2
  have h2 : MemOk s2 := noteExcursion_memOk h
  split
  · exact h2
  split <;> exact h2

theorem execPwrbrkAssert_memOk {s : State} (h : MemOk s) : ResOk (execPwrbrkAssert s) := by
  refine .next ?_
  split
  · exact h
  · exact h

theorem execPwrbrkDeassert_memOk {s : State} (h : MemOk s) : ResOk (execPwrbrkDeassert s) := by
  refine .next ?_
  split
  · exact h
  · exact h

theorem thermalRespond_memOk {reads : List (Nat × F32)} {s : State} (h : MemOk s) : MemOk (thermalRespond reads s) := by
  unfold thermalRespond
  dsimp only
  exact h

theorem storeSensors_memOk {reads : List (Nat × F32)} {s : State} (h : MemOk s) : MemOk (storeSensors reads s) := by
  unfold storeSensors
  dsimp only
  dsimp only [MemOk]
  exact h

theorem execReadSensors_memOk {q : QId} {cid : Nat} {s : State} (h : MemOk s) : ResOk (execReadSensors q cid s) :=
  .next (runCmd_memOk (fun _ _ hs => hs) h)

theorem execThermalTrip_memOk {die : Nat} {s : State} (h : MemOk s) : ResOk (execThermalTrip die s) := by
  refine .next ?_
  split
  · exact h
  · dsimp only
    dsimp only [MemOk]
    exact setFatal_memOk h

theorem execStatusSample_memOk {s : State} (h : MemOk s) : ResOk (execStatusSample s) := by
  refine .next ?_
  split
  · exact h
  · exact h

theorem tapRefuse_memOk {s : State} (h : MemOk s) : MemOk (tapRefuse s) :=
  postSecLimited_memOk h

theorem tapGuard_memOk {f : State → State} {s : State} (hf : ∀ s, MemOk s → MemOk (f s)) (h : MemOk s) :
    MemOk (tapGuard f s) := by
  unfold tapGuard
  split
  · exact tapRefuse_memOk h
  · exact hf _ h

theorem execTapBypass_memOk {s : State} (h : MemOk s) : ResOk (execTapBypass s) :=
  .next (emit_memOk h)

theorem execTapIdcode_memOk {s : State} (h : MemOk s) : ResOk (execTapIdcode s) :=
  .next (emit_memOk h)

theorem tapScan_memOk {ir pins shift : Nat} {s : State} (h : MemOk s) : MemOk (tapScan ir pins shift s) :=
  emit_memOk h

theorem execTapSamplePreload_memOk {pins shift : Nat} {s : State} (h : MemOk s) :
    ResOk (execTapSamplePreload pins shift s) :=
  .next (tapScan_memOk h)

theorem execTapExtest_memOk {pins shift : Nat} {s : State} (h : MemOk s) : ResOk (execTapExtest pins shift s) :=
  .next (tapGuard_memOk (fun _ hs => tapScan_memOk hs) h)

theorem execTapClamp_memOk {s : State} (h : MemOk s) : ResOk (execTapClamp s) :=
  .next (tapGuard_memOk (fun _ hs => emit_memOk hs) h)

theorem execTapHighz_memOk {s : State} (h : MemOk s) : ResOk (execTapHighz s) :=
  .next (tapGuard_memOk (fun _ hs => emit_memOk hs) h)

theorem execTapPrivate_memOk {ir : Nat} {s : State} (h : MemOk s) : ResOk (execTapPrivate ir s) :=
  .next (tapGuard_memOk (fun _ hs => hs) h)

theorem coldReset_memOk {s : State} (h : MemOk s) : MemOk (coldReset s) := by
  unfold coldReset
  dsimp only
  dsimp only [MemOk]
  exact rfl

theorem execPowerOn_memOk {s : State} (h : MemOk s) : ResOk (execPowerOn s) := by
  refine .next ?_
  split
  · exact h
  · exact coldReset_memOk h

theorem execPowerLoss_memOk {s : State} (h : MemOk s) : ResOk (execPowerLoss s) := by
  refine .next ?_
  split
  · exact h
  · dsimp only
    dsimp only [MemOk]
    exact coldReset_memOk h

theorem execVddIoLoss_memOk {s : State} (h : MemOk s) : ResOk (execVddIoLoss s) :=
  .next h

theorem execPerstAssert_memOk {s : State} (h : MemOk s) : ResOk (execPerstAssert s) := by
  refine .next ?_
  split
  · exact h
  · dsimp only
    refine coldReset_memOk ?_
    dsimp only [MemOk]
    split
    · exact accrue_memOk h
    · exact openInterval_memOk h

theorem sampleStraps_memOk {p : Straps} {s : State} (h : MemOk s) : MemOk (sampleStraps p s) := by
  unfold sampleStraps
  dsimp only
  exact h

theorem stopBoot_memOk {stage : Nat} {device : Bool} {s : State} (h : MemOk s) : MemOk (stopBoot stage device s) :=
  setFatal_memOk h

theorem bootPower_memOk {s : State} (h : MemOk s) : MemOk (bootPower s) := by
  unfold bootPower
  dsimp only
  exact foldl_keeps (P := MemOk) (fun _ _ hs => emit_memOk hs) _ h

theorem bootMemory_memOk {mapped : List Nat} {s : State} (h : MemOk s) : MemOk (bootMemory mapped s) := by
  unfold bootMemory
  dsimp only [MemOk]
  exact rfl

theorem bootSlice_memOk {r : Nat × Nat × Nat} {s : State} (h : MemOk s) : MemOk (bootSlice r s) := by
  unfold bootSlice
  split
  · exact h
  · split
    · exact h
    · split
      · exact slicePassed_memOk h
      · exact h

theorem bootFail_memOk {r : Nat × Nat × Nat} {s : State} (h : MemOk s) : MemOk (bootFail r s) := by
  unfold bootFail
  split
  · exact h
  · split
    · exact h
    · dsimp only
      split
      · split
        · exact swapIn_memOk (sliceFailed_memOk h)
        · exact sliceFailed_memOk h
      · exact sliceFailed_memOk h

theorem bootBlocks_memOk {finds : BootFinds} {s : State} (h : MemOk s) : MemOk (bootBlocks finds s) := by
  unfold bootBlocks
  dsimp only
  refine foldl_keeps (P := MemOk) (fun _ _ hs => ?_) _ (foldl_keeps (P := MemOk) (fun _ _ hs => bootFail_memOk hs) _
    (foldl_keeps (P := MemOk) (fun _ _ hs => ?_) _ (foldl_keeps (P := MemOk) (fun _ _ hs => bootSlice_memOk hs) _ h)))
  · split
    · exact decideMargin_memOk hs
    · exact hs
  · split
    · exact recordMeas_memOk hs
    · exact hs

theorem bootAvenues_memOk {s : State} (h : MemOk s) : MemOk (bootAvenues s) :=
  h

theorem finishBoot_memOk {s : State} (h : MemOk s) : MemOk (finishBoot s) := by
  unfold finishBoot
  dsimp only
  split
  · exact closeInterval_memOk h
  · exact h

theorem enterFabric_memOk {s : State} (h : MemOk s) : MemOk (enterFabric s) := by
  unfold enterFabric
  dsimp only
  split
  · exact finishBoot_memOk h
  · exact h

theorem fabricCheck_memOk {s : State} (h : MemOk s) : MemOk (fabricCheck s) := by
  unfold fabricCheck
  split
  · exact finishBoot_memOk h
  · exact h

theorem bootSquares_memOk {finds : BootFinds} {bak : Bool} {s t : State} (h : MemOk s)
    (e : bootSquares finds bak s = some t) : MemOk t := by
  unfold bootSquares at e
  split at e
  · cases e
  split at e
  · cases e
  · cases e
    split
    · exact makeBak_memOk h
    · exact h

theorem bootFrom_memOk {finds : BootFinds} {cold : Bool} {mapped : List Nat} {s : State} (h : MemOk s) :
    MemOk (bootFrom finds cold mapped s) := by
  unfold bootFrom
  split
  · split
    · exact stopBoot_memOk h
    · split
      · exact stopBoot_memOk h
      next heq => exact stopBoot_memOk (bootSquares_memOk h heq)
  · split
    · exact stopBoot_memOk h
    next heq =>
      dsimp only
      split
      · exact bootMemory_memOk (bootPower_memOk (bootSquares_memOk h heq))
      · split
        · exact stopBoot_memOk (bootMemory_memOk (bootPower_memOk (bootSquares_memOk h heq)))
        · refine enterFabric_memOk ?_
          split
          · exact bootAvenues_memOk (bootBlocks_memOk (bootMemory_memOk (bootPower_memOk (bootSquares_memOk h heq))))
          · exact bootBlocks_memOk (bootMemory_memOk (bootPower_memOk (bootSquares_memOk h heq)))

theorem execPerstDeassert_memOk {straps : Straps} {finds : BootFinds} {s : State} (h : MemOk s) :
    ResOk (execPerstDeassert straps finds s) := by
  refine .next ?_
  split
  · exact h
  · split
    · exact h
    · dsimp only
      split
      · exact stopBoot_memOk (sampleStraps_memOk h)
      · exact bootFrom_memOk (sampleStraps_memOk h)

theorem execBootFabricTimeout_memOk {s : State} (h : MemOk s) : ResOk (execBootFabricTimeout s) := by
  refine .next ?_
  split
  · exact finishBoot_memOk h
  · exact h

theorem warmClear_memOk {s : State} (h : MemOk s) : MemOk (warmClear s) := by
  unfold warmClear
  dsimp only
  exact h

theorem warmReset_memOk {finds : BootFinds} {s : State} (h : MemOk s) : MemOk (warmReset finds s) := by
  unfold warmReset
  dsimp only
  dsimp only [MemOk]
  exact bootFrom_memOk (warmClear_memOk (openInterval_memOk h))

theorem execSquareHeartbeat_memOk {s : State} (h : MemOk s) : ResOk (execSquareHeartbeat s) := by
  refine .next ?_
  split
  · exact h
  · exact h

theorem execSquareTimeSync_memOk {s : State} (h : MemOk s) : ResOk (execSquareTimeSync s) := by
  refine .next ?_
  split
  · exact h
  · exact h

theorem takeoverDrops_memOk {s : State} (h : MemOk s) : MemOk (takeoverDrops s) := by
  unfold takeoverDrops
  dsimp only
  dsimp only [MemOk]
  exact foldl_keeps (P := MemOk) (fun _ _ hs => abandonSlice_memOk hs) _ h

theorem changeActive_memOk {drift : Int} {s : State} (h : MemOk s) : MemOk (changeActive drift s) :=
  h

theorem retireAct_memOk {a : Activation} {f : CmdEnd} {s : State} (h : MemOk s) : MemOk (retireAct a f s) := by
  unfold retireAct
  dsimp only
  split
  · exact h
  · exact retire_memOk h

theorem failWindow_memOk {a : Activation} {s : State} (h : MemOk s) : MemOk (failWindow a s) := by
  unfold failWindow
  dsimp only
  refine retireAct_memOk ?_
  split
  · dsimp only [MemOk]
    exact closeInterval_memOk h
  · exact closeInterval_memOk h

theorem endTakeover_memOk {s : State} (h : MemOk s) : MemOk (endTakeover s) :=
  settle_memOk (startWaiting_memOk (takeoverDrops_memOk (closeInterval_memOk h)))

theorem execSquareTakeover_memOk {drift : Int} {check : Bool} {s : State} (h : MemOk s) :
    ResOk (execSquareTakeover drift check s) := by
  refine .next ?_
  split
  · exact h
  · split
    · split
      · split
        · exact failWindow_memOk h
        · split
          · exact h
          · dsimp only
            split
            · dsimp only [MemOk]
              exact endTakeover_memOk (changeActive_memOk h)
            · exact retireAct_memOk (endTakeover_memOk (changeActive_memOk h))
      · exact endTakeover_memOk h
    · exact endTakeover_memOk h
    · split
      · exact h
      · split
        · exact setFatal_memOk h
        · split
          · exact h
          · refine openInterval_memOk ?_
            dsimp only [MemOk]
            exact changeActive_memOk h

theorem failPrepare_memOk {a : Activation} {s : State} (h : MemOk s) : MemOk (failPrepare a s) :=
  retireAct_memOk h

theorem execStandbyResyncComplete_memOk {s : State} (h : MemOk s) : ResOk (execStandbyResyncComplete s) := by
  refine .next ?_
  split
  · exact h
  · dsimp only
    split
    · split
      · split
        · exact failPrepare_memOk h
        · refine openInterval_memOk ?_
          dsimp only [MemOk]
          exact h
      · dsimp only [MemOk]
        exact h
    · dsimp only [MemOk]
      exact h

theorem execStandbySquareFailure_memOk {s : State} (h : MemOk s) : ResOk (execStandbySquareFailure s) := by
  refine .next ?_
  split
  · exact h
  · split
    · split
      · exact failPrepare_memOk h
      · exact failWindow_memOk h
      · exact retireAct_memOk h
      · exact h
    · exact h

theorem execFirmwareCommit_memOk {s : State} (h : MemOk s) : ResOk (execFirmwareCommit s) := by
  refine .next ?_
  split
  · exact h
  · split
    · split
      · exact retireAct_memOk h
      · exact h
    · exact h

theorem emptyStaging_memOk {s : State} (h : MemOk s) : MemOk (emptyStaging s) :=
  h

theorem stageBody_memOk {image : List Byte} {whole : Bool} {c : Cmd} {s : State} (h : MemOk s) {r : State × Did}
    (e : stageBody image whole c s = r) : MemOk r.1 := by
  subst e
  unfold stageBody
  split
  · exact h
  · dsimp only
    split
    · exact emptyStaging_memOk (modCmd_memOk h)
    · split
      · exact emptyStaging_memOk (modCmd_memOk h)
      · split
        · exact emptyStaging_memOk (modCmd_memOk h)
        · split
          · exact emptyStaging_memOk (modCmd_memOk h)
          · dsimp only
            dsimp only [MemOk]
            exact emptyStaging_memOk (modCmd_memOk h)

theorem execStageFirmware_memOk {q : QId} {cid : Nat} {image : List Byte} {whole : Bool} {s : State} (h : MemOk s) :
    ResOk (execStageFirmware q cid image whole s) :=
  .next (runCmd_memOk (fun _ _ hs => stageBody_memOk hs rfl) h)

theorem activateHotBody_memOk {c : Cmd} {s : State} (h : MemOk s) {r : State × Did}
    (e : activateHotBody c s = r) : MemOk r.1 := by
  subst e
  unfold activateHotBody
  split
  · exact h
  · split
    · exact h
    · exact h

theorem execActivateFirmwareHot_memOk {q : QId} {cid : Nat} {s : State} (h : MemOk s) :
    ResOk (execActivateFirmwareHot q cid s) := by
  refine .next ?_
  split
  · exact runCmd_memOk (fun _ _ hs => activateHotBody_memOk hs rfl) h
  · exact h

theorem activateWarmBody_memOk {c : Cmd} {s : State} (h : MemOk s) {r : State × Did}
    (e : activateWarmBody c s = r) : MemOk r.1 := by
  subst e
  unfold activateWarmBody
  split
  · exact h
  · exact h

theorem warmFinish_memOk {a : Activation} {finds : BootFinds} {s : State} (h : MemOk s) : MemOk (warmFinish a finds s) := by
  unfold warmFinish
  dsimp only
  exact warmReset_memOk (retireAct_memOk h)

theorem execActivateFirmwareWarm_memOk {q : QId} {cid : Nat} {finds : BootFinds} {s : State} (h : MemOk s) :
    ResOk (execActivateFirmwareWarm q cid finds s) := by
  unfold execActivateFirmwareWarm
  extract_lets s1
  have h1 : MemOk s1 := by
    dsimp only [s1]
    split
    · exact runCmd_memOk (fun _ _ hs => activateWarmBody_memOk hs rfl) h
    · exact h
  refine .next ?_
  split
  · split
    · exact warmFinish_memOk h1
    · exact h1
  · exact h1

theorem handoverBody_memOk {c : Cmd} {s : State} (h : MemOk s) {r : State × Did} (e : handoverBody c s = r) : MemOk r.1 := by
  subst e
  unfold handoverBody
  split
  · exact h
  · split
    · exact h
    · exact openInterval_memOk h

theorem execHandover_memOk {q : QId} {cid : Nat} {s : State} (h : MemOk s) : ResOk (execHandover q cid s) := by
  refine .next ?_
  split
  · exact runCmd_memOk (fun _ _ hs => handoverBody_memOk hs rfl) h
  · exact h

theorem handoverQueryBody_memOk {x : Cmd} {s : State} (h : MemOk s) {r : State × Did}
    (e : handoverQueryBody x s = r) : MemOk r.1 := by
  subst e
  unfold handoverQueryBody
  exact h

theorem execHandoverQuery_memOk {q : QId} {cid : Nat} {s : State} (h : MemOk s) : ResOk (execHandoverQuery q cid s) := by
  refine .next ?_
  split
  · exact runCmd_memOk (fun _ _ hs => handoverQueryBody_memOk hs rfl) h
  · exact h

theorem modAv_memOk {a : Nat} {f : Avenue → Avenue} {s : State} (h : MemOk s) : MemOk (modAv a f s) :=
  h

theorem postAv_memOk {type a lane count : Nat} {s : State} (h : MemOk s) : MemOk (postAv type a lane count s) := by
  unfold postAv
  split
  · exact h
  · exact postEvent_memOk h

theorem postAvLimited_memOk {type a : Nat} {s : State} (h : MemOk s) : MemOk (postAvLimited type a s) := by
  unfold postAvLimited
  split
  · exact h
  · dsimp only
    split
    · exact postAv_memOk (modAv_memOk h)
    · split
      · exact modAv_memOk h
      · exact postAv_memOk (modAv_memOk h)

theorem sendRaw_memOk {tc court dest : Nat} {came : Option (Nat × Nat)} {m : List Byte} {s : State} (h : MemOk s)
    {r : Option Nat × State}
    (e : sendRaw tc court dest came m s = r) : MemOk r.2 := by
  subst e
  unfold sendRaw
  split
  · exact h
  · split
    · exact h
    · split
      · exact postAvLimited_memOk (modAv_memOk h)
      · exact modAv_memOk h

theorem sendMsg_memOk {tc court dest : Nat} {came : Option (Nat × Nat)} {m : List Byte} {s : State} (h : MemOk s) :
    MemOk (sendMsg tc court dest came m s) := by
  unfold sendMsg
  split
  next heq => exact sendRaw_memOk h heq
  next heq =>
    split
    · exact sendRaw_memOk (sendRaw_memOk h heq) rfl
    · exact sendRaw_memOk h heq

theorem sendFlit_memOk {a type vc dest seq first : Nat} {payload : List Byte} {s : State} (h : MemOk s) :
    MemOk (sendFlit a type vc dest seq first payload s) := by
  unfold sendFlit
  split
  · exact h
  · dsimp only
    exact emit_memOk (modAv_memOk h)

theorem sendControl_memOk {a kind p : Nat} {s : State} (h : MemOk s) : MemOk (sendControl a kind p s) := by
  unfold sendControl
  split
  · exact h
  · split
    · exact sendFlit_memOk h
    · exact h

theorem sendIdle_memOk {a : Nat} {s : State} (h : MemOk s) : MemOk (sendIdle a s) := by
  unfold sendIdle
  split
  · exact h
  · split
    · exact sendFlit_memOk h
    · exact h

theorem sendNext_memOk {a : Nat} {s : State} (h : MemOk s) : MemOk (sendNext a s) := by
  unfold sendNext
  split
  · exact h
  · split
    · exact h
    · split
      · exact h
      · dsimp only
        split
        · exact h
        · exact sendFlit_memOk (modAv_memOk h)

theorem pump_memOk {a : Nat} {s : State} (h : MemOk s) : MemOk (pump a s) := by
  unfold pump
  split
  · exact h
  · exact forUpto_keeps (P := MemOk) (fun _ _ hs => sendNext_memOk hs) h

theorem pumpAll_memOk {s : State} (h : MemOk s) : MemOk (pumpAll s) :=
  forUpto_keeps (P := MemOk) (fun _ _ hs => pump_memOk hs) h

theorem post_memOk {tc court dest : Nat} {m : List Byte} {s : State} (h : MemOk s) : MemOk (post tc court dest m s) :=
  pumpAll_memOk (sendMsg_memOk h)

theorem retrain_memOk {a : Nat} {s : State} (h : MemOk s) : MemOk (retrain a s) :=
  postAv_memOk (modAv_memOk h)

theorem avDown_memOk {a : Nat} {s : State} (h : MemOk s) : MemOk (avDown a s) :=
  postAv_memOk (modAv_memOk h)

theorem replayFrom_memOk {a seq : Nat} {s : State} (h : MemOk s) : MemOk (replayFrom a seq s) := by
  unfold replayFrom
  split
  · exact h
  extract_lets fl n s1
  split
  · exact h
  split
  · exact retrain_memOk (postAv_memOk (modAv_memOk (modAv_memOk h)))
  · refine foldl_keeps (P := MemOk) (fun _ _ hs => ?_) _ (modAv_memOk h)
    split
    · exact hs
    split
    · exact sendFlit_memOk (modAv_memOk hs)
    · exact hs

theorem takeHdr_memOk {a handle : Nat} {s : State} (h : MemOk s) : MemOk (takeHdr a handle s) := by
  unfold takeHdr
  split
  · exact h
  · dsimp only
    exact modAv_memOk h

theorem tagLimit_memOk {a : Nat} {s : State} (h : MemOk s) : MemOk (tagLimit a s) := by
  unfold tagLimit
  split
  · exact h
  · split
    · exact h
    · dsimp only
      exact modAv_memOk (postSec_memOk (postAv_memOk (modAv_memOk h)))

theorem tagFailed_memOk {a : Nat} {s : State} (h : MemOk s) : MemOk (tagFailed a s) := by
  unfold tagFailed
  dsimp only
  exact postAvLimited_memOk (modAv_memOk h)

theorem rxFlit_memOk {a type : Nat} {flit : List Byte} {fec : FecIn} {s : State} (h : MemOk s) {r : Flitin × State}
    (e : rxFlit a type flit fec s = r) : MemOk r.2 := by
  subst e
  unfold rxFlit
  split
  · exact h
  · dsimp only
    split
    · exact h
    · split
      · exact modAv_memOk (modAv_memOk h)
      · split
        · exact tagFailed_memOk (modAv_memOk h)
        · exact takeHdr_memOk (modAv_memOk h)

theorem nakData_memOk {a : Nat} {s : State} (h : MemOk s) : MemOk (nakData a s) := by
  unfold nakData
  split
  · exact h
  · split
    · exact h
    · exact sendControl_memOk (modAv_memOk h)

theorem deliver_memOk {a vc dest first : Nat} {payload : List Byte} {s : State} (h : MemOk s) :
    MemOk (deliver a vc dest first payload s) := by
  unfold deliver
  split
  · exact h
  · dsimp only
    exact foldl_keeps (P := MemOk) (fun _ _ hs => sendMsg_memOk hs) _ (modAv_memOk h)

theorem answer_memOk {a : Nat} {s : State} (h : MemOk s) : MemOk (answer a s) := by
  unfold answer
  dsimp only
  split
  · exact sendIdle_memOk (pumpAll_memOk h)
  · exact pumpAll_memOk h

theorem execDataFlit_memOk {av : Nat} {flit : List Byte} {fec : FecIn} {s : State} (h : MemOk s) :
    ResOk (execDataFlit av flit fec s) := by
  refine .next ?_
  split
  next heq => exact rxFlit_memOk h heq
  next heq => exact tagLimit_memOk (nakData_memOk (rxFlit_memOk h heq))
  next heq =>
    split
    · exact rxFlit_memOk h heq
    · dsimp only
      split
      · exact answer_memOk (deliver_memOk (modAv_memOk (rxFlit_memOk h heq)))
      · split
        · exact nakData_memOk (rxFlit_memOk h heq)
        · exact answer_memOk (rxFlit_memOk h heq)

theorem execIdleFlit_memOk {av : Nat} {flit : List Byte} {fec : FecIn} {s : State} (h : MemOk s) :
    ResOk (execIdleFlit av flit fec s) := by
  refine .next ?_
  split
  next heq => exact rxFlit_memOk h heq
  next heq => exact tagLimit_memOk (rxFlit_memOk h heq)
  next heq => exact pumpAll_memOk (rxFlit_memOk h heq)

theorem controlWord_memOk {a : Nat} {w : Nat × Nat} {s : State} (h : MemOk s) : MemOk (controlWord a w s) := by
  unfold controlWord
  split
  · exact replayFrom_memOk h
  · exact modAv_memOk h
  · split
    · exact retrain_memOk (modAv_memOk h)
    · exact retrain_memOk h
  · exact retrain_memOk h
  · exact h

theorem controlFlit_memOk {kind a : Nat} {flit : List Byte} {fec : FecIn} {s : State} (h : MemOk s) :
    MemOk (controlFlit kind a flit fec s) := by
  unfold controlFlit
  split
  next heq => exact rxFlit_memOk h heq
  next heq => exact tagLimit_memOk (rxFlit_memOk h heq)
  next heq =>
    split
    · exact h
    · exact pumpAll_memOk (foldl_keeps (P := MemOk) (fun _ _ hs => controlWord_memOk hs) _ (rxFlit_memOk h heq))

theorem execNak_memOk {av : Nat} {flit : List Byte} {fec : FecIn} {s : State} (h : MemOk s) :
    ResOk (execNak av flit fec s) :=
  .next (controlFlit_memOk h)

theorem execLaneSwap_memOk {av : Nat} {flit : List Byte} {fec : FecIn} {s : State} (h : MemOk s) :
    ResOk (execLaneSwap av flit fec s) :=
  .next (controlFlit_memOk h)

theorem execWidth_memOk {av : Nat} {flit : List Byte} {fec : FecIn} {s : State} (h : MemOk s) :
    ResOk (execWidth av flit fec s) :=
  .next (controlFlit_memOk h)

theorem execRetrain_memOk {av : Nat} {flit : List Byte} {fec : FecIn} {s : State} (h : MemOk s) :
    ResOk (execRetrain av flit fec s) :=
  .next (controlFlit_memOk h)

theorem execReplayTimeout_memOk {av : Nat} {s : State} (h : MemOk s) : ResOk (execReplayTimeout av s) := by
  refine .next ?_
  split
  · exact h
  · split
    · exact h
    · split
      · exact h
      · exact replayFrom_memOk h

theorem execLaneFailure_memOk {av lane : Nat} {s : State} (h : MemOk s) : ResOk (execLaneFailure av lane s) := by
  refine .next ?_
  split
  · exact h
  · split
    · exact h
    · dsimp only
      split
      · exact modAv_memOk h
      · split
        · exact avDown_memOk (modAv_memOk h)
        · split
          · exact postAv_memOk (sendControl_memOk (modAv_memOk (modAv_memOk h)))
          · exact retrain_memOk (modAv_memOk (postAv_memOk (sendControl_memOk (modAv_memOk h))))

theorem sendKeying_memOk {a : Nat} {m : List Byte} {s : State} (h : MemOk s) : MemOk (sendKeying a m s) := by
  refine foldl_keeps (P := MemOk) (fun _ _ hs => ?_) _ h
  split
  · exact hs
  · dsimp only
    exact emit_memOk (modAv_memOk hs)

theorem tookKeying_memOk {a : Nat} {m : List Byte} {s : State} (h : MemOk s) : MemOk (tookKeying a m s) :=
  modAv_memOk h

theorem sendHello_memOk {a : Nat} {s : State} (h : MemOk s) : MemOk (sendHello a s) := by
  unfold sendHello
  split
  · exact h
  · dsimp only
    exact sendKeying_memOk (modAv_memOk (draw_memOk (draw_memOk h rfl) rfl))

theorem authFail_memOk {a : Nat} {s : State} (h : MemOk s) : MemOk (authFail a s) := by
  unfold authFail
  split
  · exact h
  · exact postSec_memOk (modAv_memOk h)

theorem avUp_memOk {a : Nat} {s : State} (h : MemOk s) : MemOk (avUp a s) := by
  unfold avUp
  dsimp only
  refine pump_memOk ?_
  split
  · exact fabricCheck_memOk (postAv_memOk (modAv_memOk h))
  · split
    · exact fabricCheck_memOk (postAv_memOk (modAv_memOk h))
    · exact replayFrom_memOk (fabricCheck_memOk (postAv_memOk (modAv_memOk h)))

theorem loadKeys_memOk {a : Nat} {ss handle : List Byte} {s : State} (h : MemOk s) : MemOk (loadKeys a ss handle s) := by
  unfold loadKeys
  dsimp only
  exact avUp_memOk (modAv_memOk h)

theorem execAvenueHello_memOk {av : Nat} {msg : List Byte} {s : State} (h : MemOk s) : ResOk (execAvenueHello av msg s) := by
  refine .next ?_
  split
  · exact h
  · split
    · exact h
    · dsimp only
      split
      · exact authFail_memOk (tookKeying_memOk h)
      · exact sendKeying_memOk (modAv_memOk (draw_memOk (draw_memOk (tookKeying_memOk h) rfl) rfl))

theorem execAvenueKeyResponse_memOk {av : Nat} {msg : List Byte} {s : State} (h : MemOk s) :
    ResOk (execAvenueKeyResponse av msg s) := by
  refine .next ?_
  split
  · exact h
  · split
    · exact h
    · dsimp only
      split
      · exact authFail_memOk (tookKeying_memOk h)
      · split
        · exact loadKeys_memOk (sendKeying_memOk (tookKeying_memOk h))
        · exact authFail_memOk (tookKeying_memOk h)

theorem execAvenueKeyConfirm_memOk {av : Nat} {msg : List Byte} {s : State} (h : MemOk s) :
    ResOk (execAvenueKeyConfirm av msg s) := by
  refine .next ?_
  split
  · exact h
  · split
    · exact h
    · dsimp only
      split
      · exact authFail_memOk (tookKeying_memOk h)
      · split
        · exact loadKeys_memOk (tookKeying_memOk h)
        · exact authFail_memOk (tookKeying_memOk h)

theorem execAvenueAuthRetry_memOk {av : Nat} {s : State} (h : MemOk s) : ResOk (execAvenueAuthRetry av s) := by
  refine .next ?_
  split
  · exact h
  · split
    · exact h
    · split
      · exact h
      · exact sendHello_memOk (modAv_memOk h)

theorem execAvenueKeyRollover_memOk {av : Nat} {tx : Bool} {s : State} (h : MemOk s) :
    ResOk (execAvenueKeyRollover av tx s) := by
  refine .next ?_
  split
  · exact h
  · split
    · split
      · exact h
      · exact pump_memOk (modAv_memOk h)
    · split
      · exact h
      · exact modAv_memOk h

theorem trainAv_memOk {a : Nat} {l : AvLook} {s : State} (h : MemOk s) : MemOk (trainAv a l s) := by
  unfold trainAv
  split
  · exact h
  extract_lets base bad
  split
  · exact avDown_memOk (modAv_memOk h)
  extract_lets s1 s2 s3 s4
  have h1 : MemOk s1 := modAv_memOk h
  have h2 : MemOk s2 := by
    dsimp only [s2]
    split
    · exact postAv_memOk h1
    · exact h1
  have h3 : MemOk s3 := by
    dsimp only [s3]
    split
    · exact postAv_memOk h2
    · exact h2
  have h4 : MemOk s4 := by
    dsimp only [s4]
    split
    · exact modAv_memOk h3
    · exact h3
  split
  · exact postAv_memOk (modAv_memOk h1)
  split
  · exact avUp_memOk (modAv_memOk h4)
  · exact sendHello_memOk (modAv_memOk h4)

theorem execAvenueTraining_memOk {av : Nat} {look : AvLook} {s : State} (h : MemOk s) :
    ResOk (execAvenueTraining av look s) := by
  refine .next ?_
  split
  · exact h
  · split
    · exact trainAv_memOk h
    · exact h

theorem execAvenueTrainRetry_memOk {av : Nat} {look : AvLook} {s : State} (h : MemOk s) :
    ResOk (execAvenueTrainRetry av look s) := by
  refine .next ?_
  split
  · exact h
  · split
    · exact h
    · split
      · exact h
      · exact trainAv_memOk (modAv_memOk h)

theorem execNeighbourReset_memOk {av : Nat} {s : State} (h : MemOk s) : ResOk (execNeighbourReset av s) := by
  refine .next ?_
  split
  · exact h
  · split
    · exact h
    · dsimp only
      refine modAv_memOk ?_
      split
      · exact avDown_memOk h
      · exact h

theorem postMem_memOk {r : MemRec} {line : Option Nat} {copy : Bool} {s : State} (h : MemOk s) :
    MemOk (postMem r line copy s) := by
  unfold postMem
  dsimp only
  split
  · exact postEvent_memOk (postEvent_memOk h)
  · exact postEvent_memOk h

theorem postLimited_memOk {type line : Nat} {sym : Option Nat} {flags : Nat} {copy : Bool} {s : State} (h : MemOk s) :
    MemOk (postLimited type line sym flags copy s) := by
  unfold postLimited
  dsimp only
  split
  · exact postMem_memOk h
  · split
    · exact h
    · split
      · exact postMem_memOk h
      · exact postMem_memOk h

theorem poisonRead_memOk {line : Option Nat} {s : State} (h : MemOk s) : MemOk (poisonRead line s) := by
  unfold poisonRead
  split
  · exact h
  · split
    · exact postLimited_memOk h
    · exact h

theorem crossThreshold_memOk {slot : Nat} {hard : Bool} {s : State} (h : MemOk s) : MemOk (crossThreshold slot hard s) := by
  unfold crossThreshold
  dsimp only
  split
  · exact postMem_memOk (postMem_memOk h)
  · dsimp only [MemOk]
    exact postMem_memOk h

theorem setChan_memOk {slot : Nat} {c : ChanErr} {s : State} (h : MemOk s) : MemOk (setChan slot c s) := by
  unfold setChan
  dsimp only
  split
  · exact crossThreshold_memOk h
  · exact h

theorem foundSymbol_memOk {scrub : Bool} {line sym : Nat} {s : State} (h : MemOk s) :
    MemOk (foundSymbol scrub line sym s) := by
  unfold foundSymbol
  dsimp only
  exact setChan_memOk (postLimited_memOk h)

theorem foundUe_memOk {scrub : Bool} {line : Nat} {s : State} (h : MemOk s) : MemOk (foundUe scrub line s) := by
  unfold foundUe
  dsimp only
  exact setChan_memOk (postMem_memOk (poisonLine_memOk h))

theorem foundTag_memOk {scrub : Bool} {line : Nat} {s : State} (h : MemOk s) : MemOk (foundTag scrub line s) := by
  unfold foundTag
  dsimp only
  dsimp only [MemOk]
  exact postMem_memOk h

theorem applyFinding_memOk {scrub : Bool} {f : Finding} {r : Found} (h : MemOk r.s) : MemOk (applyFinding scrub f r).s := by
  unfold applyFinding
  cases f with
  | symbol => dsimp only; split; exacts [foundSymbol_memOk h, h]
  | uncorrectable => dsimp only; split; exacts [foundUe_memOk h, h]
  | tagFail => dsimp only; split; exacts [foundTag_memOk h, h]
  | mismatch => dsimp only; split; exacts [postMem_memOk h, h]
  | sramDirty => dsimp only; split; exacts [postMem_memOk (poisonLine_memOk h), h]
  | storeError => exact h
  | sramFixed => exact h
  | storeFixed => exact h

theorem applyFindings_memOk {scrub : Bool} {fs : Findings} {s : State} (h : MemOk s) : MemOk (applyFindings scrub fs s).s :=
  foldl_keeps (P := fun r : Found => MemOk r.s) (fun _ _ hr => applyFinding_memOk hr) _ h

theorem scrubReadRow_memOk {line : Nat} {found : Findings} {s : State} (h : MemOk s) :
    ResOk (scrubReadRow line found s) := by
  unfold scrubReadRow
  split
  · exact .fault _
  · split
    · exact .next h
    · exact .next (applyFindings_memOk h)

theorem execEcsCounterRead_memOk {slot value : Nat} {s : State} (h : MemOk s) : ResOk (execEcsCounterRead slot value s) := by
  unfold execEcsCounterRead
  split
  · exact .fault _
  · split
    · exact .next h
    · dsimp only
      refine .next ?_
      refine setChan_memOk ?_
      split
      · exact h
      · exact postMem_memOk h

theorem execErrorBucketRoll_memOk {s : State} (h : MemOk s) : ResOk (execErrorBucketRoll s) := by
  refine .next ?_
  split
  · exact h
  · exact h

theorem loseUnits_memOk {slot now then_ : Nat} {s : State} (h : MemOk s) : MemOk (loseUnits slot now then_ s) :=
  h

theorem execChannelMapout_memOk {s : State} (h : MemOk s) : ResOk (execChannelMapout s) := by
  refine .next ?_
  split
  · exact h
  · split
    · exact h
    · dsimp only
      split
      · split
        · exact h
        · exact postMem_memOk h
      · dsimp only [MemOk]
        refine foldl_keeps (P := MemOk) (fun _ _ hs => ?_) _ h
        split
        · exact loseUnits_memOk (moveGranule_memOk hs)
        · exact moveGranule_memOk hs

theorem execMapoutDone_memOk {s : State} (h : MemOk s) : ResOk (execMapoutDone s) := by
  refine .next ?_
  split
  · exact h
  · split
    · exact h
    · dsimp only
      refine postMem_memOk ?_
      split
      · dsimp only [MemOk]
        exact h
      · exact h

theorem channelFailedCopies_memOk {slot : Nat} {s : State} (h : MemOk s) : MemOk (channelFailedCopies slot s) := by
  refine foldl_keeps (P := MemOk) (fun _ _ hs => ?_) _ h
  split
  · exact hs
  · exact postEvent_memOk hs

theorem execChannelHardFail_memOk {slot : Nat} {s : State} (h : MemOk s) : ResOk (execChannelHardFail slot s) := by
  unfold execChannelHardFail
  split
  · exact .fault _
  · refine .next ?_
    split
    · exact h
    · dsimp only
      split
      · dsimp only [MemOk]
        exact channelFailedCopies_memOk (postEvent_memOk h)
      · exact crossThreshold_memOk (channelFailedCopies_memOk (postEvent_memOk h))

theorem modStore_memOk {court origin : Nat} {f : Store → Store} {s : State} (h : MemOk s) :
    MemOk (modStore court origin f s) :=
  h

theorem setMap_memOk {m : PartnerMap} {s : State} (h : MemOk s) {r : Bool × State} (e : setMap m s = r) : MemOk r.2 := by
  subst e
  unfold setMap
  split
  · exact h
  · split
    · exact h
    · exact h

theorem modXfer_memOk {u : ReqUse} {f : PartnerXfer → PartnerXfer} {s : State} (h : MemOk s) : MemOk (modXfer u f s) :=
  h

theorem dropXfer_memOk {u : ReqUse} {s : State} (h : MemOk s) : MemOk (dropXfer u s) :=
  h

theorem sendReq_memOk {court origin kind tc : Nat} {u : ReqUse} {off len : Nat} {mk : Nat → List Byte} {s : State}
    (h : MemOk s) :
    MemOk (sendReq court origin kind tc u off len mk s) := by
  unfold sendReq
  dsimp only
  split
  · exact modXfer_memOk h
  · refine sendMsg_memOk ?_
    dsimp only [MemOk]
    exact setMap_memOk h rfl

theorem putAll_memOk {court origin off : Nat} {bs : List Byte} {express : Bool} {u : ReqUse} {s : State} (h : MemOk s) :
    MemOk (putAll court origin off bs express u s) := by
  unfold putAll
  dsimp only
  refine pumpAll_memOk (foldl_keeps (P := MemOk) (fun _ _ hs => sendReq_memOk hs) _ ?_)
  dsimp only [MemOk]
  exact dropXfer_memOk h

theorem getAll_memOk {court origin off len : Nat} {express : Bool} {u : ReqUse} {s : State} (h : MemOk s) :
    MemOk (getAll court origin off len express u s) := by
  unfold getAll
  dsimp only
  refine pumpAll_memOk (forUpto_keeps (P := MemOk) (fun _ _ hs => sendReq_memOk hs) ?_)
  dsimp only [MemOk]
  exact dropXfer_memOk h

theorem sendTimer_memOk {court origin off len secs : Nat} {u : ReqUse} {s : State} (h : MemOk s) :
    MemOk (sendTimer court origin off len secs u s) :=
  pumpAll_memOk (sendReq_memOk h)

theorem copyLost_memOk {dest : Nat} {s : State} (h : MemOk s) : MemOk (copyLost s dest) := by
  unfold copyLost
  split
  · exact h
  · exact postAv_memOk h

theorem demoted_memOk {handle v : Nat} {s : State} (h : MemOk s) : MemOk (demoted handle v s) :=
  h

theorem useDone_memOk {u : ReqUse} {s : State} (h : MemOk s) : MemOk (useDone u s) := by
  unfold useDone
  split
  · exact h
  · split
    · split
      · exact h
      · split
        · exact h
        · exact demoted_memOk (dropXfer_memOk h)
    · exact h

theorem useLost_memOk {u : ReqUse} {expired : Bool} {dest : Nat} {s : State} (h : MemOk s) :
    MemOk (useLost u expired dest s) := by
  unfold useLost
  dsimp only
  split
  · exact copyLost_memOk (dropXfer_memOk h)
  · exact copyLost_memOk (modXfer_memOk h)
  · exact h
  · exact modXfer_memOk h

theorem endMove_memOk {m : StoreMove} {f : CmdEnd} {s : State} (h : MemOk s) : MemOk (endMove m f s) := by
  unfold endMove
  split
  · exact h
  · exact retire_memOk h

theorem failMove_memOk {court origin st : Nat} {s : State} (h : MemOk s) : MemOk (failMove court origin st s) := by
  unfold failMove
  split
  · exact h
  · split
    · exact h
    · dsimp only
      exact endMove_memOk (modStore_memOk h)

theorem retireStub_memOk {court origin : Nat} {s : State} (h : MemOk s) : MemOk (retireStub court origin s) := by
  unfold retireStub
  split
  · exact h
  · split
    · exact h
    · split
      · exact h
      · dsimp only
        split
        · exact h
        · refine forUpto_keeps (P := MemOk) (fun _ _ hs => ?_) h
          split
          · exact clearGranule_memOk hs
          · exact hs

theorem forwardTo_memOk {court origin home epoch : Nat} {msg : List Byte} {s : State} (h : MemOk s) :
    MemOk (forwardTo court origin home epoch msg s) :=
  sendMsg_memOk h

theorem finishMove_memOk {court origin : Nat} {s : State} (h : MemOk s) : MemOk (finishMove court origin s) := by
  unfold finishMove
  split
  · exact h
  · split
    · exact h
    · dsimp only
      exact retireStub_memOk (foldl_keeps (P := MemOk) (fun _ _ hs => forwardTo_memOk hs) _ (foldl_keeps (P := MemOk)
        (fun _ _ hs => sendMsg_memOk hs) _ (endMove_memOk (modStore_memOk h))))

theorem moveSend_memOk {court origin kind off len : Nat} {m : StoreMove} {epoch : Nat} {mk : Nat → List Byte}
    {s : State} (h : MemOk s) :
    MemOk (moveSend court origin kind off len m epoch mk s) := by
  unfold moveSend
  dsimp only
  exact sendMsg_memOk (modStore_memOk h)

theorem moveNext_memOk {court origin : Nat} {s : State} (h : MemOk s) : MemOk (moveNext court origin s) := by
  unfold moveNext
  split
  · split
    · exact h
    · dsimp only
      split
      · exact h
      · split
        · exact moveSend_memOk (modStore_memOk h)
        · split
          · exact moveSend_memOk (modStore_memOk (modStore_memOk h))
          · split
            · exact moveSend_memOk (modStore_memOk (modStore_memOk h))
            · exact finishMove_memOk (modStore_memOk h)
  · exact h

theorem replyDone_memOk {x : Arrival} {status home epoch : Nat} {s : State} (h : MemOk s) :
    MemOk (replyDone x status home epoch s) :=
  sendMsg_memOk h

theorem storeAct_memOk {x : Arrival} {bad : List Nat} {t : Store} {c : Court} {s : State} (h : MemOk s) :
    MemOk (storeAct x bad t c s) := by
  unfold storeAct
  dsimp only
  split
  · split
    · exact replyDone_memOk h
    · exact replyDone_memOk (modStore_memOk (courtWrite_memOk h))
  · split
    · exact replyDone_memOk h
    · split
      · exact replyDone_memOk (poisonRead_memOk h)
      · exact sendMsg_memOk h
  · split
    · exact replyDone_memOk (modStore_memOk h)
    · split
      · exact replyDone_memOk h
      · split
        · exact replyDone_memOk h
        · exact replyDone_memOk (modStore_memOk h)
  · exact h

theorem modSender_memOk {court origin addr : Nat} {f : StoreSender → StoreSender} {s : State} (h : MemOk s) :
    MemOk (modSender court origin addr f s) :=
  modStore_memOk h

theorem inTurn_memOk {x : Arrival} {bad : List Nat} {s : State} (h : MemOk s) : MemOk (inTurn x bad s) := by
  unfold inTurn
  split
  · dsimp only
    refine modSender_memOk ?_
    split
    · exact modSender_memOk h
    · exact storeAct_memOk h
  · exact h

theorem drainEarly_memOk {court origin addr n : Nat} {s : State} (h : MemOk s) :
    MemOk (drainEarly court origin addr n s) := by
  induction n generalizing s with
  | zero => exact h
  | succ n ih =>
    unfold drainEarly
    split
    · exact h
    split
    · exact h
    · exact ih (inTurn_memOk h)

theorem holdEarly_memOk {x : Arrival} {t : Store} {s : State} (h : MemOk s) : MemOk (holdEarly x t s) := by
  unfold holdEarly
  dsimp only
  split
  · exact modSender_memOk h
  · exact replyDone_memOk h

theorem numbered_memOk {x : Arrival} {bad : List Nat} {t : Store} {s : State} (h : MemOk s) :
    MemOk (numbered x bad t s) := by
  unfold numbered
  extract_lets known direct s1
  have h1 : MemOk s1 := by
    dsimp only [s1]
    split
    · exact h
    · exact modStore_memOk h
  split
  · exact replyDone_memOk h
  split
  · exact h1
  split
  · exact holdEarly_memOk h1
  extract_lets s2 d
  have h2 : MemOk s2 := by
    dsimp only [s2]
    split
    · exact modSender_memOk h1
    · exact h1
  split
  · exact drainEarly_memOk (inTurn_memOk h2)
  split
  · split
    · exact drainEarly_memOk (modSender_memOk h2)
    · exact holdEarly_memOk h2
  split
  · exact replyDone_memOk h2
  · exact h2

theorem storeArrive_memOk {x : Arrival} {bad : List Nat} {s : State} (h : MemOk s) : MemOk (storeArrive x bad s) := by
  unfold storeArrive
  dsimp only
  split
  · exact replyDone_memOk h
  · split
    · split
      · split
        · exact h
        · exact replyDone_memOk h
      · split
        · exact forwardTo_memOk h
        · exact sendMsg_memOk h
    · split
      · split
        · exact retireStub_memOk (modStore_memOk (forwardTo_memOk h))
        · exact forwardTo_memOk h
      · split
        · exact h
        · split
          · exact storeAct_memOk h
          · split
            · exact replyDone_memOk h
            · split
              · split
                · exact modStore_memOk h
                · exact replyDone_memOk h
              · exact numbered_memOk h

theorem takeMsg_memOk {f : List Byte → Bool} {s : State} (h : MemOk s) {r : Nat × List Byte × State}
    (e : takeMsg f s = some r) : MemOk r.2.2 := by
  unfold takeMsg at e
  split at e
  · cases e
  · cases e
    exact h

theorem execPut_memOk {s : State} (h : MemOk s) : ResOk (execPut s) := by
  refine .next ?_
  split
  · exact h
  next heq => exact pumpAll_memOk (storeArrive_memOk (takeMsg_memOk h heq))

theorem getRow_memOk {mem : Findings} {s : State} (h : MemOk s) : ResOk (getRow mem s) := by
  refine .next ?_
  split
  · exact h
  next heq =>
    dsimp only
    exact pumpAll_memOk (storeArrive_memOk (applyFindings_memOk (takeMsg_memOk h heq)))

theorem execTimer_memOk {s : State} (h : MemOk s) : ResOk (execTimer s) := by
  refine .next ?_
  split
  · exact h
  next heq => exact pumpAll_memOk (storeArrive_memOk (takeMsg_memOk h heq))

theorem execLastInEpoch_memOk {s : State} (h : MemOk s) : ResOk (execLastInEpoch s) := by
  refine .next ?_
  split
  · exact h
  next heq => exact pumpAll_memOk (storeArrive_memOk (takeMsg_memOk h heq))

theorem execForwarded_memOk {s : State} (h : MemOk s) : ResOk (execForwarded s) := by
  refine .next ?_
  split
  · exact h
  next heq =>
    split
    · exact pumpAll_memOk (storeArrive_memOk (takeMsg_memOk h heq))
    · exact takeMsg_memOk h heq

theorem execAdopt_memOk {s : State} (h : MemOk s) : ResOk (execAdopt s) := by
  refine .next ?_
  split
  · exact h
  next heq =>
    dsimp only
    split
    · split
      · exact pumpAll_memOk (sendMsg_memOk (takeMsg_memOk h heq))
      · exact pumpAll_memOk (sendMsg_memOk (modStore_memOk (takeMsg_memOk h heq)))
    · exact pumpAll_memOk (sendMsg_memOk (takeMsg_memOk h heq))

theorem execNotice_memOk {s : State} (h : MemOk s) : ResOk (execNotice s) := by
  refine .next ?_
  split
  · exact h
  next heq => exact pumpAll_memOk (foldl_keeps (P := MemOk) (fun _ _ hs => sendMsg_memOk (by exact hs)) _
      (sendMsg_memOk (setMap_memOk (takeMsg_memOk h heq) rfl)))

theorem execData_memOk {s : State} (h : MemOk s) : ResOk (execData s) := by
  refine .next ?_
  split
  · exact h
  next heq =>
    split
    · exact takeMsg_memOk h heq
    · dsimp only
      refine useDone_memOk ?_
      dsimp only [MemOk]
      exact modXfer_memOk (takeMsg_memOk h heq)

theorem moveAnswered_memOk {r : PartnerReq} {status : Nat} {s : State} (h : MemOk s) : MemOk (moveAnswered r status s) := by
  unfold moveAnswered
  dsimp only
  split
  · split
    · exact moveNext_memOk (modStore_memOk h)
    · exact failMove_memOk h
  · split
    · exact moveNext_memOk (modStore_memOk h)
    · exact failMove_memOk h
  · exact h

theorem execDone_memOk {s : State} (h : MemOk s) : ResOk (execDone s) := by
  refine .next ?_
  split
  · exact h
  next heq =>
    split
    · exact takeMsg_memOk h heq
    · dsimp only
      split
      · dsimp only [MemOk]
        exact takeMsg_memOk h heq
      · split
        · refine pumpAll_memOk (moveAnswered_memOk ?_)
          dsimp only [MemOk]
          exact takeMsg_memOk h heq
        · split
          · refine useDone_memOk ?_
            dsimp only [MemOk]
            exact takeMsg_memOk h heq
          · refine useLost_memOk ?_
            split
            · refine setMap_memOk ?_ rfl
              dsimp only [MemOk]
              exact takeMsg_memOk h heq
            · dsimp only [MemOk]
              exact takeMsg_memOk h heq

theorem execUnreachable_memOk {s : State} (h : MemOk s) : ResOk (execUnreachable s) := by
  refine .next ?_
  split
  · exact h
  next heq =>
    dsimp only
    split
    · split
      · refine pumpAll_memOk (failMove_memOk ?_)
        dsimp only [MemOk]
        exact takeMsg_memOk h heq
      · split
        · exact takeMsg_memOk h heq
        · split
          · exact takeMsg_memOk h heq
          · exact retireStub_memOk (modStore_memOk (takeMsg_memOk h heq))
    · split
      · exact takeMsg_memOk h heq
      · split
        · refine pumpAll_memOk (failMove_memOk ?_)
          dsimp only [MemOk]
          exact takeMsg_memOk h heq
        · refine useLost_memOk ?_
          dsimp only [MemOk]
          exact takeMsg_memOk h heq

theorem execPartnerRetry_memOk {token : Nat} {s : State} (h : MemOk s) : ResOk (execPartnerRetry token s) := by
  refine .next ?_
  split
  · exact h
  · split
    · exact h
    · split
      · exact h
      · dsimp only
        exact post_memOk h

theorem execPartnerRangeExpiry_memOk {court n : Nat} {s : State} (h : MemOk s) :
    ResOk (execPartnerRangeExpiry court n s) := by
  refine .next ?_
  split
  · split
    · exact h
    · split
      · exact h
      · exact modStore_memOk (courtWrite_memOk h)
  · exact h

theorem migrateBody_memOk {c : Cmd} {s : State} (h : MemOk s) {r : State × Did} (e : migrateBody c s = r) : MemOk r.1 := by
  subst e
  unfold migrateBody
  extract_lets court
  split
  · exact h
  split
  · exact h
  split
  · exact h
  · split
    · exact h
    split
    · exact h
    extract_lets e s1 tok msg _ s2
    have h1 : MemOk s1 := modStore_memOk h
    have h2 : MemOk s2 := h1
    dsimp only
    exact post_memOk h2
  · exact h

theorem execMigrate_memOk {q : QId} {cid : Nat} {s : State} (h : MemOk s) : ResOk (execMigrate q cid s) :=
  .next (runCmd_memOk (fun _ _ hs => migrateBody_memOk hs rfl) h)

theorem newStore_memOk {court : Nat} {s : State} (h : MemOk s) : MemOk (newStore court s) :=
  h

theorem resetStore_memOk {court : Nat} {s : State} (h : MemOk s) : MemOk (resetStore court s) := by
  unfold resetStore
  dsimp only
  exact h

theorem dropUses_memOk {court : Nat} {s : State} (h : MemOk s) : MemOk (dropUses court s) := by
  unfold dropUses
  dsimp only
  exact h

theorem destroyStore_memOk {court : Nat} {s : State} (h : MemOk s) : MemOk (destroyStore court s) :=
  dropUses_memOk h

theorem modEntry_memOk {handle : Nat} {f : GazEntry → GazEntry} {s : State} (h : MemOk s) : MemOk (modEntry handle f s) :=
  h

theorem openImage_memOk {court keyId : Nat} {img : List Byte} {s : State} (h : MemOk s) {r : Except Nat (List Byte) × State}
    (e : openImage court keyId img s = r) : MemOk r.2 := by
  subst e
  unfold openImage
  split
  · exact h
  · split
    · exact h
    · dsimp only
      split
      · exact sealFail_memOk h
      · split
        · exact h
        · exact sealFail_memOk h

theorem courtMove_memOk {c : Court} {src dst len : Nat} {s : State} (h : MemOk s) : MemOk (courtMove c src dst len s) := by
  unfold courtMove
  dsimp only
  refine foldl_keeps (P := MemOk) (fun _ _ hs => ?_) _ (courtWrite_memOk h)
  split
  · exact poisonLine_memOk hs
  · exact hs

theorem compact_memOk {court : Nat} {c : Court} {n : Nat} {s : State} (h : MemOk s) : MemOk (compact court c n s) := by
  unfold compact
  split
  · exact h
  · dsimp only
    split
    · exact h
    · refine foldl_keeps (P := MemOk) (fun _ _ hs => ?_) _ (foldl_keeps (P := MemOk) (fun _ _ hs => modEntry_memOk hs) _ h)
      split
      · exact hs
      · exact courtMove_memOk hs

theorem leavePool_memOk {handle : Nat} {s : State} (h : MemOk s) : MemOk (leavePool handle s) :=
  modEntry_memOk h

theorem demote_memOk {court : Nat} {c : Court} {handle : Nat} {s : State} (h : MemOk s) :
    MemOk (demote court c handle s) := by
  unfold demote
  dsimp only
  split
  · exact h
  · split
    · exact h
    · split
      · exact leavePool_memOk h
      · split
        · exact h
        · split
          · refine leavePool_memOk (hostWrite_memOk ?_)
            split
            · exact sealColdObj_memOk h rfl
            · exact h
          · refine putAll_memOk ?_
            split
            · exact sealColdObj_memOk h rfl
            · exact h

/-- The recursive call that a step of `Nat.brecOn` hands on keeps the predicate. -/
def BelowKeeps (P : State → Prop) : (x : Nat) → Nat.below (motive := fun _ => State → State × Room) x → Prop
  | 0, _ => True
  | _ + 1, f => ∀ s, P s → P (f.1 s).1

section
variable {P : State → Prop} {court : Nat} {c : Court} {n : Nat}

theorem freeRoom_step_keeps (hcompact : ∀ s, P s → P (compact court c n s)) (hdemote : ∀ v s, P s → P (demote court c v s))
    {x : Nat} {f : Nat.below (motive := fun _ => State → State × Room) x} {s : State} (hf : BelowKeeps P x f) (h : P s) :
    P (freeRoom._f court c n x f s).1 := by
  delta freeRoom._f
  split
  · exact h
  generalize poolHole _ court c n = at_
  cases at_ with
  | some a => exact h
  | none =>
    extract_lets s1
    have h1 : P s1 := hcompact _ h
    clear_value s1
    generalize poolHole _ court c n = at_
    cases at_ with
    | some a => exact h1
    | none =>
      refine iteInduction (motive := fun r : State × Room => P r.1) (fun _ => h1) (fun _ => ?_)
      generalize victims s1 c = l
      cases l with
      | nil => exact h1
      | cons v l =>
        dsimp -zeta only
        extract_lets s2
        have h2 : P s2 := hdemote _ _ h1
        clear_value s2
        exact iteInduction (motive := fun r : State × Room => P r.1) (fun _ => h2) fun _ =>
          iteInduction (motive := fun r : State × Room => P r.1) (fun _ => h2) fun _ => hf _ h2

theorem freeRoom_eq_brecOn (court : Nat) (c : Court) (n k : Nat) (s : State) :
    freeRoom court c n k s = Nat.brecOn (motive := fun _ => State → State × Room) k (freeRoom._f court c n) s := by
  delta freeRoom
  rfl

theorem brecOn_keeps {F : (x : Nat) → Nat.below (motive := fun _ => State → State × Room) x → State → State × Room}
    (hF : ∀ x f s, BelowKeeps P x f → P s → P (F x f s).1) {k : Nat} {s : State} (h : P s) :
    P (Nat.brecOn (motive := fun _ => State → State × Room) k F s).1 := by
  induction k generalizing s with
  | zero => exact hF _ _ _ trivial h
  | succ k ih => exact hF _ _ _ (fun _ hs => ih hs) h

/-- Making room in a pool is moves and demotions: what both keep, it keeps (07 R226). -/
theorem freeRoom_keeps (hcompact : ∀ s, P s → P (compact court c n s)) (hdemote : ∀ v s, P s → P (demote court c v s))
    {k : Nat} {s : State} (h : P s) : P (freeRoom court c n k s).1 := by
  rw [freeRoom_eq_brecOn]
  exact brecOn_keeps (fun _ _ _ => freeRoom_step_keeps hcompact hdemote) h

end

theorem freeRoom_memOk {court : Nat} {c : Court} {n k : Nat} {s : State} (h : MemOk s) {r : State × Room}
    (e : freeRoom court c n k s = r) : MemOk r.1 := by
  subst e
  exact freeRoom_keeps (P := MemOk) (fun _ => compact_memOk) (fun _ _ => demote_memOk) h

theorem makeRoom_memOk {court n : Nat} {q : QId} {cid : Nat} {s : State} (h : MemOk s) {r : State × Room}
    (e : makeRoom court n q cid s = r) : MemOk r.1 := by
  subst e
  unfold makeRoom
  split
  · exact h
  split
  · exact h
  split
  · exact h
  extract_lets s1 vs hs r
  have h1 : MemOk s1 := by
    dsimp only [s1]
    split
    · exact compact_memOk h
    · exact h
  split
  · split
    · exact ask_memOk h1 rfl
    · exact freeRoom_memOk (ask_memOk h1 rfl) rfl
  · exact freeRoom_memOk h1 rfl

theorem applyDemote_memOk {court : Nat} {proposal reply : List Byte} {use : Bool} {s : State} (h : MemOk s) :
    MemOk (applyDemote court proposal reply use s) := by
  unfold applyDemote
  split
  · exact h
  · dsimp only
    exact foldl_keeps (P := MemOk) (fun _ _ hs => demote_memOk hs) _ h

theorem lockLine_memOk {c : Court} {handle line : Nat} {s : State} (h : MemOk s) : MemOk (lockLine c handle line s) := by
  unfold lockLine
  dsimp only
  split
  · exact modEntry_memOk h
  · exact h

theorem lockVersion_memOk {court handle : Nat} {s : State} (h : MemOk s) : MemOk (lockVersion court handle s) := by
  unfold lockVersion
  split
  · exact foldl_keeps (P := MemOk) (fun _ _ hs => lockLine_memOk hs) _ h
  · exact h

theorem unlockVersion_memOk {handle : Nat} {s : State} (h : MemOk s) : MemOk (unlockVersion handle s) :=
  modEntry_memOk h

theorem stampUp_memOk {s : State} (h : MemOk s) : MemOk (stampUp s) :=
  h

theorem installVersion_memOk {court handle : Nat} {v : AdVersion} {s : State} (h : MemOk s) :
    MemOk (installVersion court handle v s) := by
  unfold installVersion
  dsimp only
  split
  · refine lockVersion_memOk (modEntry_memOk ?_)
    split
    · exact h
    · split
      · exact h
      · exact h
  · refine modEntry_memOk ?_
    split
    · exact h
    · split
      · exact h
      · exact h

theorem placeImage_memOk {court at_ : Nat} {img : List Byte} {s : State} (h : MemOk s) :
    MemOk (placeImage court at_ img s) := by
  unfold placeImage
  split
  · exact h
  · exact courtWrite_memOk h

theorem endContract_memOk {court handle : Nat} {s : State} (h : MemOk s) : MemOk (endContract court handle s) := by
  unfold endContract
  dsimp only
  refine sweepSlots_memOk ?_
  split
  · exact modEntry_memOk (unlockVersion_memOk (modEntry_memOk h))
  · exact unlockVersion_memOk (modEntry_memOk h)

theorem execContractEnd_memOk {handle : Nat} {s : State} (h : MemOk s) : ResOk (execContractEnd handle s) := by
  refine .next ?_
  dsimp only
  split
  · split
    · exact endContract_memOk h
    · exact h
  · exact h

theorem fetched_memOk {court handle : Nat} {c : Court} {v : AdVersion} {b : List Byte} {at_ : Nat} {s : State}
    (h : MemOk s) {r : State × Brought}
    (e : fetched court handle c v b at_ s = r) : MemOk r.1 := by
  subst e
  unfold fetched
  dsimp only
  split
  · exact sealFail_memOk h
  · exact modEntry_memOk (courtWrite_memOk h)

theorem bring_memOk {court handle : Nat} {image : List Byte} {q : QId} {cid : Nat} {s : State} (h : MemOk s)
    {r : State × Brought} (e : bring court handle image q cid s = r) : MemOk r.1 := by
  subst e
  unfold bring
  extract_lets e
  split
  · split
    · exact h
    extract_lets u need data
    split
    · dsimp only
      split
      · exact getAll_memOk h
      · exact h
    · exact dropXfer_memOk h
    · split
      next heq => exact makeRoom_memOk h heq
      next heq => exact dropXfer_memOk (makeRoom_memOk h heq)
      next heq => exact fetched_memOk (dropXfer_memOk (makeRoom_memOk h heq)) rfl
  · exact h

theorem wantVersion_memOk {handle : Nat} {s : State} (h : MemOk s) : MemOk (wantVersion handle s) :=
  modEntry_memOk h

theorem execAdapterColdFetch_memOk {handle version : Nat} {image : List Byte} {s : State} (h : MemOk s) :
    ResOk (execAdapterColdFetch handle version image s) := by
  refine .next ?_
  split
  · split
    · exact h
    · split
      next heq => exact modEntry_memOk (bring_memOk h heq)
      next heq => exact bring_memOk h heq
  · exact h

theorem abandonHandle_memOk {handle : Nat} {s : State} (h : MemOk s) : MemOk (abandonHandle handle s) :=
  modEntry_memOk h

theorem claimHandle_memOk {c : Cmd} {handle : Nat} {s : State} (h : MemOk s) : MemOk (claimHandle c handle s) := by
  unfold claimHandle
  dsimp only
  exact modCmd_memOk h

theorem registerLoad_memOk {c : Cmd} {handle : Nat} {image : List Byte} {s : State} (h : MemOk s) {r : State × Did}
    (e : registerLoad c handle image s = r) : MemOk r.1 := by
  subst e
  unfold registerLoad
  dsimp only
  split
  · exact abandonHandle_memOk h
  · split
    next heq => exact abandonHandle_memOk (openImage_memOk h heq)
    next heq =>
      split
      next heq1 => exact makeRoom_memOk (openImage_memOk h heq) heq1
      next heq1 => exact abandonHandle_memOk (makeRoom_memOk (openImage_memOk h heq) heq1)
      next heq1 =>
        split
        · exact abandonHandle_memOk (makeRoom_memOk (openImage_memOk h heq) heq1)
        · split
          · exact abandonHandle_memOk (makeRoom_memOk (openImage_memOk h heq) heq1)
          · split
            · exact abandonHandle_memOk (makeRoom_memOk (openImage_memOk h heq) heq1)
            · dsimp only
              exact modEntry_memOk (stampUp_memOk (placeImage_memOk (makeRoom_memOk (openImage_memOk h heq) heq1)))

theorem registerBody_memOk {image : List Byte} {whole : Bool} {c : Cmd} {s : State} (h : MemOk s) {r : State × Did}
    (e : registerBody image whole c s = r) : MemOk r.1 := by
  subst e
  unfold registerBody
  dsimp only
  split
  · split
    · exact registerLoad_memOk h rfl
    · exact h
  · split
    · exact h
    · split
      · exact h
      · split
        · exact h
        · split
          · exact h
          · split
            · exact registerLoad_memOk (claimHandle_memOk h) rfl
            · exact claimHandle_memOk h

theorem execRegisterAdapter_memOk {q : QId} {cid : Nat} {image : List Byte} {whole : Bool} {s : State} (h : MemOk s) :
    ResOk (execRegisterAdapter q cid image whole s) :=
  .next (runCmd_memOk (fun _ _ hs => registerBody_memOk hs rfl) h)

theorem replaceLoad_memOk {c : Cmd} {handle : Nat} {image : List Byte} {s : State} (h : MemOk s)
    {r : State × Except Nat (Option (AdImage × Nat))}
    (e : replaceLoad c handle image s = r) : MemOk r.1 := by
  subst e
  unfold replaceLoad
  dsimp only
  split
  · exact h
  · split
    next heq => exact openImage_memOk h heq
    next heq =>
      split
      next heq1 => exact makeRoom_memOk (openImage_memOk h heq) heq1
      next heq1 => exact makeRoom_memOk (openImage_memOk h heq) heq1
      next heq1 =>
        split
        · exact makeRoom_memOk (openImage_memOk h heq) heq1
        · split
          · exact makeRoom_memOk (openImage_memOk h heq) heq1
          · split
            · exact makeRoom_memOk (openImage_memOk h heq) heq1
            · split
              · exact makeRoom_memOk (openImage_memOk h heq) heq1
              · split
                · exact makeRoom_memOk (openImage_memOk h heq) heq1
                · exact placeImage_memOk (makeRoom_memOk (openImage_memOk h heq) heq1)

theorem replaceBody_memOk {image : List Byte} {c : Cmd} {s : State} (h : MemOk s) {r : State × Did}
    (e : replaceBody image c s = r) : MemOk r.1 := by
  subst e
  unfold replaceBody
  dsimp only
  split
  · exact h
  · split
    · exact h
    · split
      · exact h
      · split
        · exact h
        · split
          next heq => exact replaceLoad_memOk h heq
          next heq => exact replaceLoad_memOk h heq
          next heq =>
            split
            · exact modEntry_memOk (stampUp_memOk (replaceLoad_memOk h heq))
            · split
              · exact stampUp_memOk (replaceLoad_memOk h heq)
              · exact installVersion_memOk (stampUp_memOk (replaceLoad_memOk h heq))

theorem execReplace_memOk {q : QId} {cid : Nat} {image : List Byte} {s : State} (h : MemOk s) :
    ResOk (execReplace q cid image s) :=
  .next (runCmd_memOk (fun _ _ hs => replaceBody_memOk hs rfl) h)

theorem dropClaims_memOk {handle : Nat} {s : State} (h : MemOk s) : MemOk (dropClaims handle s) :=
  h

theorem retireAdapterBody_memOk {c : Cmd} {s : State} (h : MemOk s) {r : State × Did}
    (e : retireAdapterBody c s = r) : MemOk r.1 := by
  subst e
  unfold retireAdapterBody
  dsimp only
  split
  · exact h
  · split
    · exact h
    · split
      · exact h
      · split
        · exact h
        · dsimp only
          exact sweepSlots_memOk (sweepHandle_memOk (dropClaims_memOk (unlockVersion_memOk (modEntry_memOk h))))

theorem execRetireAdapter_memOk {q : QId} {cid : Nat} {s : State} (h : MemOk s) : ResOk (execRetireAdapter q cid s) :=
  .next (runCmd_memOk (fun _ _ hs => retireAdapterBody_memOk hs rfl) h)

theorem pinFinish_memOk {c : Cmd} {handle : Nat} {s : State} (h : MemOk s) {r : State × Did}
    (e : pinFinish c handle s = r) : MemOk r.1 := by
  subst e
  unfold pinFinish
  dsimp only
  split
  · split
    · exact h
    · split
      · exact h
      · split
        · split
          · exact endContract_memOk h
          · exact h
        · dsimp only
          split
          · exact lockVersion_memOk (modEntry_memOk h)
          · exact unlockVersion_memOk (modEntry_memOk h)
  · exact h

theorem pinBody_memOk {image : List Byte} {c : Cmd} {s : State} (h : MemOk s) {r : State × Did}
    (e : pinBody image c s = r) : MemOk r.1 := by
  subst e
  unfold pinBody
  dsimp only
  split
  · exact h
  · split
    · exact h
    · split
      · exact h
      · split
        · split
          · exact h
          · split
            next heq => exact modCmd_memOk (bring_memOk h heq)
            next heq => exact bring_memOk h heq
            next heq => exact pinFinish_memOk (bring_memOk h heq) rfl
        · exact h

theorem execPinContract_memOk {q : QId} {cid : Nat} {image : List Byte} {s : State} (h : MemOk s) :
    ResOk (execPinContract q cid image s) :=
  .next (runCmd_memOk (fun _ _ hs => pinBody_memOk hs rfl) h)

theorem releaseBody_memOk {c : Cmd} {s : State} (h : MemOk s) {r : State × Did} (e : releaseBody c s = r) : MemOk r.1 := by
  subst e
  unfold releaseBody
  dsimp only
  split
  · exact h
  · split
    · exact h
    · split
      · exact modEntry_memOk h
      · exact endContract_memOk h

theorem execReleaseContract_memOk {q : QId} {cid : Nat} {s : State} (h : MemOk s) : ResOk (execReleaseContract q cid s) :=
  .next (runCmd_memOk (fun _ _ hs => releaseBody_memOk hs rfl) h)

theorem claimBody_memOk {c : Cmd} {s : State} (h : MemOk s) {r : State × Did} (e : claimBody c s = r) : MemOk r.1 := by
  subst e
  unfold claimBody
  dsimp only
  split
  · exact h
  · split
    · exact h
    · split
      · exact h
      · split
        · exact h
        · split
          · exact h
          · split
            · exact h
            · split
              · exact h
              · dsimp only
                exact modSlot_memOk h

theorem execClaimSlot_memOk {q : QId} {cid : Nat} {s : State} (h : MemOk s) : ResOk (execClaimSlot q cid s) :=
  .next (runCmd_memOk (fun _ _ hs => claimBody_memOk hs rfl) h)

theorem rebound_memOk {court handle mver : Nat} {v : AdVersion} {s : State} (h : MemOk s) {r : State × Did}
    (e : rebound court handle mver v s = r) : MemOk r.1 := by
  subst e
  unfold rebound
  dsimp only
  exact sweepSlots_memOk (modEntry_memOk (installVersion_memOk h))

theorem rebindAsIs_memOk {c : Cmd} {handle : Nat} {e : GazEntry} {v : AdVersion} {m : ModelSlot} {s : State}
    (h : MemOk s) {r : State × Did}
    (e : rebindAsIs c handle e v m s = r) : MemOk r.1 := by
  subst e
  unfold rebindAsIs
  dsimp only
  split
  · exact h
  · split
    · exact rebound_memOk h rfl
    · split
      · split
        next heq => exact makeRoom_memOk h heq
        next heq => exact makeRoom_memOk h heq
        next heq =>
          split
          · exact makeRoom_memOk h heq
          · exact rebound_memOk (stampUp_memOk (courtMove_memOk (makeRoom_memOk h heq))) rfl
      · exact h

theorem rebindImage_memOk {c : Cmd} {handle : Nat} {e : GazEntry} {image : List Byte} {s : State} (h : MemOk s)
    {r : State × Did}
    (e : rebindImage c handle e image s = r) : MemOk r.1 := by
  subst e
  unfold rebindImage
  dsimp only
  split
  · exact h
  · split
    next heq => exact openImage_memOk h heq
    next heq =>
      split
      next heq1 => exact makeRoom_memOk (openImage_memOk h heq) heq1
      next heq1 => exact makeRoom_memOk (openImage_memOk h heq) heq1
      next heq1 =>
        split
        · exact makeRoom_memOk (openImage_memOk h heq) heq1
        · split
          · exact makeRoom_memOk (openImage_memOk h heq) heq1
          · split
            · exact makeRoom_memOk (openImage_memOk h heq) heq1
            · split
              · exact makeRoom_memOk (openImage_memOk h heq) heq1
              · split
                · exact makeRoom_memOk (openImage_memOk h heq) heq1
                · exact rebound_memOk (stampUp_memOk (placeImage_memOk (makeRoom_memOk (openImage_memOk h heq) heq1))) rfl

theorem rebindBody_memOk {image : List Byte} {c : Cmd} {s : State} (h : MemOk s) {r : State × Did}
    (e : rebindBody image c s = r) : MemOk r.1 := by
  subst e
  unfold rebindBody
  dsimp only
  split
  · exact h
  · split
    · exact h
    · split
      · exact h
      · split
        · exact rebindImage_memOk h rfl
        · split
          · exact rebindAsIs_memOk h rfl
          · exact h

theorem execRebindAdapter_memOk {q : QId} {cid : Nat} {image : List Byte} {s : State} (h : MemOk s) :
    ResOk (execRebindAdapter q cid image s) :=
  .next (runCmd_memOk (fun _ _ hs => rebindBody_memOk hs rfl) h)

theorem queryBody_memOk {c : Cmd} {s : State} (h : MemOk s) {r : State × Did} (e : queryBody c s = r) : MemOk r.1 := by
  subst e
  unfold queryBody
  dsimp only
  split
  · exact h
  · dsimp only
    exact h

theorem execQueryAdapter_memOk {q : QId} {cid : Nat} {s : State} (h : MemOk s) : ResOk (execQueryAdapter q cid s) :=
  .next (runCmd_memOk (fun _ _ hs => queryBody_memOk hs rfl) h)

theorem takeFetchFail_memOk {hs : List Nat} {s : State} (h : MemOk s) {r : Option Nat × State}
    (e : takeFetchFail hs s = r) : MemOk r.2 := by
  subst e
  unfold takeFetchFail
  split
  · exact h
  · exact modEntry_memOk h

theorem takeReloadFail_memOk {slot : Option Nat} {s : State} (h : MemOk s) {r : Option Nat × State}
    (e : takeReloadFail slot s = r) : MemOk r.2 := by
  subst e
  unfold takeReloadFail
  split
  · exact h
  · dsimp only
    split
    · exact emptySlot_memOk (modSlot_memOk h)
    · exact modSlot_memOk h

theorem demand_memOk {hs : List Nat} {slot : Option Nat} {s : State} (h : MemOk s) {r : State × Ready}
    (e : demand hs slot s = r) : MemOk r.1 := by
  subst e
  unfold demand
  split
  next heq => exact takeFetchFail_memOk h heq
  next heq =>
    have h := takeFetchFail_memOk h heq
    split
    next heq => exact takeReloadFail_memOk h heq
    next heq =>
      have h := takeReloadFail_memOk h heq
      extract_lets cold base s1
      have h1 : MemOk s1 := foldl_keeps (P := MemOk) (fun _ _ hs => wantVersion_memOk hs) _ h
      split
      · exact h
      dsimp only
      split
      · split
        · exact modSlot_memOk h1
        · exact h1
      · exact h1

theorem bindAll_memOk {hs : List Nat} {slot : Option Nat} {s : State} (h : MemOk s) {r : List (Nat × Nat) × State}
    (e : bindAll hs slot s = r) : MemOk r.2 := by
  subst e
  unfold bindAll
  dsimp only
  split
  · exact foldl_keeps (P := MemOk) (fun _ _ hs => modEntry_memOk hs) _ (stampUp_memOk h)
  · exact modSlot_memOk (foldl_keeps (P := MemOk) (fun _ _ hs => modEntry_memOk hs) _ (stampUp_memOk h))

theorem releaseGaz_memOk {court : Nat} {s : State} (h : MemOk s) : MemOk (releaseGaz court s) := by
  unfold releaseGaz
  split
  · exact h
  · dsimp only
    refine sweepSlots_memOk ?_
    dsimp only [MemOk]
    exact foldl_keeps (P := MemOk) (fun _ _ hs => modEntry_memOk (dropClaims_memOk hs)) _ h

theorem evictSlot_memOk {n : Nat} {forget : Bool} {s : State} (h : MemOk s) : MemOk (evictSlot n forget s) := by
  unfold evictSlot
  split
  · exact h
  · split
    · exact emptySlot_memOk h
    · dsimp only
      exact modSlot_memOk (foldl_keeps (P := MemOk) (fun _ _ hs => clearGranule_memOk hs) _ h)

theorem freeGranuleRoom_memOk {n k : Nat} {s : State} (h : MemOk s) {r : State × Bool} (e : freeGranuleRoom n k s = r) :
    MemOk r.1 := by
  subst e
  induction k generalizing s with
  | zero => exact h
  | succ k ih =>
    unfold freeGranuleRoom
    split
    · exact h
    split
    · exact h
    · exact ih (evictSlot_memOk h)

theorem freeBaseRoom_memOk {court : Nat} {c : Court} {len k : Nat} {s : State} (h : MemOk s) {r : State × Option Nat}
    (e : freeBaseRoom court c len k s = r) : MemOk r.1 := by
  subst e
  induction k generalizing s with
  | zero => exact h
  | succ k ih =>
    have hs : MemOk (if (poolHole s court c len).isNone then compact court c len s else s) := by
      split
      · exact compact_memOk h
      · exact h
    unfold freeBaseRoom
    dsimp only
    split
    · exact hs
    split
    · exact hs
    · exact ih (evictSlot_memOk hs)

theorem baseRoom_memOk {owner len : Nat} {chosen : List Nat} {asked : Bool} {q : QId} {cid : Nat} {s : State} (h : MemOk s)
    {r : State × Space} (e : baseRoom owner len chosen asked q cid s = r) : MemOk r.1 := by
  subst e
  unfold baseRoom
  split
  · extract_lets n
    split
    · exact h
    split
    next heq => exact freeGranuleRoom_memOk h heq
    next heq =>
      have h := freeGranuleRoom_memOk h heq
      split
      · exact h
      · dsimp only
        split <;> exact ask_memOk h rfl
  split
  · exact h
  split
  · exact h
  split
  next heq => exact freeBaseRoom_memOk h heq
  next heq => exact freeBaseRoom_memOk h heq

theorem poolWrite_memOk {gs : List Nat} {img : List Byte} {s : State} (h : MemOk s) :
    MemOk (poolWrite gs img s) := 
  foldl_keeps (P := MemOk) (fun _ _ hs => hbmWrite_memOk hs) _ (foldl_keeps (P := MemOk)
    (fun _ _ hs => clearGranule_memOk hs) _ h)

theorem placeBase_memOk {n owner : Nat} {img : List Byte} {sp : Space} {s : State} (h : MemOk s) :
    MemOk (placeBase n owner img sp s) := by
  cases sp with
  | granules gs => exact modSlot_memOk (poolWrite_memOk h)
  | at_ a => exact modSlot_memOk (placeImage_memOk h)
  | wait => exact h
  | no => exact h

theorem claimModelSlot_memOk {c : Cmd} {n : Nat} {s : State} (h : MemOk s) : MemOk (claimModelSlot c n s) := by
  unfold claimModelSlot
  dsimp only
  refine modCmd_memOk ?_
  dsimp only [MemOk]
  exact emptySlot_memOk h

theorem openBase_memOk {owner keyId : Nat} {img : List Byte} {s : State} (h : MemOk s) {r : Except Nat (List Byte) × State}
    (e : openBase owner keyId img s = r) : MemOk r.2 := by
  subst e
  unfold openBase
  split
  · exact h
  · exact openImage_memOk h rfl

theorem loadSlot_memOk {c : Cmd} {n : Nat} {image : List Byte} {also : ModelSlot → Bool} {s : State} (h : MemOk s)
    {r : State × Option (Except CmdEnd Unit)}
    (e : loadSlot c n image also s = r) : MemOk r.1 := by
  subst e
  unfold loadSlot
  dsimp only
  split
  · dsimp only
    exact emptySlot_memOk h
  · split
    next heq =>
      dsimp only
      exact emptySlot_memOk (openBase_memOk h heq)
    next heq =>
      split
      next heq1 => exact baseRoom_memOk (openBase_memOk h heq) heq1
      next heq1 =>
        dsimp only
        exact emptySlot_memOk (baseRoom_memOk (openBase_memOk h heq) heq1)
      next heq1 =>
        split
        · dsimp only
          exact emptySlot_memOk (baseRoom_memOk (openBase_memOk h heq) heq1)
        · split
          · dsimp only
            exact emptySlot_memOk (baseRoom_memOk (openBase_memOk h heq) heq1)
          · split
            · dsimp only
              exact emptySlot_memOk (baseRoom_memOk (openBase_memOk h heq) heq1)
            · dsimp only
              exact modSlot_memOk (stampUp_memOk (placeBase_memOk (baseRoom_memOk (openBase_memOk h heq) heq1)))

theorem loadBaseBody_memOk {image : List Byte} {whole : Bool} {c : Cmd} {s : State} (h : MemOk s) {r : State × Did}
    (e : loadBaseBody image whole c s = r) : MemOk r.1 := by
  subst e
  unfold loadBaseBody
  dsimp only
  split
  · split
    · exact h
    · split
      next heq => exact loadSlot_memOk h heq
      next heq => exact loadSlot_memOk h heq
      next heq => exact loadSlot_memOk h heq
  · split
    · exact h
    · split
      · exact h
      · split
        · exact claimModelSlot_memOk h
        · split
          next heq => exact loadSlot_memOk (claimModelSlot_memOk h) heq
          next heq => exact loadSlot_memOk (claimModelSlot_memOk h) heq
          next heq => exact loadSlot_memOk (claimModelSlot_memOk h) heq

theorem execLoadBase_memOk {q : QId} {cid : Nat} {image : List Byte} {whole : Bool} {s : State} (h : MemOk s) :
    ResOk (execLoadBase q cid image whole s) :=
  .next (runCmd_memOk (fun _ _ hs => loadBaseBody_memOk hs rfl) h)

theorem evictBody_memOk {c : Cmd} {s : State} (h : MemOk s) {r : State × Did} (e : evictBody c s = r) : MemOk r.1 := by
  subst e
  unfold evictBody
  dsimp only
  split
  · exact h
  · split
    · exact h
    · split
      · exact h
      · split
        · exact h
        · split
          · exact h
          · exact evictSlot_memOk h

theorem execEvictBase_memOk {q : QId} {cid : Nat} {s : State} (h : MemOk s) : ResOk (execEvictBase q cid s) :=
  .next (runCmd_memOk (fun _ _ hs => evictBody_memOk hs rfl) h)

theorem pinBaseBody_memOk {c : Cmd} {s : State} (h : MemOk s) {r : State × Did} (e : pinBaseBody c s = r) : MemOk r.1 := by
  subst e
  unfold pinBaseBody
  dsimp only
  split
  · exact h
  · split
    · exact h
    · exact modSlot_memOk h

theorem execPinBase_memOk {q : QId} {cid : Nat} {s : State} (h : MemOk s) : ResOk (execPinBase q cid s) :=
  .next (runCmd_memOk (fun _ _ hs => pinBaseBody_memOk hs rfl) h)

theorem staleOld_memOk {old : ModelSlot} {s : State} (h : MemOk s) : MemOk (staleOld old s) :=
  h

theorem supersede_memOk {new old : Nat} {s : State} (h : MemOk s) : MemOk (supersede new old s) := by
  unfold supersede
  split
  · exact h
  · dsimp only
    exact sweepSlots_memOk (staleOld_memOk (modSlot_memOk (modSlot_memOk h)))

theorem replaceBaseBody_memOk {image : List Byte} {whole : Bool} {c : Cmd} {s : State} (h : MemOk s) {r : State × Did}
    (e : replaceBaseBody image whole c s = r) : MemOk r.1 := by
  subst e
  unfold replaceBaseBody
  dsimp only
  split
  · split
    · exact h
    · split
      · exact emptySlot_memOk h
      · split
        · exact emptySlot_memOk h
        · split
          next heq => exact loadSlot_memOk h heq
          next heq => exact loadSlot_memOk h heq
          next heq => exact supersede_memOk (loadSlot_memOk h heq)
  · split
    · exact h
    · split
      · exact h
      · split
        · exact h
        · split
          · exact claimModelSlot_memOk h
          · split
            · exact emptySlot_memOk (claimModelSlot_memOk h)
            · split
              · exact emptySlot_memOk (claimModelSlot_memOk h)
              · split
                next heq => exact loadSlot_memOk (claimModelSlot_memOk h) heq
                next heq => exact loadSlot_memOk (claimModelSlot_memOk h) heq
                next heq => exact supersede_memOk (loadSlot_memOk (claimModelSlot_memOk h) heq)

theorem execReplaceBase_memOk {q : QId} {cid : Nat} {image : List Byte} {whole : Bool} {s : State} (h : MemOk s) :
    ResOk (execReplaceBase q cid image whole s) :=
  .next (runCmd_memOk (fun _ _ hs => replaceBaseBody_memOk hs rfl) h)

theorem reloadFailed_memOk {n st : Nat} {s : State} (h : MemOk s) : MemOk (reloadFailed n st s) :=
  modSlot_memOk h

theorem reloadSlot_memOk {n : Nat} {m : ModelSlot} {image : List Byte} {s : State} (h : MemOk s) :
    MemOk (reloadSlot n m image s) := by
  unfold reloadSlot
  dsimp only
  split
  · exact reloadFailed_memOk h
  · split
    next heq =>
      split
      · exact reloadFailed_memOk (openBase_memOk h heq)
      · exact reloadFailed_memOk (openBase_memOk h heq)
    next heq =>
      split
      next heq1 => exact baseRoom_memOk (openBase_memOk h heq) heq1
      next heq1 => exact reloadFailed_memOk (baseRoom_memOk (openBase_memOk h heq) heq1)
      next heq1 =>
        split
        · exact reloadFailed_memOk (baseRoom_memOk (openBase_memOk h heq) heq1)
        · split
          · exact reloadFailed_memOk (baseRoom_memOk (openBase_memOk h heq) heq1)
          · exact modSlot_memOk (placeBase_memOk (baseRoom_memOk (openBase_memOk h heq) heq1))

theorem execBaseReload_memOk {slot : Nat} {image : List Byte} {s : State} (h : MemOk s) :
    ResOk (execBaseReload slot image s) := by
  refine .next ?_
  split
  · exact h
  · split
    · exact reloadSlot_memOk h
    · exact h

theorem fromHost_memOk {c : Cmd} {purpose binding : Nat} {b : List Byte} {s : State} (h : MemOk s)
    {r : Option (List Byte) × State}
    (e : fromHost c purpose binding b s = r) : MemOk r.2 := by
  subst e
  unfold fromHost
  split
  · dsimp only
    split
    · exact sealFail_memOk h
    · exact h
  · exact h

theorem loadPackageBody_memOk {image : List Byte} {c : Cmd} {s : State} (h : MemOk s) {r : State × Did}
    (e : loadPackageBody image c s = r) : MemOk r.1 := by
  subst e
  unfold loadPackageBody
  dsimp only
  split
  · exact h
  · split
    · exact h
    · split
      next heq => exact fromHost_memOk h heq
      next heq =>
        split
        · split
          · exact fromHost_memOk h heq
          · dsimp only
            dsimp only [MemOk]
            exact courtWrite_memOk (fromHost_memOk h heq)
        · exact fromHost_memOk h heq

theorem execLoadPackage_memOk {q : QId} {cid : Nat} {image : List Byte} {s : State} (h : MemOk s) :
    ResOk (execLoadPackage q cid image s) :=
  .next (runCmd_memOk (fun _ _ hs => loadPackageBody_memOk hs rfl) h)

theorem unloadBody_memOk {c : Cmd} {s : State} (h : MemOk s) {r : State × Did} (e : unloadBody c s = r) : MemOk r.1 := by
  subst e
  unfold unloadBody
  dsimp only
  split
  · exact h
  · split
    · exact h
    · exact h

theorem execUnloadPackage_memOk {q : QId} {cid : Nat} {s : State} (h : MemOk s) : ResOk (execUnloadPackage q cid s) :=
  .next (runCmd_memOk (fun _ _ hs => unloadBody_memOk hs rfl) h)

theorem demandAll_memOk {hs l : List Nat} {s : State} (h : MemOk s) {r : State × Ready} (e : demandAll hs l s = r) :
    MemOk r.1 := by
  subst e
  induction l generalizing s with
  | nil => exact demand_memOk h rfl
  | cons n t ih =>
    unfold demandAll
    split
    next heq => exact demand_memOk h heq
    next heq =>
      have hrest := ih (demand_memOk h heq)
      split <;> simp_all
    next heq => exact ih (demand_memOk h heq)

theorem admitRun_memOk {k : Run} {s : State} (h : MemOk s) : MemOk (admitRun k s) :=
  settle_memOk h

theorem runBody_memOk {c : Cmd} {s : State} (h : MemOk s) {r : State × Did} (e : runBody c s = r) : MemOk r.1 := by
  subst e
  unfold runBody
  dsimp only
  split
  · exact h
  · split
    · exact h
    · split
      · split
        · exact h
        · split
          · exact h
          · split
            · exact h
            · split
              · exact h
              · split
                · exact h
                · split
                  next heq => exact demandAll_memOk h heq
                  next heq => exact demandAll_memOk h heq
                  next heq =>
                    split
                    · exact demandAll_memOk h heq
                    · dsimp only
                      exact admitRun_memOk (bindAll_memOk (demandAll_memOk h heq) rfl)
      · exact h

theorem execRun_memOk {q : QId} {cid : Nat} {s : State} (h : MemOk s) : ResOk (execRun q cid s) :=
  .next (runCmd_memOk (fun _ _ hs => runBody_memOk hs rfl) h)

theorem setSemBody_memOk {c : Cmd} {s : State} (h : MemOk s) {r : State × Did} (e : setSemBody c s = r) : MemOk r.1 := by
  subst e
  unfold setSemBody
  dsimp only
  split
  · exact h
  · split
    · exact h
    · exact settle_memOk (serveWaiters_memOk (semSet_memOk h))

theorem execSetSemaphore_memOk {q : QId} {cid : Nat} {s : State} (h : MemOk s) : ResOk (execSetSemaphore q cid s) :=
  .next (runCmd_memOk (fun _ _ hs => setSemBody_memOk hs rfl) h)

theorem dmaAt_memOk {c : Cmd} {n : Nat} {s : State} (h : MemOk s) {r : State × Did} (e : dmaAt c n s = r) : MemOk r.1 := by
  subst e
  unfold dmaAt
  split
  · exact h
  · exact modCmd_memOk h

theorem dmaWriteBody_memOk {data : List Byte} {mem : Findings} {c : Cmd} {s : State} (h : MemOk s) {r : State × Did}
    (e : dmaWriteBody data mem c s = r) : MemOk r.1 := by
  subst e
  unfold dmaWriteBody
  dsimp only
  split
  · exact h
  · exact h
  · split
    · split
      · exact applyFindings_memOk h
      · split
        · exact sealFail_memOk (courtWrite_memOk (applyFindings_memOk h))
        · split
          · exact courtWrite_memOk (applyFindings_memOk h)
          · exact sealFail_memOk (courtWrite_memOk (applyFindings_memOk h))
    · exact dmaAt_memOk (courtWrite_memOk (applyFindings_memOk h)) rfl

theorem dmaWriteRow_memOk {q : QId} {cid : Nat} {data : List Byte} {mem : Findings} {s : State} (h : MemOk s) :
    ResOk (dmaWriteRow q cid data mem s) :=
  .next (runCmd_memOk (fun _ _ hs => dmaWriteBody_memOk hs rfl) h)

theorem dmaReadBody_memOk {n : Nat} {mem : Findings} {c : Cmd} {s : State} (h : MemOk s) {r : State × Did}
    (e : dmaReadBody n mem c s = r) : MemOk r.1 := by
  subst e
  unfold dmaReadBody
  dsimp only
  split
  · exact h
  · exact h
  · split
    · exact h
    · split
      · split
        · exact applyFindings_memOk h
        · split
          · exact poisonRead_memOk (applyFindings_memOk h)
          · dsimp only
            split
            · exact courtLastUse_memOk (hostWrite_memOk (sealHost_memOk (applyFindings_memOk h) rfl))
            · exact hostWrite_memOk (sealHost_memOk (applyFindings_memOk h) rfl)
      · split
        · refine poisonRead_memOk ?_
          split
          · exact applyFindings_memOk h
          · split
            · exact courtLastUse_memOk (hostWrite_memOk (applyFindings_memOk h))
            · exact hostWrite_memOk (applyFindings_memOk h)
        · refine dmaAt_memOk ?_ rfl
          split
          · exact applyFindings_memOk h
          · split
            · exact courtLastUse_memOk (hostWrite_memOk (applyFindings_memOk h))
            · exact hostWrite_memOk (applyFindings_memOk h)

theorem dmaReadRow_memOk {q : QId} {cid len : Nat} {mem : Findings} {s : State} (h : MemOk s) :
    ResOk (dmaReadRow q cid len mem s) :=
  .next (runCmd_memOk (fun _ _ hs => dmaReadBody_memOk hs rfl) h)

theorem readCountersBody_memOk {c : Cmd} {s : State} (h : MemOk s) {r : State × Did} (e : readCountersBody c s = r) :
    MemOk r.1 := by
  subst e
  unfold readCountersBody
  extract_lets scope court words
  split
  · exact h
  split
  · split <;> exact h
  split
  · exact h
  split
  · exact h
  split
  · exact h
  split
  · exact h
  split
  · exact h
  split <;> exact h

theorem execReadCounters_memOk {q : QId} {cid : Nat} {s : State} (h : MemOk s) : ResOk (execReadCounters q cid s) :=
  .next (runCmd_memOk (fun _ _ hs => readCountersBody_memOk hs rfl) h)

theorem setReserveBody_memOk {c : Cmd} {s : State} (h : MemOk s) {r : State × Did}
    (e : setReserveBody c s = r) : MemOk r.1 := by
  subst e
  unfold setReserveBody
  dsimp only
  split
  · exact h
  · exact h

theorem execSetMapoutReserve_memOk {q : QId} {cid : Nat} {s : State} (h : MemOk s) : ResOk (execSetMapoutReserve q cid s) :=
  .next (runCmd_memOk (fun _ _ hs => setReserveBody_memOk hs rfl) h)

theorem execClearRepairList_memOk {q : QId} {cid : Nat} {s : State} (h : MemOk s) : ResOk (execClearRepairList q cid s) :=
  .next (runCmd_memOk (fun _ _ hs => hs) h)

theorem modGrp_memOk {key : Nat} {f : Group → Group} {s : State} (h : MemOk s) : MemOk (modGrp key f s) :=
  h

theorem modStep_memOk {key : Nat} {f : TrainStep → TrainStep} {s : State} (h : MemOk s) : MemOk (modStep key f s) :=
  modGrp_memOk h

theorem modBucket_memOk {key b : Nat} {f : BucketRun → BucketRun} {s : State} (h : MemOk s) : MemOk (modBucket key b f s) :=
  modStep_memOk h

theorem modShard_memOk {key i : Nat} {f : ShardRun → ShardRun} {s : State} (h : MemOk s) : MemOk (modShard key i f s) :=
  modStep_memOk h

theorem sendFrame_memOk {key : Nat} {pb : List Byte} {step rank dest : Nat} {handle : FrameHdr} {p : List Byte}
    {s : State} (h : MemOk s) :
    MemOk (sendFrame key pb step rank dest handle p s) :=
  post_memOk h

theorem sendRecord_memOk {key : Nat} {pb : List Byte} {step kind : Nat} {dests : List Nat} {b : List Byte}
    {s : State} (h : MemOk s) :
    MemOk (sendRecord key pb step kind dests b s) := by
  unfold sendRecord
  dsimp only
  exact foldl_keeps (P := MemOk) (fun _ _ hs => foldl_keeps (P := MemOk) (fun _ _ hs => sendFrame_memOk hs) _ hs) _ h

theorem frameError_memOk {av : Nat} {s : State} (h : MemOk s) : MemOk (frameError av s) :=
  modAv_memOk h

theorem takeFrame_memOk {f : List Byte → Bool} {s : State} (h : MemOk s) {r : Nat × List Byte × State}
    (e : takeFrame f s = some r) : MemOk r.2.2 := by
  unfold takeFrame at e
  split at e
  · cases e
  · cases e
    exact h

theorem finishCmd_memOk {c : Cmd} {lay : Nat} {f : CmdEnd} {s : State} (h : MemOk s) : MemOk (finishCmd c lay f s) := by
  unfold finishCmd
  dsimp only
  exact retire_memOk (writeReply_memOk h rfl)

theorem dropGrp_memOk {key : Nat} {s : State} (h : MemOk s) : MemOk (dropGrp key s) :=
  h

theorem formFail_memOk {key st : Nat} {s : State} (h : MemOk s) : MemOk (formFail key st s) := by
  unfold formFail
  split
  · exact h
  · dsimp only
    split
    · exact dropGrp_memOk h
    · exact finishCmd_memOk (dropGrp_memOk h)

theorem formDone_memOk {key : Nat} {homes : List Nat} {s : State} (h : MemOk s) : MemOk (formDone key homes s) := by
  unfold formDone
  split
  · exact h
  · dsimp only
    split
    · exact modGrp_memOk h
    · exact finishCmd_memOk (modGrp_memOk h)

theorem formSettle_memOk {key : Nat} {s : State} (h : MemOk s) : MemOk (formSettle key s) := by
  unfold formSettle
  split
  · exact h
  · split
    · exact h
    · split
      · exact formFail_memOk h
      · split
        · exact h
        · split
          · exact formFail_memOk h
          · split
            · dsimp only
              split
              · exact ask_memOk (modGrp_memOk h) rfl
              · exact formDone_memOk (sendRecord_memOk (ask_memOk (modGrp_memOk h) rfl))
            · split
              · exact h
              · split
                · exact formDone_memOk h
                · split
                  · exact h
                  · exact formDone_memOk h

theorem homesAnswered_memOk {key : Nat} {table : Option (List Nat)} {s : State} (h : MemOk s) :
    MemOk (homesAnswered key table s) := by
  unfold homesAnswered
  split
  · exact h
  · split
    · exact formFail_memOk h
    · dsimp only
      exact formDone_memOk (sendRecord_memOk h)

theorem formBody_memOk {c : Cmd} {s : State} (h : MemOk s) {r : State × Did} (e : formBody c s = r) : MemOk r.1 := by
  subst e
  unfold formBody
  dsimp only
  split
  · exact h
  · split
    · exact h
    · split
      · exact h
      · dsimp only
        refine formSettle_memOk ?_
        split
        · exact h
        · exact sendRecord_memOk h

theorem execFormGroup_memOk {q : QId} {cid : Nat} {s : State} (h : MemOk s) : ResOk (execFormGroup q cid s) :=
  .next (runCmd_memOk (fun _ _ hs => formBody_memOk hs rfl) h)

theorem withdrawForm_memOk {key : Nat} {s : State} (h : MemOk s) : MemOk (withdrawForm key s) := by
  unfold withdrawForm
  split
  · exact h
  · exact sendRecord_memOk (dropGrp_memOk h)

theorem takeForm_memOk {key : Nat} {g : Group} {m : List Byte} {s : State} (h : MemOk s) : MemOk (takeForm key g m s) := by
  unfold takeForm
  dsimp only
  split
  · exact formSettle_memOk (modGrp_memOk h)
  · exact formSettle_memOk (modGrp_memOk h)

theorem execFormFrame_memOk {s : State} (h : MemOk s) : ResOk (execFormFrame s) := by
  unfold execFormFrame
  split
  · exact .next h
  next heq =>
    split
    · exact .next (frameError_memOk (takeFrame_memOk h heq))
    · split
      · exact .next (takeForm_memOk (takeFrame_memOk h heq))
      · exact .next (frameError_memOk (takeFrame_memOk h heq))

theorem execLeaveFrame_memOk {s : State} (h : MemOk s) : ResOk (execLeaveFrame s) := by
  unfold execLeaveFrame
  split
  · exact .next h
  next heq =>
    split
    · exact .next (frameError_memOk (takeFrame_memOk h heq))
    · split
      · exact .next (formFail_memOk (takeFrame_memOk h heq))
      · exact .next (modGrp_memOk (takeFrame_memOk h heq))

theorem grpStatusBody_memOk {c : Cmd} {s : State} (h : MemOk s) {r : State × Did}
    (e : grpStatusBody c s = r) : MemOk r.1 := by
  subst e
  unfold grpStatusBody
  split
  · exact h
  · split
    · exact h
    · exact h

theorem execGroupStatus_memOk {q : QId} {cid : Nat} {s : State} (h : MemOk s) : ResOk (execGroupStatus q cid s) :=
  .next (runCmd_memOk (fun _ _ hs => grpStatusBody_memOk hs rfl) h)

theorem ueRow_memOk {op j word : Nat} {s : State} (h : MemOk s) : MemOk (ueRow op j word s) := by
  unfold ueRow
  split
  · exact h
  · split
    · exact h
    · split
      · exact h
      · dsimp only
        split
        · exact h
        · exact h

theorem execUeEnd_memOk {j word : Nat} {s : State} (h : MemOk s) : ResOk (execUeEnd j word s) :=
  .next (ueRow_memOk h)

theorem execUeMov_memOk {j word : Nat} {s : State} (h : MemOk s) : ResOk (execUeMov j word s) :=
  .next (ueRow_memOk h)

theorem execUeAdd_memOk {j word : Nat} {s : State} (h : MemOk s) : ResOk (execUeAdd j word s) :=
  .next (ueRow_memOk h)

theorem execUeSub_memOk {j word : Nat} {s : State} (h : MemOk s) : ResOk (execUeSub j word s) :=
  .next (ueRow_memOk h)

theorem execUeMul_memOk {j word : Nat} {s : State} (h : MemOk s) : ResOk (execUeMul j word s) :=
  .next (ueRow_memOk h)

theorem execUeMadd_memOk {j word : Nat} {s : State} (h : MemOk s) : ResOk (execUeMadd j word s) :=
  .next (ueRow_memOk h)

theorem execUeDiv_memOk {j word : Nat} {s : State} (h : MemOk s) : ResOk (execUeDiv j word s) :=
  .next (ueRow_memOk h)

theorem execUeSqrt_memOk {j word : Nat} {s : State} (h : MemOk s) : ResOk (execUeSqrt j word s) :=
  .next (ueRow_memOk h)

theorem execUeMax_memOk {j word : Nat} {s : State} (h : MemOk s) : ResOk (execUeMax j word s) :=
  .next (ueRow_memOk h)

theorem execUeMin_memOk {j word : Nat} {s : State} (h : MemOk s) : ResOk (execUeMin j word s) :=
  .next (ueRow_memOk h)

theorem execUeAbs_memOk {j word : Nat} {s : State} (h : MemOk s) : ResOk (execUeAbs j word s) :=
  .next (ueRow_memOk h)

theorem execUeSign_memOk {j word : Nat} {s : State} (h : MemOk s) : ResOk (execUeSign j word s) :=
  .next (ueRow_memOk h)

theorem execUeSel_memOk {j word : Nat} {s : State} (h : MemOk s) : ResOk (execUeSel j word s) :=
  .next (ueRow_memOk h)

theorem raiseCause_memOk {key n : Nat} {s : State} (h : MemOk s) : MemOk (raiseCause key n s) :=
  modStep_memOk h

theorem ueCounts_memOk {key i : Nat} {k : Counts} {s : State} (h : MemOk s) : MemOk (ueCounts key i k s) :=
  addCounts_memOk (modShard_memOk h)

theorem blockSettled_memOk {key i j : Nat} {ok : Bool} {s : State} (h : MemOk s) : MemOk (blockSettled key i j ok s) :=
  modShard_memOk h

theorem broadcastBlock_memOk {key : Nat} {pb : List Byte} {step : Nat} {d : ShardRun} {j : Nat} {ok : Bool}
    {cast : List Nat} {s : State} (h : MemOk s) :
    MemOk (broadcastBlock key pb step d j ok cast s) := by
  unfold broadcastBlock
  dsimp only
  exact foldl_keeps (P := MemOk) (fun _ _ hs => sendFrame_memOk hs) _ h

theorem finishShard_memOk {key i : Nat} {s : State} (h : MemOk s) : MemOk (finishShard key i s) := by
  unfold finishShard
  split
  · split
    · exact h
    · split
      · exact h
      · dsimp only
        refine finishWo_memOk ?_
        split
        · exact h
        · exact modShard_memOk (courtWrite_memOk h)
  · exact h

theorem homeBlock_memOk {key i j : Nat} {g : List F32} {host : Option (List F32 × List F32 × List F32)} {bad : List Nat}
    {s : State} (h : MemOk s) : MemOk (homeBlock key i j g host bad s) := by
  unfold homeBlock
  split
  · split
    · exact h
    extract_lets refuse
    have hrefuse : ∀ s, MemOk s → MemOk (refuse s) :=
      fun _ hs => broadcastBlock_memOk (blockSettled_memOk (raiseCause_memOk hs))
    split
    · exact hrefuse _ (poisonRead_memOk h)
    rename_i g' r u s1 s2 v o s3 _ _
    have h1 : MemOk s1 := by
      dsimp only [s1]
      split <;> exact h
    have h2 : MemOk s2 := ueCounts_memOk h1
    split
    · exact hrefuse _ h
    split
    · exact hrefuse _ h2
    · exact broadcastBlock_memOk (blockSettled_memOk
        (foldl_keeps (P := MemOk) (fun _ _ hs => courtWrite_memOk hs) _ (ueCounts_memOk h2)))
  · exact h

theorem openBucket_memOk {key b : Nat} {s : State} (h : MemOk s) : MemOk (openBucket key b s) :=
  modStep_memOk h

theorem progressed_memOk {key : Nat} {s : State} (h : MemOk s) : MemOk (progressed key s) :=
  modStep_memOk h

theorem takeBlocks_memOk {key : Nat} {bad : List Nat} {i : Nat} {s : State} (h : MemOk s) :
    MemOk (takeBlocks key bad i s) := by
  unfold takeBlocks
  split
  · exact h
  · split
    · exact h
    · split
      · exact h
      · dsimp only
        exact finishShard_memOk (foldl_keeps (P := MemOk) (fun _ _ hs => modBucket_memOk (homeBlock_memOk hs)) _ h)

theorem takeAll_memOk {key : Nat} {bad : List Nat} {s : State} (h : MemOk s) : MemOk (takeAll key bad s) := by
  unfold takeAll
  split
  · exact h
  · exact settle_memOk (foldl_keeps (P := MemOk) (fun _ _ hs => takeBlocks_memOk hs) _ h)

theorem abandonStep_memOk {key st : Nat} {s : State} (h : MemOk s) : MemOk (abandonStep key st s) := by
  unfold abandonStep
  split
  · exact h
  · split
    · exact h
    · dsimp only
      exact modStep_memOk (abortRun_memOk h)

theorem areaPut_memOk {court func : Nat} {bs : List (List Byte)} {s : State} (h : MemOk s) {r : Option (List Nat) × State}
    (e : areaPut court func bs s = r) : MemOk r.2 := by
  subst e
  unfold areaPut
  split
  · exact h
  extract_lets p total at_ w
  have hp : MemOk p.2 :=
    foldl_keeps (P := fun p : List (List Byte) × State => MemOk p.2) (fun p b hp => by
      split
      · exact sealHost_memOk hp rfl
      · exact hp) _ h
  have hw : MemOk w.2.2 :=
    foldl_keeps (P := fun w : List Nat × Nat × State => MemOk w.2.2) (fun _ _ hw => hostWrite_memOk hw) _ hp
  split
  · exact h
  · exact hw

theorem askHome_memOk {key : Nat} {s : State} (h : MemOk s) : MemOk (askHome key s) := by
  unfold askHome
  split
  · exact h
  extract_lets bs func scaled
  split
  · exact h
  split
  next heq =>
    have h := areaPut_memOk h heq
    refine abandonStep_memOk ?_
    split
    · exact h
    · exact ask_memOk h rfl
  next heq => exact ask_memOk (modStep_memOk (areaPut_memOk h heq)) rfl

theorem clipAnswered_memOk {key disp : Nat} {data back : List Byte} {s : State} (h : MemOk s) :
    MemOk (clipAnswered key disp data back s) := by
  unfold clipAnswered
  split
  · exact h
  extract_lets c good bs put s1 s2
  have hput : ∀ p b, MemOk p.2 → MemOk (put p b).2 := fun _ _ hp =>
    foldl_keeps (P := MemOk) (fun _ _ hs => modBucket_memOk hs) _ hp
  have h1 : MemOk s1 := by
    dsimp only [s1]
    split
    · exact h
    · exact foldl_keeps (P := fun p : Nat × State => MemOk p.2) (fun p b hp => hput p b hp) _ h
  split
  · exact abandonStep_memOk h
  · exact takeAll_memOk (askHome_memOk (modStep_memOk h1))

theorem updateAnswered_memOk {key disp : Nat} {data : List Byte} {s : State} (h : MemOk s) :
    MemOk (updateAnswered key disp data s) := by
  unfold updateAnswered
  split
  · exact h
  · split
    · exact abandonStep_memOk h
    · exact takeAll_memOk (modStep_memOk h)

theorem homeTake_memOk {key b q : Nat} {x : RedBlock} {scaled : Bool} {s : State} (h : MemOk s) :
    MemOk (homeTake key b q x scaled s) := by
  unfold homeTake
  split
  · exact h
  · dsimp only
    refine modBucket_memOk (progressed_memOk ?_)
    split
    · exact raiseCause_memOk (addCounts_memOk (openBucket_memOk h))
    · exact addCounts_memOk (openBucket_memOk h)

theorem askBucket_memOk {key b : Nat} {s : State} (h : MemOk s) : MemOk (askBucket key b s) := by
  unfold askBucket
  split
  · exact h
  extract_lets r k data a
  have ha : MemOk a.2 := ask_memOk h rfl
  split
  · exact ha
  · exact abandonStep_memOk ha

theorem registerShard_memOk {key : Nat} {d : ShardRun} {bad : List Nat} {s : State} (h : MemOk s) :
    MemOk (registerShard key d bad s) := by
  unfold registerShard
  split
  · exact h
  · dsimp only
    refine askHome_memOk (takeBlocks_memOk ?_)
    split
    · exact askBucket_memOk (openBucket_memOk (modStep_memOk h))
    · exact openBucket_memOk (modStep_memOk h)

theorem resultFrameRow_memOk {mem : Findings} {s : State} (h : MemOk s) : ResOk (resultFrameRow mem s) := by
  unfold resultFrameRow
  split
  · exact .next h
  next heq =>
    split
    · exact .next (frameError_memOk (takeFrame_memOk h heq))
    · dsimp only
      split
      · exact .next (frameError_memOk (takeFrame_memOk h heq))
      · exact .next (takeAll_memOk (askHome_memOk (homeTake_memOk (applyFindings_memOk (takeFrame_memOk h heq)))))

theorem receiverBlock_memOk {key i j : Nat} {ok : Bool} {cast : List Nat} {s : State} (h : MemOk s) :
    MemOk (receiverBlock key i j ok cast s) := by
  unfold receiverBlock
  split
  · split
    · exact h
    · split
      · dsimp only
        split
        · exact finishShard_memOk (blockSettled_memOk h)
        · split
          · exact finishShard_memOk (blockSettled_memOk (raiseCause_memOk (poisonRead_memOk h)))
          · exact finishShard_memOk (blockSettled_memOk (ueCounts_memOk (courtWrite_memOk h)))
      · exact h
  · exact h

theorem execBroadcastFrame_memOk {s : State} (h : MemOk s) : ResOk (execBroadcastFrame s) := by
  unfold execBroadcastFrame
  split
  · exact .next h
  next heq =>
    split
    · exact .next (frameError_memOk (takeFrame_memOk h heq))
    · dsimp only
      split
      · exact .next (frameError_memOk (takeFrame_memOk h heq))
      · exact .next (settle_memOk (foldl_keeps (P := MemOk) (fun _ _ hs => receiverBlock_memOk hs) _ (progressed_memOk
          (foldl_keeps (P := MemOk) (fun _ _ hs => sendFrame_memOk hs) _ (takeFrame_memOk h heq)))))

theorem terminalTake_memOk {key b q : Nat} {x : RedBlock} {s : State} (h : MemOk s) : MemOk (terminalTake key b q x s) := by
  unfold terminalTake
  split
  · exact h
  · dsimp only
    split
    · exact modBucket_memOk h
    · split
      · exact homeTake_memOk (modBucket_memOk h)
      · exact sendFrame_memOk (modBucket_memOk h)

theorem foldAt_memOk {fuel key b stage q : Nat} {s : State} (h : MemOk s) : MemOk (foldAt fuel key b stage q s) := by
  induction fuel generalizing stage s with
  | zero => exact h
  | succ fuel ih =>
    unfold foldAt
    split
    · exact h
    extract_lets r k me s1
    have h1 : MemOk s1 := modBucket_memOk (progressed_memOk h)
    split
    · refine iteInduction (motive := MemOk) (fun _ => h) (fun _ => ?_)
      extract_lets o s2 s3
      have h2 : MemOk s2 := iteInduction (motive := MemOk) (fun _ => h1) (fun _ => modGrp_memOk h1)
      have h3 : MemOk s3 := by
        dsimp only [s3]
        split
        · exact modStep_memOk (modGrp_memOk h2)
        · exact h2
      split
      · exact sendFrame_memOk (modBucket_memOk h3)
      split
      · exact ih (modBucket_memOk h3)
      · exact terminalTake_memOk h3
    · exact h

theorem enterBlock_memOk {key b q : Nat} {x : RedBlock} {s : State} (h : MemOk s) : MemOk (enterBlock key b q x s) :=
  foldAt_memOk (modBucket_memOk h)

theorem beginBucket_memOk {key : Nat} {o : SendOp} {wo : Option (Nat × Nat)} {s : State} (h : MemOk s) :
    MemOk (beginBucket key o wo s) :=
  modBucket_memOk (openBucket_memOk h)

theorem handBucket_memOk {key b : Nat} {blocks : List RedBlock} {s : State} (h : MemOk s) :
    MemOk (handBucket key b blocks s) := by
  unfold handBucket
  split
  · exact h
  · dsimp only
    split
    next heq =>
      refine abandonStep_memOk ?_
      split
      · exact areaPut_memOk (modBucket_memOk h) heq
      · exact ask_memOk (areaPut_memOk (modBucket_memOk h) heq) rfl
    next heq => exact ask_memOk (areaPut_memOk (modBucket_memOk h) heq) rfl

theorem contribute_memOk {key b : Nat} {blocks : List RedBlock} {s : State} (h : MemOk s) :
    MemOk (contribute key b blocks s) := by
  unfold contribute
  split
  · exact h
  · dsimp only
    split
    · exact handBucket_memOk (modBucket_memOk (progressed_memOk h))
    · exact foldl_keeps (P := MemOk) (fun _ _ hs => enterBlock_memOk hs) _ (modBucket_memOk (progressed_memOk h))

theorem sendLayer_memOk {key : Nat} {v : WoEnv} {o : SendOp} {s : State} (h : MemOk s) {r : State × Counts}
    (e : sendLayer key v o s = r) : MemOk r.1 := by
  subst e
  unfold sendLayer
  split
  · exact h
  · dsimp only
    exact takeAll_memOk (askHome_memOk (contribute_memOk (beginBucket_memOk h)))

theorem tileDone_memOk {key b : Nat} {s : State} (h : MemOk s) : MemOk (tileDone key b s) := by
  unfold tileDone
  split
  · exact h
  · dsimp only
    split
    · exact h
    · split
      · exact h
      · refine finishWo_memOk ?_
        split
        · exact handBucket_memOk (modBucket_memOk h)
        · exact modBucket_memOk h

theorem supplyBucket_memOk {key b : Nat} {es : List (Nat × F32)} {s : State} (h : MemOk s) {r : State × Counts}
    (e : supplyBucket key b es s = r) : MemOk r.1 := by
  subst e
  unfold supplyBucket
  split
  · exact h
  · dsimp only
    refine takeAll_memOk (askHome_memOk (tileDone_memOk ?_))
    split
    · exact modBucket_memOk (progressed_memOk h)
    · refine foldl_keeps (P := MemOk) (fun _ _ hs => ?_) _ (modBucket_memOk (progressed_memOk h))
      split
      · exact hs
      · split
        · exact hs
        · exact enterBlock_memOk hs

theorem bucketAnswered_memOk {key b : Nat} {home : Bool} {disp : Nat} {data : List Byte} {s : State} (h : MemOk s) :
    MemOk (bucketAnswered key b home disp data s) := by
  unfold bucketAnswered
  split
  · exact h
  · dsimp only
    split
    · split
      · exact settle_memOk h
      · exact abandonStep_memOk h
    · split
      · exact abandonStep_memOk h
      · exact takeAll_memOk (askHome_memOk (foldl_keeps (P := MemOk) (fun _ _ hs => homeTake_memOk hs) _
          (modBucket_memOk h)))

theorem execReduceFrame_memOk {s : State} (h : MemOk s) : ResOk (execReduceFrame s) := by
  unfold execReduceFrame
  split
  · exact .next h
  next heq =>
    split
    · exact .next (frameError_memOk (takeFrame_memOk h heq))
    · dsimp only
      split
      · exact .next (frameError_memOk (takeFrame_memOk h heq))
      · exact .next (takeAll_memOk (askHome_memOk (foldAt_memOk (modBucket_memOk (openBucket_memOk (progressed_memOk
          (takeFrame_memOk h heq)))))))

theorem writeScales_memOk {c : Court} {ledgerAt : Nat} {ks : List (Nat × Int)} {s : State} (h : MemOk s) :
    MemOk (writeScales c ledgerAt ks s) :=
  foldl_keeps (P := MemOk) (fun _ _ hs => courtWrite_memOk hs) _ h

theorem stepBody_memOk {distil : Bool} {c : Cmd} {s : State} (h : MemOk s) {r : State × Did}
    (e : stepBody distil c s = r) : MemOk r.1 := by
  subst e
  unfold stepBody
  split
  · exact h
  · split
    · exact h
    · exact modCmd_memOk h

theorem execStep_memOk {q : QId} {cid : Nat} {s : State} (h : MemOk s) : ResOk (execStep q cid s) :=
  .next (runCmd_memOk (fun _ _ hs => stepBody_memOk hs rfl) h)

theorem execDistilStep_memOk {q : QId} {cid : Nat} {s : State} (h : MemOk s) : ResOk (execDistilStep q cid s) :=
  .next (runCmd_memOk (fun _ _ hs => stepBody_memOk hs rfl) h)

theorem retireStep_memOk {t : TrainStep} {status cause promoted shards : Nat} {s : State} (h : MemOk s) :
    MemOk (retireStep t status cause promoted shards s) := by
  unfold retireStep
  split
  · exact h
  · dsimp only
    exact retire_memOk h

theorem writeEntries_memOk {c : Court} {g : Group} {t : TrainStep} {r : List Byte}
    {f : List Byte → EntryNews → List Byte} {s : State} (h : MemOk s) :
    MemOk (writeEntries s c g t r f) := by
  refine foldl_keeps (P := MemOk) (fun _ _ hs => ?_) _ h
  split
  · exact hs
  · exact courtWrite_memOk hs

theorem writeLedger_memOk {g : Group} {t : TrainStep} {r : List Byte} {committed : Bool} {s : State} (h : MemOk s) :
    MemOk (writeLedger g t r committed s) := by
  unfold writeLedger
  split
  · exact h
  · dsimp only
    split
    · refine courtWrite_memOk ?_
      split
      · exact courtWrite_memOk (writeEntries_memOk h)
      · exact writeEntries_memOk h
    · refine courtWrite_memOk ?_
      split
      · exact writeEntries_memOk h
      · exact h

theorem applyNext_memOk {court handle : Nat} {s : State} (h : MemOk s) : MemOk (applyNext court handle s) := by
  unfold applyNext
  dsimp only
  split
  · split
    · split
      · exact modEntry_memOk h
      · exact installVersion_memOk (modEntry_memOk h)
    · refine retire_memOk ?_
      split
      · exact modEntry_memOk h
      · exact installVersion_memOk (modEntry_memOk h)
  · exact h

theorem releaseBinds_memOk {t : TrainStep} {s : State} (h : MemOk s) : MemOk (releaseBinds t s) := by
  unfold releaseBinds
  dsimp only
  refine foldl_keeps (P := MemOk) (fun _ _ hs => refSlot_memOk hs) _ (foldl_keeps (P := MemOk)
    (fun _ _ hs => dropVersion_memOk hs) _ (foldl_keeps (P := MemOk) (fun _ _ hs => ?_) _ h))
  split
  · exact modEntry_memOk hs
  · exact hs

theorem commitVersion_memOk {court : Nat} {b : TrainBind} {s : State} (h : MemOk s) : MemOk (commitVersion court b s) := by
  unfold commitVersion
  split
  · split
    · dsimp only
      exact installVersion_memOk h
    · exact h
  · exact h

theorem commitRecord_memOk {c : Court} {committed : Bool} {d : ShardRun} {s : State} (h : MemOk s) :
    MemOk (commitRecord c committed d s) := by
  unfold commitRecord
  dsimp only
  split
  · exact courtWrite_memOk h
  · exact courtWrite_memOk h

theorem endStep_memOk {key : Nat} {s : State} (h : MemOk s) : MemOk (endStep key s) := by
  unfold endStep
  dsimp only
  dsimp only [MemOk]
  exact modGrp_memOk h

theorem applyNexts_memOk {court : Nat} {t : TrainStep} {s : State} (h : MemOk s) : MemOk (applyNexts court t s) :=
  foldl_keeps (P := MemOk) (fun _ _ hs => applyNext_memOk hs) _ h

theorem commitStep_memOk {key : Nat} {r : List Byte} {s : State} (h : MemOk s) : MemOk (commitStep key r s) := by
  unfold commitStep
  split
  · dsimp only
    exact retireStep_memOk (applyNexts_memOk (modGrp_memOk (endStep_memOk (writeLedger_memOk (foldl_keeps (P := MemOk)
      (fun _ _ hs => commitVersion_memOk hs) _ (releaseBinds_memOk (foldl_keeps (P := MemOk)
      (fun _ _ hs => commitRecord_memOk hs) _ h)))))))
  · exact h

theorem skipStep_memOk {key : Nat} {r : List Byte} {s : State} (h : MemOk s) : MemOk (skipStep key r s) := by
  unfold skipStep
  split
  · dsimp only
    refine retireStep_memOk (applyNexts_memOk (endStep_memOk ?_))
    split
    · exact writeLedger_memOk (releaseBinds_memOk (foldl_keeps (P := MemOk) (fun _ _ hs => commitRecord_memOk hs) _ h))
    · exact releaseBinds_memOk (foldl_keeps (P := MemOk) (fun _ _ hs => commitRecord_memOk hs) _ h)
  · exact h

theorem holdStep_memOk {key status cause : Nat} {r : List Byte} {s : State} (h : MemOk s) :
    MemOk (holdStep key status cause r s) := by
  unfold holdStep
  split
  · exact h
  · dsimp only
    refine retireStep_memOk (modStep_memOk (applyNexts_memOk ?_))
    split
    · exact writeLedger_memOk (releaseBinds_memOk h)
    · exact releaseBinds_memOk h

theorem discardHeld_memOk {key : Nat} {s : State} (h : MemOk s) : MemOk (discardHeld key s) := by
  unfold discardHeld
  split
  · split
    · exact endStep_memOk (foldl_keeps (P := MemOk) (fun _ _ hs => commitRecord_memOk hs) _ h)
    · exact h
  · exact h

theorem sendRepair_memOk {key : Nat} {g : Group} {t : TrainStep} {shard : Nat} {s : State} (h : MemOk s) :
    MemOk (sendRepair key g t shard s) := by
  unfold sendRepair
  split
  · dsimp only
    exact foldl_keeps (P := MemOk) (fun _ _ hs => foldl_keeps (P := MemOk) (fun _ _ hs => sendFrame_memOk hs) _ hs) _ h
  · exact h

theorem voteUp_memOk {own : State → State} {key : Nat} {s : State} (hown : ∀ s, MemOk s → MemOk (own s)) (h : MemOk s) :
    MemOk (voteUp own key s) := by
  unfold voteUp
  split
  · exact h
  extract_lets me full cast pieces s1 cause r s2
  refine iteInduction (motive := MemOk) (fun _ => h) (fun _ => ?_)
  split
  · exact hown _ (sendRecord_memOk (modStep_memOk (modStep_memOk h)))
  · exact sendRecord_memOk (modStep_memOk h)

theorem secondVote_memOk {own : State → State} {key : Nat} {s : State} (hown : ∀ s, MemOk s → MemOk (own s)) (h : MemOk s) :
    MemOk (secondVote own key s) := by
  unfold secondVote
  split
  · exact h
  · split
    · exact h
    · dsimp only
      exact voteUp_memOk hown (modStep_memOk h)

theorem beginRepair_memOk {own : State → State} {key : Nat} {first : List Byte} {ranks : List (Nat × Nat)}
    {s : State} (hown : ∀ s, MemOk s → MemOk (own s)) (h : MemOk s) :
    MemOk (beginRepair own key first ranks s) := by
  unfold beginRepair
  split
  · exact h
  · dsimp only
    exact secondVote_memOk hown (foldl_keeps (P := MemOk) (fun _ _ hs => sendRepair_memOk hs) _ (modStep_memOk h))

theorem startRepair_memOk {own : State → State} {key : Nat} {r : List Byte} {s : State}
    (hown : ∀ s, MemOk s → MemOk (own s)) (h : MemOk s) :
    MemOk (startRepair own key r s) := by
  unfold startRepair
  split
  · exact h
  · dsimp only
    split
    · exact beginRepair_memOk hown (modStep_memOk h)
    · split
      · split
        · exact ask_memOk (modStep_memOk h) rfl
        · exact holdStep_memOk (ask_memOk (modStep_memOk h) rfl)
      · exact modStep_memOk h

theorem applyOutcome_memOk {n key : Nat} {s : State} (h : MemOk s) : MemOk (applyOutcome n key s) := by
  induction n generalizing s with
  | zero => exact h
  | succ n ih =>
    unfold applyOutcome
    split
    · exact h
    dsimp only
    split
    · split
      · exact skipStep_memOk h
      split
      · exact commitStep_memOk h
      · exact startRepair_memOk (fun _ hs => ih hs) h
    · split
      · split
        · exact holdStep_memOk h
        · exact beginRepair_memOk (fun _ hs => ih hs) h
      split
      · exact commitStep_memOk h
      · exact holdStep_memOk h
    · exact h

theorem castVote_memOk {key : Nat} {s : State} (h : MemOk s) : MemOk (castVote key s) := by
  unfold castVote
  split
  · exact h
  · split
    · exact h
    · dsimp only
      exact voteUp_memOk (fun _ hs => applyOutcome_memOk hs) (modStep_memOk h)

theorem takePlanEnd_memOk {key : Nat} {s : State} (h : MemOk s) : MemOk (takePlanEnd key s) := by
  unfold takePlanEnd
  split
  · exact h
  next heq => exact modStep_memOk (takeRun_memOk h heq)

theorem execVoteCast_memOk {court group : Nat} {s : State} (h : MemOk s) : ResOk (execVoteCast court group s) := by
  unfold execVoteCast
  dsimp only
  split
  · exact .next (takePlanEnd_memOk h)
  · split
    · exact .next (castVote_memOk (takePlanEnd_memOk h))
    · exact .next (takePlanEnd_memOk h)

theorem execVoteFrame_memOk {s : State} (h : MemOk s) : ResOk (execVoteFrame s) := by
  unfold execVoteFrame
  split
  · exact .next h
  next heq =>
    split
    · exact .next (frameError_memOk (takeFrame_memOk h heq))
    · dsimp only
      exact .next (voteUp_memOk (fun _ hs => applyOutcome_memOk hs) (modStep_memOk (takeFrame_memOk h heq)))

theorem execOutcomeFrame_memOk {s : State} (h : MemOk s) : ResOk (execOutcomeFrame s) := by
  unfold execOutcomeFrame
  split
  · exact .next h
  next heq =>
    split
    · exact .next (frameError_memOk (takeFrame_memOk h heq))
    · dsimp only
      refine .next ?_
      split
      · refine settle_memOk (applyOutcome_memOk (modStep_memOk ?_))
        split
        · exact foldl_keeps (P := MemOk) (fun _ _ hs => sendFrame_memOk hs) _ (takeFrame_memOk h heq)
        · exact takeFrame_memOk h heq
      · refine modStep_memOk ?_
        split
        · exact foldl_keeps (P := MemOk) (fun _ _ hs => sendFrame_memOk hs) _ (takeFrame_memOk h heq)
        · exact takeFrame_memOk h heq

theorem repairBlock_memOk {key shard q : Nat} {p : List Byte} {s : State} (h : MemOk s) :
    MemOk (repairBlock key shard q p s) := by
  unfold repairBlock
  split
  · split
    · split
      · exact h
      · dsimp only
        split
        · refine modStep_memOk ?_
          split
          · exact courtWrite_memOk (courtWrite_memOk h)
          · exact courtWrite_memOk (courtWrite_memOk h)
          · exact courtWrite_memOk h
        · refine modShard_memOk (courtWrite_memOk (modStep_memOk ?_))
          split
          · exact courtWrite_memOk (courtWrite_memOk h)
          · exact courtWrite_memOk (courtWrite_memOk h)
          · exact courtWrite_memOk h
    · exact h
  · exact h

theorem execRepairFrame_memOk {s : State} (h : MemOk s) : ResOk (execRepairFrame s) := by
  unfold execRepairFrame
  split
  · exact .next h
  next heq =>
    split
    · exact .next (frameError_memOk (takeFrame_memOk h heq))
    · dsimp only
      refine .next ?_
      refine settle_memOk (secondVote_memOk (fun _ hs => applyOutcome_memOk hs) (repairBlock_memOk ?_))
      split
      · exact foldl_keeps (P := MemOk) (fun _ _ hs => sendFrame_memOk hs) _ (takeFrame_memOk h heq)
      · exact takeFrame_memOk h heq

theorem resyncAnswered_memOk {key disp : Nat} {data : List Byte} {s : State} (h : MemOk s) :
    MemOk (resyncAnswered key disp data s) := by
  unfold resyncAnswered
  split
  · exact h
  · dsimp only
    exact settle_memOk (applyOutcome_memOk (modStep_memOk (sendRecord_memOk h)))

theorem setStep_memOk {key : Nat} {c : Cmd} {s : State} (h : MemOk s) : MemOk (setStep key c s) := by
  unfold setStep
  split
  · exact h
  · exact modGrp_memOk h

theorem voteOnly_memOk {key : Nat} {c : Cmd} {st : Nat} {s : State} (h : MemOk s) : MemOk (voteOnly key c st s) :=
  castVote_memOk (modStep_memOk (setStep_memOk h))

theorem openFail_memOk {key : Nat} {c : Cmd} {st : Nat} {s : State} (h : MemOk s) : MemOk (openFail key c st s) := by
  unfold openFail
  dsimp only
  exact castVote_memOk (modStep_memOk (setStep_memOk (retire_memOk h)))

theorem reserveNext_memOk {key : Nat} {c : Cmd} {n i : Nat} {s : State} (h : MemOk s) {r : State × Reserved}
    (e : reserveNext key c n i s = r) : MemOk r.1 := by
  subst e
  induction n generalizing i s with
  | zero => exact h
  | succ n ih =>
    unfold reserveNext
    split
    · exact h
    split
    · exact ih h
    split
    · exact h
    dsimp only
    split
    · exact h
    split
    next heq => exact makeRoom_memOk h heq
    next heq => exact makeRoom_memOk h heq
    next heq => exact ih (makeRoom_memOk h heq)

theorem unopen_memOk {key : Nat} {s : State} (h : MemOk s) : MemOk (unopen key s) := by
  unfold unopen
  split
  · exact h
  · exact endStep_memOk (releaseBinds_memOk h)

theorem copyNexts_memOk {k : Court} {t : TrainStep} {s : State} (h : MemOk s) : MemOk (copyNexts k t s) := by
  refine foldl_keeps (P := MemOk) (fun _ _ hs => ?_) _ h
  split
  · exact courtMove_memOk hs
  · exact hs

theorem startPlan_memOk {key : Nat} {k : Court} {c : Cmd} {p : Package} {base : Option Nat} {ys : List SymRange}
    {bs : List (Nat × Nat)} {s : State} (h : MemOk s) :
    MemOk (startPlan key k c p base ys bs s) := by
  unfold startPlan
  split
  · exact h
  · dsimp only
    exact admitRun_memOk (modStep_memOk (writeScales_memOk (copyNexts_memOk h)))

theorem bindStep_memOk {key : Nat} {k : Court} {c : Cmd} {p : Package} {base teacher : Option Nat}
    {ys : List SymRange} {s : State} (h : MemOk s) :
    MemOk (bindStep key k c p base teacher ys s) := by
  unfold bindStep
  dsimp only
  split
  next heq =>
    refine unopen_memOk (reserveNext_memOk (foldl_keeps (P := MemOk) (fun _ _ hs => ?_) _ (modStep_memOk
      (setStep_memOk (foldl_keeps (P := MemOk) (fun _ _ hs => modSlot_memOk hs) _ (bindAll_memOk h rfl))))) heq)
    split
    · exact modEntry_memOk hs
    · exact hs
  next heq =>
    refine openFail_memOk (unopen_memOk (reserveNext_memOk (foldl_keeps (P := MemOk) (fun _ _ hs => ?_) _
      (modStep_memOk (setStep_memOk (foldl_keeps (P := MemOk) (fun _ _ hs => modSlot_memOk hs) _
      (bindAll_memOk h rfl))))) heq))
    split
    · exact modEntry_memOk hs
    · exact hs
  next heq =>
    split
    · refine startPlan_memOk (reserveNext_memOk (foldl_keeps (P := MemOk) (fun _ _ hs => ?_) _ (modStep_memOk
        (setStep_memOk (foldl_keeps (P := MemOk) (fun _ _ hs => modSlot_memOk hs) _ (bindAll_memOk h rfl))))) heq)
      split
      · exact modEntry_memOk hs
      · exact hs
    · refine openFail_memOk (unopen_memOk (reserveNext_memOk (foldl_keeps (P := MemOk) (fun _ _ hs => ?_) _
        (modStep_memOk (setStep_memOk (foldl_keeps (P := MemOk) (fun _ _ hs => modSlot_memOk hs) _
        (bindAll_memOk h rfl))))) heq))
      split
      · exact modEntry_memOk hs
      · exact hs

theorem execStepOpen_memOk {court group : Nat} {s : State} (h : MemOk s) : ResOk (execStepOpen court group s) := by
  unfold execStepOpen
  dsimp only
  split
  · split
    · exact .next h
    · split
      · exact .next (openFail_memOk h)
      · split
        · exact .next (openFail_memOk h)
        · exact .next (openFail_memOk h)
        · exact .next (openFail_memOk h)
        · exact .next (openFail_memOk h)
        · split
          · exact .next (openFail_memOk h)
          · split
            next heq => exact .next (openFail_memOk (demandAll_memOk h heq))
            next heq => exact .next (demandAll_memOk h heq)
            next heq =>
              split
              · exact .next (openFail_memOk (demandAll_memOk h heq))
              · exact .next (bindStep_memOk (demandAll_memOk h heq))
  · exact .next h

theorem noteConvert_memOk {key i : Nat} {x : Ctx} {k : Counts} {s : State} (h : MemOk s) :
    MemOk (noteConvert key i x k s) := by
  unfold noteConvert
  split
  · exact h
  · split
    · exact modStep_memOk h
    · exact h

theorem loseContexts_memOk {key : Nat} {s : State} (h : MemOk s) : MemOk (loseContexts key s) := by
  unfold loseContexts
  split
  · exact h
  · dsimp only
    exact modStep_memOk (abortRun_memOk h)

theorem execProgressTimeout_memOk {court group : Nat} {s : State} (h : MemOk s) :
    ResOk (execProgressTimeout court group s) := by
  unfold execProgressTimeout
  dsimp only
  split
  · exact .next h
  · split
    · split
      · exact .next h
      · exact .next (castVote_memOk (loseContexts_memOk (modGrp_memOk h)))
    · split
      · exact .next h
      · split
        · exact .next (settle_memOk (skipStep_memOk (modGrp_memOk h)))
        · exact .next (settle_memOk (holdStep_memOk (postAv_memOk (modGrp_memOk (modGrp_memOk h)))))
    · split
      · exact .next h
      · exact .next (settle_memOk (holdStep_memOk (modGrp_memOk h)))
    · exact .next h

theorem ckWrite_memOk {c : Cmd} {k : Court} {g : Group} {l : List CkSection} {s : State} (h : MemOk s) :
    MemOk (ckWrite c k g l s) := by
  unfold ckWrite
  dsimp only
  split
  · exact hostWrite_memOk (sealHost_memOk h rfl)
  · exact hostWrite_memOk (hostWrite_memOk (hostWrite_memOk h))

theorem ckInvalid_memOk {c : Cmd} {s : State} (h : MemOk s) : MemOk (ckInvalid c s) :=
  hostWrite_memOk h

theorem checkpointBody_memOk {mem : Findings} {whole : Bool} {c : Cmd} {s : State} (h : MemOk s) {r : State × Did}
    (e : checkpointBody mem whole c s = r) : MemOk r.1 := by
  subst e
  unfold checkpointBody
  extract_lets court key c' s1
  have h1 : MemOk s1 := modCmd_memOk h
  split
  · split
    · exact h
    split
    · exact h
    split
    · exact h1
    split
    · exact h1
    split
    next heq => exact demand_memOk h1 heq
    next heq => exact demand_memOk h1 heq
    next heq =>
      extract_lets f s2
      have h2 : MemOk s2 := applyFindings_memOk (demand_memOk h1 heq)
      split
      · exact h2
      split
      · exact poisonRead_memOk h2
      split
      · exact h2
      split
      · exact h2
      split
      · exact modCmd_memOk (ckInvalid_memOk h2)
      · exact ckWrite_memOk h2
  · exact h

theorem checkpointRow_memOk {q : QId} {cid : Nat} {mem : Findings} {whole : Bool} {s : State} (h : MemOk s) :
    ResOk (checkpointRow q cid mem whole s) :=
  .next (runCmd_memOk (fun _ _ hs => checkpointBody_memOk hs rfl) h)

theorem ckReplaceAll_memOk {c : Cmd} {l : List (Nat × AdImage × List Byte)} {s : State} (h : MemOk s) {r : State × Reserved}
    (e : ckReplaceAll c l s = r) : MemOk r.1 := by
  subst e
  induction l generalizing s with
  | nil => exact h
  | cons x t ih =>
    unfold ckReplaceAll
    split
    next heq => exact makeRoom_memOk h heq
    next heq => exact makeRoom_memOk h heq
    next heq =>
      dsimp only
      split
      · exact makeRoom_memOk h heq
      · exact ih (installVersion_memOk (placeImage_memOk (makeRoom_memOk h heq)))

theorem ckPlace_memOk {k : Court} {l : List CkSection} {s : State} (h : MemOk s) : MemOk (ckPlace k l s) := by
  refine foldl_keeps (P := MemOk) (fun _ _ hs => ?_) _ h
  split
  · exact hs
  · exact courtWrite_memOk hs

theorem ckRestore_memOk {c : Cmd} {key step : Nat} {k : Court} {l : List CkSection}
    {ads : List (Nat × AdImage × List Byte)} {s : State} (h : MemOk s) {r : State × Did}
    (e : ckRestore c key step k l ads s = r) : MemOk r.1 := by
  subst e
  unfold ckRestore
  split
  next heq => exact h
  next heq => exact makeRoom_memOk h rfl
  next heq =>
    dsimp only
    exact modGrp_memOk (ckPlace_memOk (discardHeld_memOk (ckReplaceAll_memOk h heq)))

theorem restoreBody_memOk {image : List Byte} {whole : Bool} {c : Cmd} {s : State} (h : MemOk s) {r : State × Did}
    (e : restoreBody image whole c s = r) : MemOk r.1 := by
  subst e
  unfold restoreBody
  dsimp only
  split
  · split
    · exact h
    · split
      · exact h
      · split
        · exact h
        · split
          next heq => exact fromHost_memOk h heq
          next heq =>
            split
            · exact fromHost_memOk h heq
            · split
              · exact fromHost_memOk h heq
              · split
                · exact fromHost_memOk h heq
                · split
                  · exact fromHost_memOk h heq
                  · exact ckRestore_memOk (fromHost_memOk h heq) rfl
  · exact h

theorem execRestore_memOk {q : QId} {cid : Nat} {image : List Byte} {whole : Bool} {s : State} (h : MemOk s) :
    ResOk (execRestore q cid image whole s) :=
  .next (runCmd_memOk (fun _ _ hs => restoreBody_memOk hs rfl) h)

theorem dissolve_memOk {key : Nat} {s : State} (h : MemOk s) : MemOk (dissolve key s) := by
  unfold dissolve
  dsimp only
  split
  · exact discardHeld_memOk h
  · exact sendRecord_memOk (dropGrp_memOk (discardHeld_memOk h))

theorem dissolveBody_memOk {c : Cmd} {s : State} (h : MemOk s) {r : State × Did} (e : dissolveBody c s = r) : MemOk r.1 := by
  subst e
  unfold dissolveBody
  dsimp only
  split
  · exact h
  · split
    · exact h
    · exact dissolve_memOk h

theorem execDissolveGroup_memOk {q : QId} {cid : Nat} {s : State} (h : MemOk s) : ResOk (execDissolveGroup q cid s) :=
  .next (runCmd_memOk (fun _ _ hs => dissolveBody_memOk hs rfl) h)

theorem jobOpenBody_memOk {c : Cmd} {s : State} (h : MemOk s) {r : State × Did} (e : jobOpenBody c s = r) : MemOk r.1 := by
  subst e
  unfold jobOpenBody
  dsimp only
  split
  · exact h
  · split
    · exact h
    · split
      · exact h
      · split
        · exact h
        · split
          · exact h
          · split
            · exact h
            · dsimp only
              exact h

theorem jobEndBody_memOk {c : Cmd} {s : State} (h : MemOk s) {r : State × Did} (e : jobEndBody c s = r) : MemOk r.1 := by
  subst e
  unfold jobEndBody
  dsimp only
  split
  · exact h
  · split
    · exact h
    · split
      · exact h
      · exact h

theorem execDistilJobOpen_memOk {q : QId} {cid : Nat} {s : State} (h : MemOk s) : ResOk (execDistilJobOpen q cid s) := by
  refine .next ?_
  split
  · exact runCmd_memOk (fun _ _ hs => jobOpenBody_memOk hs rfl) h
  · exact h

theorem execDistilJobEnd_memOk {q : QId} {cid : Nat} {s : State} (h : MemOk s) : ResOk (execDistilJobEnd q cid s) := by
  refine .next ?_
  split
  · exact runCmd_memOk (fun _ _ hs => jobEndBody_memOk hs rfl) h
  · exact h

theorem modSeq_memOk {i : Nat} {f : Seq → Seq} {s : State} (h : MemOk s) : MemOk (modSeq i f s) :=
  h

theorem modBatch_memOk {b : Nat} {f : Batch → Batch} {s : State} (h : MemOk s) : MemOk (modBatch b f s) :=
  h

theorem unbindSeq_memOk {i : Nat} {s : State} (h : MemOk s) : MemOk (unbindSeq i s) := by
  unfold unbindSeq
  split
  · exact h
  · split
    · exact h
    · dsimp only
      exact refSlot_memOk (foldl_keeps (P := MemOk) (fun _ _ hs => dropVersion_memOk hs) _ (modSeq_memOk h))

theorem endSeq_memOk {i status reason : Nat} {s : State} (h : MemOk s) : MemOk (endSeq i status reason s) := by
  unfold endSeq
  split
  · exact h
  split
  · exact h
  extract_lets _ s1 s2
  have h1 : MemOk s1 := by
    dsimp only [s1]
    split
    · exact h
    · exact retire_memOk h
  split
  · exact modSeq_memOk h1
  · exact unbindSeq_memOk (modSeq_memOk h1)

theorem endReq_memOk {r : Option (QId × Nat)} {st : Nat} {s : State} (h : MemOk s) : MemOk (endReq r st s) := by
  unfold endReq
  split
  · exact h
  · exact retire_memOk h

theorem freeSeq_memOk {i : Nat} {s : State} (h : MemOk s) : MemOk (freeSeq i s) := by
  unfold freeSeq
  split
  · exact h
  · dsimp only
    refine endReq_memOk (endReq_memOk ?_)
    dsimp only [MemOk]
    exact dropXfer_memOk (dropXfer_memOk (unbindSeq_memOk h))

theorem coverTo_memOk {i x : Nat} {s : State} (h : MemOk s) {r : State × Bool} (e : coverTo i x s = r) : MemOk r.1 := by
  subst e
  unfold coverTo
  split
  · exact h
  · split
    · exact h
    · dsimp only
      split
      · exact h
      · split
        · exact h
        · exact modSeq_memOk h

theorem trimPages_memOk {i : Nat} {s : State} (h : MemOk s) : MemOk (trimPages i s) :=
  modSeq_memOk h

theorem streamReady_memOk {k n : Nat} {heads : List (Nat × Option Nat)} {s : State} (h : MemOk s) {r : State × Option Bool}
    (e : streamReady k n heads s = r) : MemOk r.1 := by
  subst e
  unfold streamReady
  split
  · exact h
  · split
    · exact h
    · split
      · exact h
      · exact h
      · dsimp only
        exact h

theorem putEntry_memOk {court ring step index : Nat} {e : Emit} {s : State} (h : MemOk s) :
    MemOk (putEntry court ring step index e s) := by
  unfold putEntry
  dsimp only
  split
  · exact h
  · exact hostWrite_memOk h

theorem raiseStreams_memOk {ks : List Nat} {s : State} (h : MemOk s) : MemOk (raiseStreams ks s) :=
  foldl_keeps (P := MemOk) (fun _ _ hs => raiseMsix_memOk hs) _ h

theorem putRows_memOk {c : Court} {b : Option (Nat × Nat)} {rows : List (List Byte)} {s : State} (h : MemOk s) :
    MemOk (putRows c b rows s) := by
  unfold putRows
  split
  · exact h
  · exact foldl_keeps (P := MemOk) (fun _ _ hs => courtWrite_memOk hs) _ h

theorem startPart_memOk {b : Nat} {now rest : List StepSeq} {split : Bool} {s : State} (h : MemOk s) :
    MemOk (startPart b now rest split s) := by
  unfold startPart
  split
  · exact h
  · split
    · dsimp only
      exact admitRun_memOk (modBatch_memOk (foldl_keeps (P := MemOk) (fun _ _ hs => modSeq_memOk hs) _ (putRows_memOk
        (putRows_memOk (putRows_memOk h)))))
    · exact h

theorem dropTree_memOk {i : Nat} {s : State} (h : MemOk s) : MemOk (dropTree i s) :=
  modSeq_memOk h

theorem startStep_memOk {b : Nat} {s : State} (h : MemOk s) : MemOk (startStep b s) := by
  unfold startStep
  split
  · exact h
  · dsimp only
    split
    · exact modBatch_memOk (foldl_keeps (P := MemOk) (fun _ _ hs => dropTree_memOk hs) _ h)
    · exact startPart_memOk (modBatch_memOk (foldl_keeps (P := MemOk) (fun _ _ hs => dropTree_memOk hs) _ h))

theorem addSeq_memOk {c : Cmd} {b : Nat} {prompt : List Byte} {s : State} (h : MemOk s) : MemOk (addSeq c b prompt s) := by
  unfold addSeq
  dsimp only
  exact modCmd_memOk h

theorem serveBody_memOk {prompt : List Byte} {c : Cmd} {s : State} (h : MemOk s) {r : State × Did}
    (e : serveBody prompt c s = r) : MemOk r.1 := by
  subst e
  unfold serveBody
  split
  · exact h
  · split
    · exact h
    · exact h
    · split
      · exact addSeq_memOk h
      · split
        · exact h
        · dsimp only
          exact addSeq_memOk h

theorem execServe_memOk {q : QId} {cid : Nat} {prompt : List Byte} {s : State} (h : MemOk s) :
    ResOk (execServe q cid prompt s) :=
  .next (runCmd_memOk (fun _ _ hs => serveBody_memOk hs rfl) h)

theorem setStreamBody_memOk {c : Cmd} {s : State} (h : MemOk s) {r : State × Did} (e : setStreamBody c s = r) :
    MemOk r.1 := by
  subst e
  unfold setStreamBody
  extract_lets court ring vec count r _ s1
  have h1 : MemOk s1 := h
  split
  · exact h
  split
  · exact h
  split
  · exact h
  split
  · exact modTransport_memOk h1
  · exact h1

theorem execSetStreamRing_memOk {q : QId} {cid : Nat} {s : State} (h : MemOk s) : ResOk (execSetStreamRing q cid s) :=
  .next (runCmd_memOk (fun _ _ hs => setStreamBody_memOk hs rfl) h)

theorem armTtl_memOk {i : Nat} {q : Seq} {secs : Nat} {s : State} (h : MemOk s) : MemOk (armTtl i q secs s) := by
  unfold armTtl
  dsimp only
  split
  · exact sendTimer_memOk (modSeq_memOk h)
  · exact modSeq_memOk h

theorem parkBody_memOk {c : Cmd} {s : State} (h : MemOk s) {r : State × Did} (e : parkBody c s = r) : MemOk r.1 := by
  subst e
  unfold parkBody
  dsimp only
  split
  · exact h
  · split
    · exact h
    · split
      · exact h
      · exact h
      · split
        · exact armTtl_memOk (modSeq_memOk h)
        · split
          · exact modSeq_memOk h
          · exact h

theorem execPark_memOk {q : QId} {cid : Nat} {s : State} (h : MemOk s) : ResOk (execPark q cid s) :=
  .next (runCmd_memOk (fun _ _ hs => parkBody_memOk hs rfl) h)

theorem resumeBody_memOk {c : Cmd} {s : State} (h : MemOk s) {r : State × Did} (e : resumeBody c s = r) : MemOk r.1 := by
  subst e
  unfold resumeBody
  split
  · exact h
  · split
    · exact h
    · exact h
    · split
      · exact h
      · split
        · exact modSeq_memOk h
        · exact h

theorem execResume_memOk {q : QId} {cid : Nat} {s : State} (h : MemOk s) : ResOk (execResume q cid s) :=
  .next (runCmd_memOk (fun _ _ hs => resumeBody_memOk hs rfl) h)

theorem addRow_memOk {b : Nat} {e : StepSeq} {s : State} (h : MemOk s) : MemOk (addRow b e s) :=
  modBatch_memOk h

theorem sitOut_memOk {b i : Nat} {s : State} (h : MemOk s) : MemOk (sitOut b i s) :=
  addRow_memOk h

theorem reserve_memOk {b i : Nat} {heads : List (Nat × Option Nat)} {s : State} (h : MemOk s) :
    MemOk (reserve b i heads s) := by
  unfold reserve
  split
  · extract_lets k cut tree need
    split
    next heq => exact freeSeq_memOk (endSeq_memOk (streamReady_memOk h heq))
    next heq => exact sitOut_memOk (streamReady_memOk h heq)
    next heq =>
      have h := streamReady_memOk h heq
      split
      · dsimp only
        split
        · exact addRow_memOk (coverTo_memOk h rfl)
        · exact sitOut_memOk (coverTo_memOk h rfl)
      · extract_lets s1 r w
        have h1 : MemOk s1 := by
          dsimp only [s1]
          split
          · exact modSeq_memOk h
          · exact h
        have hr : MemOk r.1 := coverTo_memOk h1 rfl
        have hw : MemOk w.1 := coverTo_memOk hr rfl
        split
        · exact sitOut_memOk hr
        split
        · exact addRow_memOk hr
        split
        · exact addRow_memOk (modSeq_memOk hw)
        · exact addRow_memOk (dropTree_memOk hw)
  · exact h

theorem reserveAll_memOk {b : Nat} {heads : List (Nat × Option Nat)} {s : State} (h : MemOk s) :
    MemOk (reserveAll b heads s) := by
  refine foldl_keeps (P := MemOk) (fun _ _ hs => ?_) _ h
  split
  · split
    · exact reserve_memOk hs
    · exact hs
  · exact hs

theorem startPark_memOk {i : Nat} {s : State} (h : MemOk s) : MemOk (startPark i s) := by
  unfold startPark
  split
  · exact h
  · dsimp only
    exact modBatch_memOk (modSeq_memOk h)

theorem parkThese_memOk {b join : Nat} {vs : List Nat} {s : State} (h : MemOk s) : MemOk (parkThese b join vs s) := by
  unfold parkThese
  dsimp only
  refine modBatch_memOk (foldl_keeps (P := MemOk) (fun _ _ hs => ?_) _ h)
  split
  · exact startPark_memOk hs
  · exact hs

theorem settlePark_memOk {b join victim : Nat} {reply : Option (List Byte)} {refuse : Bool} {s : State} (h : MemOk s) :
    MemOk (settlePark b join victim reply refuse s) := by
  unfold settlePark
  split
  · exact h
  · split
    · exact h
    · split
      · exact modBatch_memOk h
      · split
        · exact parkThese_memOk h
        · exact parkThese_memOk h

theorem makeWay_memOk {b join need : Nat} {s : State} (h : MemOk s) {r : State × Bool}
    (e : makeWay b join need s = r) : MemOk r.1 := by
  subst e
  unfold makeWay
  split
  · split
    · exact h
    · split
      · exact h
      · split
        · dsimp only
          split
          next heq => exact modBatch_memOk (ask_memOk h heq)
          next heq => exact startPark_memOk (ask_memOk h heq)
        · exact startPark_memOk h
  · exact h

theorem readPrompt_memOk {t : Batch} {q : Seq} {s : State} (h : MemOk s) {r : State × Except Nat (List Nat)}
    (e : readPrompt t q s = r) : MemOk r.1 := by
  subst e
  unfold readPrompt
  extract_lets raw conf n o p
  have hp : MemOk p.1 := by
    dsimp only [p]
    split
    · split
      · exact sealFail_memOk h
      · exact h
    · exact h
  refine iteInduction (motive := fun r : State × Except Nat (List Nat) => MemOk r.1) (fun _ => h) (fun _ => ?_)
  clear_value p
  obtain ⟨s', _ | b⟩ := p
  · exact hp
  · dsimp only
    split <;> exact hp

theorem copyPrefix_memOk {c : Court} {b : Batch} {v : AdVersion} {pg : KvPage} {s t : State} (h : MemOk s)
    (e : copyPrefix s c b v pg = some t) : MemOk t := by
  unfold copyPrefix at e
  extract_lets src pairs at e
  split at e
  · cases e
    exact h
  split at e
  · cases e
  · cases e
    exact foldl_keeps (P := MemOk) (fun _ _ hs => courtWrite_memOk hs) _ h

theorem enter_memOk {b i : Nat} {t : Batch} {q : Seq} {c : Court} {n : Nat} {toks : List Nat} {pre : Option AdVersion}
    {pages : List KvPage} {heads : List (Nat × Option Nat)} {s : State} (h : MemOk s) :
    MemOk (enter b i t q c n toks pre pages heads s) := by
  unfold enter
  extract_lets copied
  have hcopied : ∀ u, copied = some u → MemOk u := by
    dsimp only [copied]
    split
    · rintro _ ⟨⟩
      exact h
    · exact fun _ => copyPrefix_memOk h
  clear_value copied
  cases copied with
  | none => exact freeSeq_memOk (endSeq_memOk h)
  | some u =>
    dsimp -zeta only
    extract_lets claims bound s1 k _ s2 s3
    have h1 : MemOk s1 := bindAll_memOk (hcopied u rfl) rfl
    have h2 : MemOk s2 := h1
    have h3 : MemOk s3 := modSeq_memOk h2
    split
    next heq => exact freeSeq_memOk (endSeq_memOk (streamReady_memOk h3 heq))
    next heq => exact sitOut_memOk (streamReady_memOk h3 heq)
    next heq => exact addRow_memOk (streamReady_memOk h3 heq)

theorem admitSeq_memOk {b i : Nat} {heads : List (Nat × Option Nat)} {s : State} (h : MemOk s) {r : State × Joined}
    (e : admitSeq b i heads s = r) : MemOk r.1 := by
  subst e
  unfold admitSeq
  split
  · extract_lets out
    have hout : ∀ st s, MemOk s → MemOk (out st s).1 := fun _ _ hs => freeSeq_memOk (endSeq_memOk hs)
    split
    · exact h
    · exact hout _ _ h
    · split
      · exact h
      extract_lets claims all
      split
      next heq => exact hout _ _ (demand_memOk h heq)
      next heq => exact demand_memOk h heq
      next heq =>
        have h := demand_memOk h heq
        split
        next heq => exact hout _ _ (readPrompt_memOk h heq)
        next heq =>
          have h := readPrompt_memOk h heq
          extract_lets pre p need
          split
          · exact hout _ _ h
          split
          · exact h
          split
          · exact h
          · exact enter_memOk h
  · exact h

theorem queueJoins_memOk {b : Nat} {express : Bool} {s : State} (h : MemOk s) : MemOk (queueJoins b express s) := by
  refine foldl_keeps (P := MemOk) (fun _ _ hs => ?_) _ h
  split
  · exact hs
  · dsimp only
    split
    · exact modSeq_memOk hs
    · split
      · exact modSeq_memOk hs
      · exact interim_memOk (modSeq_memOk hs)

theorem joinAll_memOk {b : Nat} {express : Bool} {heads : List (Nat × Option Nat)} {l : List Nat} {s : State} (h : MemOk s)
    {r : State × Joins} (e : joinAll b express heads l s = r) : MemOk r.1 := by
  subst e
  induction l generalizing s with
  | nil => exact h
  | cons i t ih =>
    unfold joinAll
    split
    next heq => exact ih (admitSeq_memOk h heq)
    next heq => exact admitSeq_memOk h heq
    next heq =>
      have hs := admitSeq_memOk h heq
      split
      · split
        next heq => exact makeWay_memOk hs heq
        next heq => exact queueJoins_memOk (makeWay_memOk hs heq)
      · exact queueJoins_memOk hs

theorem startReturn_memOk {b : Nat} {s : State} (h : MemOk s) {r : State × Bool} (e : startReturn b s = r) : MemOk r.1 := by
  subst e
  unfold startReturn
  split
  · split
    · exact h
    · split
      · exact h
      · exact modSeq_memOk h
  · exact h

theorem releases_memOk {b : Nat} {s : State} (h : MemOk s) : MemOk (releases b s) := by
  refine foldl_keeps (P := MemOk) (fun _ _ hs => ?_) _ h
  split
  · exact hs
  · split
    · exact hs
    · split
      · exact freeSeq_memOk hs
      · split
        · exact freeSeq_memOk (endSeq_memOk hs)
        · split
          · split
            · exact startPark_memOk hs
            · exact endReq_memOk (modSeq_memOk hs)
          · exact hs

theorem joinStages_memOk {b : Nat} {heads : List (Nat × Option Nat)} {s : State} (h : MemOk s) :
    MemOk (joinStages b heads s) := by
  unfold joinStages
  split
  · exact h
  extract_lets express
  have hexpress : MemOk express.1 := by
    dsimp only [express]
    split
    · exact joinAll_memOk h rfl
    · exact h
  clear_value express
  obtain ⟨s, e⟩ := express
  split
  next heq => exact (congrArg (fun p : State × Joins => MemOk p.1) heq).mp hexpress
  next heq =>
    have h := (congrArg (fun p : State × Joins => MemOk p.1) heq).mp hexpress
    extract_lets s1 stage local_
    have h1 : MemOk s1 := by
      dsimp only [s1]
      split
      · exact queueJoins_memOk h
      · exact h
    have hlocal : MemOk local_.1 := by
      dsimp only [local_]
      split
      · exact joinAll_memOk h1 rfl
      · exact h1
    exact startStep_memOk (modBatch_memOk hlocal)

theorem boundary_memOk {b : Nat} {heads : List (Nat × Option Nat)} {s : State} (h : MemOk s) :
    MemOk (boundary b heads s) := by
  unfold boundary
  split
  · exact h
  split
  · exact h
  extract_lets s1 _ s2 s3
  have h1 : MemOk s1 := by
    dsimp only [s1]
    split
    · exact releases_memOk h
    · exact h
  have h3 : MemOk s3 := by
    dsimp only [s3]
    split
    · exact modBatch_memOk (reserveAll_memOk h1)
    · exact reserveAll_memOk h1
  split
  · exact h1
  split
  · exact h1
  split
  · exact h3
  split
  · split
    next heq => exact startReturn_memOk h3 heq
    next heq => exact joinStages_memOk (modBatch_memOk (startReturn_memOk h3 heq))
  · exact joinStages_memOk h3

theorem execStepBoundary_memOk {batch : Nat} {heads : List (Nat × Option Nat)} {s : State} (h : MemOk s) :
    ResOk (execStepBoundary batch heads s) := by
  unfold execStepBoundary
  split
  · exact .next h
  · refine .next ?_
    split
    · exact boundary_memOk h
    · exact h

theorem parkFailed_memOk {i st : Nat} {q : Seq} {s : State} (h : MemOk s) : MemOk (parkFailed i st q s) := by
  unfold parkFailed
  dsimp only
  refine endReq_memOk ?_
  dsimp only [MemOk]
  exact modSeq_memOk h

theorem parked_memOk {i : Nat} {q : Seq} {s : State} (h : MemOk s) : MemOk (parked i q s) := by
  unfold parked
  dsimp only
  refine endReq_memOk ?_
  split
  · exact modSeq_memOk h
  · exact armTtl_memOk (modSeq_memOk h)

theorem parkCopyRow_memOk {seq : Nat} {mem : Findings} {s : State} (h : MemOk s) : ResOk (parkCopyRow seq mem s) := by
  unfold parkCopyRow
  split
  · exact .next h
  · split
    · split
      · exact .next h
      · split
        · split
          · split
            · exact .next (parkFailed_memOk (dropXfer_memOk h))
            · split
              · exact .next h
              · exact .next (parked_memOk (dropXfer_memOk h))
          · exact .next h
        · dsimp only
          split
          · exact .next (parkFailed_memOk (poisonRead_memOk (applyFindings_memOk h)))
          · split
            · split
              · exact .next (parked_memOk (applyFindings_memOk h))
              · split
                · refine .next ?_
                  refine parked_memOk (hostWrite_memOk ?_)
                  split
                  · exact sealColdObj_memOk (applyFindings_memOk h) rfl
                  · exact applyFindings_memOk h
                · exact .next h
            · refine .next ?_
              refine putAll_memOk ?_
              split
              · exact sealColdObj_memOk (applyFindings_memOk h) rfl
              · exact applyFindings_memOk h
    · exact .next h

theorem returnFailed_memOk {i st reason : Nat} {s : State} (h : MemOk s) : MemOk (returnFailed i st reason s) :=
  endSeq_memOk (modSeq_memOk h)

theorem putKv_memOk {c : Court} {t : Batch} {q : Seq} {b : List Byte} {s : State} (h : MemOk s) :
    MemOk (putKv c t q b s) := by
  unfold putKv
  dsimp only
  exact foldl_keeps (P := MemOk) (fun _ _ hs => foldl_keeps (P := MemOk) (fun _ _ hs => courtWrite_memOk hs) _ hs) _ h

theorem returned_memOk {i : Nat} {q : Seq} {c : Court} {t : Batch} {b : List Byte} {s : State} (h : MemOk s) :
    MemOk (returned i q c t b s) := by
  unfold returned
  dsimp only
  split
  · exact returnFailed_memOk (sealFail_memOk h)
  · refine endReq_memOk ?_
    split
    · exact sendTimer_memOk (modSeq_memOk (putKv_memOk h))
    · exact modSeq_memOk (putKv_memOk h)

theorem execReturnCopyComplete_memOk {seq : Nat} {image : List Byte} {s : State} (h : MemOk s) :
    ResOk (execReturnCopyComplete seq image s) := by
  unfold execReturnCopyComplete
  split
  · exact .next h
  split
  · split
    · exact .next h
    split
    · exact .next (dropXfer_memOk (modSeq_memOk h))
    extract_lets n need
    split
    · split
      · exact .next (returnFailed_memOk h)
      split
      · exact .next (returnFailed_memOk h)
      split
      · exact .next h
      split
      · exact .next (returnFailed_memOk h)
      · exact .next (returned_memOk h)
    · split
      · exact .next (getAll_memOk h)
      split
      · exact .next (returnFailed_memOk (dropXfer_memOk h))
      split
      · exact .next h
      · exact .next (returned_memOk (dropXfer_memOk h))
  · exact .next h

theorem execParkTtlExpiry_memOk {seq : Nat} {s : State} (h : MemOk s) : ResOk (execParkTtlExpiry seq s) := by
  unfold execParkTtlExpiry
  split
  · exact .next h
  · split
    · exact .next (endSeq_memOk h)
    · exact .next h

theorem relink_memOk {c : Court} {t : Batch} {q : Seq} {path : List Nat} {s : State} (h : MemOk s) :
    MemOk (relink c t q path s) :=
  foldl_keeps (P := MemOk) (fun _ _ hs => foldl_keeps (P := MemOk) (fun _ _ hs => foldl_keeps (P := MemOk)
    (fun _ _ hs => courtMove_memOk hs) _ hs) _ hs) _ h

theorem postTokens_memOk {b i : Nat} {es : List Emit} {s : State} (h : MemOk s) : MemOk (postTokens b i es s) := by
  unfold postTokens
  split
  · dsimp only
    split
    · exact modBatch_memOk (modSeq_memOk (foldl_keeps (P := MemOk) (fun _ _ hs => putEntry_memOk hs) _ h))
    · split
      · exact endSeq_memOk (modSeq_memOk (foldl_keeps (P := MemOk) (fun _ _ hs => putEntry_memOk hs) _ h))
      · exact modSeq_memOk (foldl_keeps (P := MemOk) (fun _ _ hs => putEntry_memOk hs) _ h)
  · exact h

theorem seqRetire_memOk {b : Nat} {c : Court} {t : Batch} {p : Package} {e : StepSeq} {s : State} (h : MemOk s) :
    MemOk (seqRetire b c t p e s) := by
  unfold seqRetire
  split
  · exact h
  · dsimp only
    split
    · exact unbindSeq_memOk (modSeq_memOk h)
    · split
      · exact endSeq_memOk h
      · split
        · exact modSeq_memOk h
        · split
          · exact endSeq_memOk h
          · split
            · exact trimPages_memOk (postTokens_memOk (modSeq_memOk h))
            · exact trimPages_memOk (postTokens_memOk (modSeq_memOk (relink_memOk h)))

theorem nextPart_memOk {b : Nat} {s : State} (h : MemOk s) : MemOk (nextPart b s) := by
  unfold nextPart
  split
  · exact h
  · dsimp only
    split
    · exact modBatch_memOk h
    · exact startPart_memOk (modBatch_memOk h)

theorem finishStep_memOk {b : Nat} {c : Court} {p : Package} {s : State} (h : MemOk s) : MemOk (finishStep b c p s) := by
  unfold finishStep
  split
  · exact h
  · dsimp only
    refine nextPart_memOk ?_
    split
    · exact raiseStreams_memOk (foldl_keeps (P := MemOk) (fun _ _ hs => seqRetire_memOk hs) _ (modBatch_memOk h))
    · split
      next heq =>
        exact modBatch_memOk (ask_memOk (raiseStreams_memOk (foldl_keeps (P := MemOk)
          (fun _ _ hs => seqRetire_memOk hs) _ (modBatch_memOk h))) heq)
      next heq =>
        exact modBatch_memOk (ask_memOk (raiseStreams_memOk (foldl_keeps (P := MemOk)
          (fun _ _ hs => seqRetire_memOk hs) _ (modBatch_memOk h))) heq)

theorem settleSpec_memOk {b : Nat} {reply : List Byte} {s : State} (h : MemOk s) : MemOk (settleSpec b reply s) := by
  unfold settleSpec
  split
  · exact h
  · split
    · exact h
    · dsimp only
      exact modBatch_memOk h

theorem settleStop_memOk {b step disp : Nat} {reply : List Byte} {s : State} (h : MemOk s) :
    MemOk (settleStop b step disp reply s) := by
  unfold settleStop
  split
  · exact h
  · dsimp only
    refine modBatch_memOk ?_
    split
    · refine foldl_keeps (P := MemOk) (fun _ _ hs => ?_) _ h
      split
      · exact modSeq_memOk hs
      · exact hs
    · split
      · refine foldl_keeps (P := MemOk) (fun _ _ hs => ?_) _ h
        split
        · exact hs
        · exact modSeq_memOk hs
      · exact h

theorem sampleStep_memOk {b code : Nat} {c : Court} {p : Package} {bad : List Nat} {s : State} (h : MemOk s) :
    MemOk (sampleStep b code c p bad s) := by
  unfold sampleStep
  split
  · exact h
  · dsimp only
    exact modBatch_memOk h

theorem servingStepRow_memOk {batch : Nat} {mem : Findings} {s : State} (h : MemOk s) :
    ResOk (servingStepRow batch mem s) := by
  unfold servingStepRow
  split
  · exact .next h
  · split
    · split
      · exact .next h
      · split
        · split
          · exact .next h
          next heq =>
            dsimp only
            split
            · exact .next (sampleStep_memOk (applyFindings_memOk (takeRun_memOk h heq)))
            · split
              · split
                next heq1 =>
                  exact .next (modBatch_memOk (ask_memOk (sampleStep_memOk (applyFindings_memOk
                    (takeRun_memOk h heq))) heq1))
                next heq1 =>
                  exact .next (finishStep_memOk (ask_memOk (sampleStep_memOk (applyFindings_memOk
                    (takeRun_memOk h heq))) heq1))
              · exact .next (finishStep_memOk (sampleStep_memOk (applyFindings_memOk (takeRun_memOk h heq))))
        · exact .next (finishStep_memOk h)
        · exact .next h
    · exact .next h

theorem releaseResize_memOk {court : Nat} {s : State} (h : MemOk s) : MemOk (releaseResize court s) := by
  unfold releaseResize
  split
  · exact h
  · dsimp only
    dsimp only [MemOk]
    exact foldl_keeps (P := MemOk) (fun _ _ hs => clearGranule_memOk hs) _ h

theorem uncreate_memOk {court : Nat} {s : State} (h : MemOk s) : MemOk (uncreate court s) := by
  unfold uncreate
  split
  · exact h
  · dsimp only
    dsimp only [MemOk]
    exact foldl_keeps (P := MemOk) (fun _ _ hs => clearGranule_memOk hs) _ h

theorem dropPlace_memOk {q : QId} {cid : Nat} {s : State} (h : MemOk s) : MemOk (dropPlace q cid s) := by
  unfold dropPlace
  dsimp only
  exact h

theorem withdrawStep_memOk {st : Nat} {c : Cmd} {s : State} (h : MemOk s) : MemOk (withdrawStep st c s) := by
  unfold withdrawStep
  dsimp only
  split
  · exact modStep_memOk (abandonStep_memOk h)
  · split
    · exact voteOnly_memOk h
    · exact retire_memOk h

theorem undoCmd_memOk {c : Cmd} {s : State} (h : MemOk s) : MemOk (undoCmd c s) := by
  unfold undoCmd
  extract_lets s1 clearReq
  have h : MemOk s1 := dropPlace_memOk h
  have hclear : MemOk (clearReq s1) := h
  clear_value s1 clearReq
  refine iteInduction (motive := MemOk) (fun _ => ?run) fun _ =>
    iteInduction (motive := MemOk) (fun _ => ?checkpoint) fun _ =>
    iteInduction (motive := MemOk) (fun _ => ?base) fun _ =>
    iteInduction (motive := MemOk) (fun _ => ?adapter) fun _ =>
    iteInduction (motive := MemOk) (fun _ => h) fun _ =>
    iteInduction (motive := MemOk) (fun _ => ?migrate) fun _ =>
    iteInduction (motive := MemOk) (fun _ => ?group) fun _ =>
    iteInduction (motive := MemOk) (fun _ => h) fun _ =>
    iteInduction (motive := MemOk) (fun _ => emptyStaging_memOk h) fun _ =>
    iteInduction (motive := MemOk) (fun _ => hclear) fun _ =>
    iteInduction (motive := MemOk) (fun _ => ?create) fun _ =>
    iteInduction (motive := MemOk) (fun _ => ?resize) fun _ => h
  case run => split; exacts [abortRun_memOk h, h]
  case checkpoint => split; exacts [ckInvalid_memOk h, h]
  case base => split; exacts [emptySlot_memOk h, h]
  case adapter => split; exacts [abandonHandle_memOk h, h]
  case migrate => split; exacts [modStore_memOk (by exact h), h]
  case group => split; exacts [withdrawForm_memOk h, h]
  case create => split; exacts [uncreate_memOk h, h]
  case resize => split; exacts [h, releaseResize_memOk h]

theorem withdraw_memOk {st : Nat} {c : Cmd} {s : State} (h : MemOk s) : MemOk (withdraw st c s) := by
  unfold withdraw
  dsimp only
  split
  · exact retire_memOk h
  · split
    · exact withdrawStep_memOk h
    · split
      · split
        · exact h
        · exact endSeq_memOk h
      · exact retire_memOk (undoCmd_memOk h)

theorem sendWithdrawal_memOk {st : Nat} {q : QId} {cid : Nat} {s : State} (h : MemOk s) :
    MemOk (sendWithdrawal st q cid s) := by
  unfold sendWithdrawal
  split
  · exact h
  · split
    · exact withdraw_memOk h
    · exact h

theorem abortBody_memOk {c : Cmd} {s : State} (h : MemOk s) {r : State × Did} (e : abortBody c s = r) : MemOk r.1 := by
  subst e
  unfold abortBody
  extract_lets tq tc end_
  split
  · exact h
  split
  · split
    · exact h
    split
    · exact h
    split
    · exact h
    split
    · exact h
    split
    · exact h
    extract_lets s1
    have h1 : MemOk s1 := withdraw_memOk h
    split
    · exact modCmd_memOk h1
    · exact h1
  · split
    · exact h
    split
    · exact h
    split <;> exact h

theorem execAbort_memOk {q : QId} {cid : Nat} {s : State} (h : MemOk s) : ResOk (execAbort q cid s) :=
  .next (runCmd_memOk (fun _ _ hs => abortBody_memOk hs rfl) h)

theorem execDeadlineExpiry_memOk {q : QId} {cid : Nat} {s : State} (h : MemOk s) : ResOk (execDeadlineExpiry q cid s) := by
  refine .next ?_
  split
  · exact h
  · split
    · exact h
    · exact sendWithdrawal_memOk h

theorem takeDown_memOk {q : QId} {s : State} (h : MemOk s) : MemOk (takeDown q s) := by
  unfold takeDown
  dsimp only
  exact dropDeleted_memOk (foldl_keeps (P := MemOk) (fun _ _ hs => sendWithdrawal_memOk hs) _ (modQueue_memOk h))

theorem deleteQpBody_memOk {c : Cmd} {s : State} (h : MemOk s) {r : State × Did} (e : deleteQpBody c s = r) : MemOk r.1 := by
  subst e
  unfold deleteQpBody
  split
  · exact h
  · dsimp only
    split
    · split
      · exact h
      · exact h
    · split
      · exact h
      · split
        · exact h
        · split
          · exact takeDown_memOk (modCmd_memOk h)
          · exact takeDown_memOk (modCmd_memOk h)

theorem execDeleteQueuePair_memOk {q : QId} {cid : Nat} {s : State} (h : MemOk s) : ResOk (execDeleteQueuePair q cid s) :=
  .next (runCmd_memOk (fun _ _ hs => deleteQpBody_memOk hs rfl) h)

theorem execQ0Disable_memOk {via : FnId} {value : Nat} {s : State} (h : MemOk s) : ResOk (execQ0Disable via value s) := by
  refine .next ?_
  split
  · exact h
  · split
    · exact h
    · dsimp only
      split
      · exact takeDown_memOk (modFn_memOk h)
      · exact modFn_memOk (modFn_memOk h)

theorem createStart_memOk {c : Cmd} {gs : List Nat} {unit0 : Nat} {s : State} (h : MemOk s) :
    MemOk (createStart c gs unit0 s) := by
  unfold createStart
  dsimp only
  dsimp only [MemOk]
  refine foldl_keeps (P := MemOk) (fun _ _ hs => ?_) _ (foldl_keeps (P := MemOk) (fun _ _ hs => clearGranule_memOk hs) _ ?_)
  · split
    · exact storeZero_memOk hs
    · exact hs
  · split
    · exact h
    · exact h

theorem askGranules_memOk {c : Cmd} {n : Nat} {gs : List Nat} {s : State} (h : MemOk s) : MemOk (askGranules c n gs s) := by
  unfold askGranules
  split
  · exact ask_memOk h rfl
  · exact h

theorem amendGranules_memOk {n : Nat} {gs : List Nat} {s : State} (h : MemOk s) : MemOk (amendGranules n gs s) := by
  unfold amendGranules
  split
  · exact h
  · dsimp only
    split
    · exact h
    · split
      · exact modCourt_memOk (foldl_keeps (P := MemOk) (fun _ _ hs => clearGranule_memOk hs) _ (foldl_keeps
          (P := MemOk) (fun _ _ hs => clearGranule_memOk hs) _ h))
      · exact foldl_keeps (P := MemOk) (fun _ _ hs => clearGranule_memOk hs) _ (foldl_keeps (P := MemOk)
          (fun _ _ hs => clearGranule_memOk hs) _ h)

theorem createFinish_memOk {c : Cmd} {s : State} (h : MemOk s) {r : State × Did} (e : createFinish c s = r) : MemOk r.1 := by
  subst e
  unfold createFinish
  dsimp only
  dsimp only [MemOk]
  exact newStore_memOk (freshKeys_memOk (modCourt_memOk h))

theorem createBody_memOk {whole : Bool} {c : Cmd} {s : State} (h : MemOk s) {r : State × Did}
    (e : createBody whole c s = r) : MemOk r.1 := by
  subst e
  unfold createBody
  dsimp only
  split
  · split
    · exact createFinish_memOk h rfl
    · exact h
  · split
    · exact h
    · split
      · exact h
      · split
        · exact createFinish_memOk (askGranules_memOk (createStart_memOk h)) rfl
        · exact askGranules_memOk (createStart_memOk h)

theorem cutCmd_memOk {q : QId} {cid : Nat} {s : State} (h : MemOk s) : MemOk (cutCmd q cid s) := by
  unfold cutCmd
  split
  · exact h
  · dsimp only
    split
    · exact retire_memOk h
    · split
      · split
        · split
          · split
            · exact castVote_memOk (modStep_memOk (abandonStep_memOk h))
            · exact h
          · refine retire_memOk (modStep_memOk ?_)
            split
            · exact castVote_memOk (modStep_memOk (abandonStep_memOk h))
            · exact h
        · split
          · exact openFail_memOk h
          · exact retire_memOk h
      · exact withdraw_memOk h

theorem stopCourt_memOk {n : Nat} {but : Option (QId × Nat)} {s : State} (h : MemOk s) : MemOk (stopCourt n but s) := by
  unfold stopCourt
  dsimp only
  dsimp only [MemOk]
  exact foldl_keeps (P := MemOk) (fun _ _ hs => freeSeq_memOk hs) _ (foldl_keeps (P := MemOk)
    (fun _ _ hs => abortRun_memOk hs) _ (foldl_keeps (P := MemOk) (fun _ _ hs => cutCmd_memOk hs) _ h))

theorem dissolveAll_memOk {n : Nat} {s : State} (h : MemOk s) : MemOk (dissolveAll n s) := by
  refine foldl_keeps (P := MemOk) (fun _ _ hs => dissolve_memOk ?_) _ h
  split
  · split
    · exact hs
    · exact endStep_memOk (releaseBinds_memOk hs)
  · exact hs

theorem dropAssists_memOk {n : Nat} {all : Bool} {s : State} (h : MemOk s) : MemOk (dropAssists n all s) := by
  unfold dropAssists
  dsimp only
  exact h

theorem releaseCourt_memOk {n : Nat} {s : State} (h : MemOk s) : MemOk (releaseCourt n s) := by
  unfold releaseCourt
  dsimp only
  refine dropUses_memOk ?_
  dsimp only [MemOk]
  exact releaseGaz_memOk (dissolveAll_memOk h)

theorem finishReset_memOk {n : Nat} {s : State} (h : MemOk s) : MemOk (finishReset n s) := by
  unfold finishReset
  split
  · exact h
  · dsimp only
    refine modCourt_memOk ?_
    dsimp only [MemOk]
    exact freshKeys_memOk (resetStore_memOk (foldl_keeps (P := MemOk) (fun _ _ hs => storeZero_memOk hs) _
      (foldl_keeps (P := MemOk) (fun _ _ hs => clearGranule_memOk hs) _ (dropAssists_memOk (releaseCourt_memOk h)))))

theorem finishDestroy_memOk {n : Nat} {s : State} (h : MemOk s) : MemOk (finishDestroy n s) := by
  unfold finishDestroy
  split
  · exact h
  · dsimp only
    dsimp only [MemOk]
    refine foldl_keeps (P := MemOk) (fun _ _ hs => ?_) _ (destroyKeys_memOk (destroyStore_memOk (foldl_keeps
      (P := MemOk) (fun _ _ hs => modBlock_memOk hs) _ (foldl_keeps (P := MemOk)
      (fun _ _ hs => clearGranule_memOk hs) _ (dropAssists_memOk (releaseCourt_memOk h))))))
    split
    · exact modFn_memOk hs
    · exact hs

theorem zeroiseNow_memOk {n : Nat} {s : State} (h : MemOk s) : MemOk (zeroiseNow n s) := by
  unfold zeroiseNow
  dsimp only
  dsimp only [MemOk]
  exact finishReset_memOk (stopCourt_memOk (modCourt_memOk (destroyKeys_memOk h)))

theorem zeroRecord_memOk {n cause : Nat} {s : State} (h : MemOk s) : MemOk (zeroRecord n cause s) :=
  postSec_memOk h

theorem zeroOne_memOk {e : Nat × Nat} {s : State} (h : MemOk s) : MemOk (zeroOne e s) := by
  unfold zeroOne
  dsimp only
  split
  · exact h
  · split
    · split
      · exact zeroRecord_memOk h
      · exact zeroRecord_memOk (zeroiseNow_memOk h)
    · split
      · exact h
      · dsimp only [MemOk]
        exact destroyKeys_memOk h
    · exact h

theorem settleWatch_memOk {s : State} (h : MemOk s) : MemOk (settleWatch s) := by
  unfold settleWatch
  extract_lets ds s1 l
  have h1 : MemOk s1 := foldl_keeps (P := MemOk) (fun _ _ hs => by exact hs) _ h
  exact foldl_keeps (P := MemOk) (fun _ _ hs => zeroOne_memOk hs) _ h1

theorem execGlitchTrip_memOk {die : Nat} {s : State} (h : MemOk s) : ResOk (execGlitchTrip die s) := by
  refine .next ?_
  split
  · exact h
  · exact settleWatch_memOk (foldl_keeps (P := MemOk) (fun _ _ hs => by exact hs) _ h)

theorem ResOk.watched {r : Res} (h : ResOk r) : ResOk (watched r) := by
  cases r with
  | next t => exact .next (settleWatch_memOk (h t rfl))
  | fault e => exact .fault e
  | refused e => exact fun _ hr => by cases hr

theorem beginReset_memOk {n : Nat} {c : Cmd} {s : State} (h : MemOk s) : MemOk (beginReset n c s) :=
  stopCourt_memOk (modCourt_memOk h)

theorem resetBody_memOk {whole : Bool} {c : Cmd} {s : State} (h : MemOk s) {r : State × Did}
    (e : resetBody whole c s = r) : MemOk r.1 := by
  subst e
  unfold resetBody
  dsimp only
  split
  · split
    · exact finishReset_memOk h
    · exact h
  · split
    · exact h
    · split
      · exact h
      · split
        · split
          · exact finishReset_memOk (beginReset_memOk h)
          · exact beginReset_memOk h
        · exact h

theorem zeroiseBody_memOk {whole : Bool} {c : Cmd} {s : State} (h : MemOk s) {r : State × Did}
    (e : zeroiseBody whole c s = r) : MemOk r.1 := by
  subst e
  unfold zeroiseBody
  dsimp only
  split
  · split
    · dsimp only
      exact postSec_memOk (finishReset_memOk h)
    · exact h
  · split
    · exact h
    · split
      · exact h
      · split
        · exact h
        · dsimp only
          exact postSec_memOk h
      · split
        · split
          · dsimp only
            exact postSec_memOk (finishReset_memOk (beginReset_memOk (destroyKeys_memOk h)))
          · exact beginReset_memOk (destroyKeys_memOk h)
        · exact modCmd_memOk (destroyKeys_memOk h)
        · exact h

theorem destroyBody_memOk {whole : Bool} {c : Cmd} {s : State} (h : MemOk s) {r : State × Did}
    (e : destroyBody whole c s = r) : MemOk r.1 := by
  subst e
  unfold destroyBody
  dsimp only
  split
  · split
    · exact finishDestroy_memOk h
    · exact h
  · split
    · exact h
    · split
      · exact h
      · split
        · split
          · exact finishDestroy_memOk (stopCourt_memOk (modCourt_memOk h))
          · exact stopCourt_memOk (modCourt_memOk h)
        · split
          · exact cutCmd_memOk h
          · exact h
        · exact h
        · exact h

theorem resizeStart_memOk {n : Nat} {k : Court} {c : Cmd} {gs : List Nat} {s : State} (h : MemOk s) :
    MemOk (resizeStart n k c gs s) := by
  unfold resizeStart
  dsimp only
  exact modCmd_memOk (foldl_keeps (P := MemOk) (fun _ _ hs => evacuate_memOk hs) _ (foldl_keeps (P := MemOk)
    (fun _ _ hs => storeZero_memOk hs) _ (foldl_keeps (P := MemOk) (fun _ _ hs => clearGranule_memOk hs) _ h)))

theorem shrinkBases_memOk {n : Nat} {k k' : Court} {s : State} (h : MemOk s) : MemOk (shrinkBases n k k' s) := by
  refine foldl_keeps (P := MemOk) (fun _ _ hs => ?_) _ h
  split
  · exact modSlot_memOk (courtMove_memOk hs)
  · split
    · exact evictSlot_memOk hs
    · exact hs

theorem shrinkMove_memOk {n : Nat} {k k' : Court} {s : State} (h : MemOk s) : MemOk (shrinkMove n k k' s) := by
  unfold shrinkMove
  dsimp only
  refine foldl_keeps (P := MemOk) (fun _ _ hs => lockVersion_memOk hs) _ (foldl_keeps (P := MemOk)
    (fun _ _ hs => ?_) _ (foldl_keeps (P := MemOk) (fun _ _ hs => unlockVersion_memOk hs) _ h))
  split
  · exact hs
  · exact modEntry_memOk (courtMove_memOk hs)

theorem shrinkDemote_memOk {n : Nat} {k k' : Court} {s : State} (h : MemOk s) : MemOk (shrinkDemote n k k' s) :=
  foldl_keeps (P := MemOk) (fun _ _ hs => demote_memOk hs) _ h

theorem resizeFinish_memOk {n : Nat} {k : Court} {c : Cmd} {s : State} (h : MemOk s) : MemOk (resizeFinish n k c s) := by
  unfold resizeFinish
  dsimp only
  refine settle_memOk (modCourt_memOk ?_)
  dsimp only [MemOk]
  exact foldl_keeps (P := MemOk) (fun _ _ hs => modBlock_memOk hs) _ (foldl_keeps (P := MemOk)
    (fun _ _ hs => clearGranule_memOk hs) _ h)

theorem resizeTry_memOk {n : Nat} {k : Court} {c : Cmd} {s : State} (h : MemOk s) {r : State × Did}
    (e : resizeTry n k c s = r) : MemOk r.1 := by
  subst e
  unfold resizeTry
  dsimp only
  split
  · exact h
  · split
    · exact h
    · split
      · exact h
      · split
        · split
          · exact resizeFinish_memOk (shrinkDemote_memOk (shrinkMove_memOk (shrinkBases_memOk h)))
          · exact shrinkDemote_memOk (shrinkMove_memOk (shrinkBases_memOk h))
        · exact resizeFinish_memOk h

theorem resizeBody_memOk {whole : Bool} {c : Cmd} {s : State} (h : MemOk s) {r : State × Did}
    (e : resizeBody whole c s = r) : MemOk r.1 := by
  subst e
  unfold resizeBody
  dsimp only
  split
  · exact h
  · split
    · exact h
    · split
      · exact h
      · split
        · split
          · exact resizeTry_memOk h rfl
          · exact h
        · split
          · exact h
          · split
            · exact h
            · split
              · exact resizeTry_memOk (askGranules_memOk (resizeStart_memOk h)) rfl
              · exact askGranules_memOk (resizeStart_memOk h)

theorem execCreateCourt_memOk {q : QId} {cid : Nat} {whole : Bool} {s : State} (h : MemOk s) :
    ResOk (execCreateCourt q cid whole s) :=
  (ResOk.next (runCmd_memOk (fun _ _ hs => createBody_memOk hs rfl) h)).watched

theorem execDestroyCourt_memOk {q : QId} {cid : Nat} {whole : Bool} {s : State} (h : MemOk s) :
    ResOk (execDestroyCourt q cid whole s) :=
  (ResOk.next (runCmd_memOk (fun _ _ hs => destroyBody_memOk hs rfl) h)).watched

theorem execResetCourt_memOk {q : QId} {cid : Nat} {whole : Bool} {s : State} (h : MemOk s) :
    ResOk (execResetCourt q cid whole s) :=
  (ResOk.next (runCmd_memOk (fun _ _ hs => resetBody_memOk hs rfl) h)).watched

theorem execZeroiseCourt_memOk {q : QId} {cid : Nat} {whole : Bool} {s : State} (h : MemOk s) :
    ResOk (execZeroiseCourt q cid whole s) :=
  (ResOk.next (runCmd_memOk (fun _ _ hs => zeroiseBody_memOk hs rfl) h)).watched

theorem execResizeCourt_memOk {q : QId} {cid : Nat} {whole : Bool} {s : State} (h : MemOk s) :
    ResOk (execResizeCourt q cid whole s) :=
  (ResOk.next (runCmd_memOk (fun _ _ hs => resizeBody_memOk hs rfl) h)).watched

theorem squareDone_memOk {w : WoRef} {code : Nat} {s : State} (h : MemOk s) : MemOk (squareDone w code s) :=
  finishWo_memOk h

theorem execSemAcquire_memOk {w : WoRef} {s : State} (h : MemOk s) : ResOk (execSemAcquire w s) := by
  refine .next ?_
  split
  · exact h
  · split
    · exact h
    · dsimp only
      refine serveWaiters_memOk ?_
      dsimp only [MemOk]
      exact modStream_memOk h

theorem execSemRelease_memOk {w : WoRef} {s : State} (h : MemOk s) : ResOk (execSemRelease w s) := by
  refine .next ?_
  split
  · exact h
  · split
    · exact h
    · dsimp only
      split
      · exact squareDone_memOk h
      · split
        · exact squareDone_memOk h
        next heq => exact settle_memOk (serveWaiters_memOk (squareDone_memOk (modStream_memOk (semAdd_memOk h heq))))

theorem execSemAdd_memOk {w : WoRef} {s : State} (h : MemOk s) : ResOk (execSemAdd w s) := by
  refine .next ?_
  split
  · exact h
  · split
    · exact h
    · split
      · exact squareDone_memOk h
      next heq => exact settle_memOk (serveWaiters_memOk (squareDone_memOk (semAdd_memOk h heq)))

theorem notifyRun_memOk {r : Nat} {b : Barrier} {s : State} (h : MemOk s) : MemOk (notifyRun r b s) := by
  unfold notifyRun
  split
  · exact h
  · split
    · split
      · exact h
      · exact interim_memOk h
    · exact h

theorem openBarrier_memOk {b : Barrier} {s : State} (h : MemOk s) : MemOk (openBarrier b s) := by
  unfold openBarrier
  dsimp only
  exact foldl_keeps (P := MemOk) (fun _ _ hs => retireWo_memOk hs) _ (foldl_keeps (P := MemOk)
    (fun _ _ hs => finishWo_memOk hs) _ (foldl_keeps (P := MemOk) (fun _ _ hs => notifyRun_memOk hs) _ h))

theorem execFence_memOk {w : WoRef} {s : State} (h : MemOk s) : ResOk (execFence w s) := by
  refine .next ?_
  split
  · exact h
  · dsimp only
    split
    · exact squareDone_memOk h
    · split
      · exact openBarrier_memOk (modStream_memOk h)
      · dsimp only [MemOk]
        exact modStream_memOk h

theorem execNop_memOk {w : WoRef} {s : State} (h : MemOk s) : ResOk (execNop w s) := by
  refine .next ?_
  split
  · exact h
  · exact squareDone_memOk h

theorem execWorkOrderRetire_memOk {w : WoRef} {s : State} (h : MemOk s) : ResOk (execWorkOrderRetire w s) := by
  refine .next ?_
  split
  · exact retireWo_memOk h
  · exact h

theorem execSemHoldLimit_memOk {w : WoRef} {s : State} (h : MemOk s) : ResOk (execSemHoldLimit w s) := by
  refine .next ?_
  split
  · exact h
  · split
    · exact h
    · dsimp only
      split
      · exact settle_memOk (serveWaiters_memOk (modStream_memOk (foldl_keeps (P := MemOk)
          (fun _ _ hs => semSet_memOk hs) _ h)))
      · exact faultStream_memOk (modStream_memOk (foldl_keeps (P := MemOk) (fun _ _ hs => semSet_memOk hs) _ h))

theorem execViaductHoldLimit_memOk {w : WoRef} {s : State} (h : MemOk s) : ResOk (execViaductHoldLimit w s) := by
  refine .next ?_
  split
  · exact h
  · split
    · exact h
    · split
      · exact h
      · exact faultStream_memOk h

theorem execSliceExpiry_memOk {w : WoRef} {s : State} (h : MemOk s) : ResOk (execSliceExpiry w s) := by
  refine .next ?_
  split
  · exact h
  · split
    · exact preempt_memOk h
    · exact h

theorem saveDone_memOk {r i : Nat} {k : Run} {t : RunStream} {s : State} (h : MemOk s) : MemOk (saveDone r i k t s) := by
  unfold saveDone
  dsimp only
  refine settle_memOk (releaseBlocks_memOk ?_)
  dsimp only [MemOk]
  exact modStream_memOk h

theorem restoreDone_memOk {r i : Nat} {k : Run} {t : RunStream} {bad : Option Nat} {s : State} (h : MemOk s) :
    MemOk (restoreDone r i k t bad s) := by
  unfold restoreDone
  split
  · exact faultStream_memOk (poisonRead_memOk h)
  · dsimp only
    split
    · exact preempt_memOk (modStream_memOk (foldl_keeps (P := MemOk) (fun _ _ hs => modBlock_memOk hs) _ h))
    · exact settle_memOk (modStream_memOk (foldl_keeps (P := MemOk) (fun _ _ hs => modBlock_memOk hs) _ h))

theorem contextSaveRow_memOk {w : WoRef} {mem : Findings} {s : State} (h : MemOk s) : ResOk (contextSaveRow w mem s) := by
  refine .next ?_
  split
  · exact h
  · split
    · exact h
    · split
      · exact saveDone_memOk h
      · dsimp only
        exact restoreDone_memOk (applyFindings_memOk h)

theorem setCycle_memOk {pb : List Byte} {s : State} (h : MemOk s) {r : State × Did} (e : setCycle pb s = r) : MemOk r.1 := by
  subst e
  unfold setCycle
  dsimp only
  split
  · exact h
  · split
    · exact h
    · exact h

theorem setRow_memOk {pb : List Byte} {s : State} (h : MemOk s) {r : State × Did} (e : setRow pb s = r) : MemOk r.1 := by
  subst e
  unfold setRow
  dsimp only
  split
  · exact h
  · split
    · exact h
    · split
      · exact h
      · exact modCourt_memOk h

theorem setTimetableBody_memOk {c : Cmd} {s : State} (h : MemOk s) {r : State × Did}
    (e : setTimetableBody c s = r) : MemOk r.1 := by
  subst e
  unfold setTimetableBody
  split
  · exact h
  · split
    · exact setCycle_memOk h rfl
    · exact setRow_memOk h rfl

theorem execSetTimetable_memOk {q : QId} {cid : Nat} {s : State} (h : MemOk s) : ResOk (execSetTimetable q cid s) :=
  .next (runCmd_memOk (fun _ _ hs => setTimetableBody_memOk hs rfl) h)

theorem execTimetableCycle_memOk {s : State} (h : MemOk s) : ResOk (execTimetableCycle s) := by
  refine .next ?_
  split
  · exact h
  · dsimp only
    refine settle_memOk ?_
    split
    · dsimp only [MemOk]
      exact h
    · exact h

theorem clearReserved_memOk {gs : List Nat} {s : State} (h : MemOk s) : MemOk (clearReserved gs s) := by
  refine foldl_keeps (P := MemOk) (fun _ _ hs => ?_) _ h
  split
  · exact hs
  · split
    · split
      · exact preempt_memOk hs
      · exact hs
    · exact hs

theorem reserveSlot_memOk {cn slot : Nat} {c : Court} {t : TtSlot} {force : Bool} {s : State} (h : MemOk s) :
    MemOk (reserveSlot cn slot c t force s) := by
  unfold reserveSlot
  dsimp only
  exact clearReserved_memOk h

theorem execSlotLeadStart_memOk {court slot : Nat} {s : State} (h : MemOk s) : ResOk (execSlotLeadStart court slot s) := by
  refine .next ?_
  split
  · exact h
  · split
    · exact h
    · split
      · exact h
      · exact settle_memOk (reserveSlot_memOk h)

theorem execSlotStart_memOk {court slot : Nat} {s : State} (h : MemOk s) : ResOk (execSlotStart court slot s) := by
  refine .next ?_
  split
  · exact h
  · split
    · exact h
    · split
      · exact h
      · dsimp only
        refine settle_memOk (modCourt_memOk ?_)
        split
        · exact h
        · exact reserveSlot_memOk h

theorem execSlotEnd_memOk {court slot : Nat} {s : State} (h : MemOk s) : ResOk (execSlotEnd court slot s) := by
  refine .next ?_
  split
  · exact h
  · split
    · split
      · exact h
      · dsimp only
        exact settle_memOk (modCourt_memOk h)
    · exact h

theorem execScrubRead_memOk {line : Nat} {found : Findings} {s : State} (h : MemOk s) : ResOk (execScrubRead line found s) :=
  (scrubReadRow_memOk h).watched

theorem execDmaWrite_memOk {q : QId} {cid : Nat} {data : List Byte} {mem : Findings} {s : State} (h : MemOk s) :
    ResOk (execDmaWrite q cid data mem s) :=
  (dmaWriteRow_memOk h).watched

theorem execDmaRead_memOk {q : QId} {cid len : Nat} {mem : Findings} {s : State} (h : MemOk s) :
    ResOk (execDmaRead q cid len mem s) :=
  (dmaReadRow_memOk h).watched

theorem execCheckpoint_memOk {q : QId} {cid : Nat} {mem : Findings} {whole : Bool} {s : State} (h : MemOk s) :
    ResOk (execCheckpoint q cid mem whole s) :=
  (checkpointRow_memOk h).watched

theorem execContextSaveComplete_memOk {w : WoRef} {mem : Findings} {s : State} (h : MemOk s) :
    ResOk (execContextSaveComplete w mem s) :=
  (contextSaveRow_memOk h).watched

theorem execServingStepRetire_memOk {batch : Nat} {mem : Findings} {s : State} (h : MemOk s) :
    ResOk (execServingStepRetire batch mem s) :=
  (servingStepRow_memOk h).watched

theorem execParkCopyComplete_memOk {seq : Nat} {mem : Findings} {s : State} (h : MemOk s) :
    ResOk (execParkCopyComplete seq mem s) :=
  (parkCopyRow_memOk h).watched

theorem execResultFrame_memOk {mem : Findings} {s : State} (h : MemOk s) : ResOk (execResultFrame mem s) :=
  (resultFrameRow_memOk h).watched

theorem execGet_memOk {mem : Findings} {s : State} (h : MemOk s) : ResOk (execGet mem s) :=
  (getRow_memOk h).watched

theorem noteFixes_memOk {bs : List Nat} {mem : Findings} {s : State} (h : MemOk s) : MemOk (noteFixes bs mem s) := by
  refine foldl_keeps (P := MemOk) (fun _ _ hs => ?_) _ h
  split
  · exact modBlock_memOk hs
  · exact hs

theorem countStalls_memOk {type : Nat} {bypass : Bool} {bs : List Nat} {s : State} (h : MemOk s) :
    MemOk (countStalls type bypass bs s) := by
  unfold countStalls
  split
  · exact h
  · dsimp only
    exact foldl_keeps (P := MemOk) (fun _ _ hs => modBlock_memOk hs) _ h

theorem chargeCounts_memOk {e : Sent} {c : Counts} {s : State} (h : MemOk s) : MemOk (chargeCounts e c s) := by
  unfold chargeCounts
  dsimp only
  split
  · split
    · exact raiseCause_memOk (addCounts_memOk h)
    · exact addCounts_memOk h
  · exact addCounts_memOk h

theorem woRefuse_memOk {w : WoRef} {e : Sent} {err : Nat} {s : State} (h : MemOk s) : MemOk (woRefuse w e err s) :=
  finishWo_memOk (poisonRead_memOk h)

theorem supplyStep_memOk {n : Sent} {o : WoOut} {s : State} (h : MemOk s) {r : State × Counts}
    (e : supplyStep n o s = some r) : MemOk r.1 := by
  unfold supplyStep at e
  split at e
  · cases e
    exact h
  split at e
  · cases e
  split at e
  · cases e
    exact supplyBucket_memOk h rfl
  · cases e

theorem woEnd_memOk {w : WoRef} {e : Sent} {x : Ctx} {o : WoOut} {c : Counts} {s : State} (h : MemOk s) :
    MemOk (woEnd w e x o c s) := by
  unfold woEnd
  split
  · exact woRefuse_memOk h
  next heq =>
    dsimp only
    exact finishWo_memOk (countStalls_memOk (poisonRead_memOk (chargeCounts_memOk (foldl_keeps (P := MemOk)
      (fun _ _ hs => tensorLastUse_memOk hs) _ (applyWrites_memOk (supplyStep_memOk h heq))))))

theorem withWo_memOk {w : WoRef} {mem : Findings} {type : Nat} {sel : List Byte → Bool} {act : Sent → Ctx → State → State}
    {s : State} (hact : ∀ e x s, MemOk s → MemOk (act e x s)) (h : MemOk s) : ResOk (withWo w mem type sel act s) := by
  unfold withWo
  refine (ResOk.next ?_).watched
  split
  · exact h
  split
  · exact h
  · exact hact _ _ _ (noteFixes_memOk (applyFindings_memOk h))

theorem bodyAct_memOk {w : WoRef} {body : State → WoEnv → FpM WoOut} {e : Sent} {x : Ctx} {s : State} (h : MemOk s) :
    MemOk (bodyAct w body e x s) := by
  unfold bodyAct
  dsimp only
  exact woEnd_memOk h

theorem execGemm_memOk {w : WoRef} {mem : Findings} {s : State} (h : MemOk s) : ResOk (execGemm w mem s) :=
  (withWo_memOk (fun _ _ _ hs => bodyAct_memOk hs) h)

theorem execGroupedLowrank_memOk {w : WoRef} {mem : Findings} {s : State} (h : MemOk s) :
    ResOk (execGroupedLowrank w mem s) :=
  (withWo_memOk (fun _ _ _ hs => bodyAct_memOk hs) h)

theorem execAttention_memOk {w : WoRef} {mem : Findings} {s : State} (h : MemOk s) : ResOk (execAttention w mem s) :=
  (withWo_memOk (fun _ _ _ hs => bodyAct_memOk hs) h)

theorem execNorm_memOk {w : WoRef} {mem : Findings} {s : State} (h : MemOk s) : ResOk (execNorm w mem s) :=
  (withWo_memOk (fun _ _ _ hs => bodyAct_memOk hs) h)

theorem execElementwiseAdd_memOk {w : WoRef} {mem : Findings} {s : State} (h : MemOk s) :
    ResOk (execElementwiseAdd w mem s) :=
  (withWo_memOk (fun _ _ _ hs => bodyAct_memOk hs) h)

theorem execElementwiseMul_memOk {w : WoRef} {mem : Findings} {s : State} (h : MemOk s) :
    ResOk (execElementwiseMul w mem s) :=
  (withWo_memOk (fun _ _ _ hs => bodyAct_memOk hs) h)

theorem execElementwiseAxpy_memOk {w : WoRef} {mem : Findings} {s : State} (h : MemOk s) :
    ResOk (execElementwiseAxpy w mem s) :=
  (withWo_memOk (fun _ _ _ hs => bodyAct_memOk hs) h)

theorem execElementwiseSilu_memOk {w : WoRef} {mem : Findings} {s : State} (h : MemOk s) :
    ResOk (execElementwiseSilu w mem s) :=
  (withWo_memOk (fun _ _ _ hs => bodyAct_memOk hs) h)

theorem execElementwiseSwiglu_memOk {w : WoRef} {mem : Findings} {s : State} (h : MemOk s) :
    ResOk (execElementwiseSwiglu w mem s) :=
  (withWo_memOk (fun _ _ _ hs => bodyAct_memOk hs) h)

theorem execElementwiseRelu_memOk {w : WoRef} {mem : Findings} {s : State} (h : MemOk s) :
    ResOk (execElementwiseRelu w mem s) :=
  (withWo_memOk (fun _ _ _ hs => bodyAct_memOk hs) h)

theorem convertAct_memOk {w : WoRef} {e : Sent} {x : Ctx} {s : State} (h : MemOk s) : MemOk (convertAct w e x s) := by
  unfold convertAct
  dsimp only
  split
  · exact noteConvert_memOk (woEnd_memOk h)
  · exact woEnd_memOk h

theorem execElementwiseConvert_memOk {w : WoRef} {mem : Findings} {s : State} (h : MemOk s) :
    ResOk (execElementwiseConvert w mem s) :=
  (withWo_memOk (fun _ _ _ hs => convertAct_memOk hs) h)

theorem execElementwiseWadd_memOk {w : WoRef} {mem : Findings} {s : State} (h : MemOk s) :
    ResOk (execElementwiseWadd w mem s) :=
  (withWo_memOk (fun _ _ _ hs => bodyAct_memOk hs) h)

theorem execElementwisePassFold_memOk {w : WoRef} {mem : Findings} {s : State} (h : MemOk s) :
    ResOk (execElementwisePassFold w mem s) :=
  (withWo_memOk (fun _ _ _ hs => bodyAct_memOk hs) h)

theorem execElementwiseWfin_memOk {w : WoRef} {mem : Findings} {s : State} (h : MemOk s) :
    ResOk (execElementwiseWfin w mem s) :=
  (withWo_memOk (fun _ _ _ hs => bodyAct_memOk hs) h)

theorem execCopyPlain_memOk {w : WoRef} {mem : Findings} {s : State} (h : MemOk s) : ResOk (execCopyPlain w mem s) :=
  (withWo_memOk (fun _ _ _ hs => bodyAct_memOk hs) h)

theorem execCopySkew_memOk {w : WoRef} {mem : Findings} {s : State} (h : MemOk s) : ResOk (execCopySkew w mem s) :=
  (withWo_memOk (fun _ _ _ hs => bodyAct_memOk hs) h)

theorem execCopyGather_memOk {w : WoRef} {mem : Findings} {s : State} (h : MemOk s) : ResOk (execCopyGather w mem s) :=
  (withWo_memOk (fun _ _ _ hs => bodyAct_memOk hs) h)

theorem execCopyRemote_memOk {w : WoRef} {mem : Findings} {s : State} (h : MemOk s) : ResOk (execCopyRemote w mem s) := by
  refine withWo_memOk (fun _ _ _ hs => ?_) h
  split
  · exact woRefuse_memOk hs
  · exact bodyAct_memOk hs

theorem execReduceSendLayer_memOk {w : WoRef} {mem : Findings} {s : State} (h : MemOk s) :
    ResOk (execReduceSendLayer w mem s) := by
  refine withWo_memOk (fun _ _ _ hs => ?_) h
  split
  · exact woRefuse_memOk hs
  · split
    · exact woRefuse_memOk hs
    · dsimp only
      exact settle_memOk (finishWo_memOk (chargeCounts_memOk (sendLayer_memOk hs rfl)))

theorem execReduceSendTile_memOk {w : WoRef} {mem : Findings} {s : State} (h : MemOk s) :
    ResOk (execReduceSendTile w mem s) := by
  refine withWo_memOk (fun _ _ _ hs => ?_) h
  split
  · exact hs
  · split
    · exact woRefuse_memOk hs
    · split
      · exact woRefuse_memOk hs
      · dsimp only
        exact settle_memOk (progressed_memOk (modStream_memOk (releaseBlocks_memOk (beginBucket_memOk hs))))

theorem execUpdate_memOk {w : WoRef} {mem : Findings} {s : State} (h : MemOk s) : ResOk (execUpdate w mem s) := by
  refine withWo_memOk (fun _ _ _ hs => ?_) h
  split
  · exact woRefuse_memOk hs
  · split
    · exact hs
    · split
      · exact woRefuse_memOk hs
      · exact registerShard_memOk (progressed_memOk hs)

theorem pairAct_memOk {w : WoRef} {e : Sent} {x : Ctx} {s : State} (h : MemOk s) : MemOk (pairAct w e x s) := by
  unfold pairAct
  split
  · exact woRefuse_memOk h
  · dsimp only
    split
    · exact woEnd_memOk h
    · exact modBlock_memOk (modStream_memOk (woEnd_memOk h))

theorem execViaductPairPass1_memOk {w : WoRef} {mem : Findings} {s : State} (h : MemOk s) :
    ResOk (execViaductPairPass1 w mem s) :=
  (withWo_memOk (fun _ _ _ hs => pairAct_memOk hs) h)

theorem execViaductPairPass2_memOk {w : WoRef} {mem : Findings} {s : State} (h : MemOk s) :
    ResOk (execViaductPairPass2 w mem s) :=
  (withWo_memOk (fun _ _ _ hs => pairAct_memOk hs) h)

theorem applyGranules_memOk {q : QId} {cid : Nat} {proposal data : List Byte} {use : Bool} {s : State} (h : MemOk s) :
    MemOk (applyGranules q cid proposal data use s) := by
  unfold applyGranules
  dsimp only
  split
  · exact modSlot_memOk h
  · split
    · exact h
    · split
      · exact amendGranules_memOk h
      · exact modCmd_memOk h

theorem settleAssist_memOk {a : AssistRec} {disp : Option Nat} {data back : List Byte} {s : State} (h : MemOk s) :
    MemOk (settleAssist a disp data back s) := by
  unfold settleAssist
  dsimp only
  split
  · exact applyDemote_memOk h
  · exact applyGranules_memOk h
  · exact homesAnswered_memOk h
  · exact clipAnswered_memOk h
  · exact updateAnswered_memOk h
  · exact bucketAnswered_memOk h
  · exact resyncAnswered_memOk h
  · exact settleStop_memOk h
  · exact settlePark_memOk h
  · exact settleSpec_memOk h
  · exact marginReply_memOk h
  · exact roadReply_memOk h

theorem dropAssist_memOk {a : AssistRec} {s : State} (h : MemOk s) : MemOk (dropAssist a s) :=
  h

theorem replyData_memOk {c : Cmd} {a : AssistRec} {data : List Byte} {s : State} (h : MemOk s)
    {r : Option (List Byte) × State}
    (e : replyData c a data s = r) : MemOk r.2 := by
  subst e
  unfold replyData
  split
  · exact h
  · exact fromHost_memOk h rfl

theorem clipBack_memOk {c : Cmd} {a : AssistRec} {l : List Nat} {area : List Byte} {s : State} (h : MemOk s)
    {r : Option (List Byte) × State} (e : clipBack c a l area s = r) : MemOk r.2 := by
  subst e
  induction l generalizing area s with
  | nil => exact h
  | cons n t ih =>
    unfold clipBack
    extract_lets len
    split
    next heq => exact replyData_memOk h heq
    next heq =>
      have hrest := ih (area := area.drop (roundUp len 64)) (replyData_memOk h heq)
      split <;> simp_all

theorem assistReplyBody_memOk {data : List Byte} {c : Cmd} {s : State} (h : MemOk s) {r : State × Did}
    (e : assistReplyBody data c s = r) : MemOk r.1 := by
  subst e
  unfold assistReplyBody
  extract_lets id disp len row
  split
  · exact h
  split
  · split <;> exact h
  extract_lets sizes more
  split
  · exact h
  split
  next heq => exact replyData_memOk h heq
  next heq =>
    have h := replyData_memOk h heq
    split
    next heq => exact clipBack_memOk h heq
    next heq => exact settle_memOk (settleAssist_memOk (dropAssist_memOk (clipBack_memOk h heq)))

theorem execAssistReply_memOk {q : QId} {cid : Nat} {data : List Byte} {s : State} (h : MemOk s) :
    ResOk (execAssistReply q cid data s) :=
  (ResOk.next (runCmd_memOk (fun _ _ hs => assistReplyBody_memOk hs rfl) h)).watched

theorem execAssistDeadlineExpiry_memOk {row id : Nat} {s : State} (h : MemOk s) :
    ResOk (execAssistDeadlineExpiry row id s) := by
  refine .watched ?_
  refine .next ?_
  split
  · exact h
  · split
    · refine settle_memOk (settleAssist_memOk ?_)
      dsimp only [MemOk]
      exact dropAssist_memOk h
    · exact h

theorem purgeAll_memOk {s : State} (h : MemOk s) : MemOk (purgeAll s) :=
  foldl_keeps (P := MemOk) (fun _ _ hs => purgeOld_memOk hs) _ h

theorem takeDownAll_memOk {f : FnId} {s : State} (h : MemOk s) : MemOk (takeDownAll f s) :=
  foldl_keeps (P := MemOk) (fun _ _ hs => takeDown_memOk (modQueue_memOk hs)) _ h

theorem dropRings_memOk {f : FnId} {s : State} (h : MemOk s) : MemOk (dropRings f s) :=
  purgeAll_memOk h

theorem resetFn_memOk {f : FnId} {s : State} (h : MemOk s) : MemOk (resetFn f s) :=
  modFn_memOk (dropRings_memOk (takeDownAll_memOk h))

theorem execFunctionLevelReset_memOk {f : FnId} {s : State} (h : MemOk s) : ResOk (execFunctionLevelReset f s) := by
  refine .watched ?_
  refine .next ?_
  split
  · exact resetFn_memOk h
  · exact h

theorem releaseFn_memOk {f : FnId} {s : State} (h : MemOk s) : MemOk (releaseFn f s) := by
  unfold releaseFn
  split
  · exact h
  · dsimp only
    split
    · exact drainAll_memOk (foldl_keeps (P := MemOk) (fun _ _ hs => hostWrite_memOk hs) _ h)
    · exact foldl_keeps (P := MemOk) (fun _ _ hs => emit_memOk hs) _ (modFn_memOk (drainAll_memOk (foldl_keeps
        (P := MemOk) (fun _ _ hs => hostWrite_memOk hs) _ h)))

theorem execBusMasterEnableClear_memOk {f : FnId} {s : State} (h : MemOk s) : ResOk (execBusMasterEnableClear f s) :=
  .next (modFn_memOk h)

theorem execBusMasterEnableSet_memOk {f : FnId} {s : State} (h : MemOk s) : ResOk (execBusMasterEnableSet f s) := by
  refine .next ?_
  split
  · exact releaseFn_memOk (modFn_memOk h)
  · exact h

theorem execD3hotEntry_memOk {f : FnId} {s : State} (h : MemOk s) : ResOk (execD3hotEntry f s) :=
  .next (modFn_memOk h)

theorem execD0Return_memOk {f : FnId} {s : State} (h : MemOk s) : ResOk (execD0Return f s) := by
  refine .watched ?_
  refine .next ?_
  split
  · exact resetFn_memOk h
  · exact h

theorem execHostLinkDown_memOk {port : Nat} {s : State} (h : MemOk s) : ResOk (execHostLinkDown port s) := by
  refine .watched ?_
  refine .next ?_
  split
  · exact h
  · dsimp only
    dsimp only [MemOk]
    exact foldl_keeps (P := MemOk) (fun _ _ hs => resetFn_memOk hs) _ h

theorem execHostLinkTrain_memOk {port : Nat} {full : Bool} {s : State} (h : MemOk s) :
    ResOk (execHostLinkTrain port full s) := by
  refine .next ?_
  split
  · exact h
  · exact h

theorem setVf_memOk {f : FnId} {on : Bool} {s : State} (h : MemOk s) : MemOk (setVf f on s) := by
  unfold setVf
  split
  · exact h
  · split
    · exact h
    · split
      · exact modFn_memOk h
      · exact modFn_memOk (resetFn_memOk h)

theorem execVfEnableChange_memOk {port vfs : Nat} {s : State} (h : MemOk s) : ResOk (execVfEnableChange port vfs s) := by
  refine .watched ?_
  refine .next ?_
  split
  · exact h
  · exact foldl_keeps (P := MemOk) (fun _ _ hs => setVf_memOk hs) _ h

theorem hostFault_memOk {c : Cmd} {s : State} (h : MemOk s) : MemOk (hostFault c s) :=
  retire_memOk (undoCmd_memOk h)

theorem commandReadFails_memOk {q : QId} {cid : Nat} {s : State} (h : MemOk s) : MemOk (commandReadFails q cid s) := by
  unfold commandReadFails
  split
  · exact h
  · split
    · exact h
    · split
      · split
        · exact settle_memOk (hostFault_memOk h)
        · split
          · split
            · exact endSeq_memOk h
            · exact h
          · exact h
      · split
        · exact retire_memOk h
        · exact h

theorem blockReadFails_memOk {q : QId} {entry : List Byte} {s : State} (h : MemOk s) : MemOk (blockReadFails q entry s) := by
  unfold blockReadFails
  split
  · exact h
  · split
    · exact h
    · dsimp only
      split
      · exact rejectDuplicate_memOk (modQueue_memOk h)
      · refine retire_memOk ?_
        dsimp only [MemOk]
        exact modQueue_memOk h

theorem readFails_memOk {q : QId} {what : HostRead} {s : State} (h : MemOk s) : MemOk (readFails q what s) := by
  unfold readFails
  split
  · split
    · exact h
    · split
      · exact fetchFailed_memOk h
      · exact h
  · exact blockReadFails_memOk h
  · exact commandReadFails_memOk h
  · split
    · exact h
    · split
      · exact reloadFailed_memOk h
      · exact h
  · split
    · exact modEntry_memOk h
    · exact h
  · split
    · exact h
    · split
      · exact returnFailed_memOk h
      · exact h

theorem execHostReadFault_memOk {q : QId} {what : HostRead} {s : State} (h : MemOk s) :
    ResOk (execHostReadFault q what s) := by
  refine .watched ?_
  exact .next (readFails_memOk h)

theorem execHostReadTimeout_memOk {q : QId} {what : HostRead} {s : State} (h : MemOk s) :
    ResOk (execHostReadTimeout q what s) := by
  refine .watched ?_
  exact .next (readFails_memOk h)

theorem execIdeStreamFail_memOk {f : FnId} {s : State} (h : MemOk s) : ResOk (execIdeStreamFail f s) := by
  refine .watched ?_
  refine .next ?_
  split
  · dsimp only
    refine settle_memOk (foldl_keeps (P := MemOk) (fun _ _ hs => ?_) _ (foldl_keeps (P := MemOk) (fun _ _ hs => ?_) _ h))
    · split
      · split
        · exact fetchFailed_memOk hs
        · exact hs
      · exact hs
    · split
      · exact hostFault_memOk hs
      · exact hs
  · exact h

theorem execI3cEntdaa_memOk {addr : Nat} {s : State} (h : MemOk s) : ResOk (execI3cEntdaa addr s) := by
  refine .next ?_
  split
  · exact emit_memOk h
  · exact h

theorem execI3cSetdasa_memOk {static addr : Nat} {s : State} (h : MemOk s) : ResOk (execI3cSetdasa static addr s) := by
  refine .next ?_
  split
  · exact h
  · exact h

theorem execI3cCcc_memOk {code : Nat} {data : List Byte} {s : State} (h : MemOk s) : ResOk (execI3cCcc code data s) := by
  refine .next ?_
  split
  · exact h
  · split
    · exact h
    · split
      · split
        · exact h
        · exact h
      · split
        · exact h
        · split
          · exact h
          · split
            · exact emit_memOk h
            · split
              · exact emit_memOk h
              · split
                · exact emit_memOk h
                · split
                  · exact emit_memOk h
                  · exact h

theorem ctlReply_memOk {msg body : List Byte} {s : State} (h : MemOk s) : MemOk (ctlReply msg body s) :=
  emit_memOk h

theorem execSetEndpointId_memOk {msg : List Byte} {s : State} (h : MemOk s) : ResOk (execSetEndpointId msg s) := by
  refine .next ?_
  split
  · exact h
  · split
    · exact ctlReply_memOk h
    · dsimp only
      split
      · exact ctlReply_memOk h
      · exact ctlReply_memOk h

theorem execMctpControlMessage_memOk {msg : List Byte} {s : State} (h : MemOk s) : ResOk (execMctpControlMessage msg s) := by
  refine .next ?_
  split
  · exact h
  · split
    · exact ctlReply_memOk h
    · exact ctlReply_memOk h
    · exact ctlReply_memOk h
    · exact ctlReply_memOk h

theorem execMctpUnsupportedType_memOk {x : List Byte} {s : State} (h : MemOk s) : ResOk (execMctpUnsupportedType x s) :=
  .next h

theorem pldmReply_memOk {msg body : List Byte} {s : State} (h : MemOk s) : MemOk (pldmReply msg body s) :=
  emit_memOk h

theorem pldmSend_memOk {type cmd : Nat} {body : List Byte} {s : State} (h : MemOk s) : MemOk (pldmSend type cmd body s) :=
  emit_memOk h

theorem pldmRow_memOk {type cmd n : Nat} {act : List Byte → State → List Byte × State} {msg : List Byte} {s : State}
    (hact : ∀ d s, MemOk s → MemOk (act d s).2) (h : MemOk s) : ResOk (pldmRow type cmd n act msg s) := by
  unfold pldmRow
  refine .next ?_
  split
  · exact h
  split
  · exact pldmReply_memOk h
  · exact pldmReply_memOk (hact _ _ h)

theorem execGetTid_memOk {msg : List Byte} {s : State} (h : MemOk s) : ResOk (execGetTid msg s) :=
  (pldmRow_memOk (fun _ _ hs => hs) h)

theorem execSetTid_memOk {msg : List Byte} {s : State} (h : MemOk s) : ResOk (execSetTid msg s) := by
  refine pldmRow_memOk (fun _ _ hs => ?_) h
  split
  · exact hs
  · exact hs

theorem execGetPldmVersion_memOk {msg : List Byte} {s : State} (h : MemOk s) : ResOk (execGetPldmVersion msg s) := by
  refine pldmRow_memOk (fun _ _ hs => ?_) h
  split
  · exact hs
  · split
    · exact hs
    · exact hs

theorem execGetPldmTypes_memOk {msg : List Byte} {s : State} (h : MemOk s) : ResOk (execGetPldmTypes msg s) :=
  (pldmRow_memOk (fun _ _ hs => hs) h)

theorem execGetPldmCommands_memOk {msg : List Byte} {s : State} (h : MemOk s) : ResOk (execGetPldmCommands msg s) := by
  refine pldmRow_memOk (fun _ _ hs => ?_) h
  split
  · exact hs
  · exact hs

theorem execPldmUnsupportedCmd_memOk {msg : List Byte} {s : State} (h : MemOk s) : ResOk (execPldmUnsupportedCmd msg s) := by
  refine .next ?_
  split
  · exact h
  · split
    · exact pldmReply_memOk h
    · split
      · exact h
      · exact pldmReply_memOk h

theorem execGetPdrRepositoryInfo_memOk {msg : List Byte} {s : State} (h : MemOk s) :
    ResOk (execGetPdrRepositoryInfo msg s) :=
  (pldmRow_memOk (fun _ _ hs => hs) h)

theorem execGetPdr_memOk {msg : List Byte} {s : State} (h : MemOk s) : ResOk (execGetPdr msg s) := by
  refine pldmRow_memOk (fun _ _ hs => ?_) h
  extract_lets id at_ r part last flag c crc
  split
  · exact hs
  split
  · exact hs
  split
  · exact hs
  · exact takeFree_memOk hs rfl

theorem execGetSensorReading_memOk {msg : List Byte} {s : State} (h : MemOk s) : ResOk (execGetSensorReading msg s) := by
  refine pldmRow_memOk (fun _ _ hs => ?_) h
  extract_lets id
  split
  · exact hs
  split
  · exact hs
  · exact takeFree_memOk hs rfl

theorem execGetStateSensorReadings_memOk {msg : List Byte} {s : State} (h : MemOk s) :
    ResOk (execGetStateSensorReadings msg s) := by
  refine pldmRow_memOk (fun _ _ hs => ?_) h
  extract_lets id
  split
  · exact hs
  split
  · exact hs
  · exact takeFree_memOk hs rfl

theorem execSetEventReceiver_memOk {msg : List Byte} {s : State} (h : MemOk s) : ResOk (execSetEventReceiver msg s) := by
  refine pldmRow_memOk (fun _ _ hs => ?_) h
  split
  · exact hs
  · split
    · exact hs
    · exact hs

theorem sensorEvent_memOk {id old new : Nat} {w : F32} {s : State} (h : MemOk s) : MemOk (sensorEvent id old new w s) :=
  pldmSend_memOk h

theorem sensorEvents_memOk {cs : List (Nat × Nat × Nat × F32)} {s : State} (h : MemOk s) : MemOk (sensorEvents cs s) := by
  unfold sensorEvents
  split
  · exact h
  · refine foldl_keeps (P := MemOk) (fun _ _ hs => foldl_keeps (P := MemOk) (fun _ _ hs => ?_) _ hs) _ h
    split
    · exact hs
    · exact sensorEvent_memOk hs

theorem execSensorRefresh_memOk {reads : List (Nat × F32)} {s : State} (h : MemOk s) :
    ResOk (execSensorRefresh reads s) := by
  refine .next ?_
  split
  · exact h
  · dsimp only
    exact sensorEvents_memOk (storeSensors_memOk (thermalRespond_memOk h))

theorem execGetFruRecordTableMetadata_memOk {msg : List Byte} {s : State} (h : MemOk s) :
    ResOk (execGetFruRecordTableMetadata msg s) :=
  (pldmRow_memOk (fun _ _ hs => hs) h)

theorem execGetFruRecordTable_memOk {msg : List Byte} {s : State} (h : MemOk s) : ResOk (execGetFruRecordTable msg s) := by
  refine pldmRow_memOk (fun _ _ hs => ?_) h
  split
  · exact hs
  · exact hs

theorem setUpd_memOk {f : PldmUpdate → PldmUpdate} {s : State} (h : MemOk s) : MemOk (setUpd f s) := by
  unfold setUpd
  split
  · exact h
  · dsimp only
    exact h

theorem endUpd_memOk {s : State} (h : MemOk s) : MemOk (endUpd s) :=
  h

theorem execRequestUpdate_memOk {msg : List Byte} {s : State} (h : MemOk s) : ResOk (execRequestUpdate msg s) := by
  refine pldmRow_memOk (fun _ _ hs => ?_) h
  split
  · exact hs
  · split
    · exact hs
    · dsimp only
      dsimp only [MemOk]
      exact emptyStaging_memOk hs

theorem requestData_memOk {s : State} (h : MemOk s) : MemOk (requestData s) := by
  unfold requestData
  split
  · exact h
  · exact pldmSend_memOk h

theorem verifyUpdate_memOk {u : PldmUpdate} {s : State} (h : MemOk s) : MemOk (verifyUpdate u s) := by
  unfold verifyUpdate
  dsimp only
  split
  · refine pldmSend_memOk (pldmSend_memOk (setUpd_memOk ?_))
    dsimp only [MemOk]
    exact pldmSend_memOk h
  · exact pldmSend_memOk (setUpd_memOk (emptyStaging_memOk (pldmSend_memOk h)))

theorem takeData_memOk {part : List Byte} {s : State} (h : MemOk s) : MemOk (takeData part s) := by
  unfold takeData
  split
  · exact h
  · split
    · exact h
    · dsimp only
      split
      · exact requestData_memOk (setUpd_memOk h)
      · exact verifyUpdate_memOk (setUpd_memOk h)

theorem execPldmFirmwareTransfer_memOk {msg : List Byte} {s : State} (h : MemOk s) :
    ResOk (execPldmFirmwareTransfer msg s) := by
  refine .next ?_
  split
  · exact h
  · split
    · split
      · split
        · exact pldmReply_memOk h
        · exact pldmReply_memOk (setUpd_memOk h)
      · split
        · exact pldmReply_memOk h
        · split
          · exact pldmReply_memOk h
          · split
            · exact pldmReply_memOk h
            · exact requestData_memOk (pldmReply_memOk (setUpd_memOk (emptyStaging_memOk h)))
      · exact h
    · split
      · split
        · exact takeData_memOk h
        · exact setUpd_memOk h
      · exact setUpd_memOk h
      · exact setUpd_memOk h
      · exact setUpd_memOk h
      · exact h

theorem execPldmActivateFirmware_memOk {msg : List Byte} {s : State} (h : MemOk s) :
    ResOk (execPldmActivateFirmware msg s) := by
  refine pldmRow_memOk (fun _ _ hs => ?_) h
  split
  · exact hs
  · split
    · exact endUpd_memOk hs
    · exact setUpd_memOk hs

theorem execGetStatus_memOk {msg : List Byte} {s : State} (h : MemOk s) : ResOk (execGetStatus msg s) :=
  (pldmRow_memOk (fun _ _ hs => setUpd_memOk hs) h)

theorem execCancelUpdate_memOk {msg : List Byte} {s : State} (h : MemOk s) : ResOk (execCancelUpdate msg s) := by
  refine pldmRow_memOk (fun _ _ hs => ?_) h
  split
  · exact hs
  · exact endUpd_memOk (emptyStaging_memOk hs)

theorem execPldmUpdateIdleTimeout_memOk {s : State} (h : MemOk s) : ResOk (execPldmUpdateIdleTimeout s) := by
  refine .next ?_
  split
  · exact h
  · split
    · exact endUpd_memOk (emptyStaging_memOk h)
    · exact h

theorem execSpdmMessage_memOk {port : Nat} {msg : List Byte} {s : State} (h : MemOk s) :
    ResOk (execSpdmMessage port msg s) := by
  refine .next ?_
  split
  · exact h
  · dsimp only
    split
    · exact emit_memOk h
    · exact emit_memOk h

theorem ideKmStep_memOk {port : Nat} {m : List Byte} {s : State} (h : MemOk s) {r : List Byte × State}
    (e : ideKmStep port m s = r) : MemOk r.2 := by
  subst e
  unfold ideKmStep
  dsimp only
  split
  · exact h
  · split
    · exact h
    · exact h
  · split
    · exact h
    · exact h
  · split
    · exact h
    · exact h
  · exact h

theorem execIdeKm_memOk {port : Nat} {msg : List Byte} {s : State} (h : MemOk s) : ResOk (execIdeKm port msg s) := by
  refine .next ?_
  split
  · exact h
  · split
    · exact h
    · split
      · exact h
      · dsimp only
        exact emit_memOk (ideKmStep_memOk h rfl)

theorem idle_memOk {s : State} (h : MemOk s) : MemOk (idle s) := by
  unfold idle
  split
  · exact h
  · exact h

/-! ### A step (95) -/

theorem exec_memOk {i : Instr} {s : State} (h : MemOk s) : ResOk (exec i s) := by
  cases i with
  | deviceInfo => exact execDeviceInfo_memOk h
  | createQueuePair => exact execCreateQueuePair_memOk h
  | deleteQueuePair => exact execDeleteQueuePair_memOk h
  | setRing => exact execSetRing_memOk h
  | abort => exact execAbort_memOk h
  | setFunctionMode => exact execSetFunctionMode_memOk h
  | createCourt => exact execCreateCourt_memOk h
  | destroyCourt => exact execDestroyCourt_memOk h
  | resetCourt => exact execResetCourt_memOk h
  | resizeCourt => exact execResizeCourt_memOk h
  | loadPackage => exact execLoadPackage_memOk h
  | unloadPackage => exact execUnloadPackage_memOk h
  | run => exact execRun_memOk h
  | setSemaphore => exact execSetSemaphore_memOk h
  | dmaWrite => exact execDmaWrite_memOk h
  | dmaRead => exact execDmaRead_memOk h
  | loadBase => exact execLoadBase_memOk h
  | evictBase => exact execEvictBase_memOk h
  | pinBase => exact execPinBase_memOk h
  | replaceBase => exact execReplaceBase_memOk h
  | registerAdapter => exact execRegisterAdapter_memOk h
  | replace => exact execReplace_memOk h
  | retireAdapter => exact execRetireAdapter_memOk h
  | pinContract => exact execPinContract_memOk h
  | releaseContract => exact execReleaseContract_memOk h
  | claimSlot => exact execClaimSlot_memOk h
  | rebindAdapter => exact execRebindAdapter_memOk h
  | queryAdapter => exact execQueryAdapter_memOk h
  | serve => exact execServe_memOk h
  | setStreamRing => exact execSetStreamRing_memOk h
  | park => exact execPark_memOk h
  | resume => exact execResume_memOk h
  | step => exact execStep_memOk h
  | checkpoint => exact execCheckpoint_memOk h
  | restore => exact execRestore_memOk h
  | distilJobOpen => exact execDistilJobOpen_memOk h
  | distilJobEnd => exact execDistilJobEnd_memOk h
  | distilStep => exact execDistilStep_memOk h
  | formGroup => exact execFormGroup_memOk h
  | dissolveGroup => exact execDissolveGroup_memOk h
  | groupStatus => exact execGroupStatus_memOk h
  | setTimetable => exact execSetTimetable_memOk h
  | migrate => exact execMigrate_memOk h
  | setMapoutReserve => exact execSetMapoutReserve_memOk h
  | attest => exact execAttest_memOk h
  | getCourtKey => exact execGetCourtKey_memOk h
  | installWrappedKeyInstall => exact execInstallWrappedKeyInstall_memOk h
  | installWrappedKeyRemove => exact execInstallWrappedKeyRemove_memOk h
  | registerSignerAdd => exact execRegisterSignerAdd_memOk h
  | registerSignerRemove => exact execRegisterSignerRemove_memOk h
  | zeroiseCourt => exact execZeroiseCourt_memOk h
  | stageFirmware => exact execStageFirmware_memOk h
  | activateFirmwareHot => exact execActivateFirmwareHot_memOk h
  | activateFirmwareWarm => exact execActivateFirmwareWarm_memOk h
  | handover => exact execHandover_memOk h
  | handoverQuery => exact execHandoverQuery_memOk h
  | clearRepairList => exact execClearRepairList_memOk h
  | runRoadworks => exact execRunRoadworks_memOk h
  | readCounters => exact execReadCounters_memOk h
  | readSensors => exact execReadSensors_memOk h
  | readSurvey => exact execReadSurvey_memOk h
  | assistReply => exact execAssistReply_memOk h
  | invalidOpcodeCommand => exact execInvalidOpcodeCommand_memOk h
  | sqTailWrite => exact execSqTailWrite_memOk h
  | cqHeadWrite => exact execCqHeadWrite_memOk h
  | assistHeadWrite => exact execAssistHeadWrite_memOk h
  | eventHeadWrite => exact execEventHeadWrite_memOk h
  | q0Enable => exact execQ0Enable_memOk h
  | q0Disable => exact execQ0Disable_memOk h
  | q0IrqConfig => exact execQ0IrqConfig_memOk h
  | controlWindowWrite => exact execControlWindowWrite_memOk h
  | msixUnmask => exact execMsixUnmask_memOk h
  | commandFetch => exact execCommandFetch_memOk h
  | coalesceTimerExpiry => exact execCoalesceTimerExpiry_memOk h
  | deadlineExpiry => exact execDeadlineExpiry_memOk h
  | assistDeadlineExpiry => exact execAssistDeadlineExpiry_memOk h
  | gemm => exact execGemm_memOk h
  | groupedLowrank => exact execGroupedLowrank_memOk h
  | attention => exact execAttention_memOk h
  | norm => exact execNorm_memOk h
  | elementwiseAdd => exact execElementwiseAdd_memOk h
  | elementwiseMul => exact execElementwiseMul_memOk h
  | elementwiseAxpy => exact execElementwiseAxpy_memOk h
  | elementwiseSilu => exact execElementwiseSilu_memOk h
  | elementwiseSwiglu => exact execElementwiseSwiglu_memOk h
  | elementwiseRelu => exact execElementwiseRelu_memOk h
  | elementwiseConvert => exact execElementwiseConvert_memOk h
  | elementwiseWadd => exact execElementwiseWadd_memOk h
  | elementwisePassFold => exact execElementwisePassFold_memOk h
  | elementwiseWfin => exact execElementwiseWfin_memOk h
  | copyPlain => exact execCopyPlain_memOk h
  | copySkew => exact execCopySkew_memOk h
  | copyGather => exact execCopyGather_memOk h
  | copyRemote => exact execCopyRemote_memOk h
  | reduceSendLayer => exact execReduceSendLayer_memOk h
  | reduceSendTile => exact execReduceSendTile_memOk h
  | update => exact execUpdate_memOk h
  | viaductPairPass1 => exact execViaductPairPass1_memOk h
  | viaductPairPass2 => exact execViaductPairPass2_memOk h
  | semAcquire => exact execSemAcquire_memOk h
  | semRelease => exact execSemRelease_memOk h
  | semAdd => exact execSemAdd_memOk h
  | fence => exact execFence_memOk h
  | nop => exact execNop_memOk h
  | workOrderRetire => exact execWorkOrderRetire_memOk h
  | semHoldLimit => exact execSemHoldLimit_memOk h
  | viaductHoldLimit => exact execViaductHoldLimit_memOk h
  | sliceExpiry => exact execSliceExpiry_memOk h
  | contextSaveComplete => exact execContextSaveComplete_memOk h
  | timetableCycle => exact execTimetableCycle_memOk h
  | slotLeadStart => exact execSlotLeadStart_memOk h
  | slotStart => exact execSlotStart_memOk h
  | slotEnd => exact execSlotEnd_memOk h
  | stepBoundary => exact execStepBoundary_memOk h
  | servingStepRetire => exact execServingStepRetire_memOk h
  | parkCopyComplete => exact execParkCopyComplete_memOk h
  | returnCopyComplete => exact execReturnCopyComplete_memOk h
  | parkTtlExpiry => exact execParkTtlExpiry_memOk h
  | adapterColdFetch => exact execAdapterColdFetch_memOk h
  | baseReload => exact execBaseReload_memOk h
  | contractEnd => exact execContractEnd_memOk h
  | stepOpen => exact execStepOpen_memOk h
  | ueEnd => exact execUeEnd_memOk h
  | ueMov => exact execUeMov_memOk h
  | ueAdd => exact execUeAdd_memOk h
  | ueSub => exact execUeSub_memOk h
  | ueMul => exact execUeMul_memOk h
  | ueMadd => exact execUeMadd_memOk h
  | ueDiv => exact execUeDiv_memOk h
  | ueSqrt => exact execUeSqrt_memOk h
  | ueMax => exact execUeMax_memOk h
  | ueMin => exact execUeMin_memOk h
  | ueAbs => exact execUeAbs_memOk h
  | ueSign => exact execUeSign_memOk h
  | ueSel => exact execUeSel_memOk h
  | voteCast => exact execVoteCast_memOk h
  | progressTimeout => exact execProgressTimeout_memOk h
  | reduceFrame => exact execReduceFrame_memOk h
  | resultFrame => exact execResultFrame_memOk h
  | broadcastFrame => exact execBroadcastFrame_memOk h
  | voteFrame => exact execVoteFrame_memOk h
  | outcomeFrame => exact execOutcomeFrame_memOk h
  | repairFrame => exact execRepairFrame_memOk h
  | formFrame => exact execFormFrame_memOk h
  | leaveFrame => exact execLeaveFrame_memOk h
  | avenueTraining => exact execAvenueTraining_memOk h
  | avenueTrainRetry => exact execAvenueTrainRetry_memOk h
  | avenueHello => exact execAvenueHello_memOk h
  | avenueKeyResponse => exact execAvenueKeyResponse_memOk h
  | avenueKeyConfirm => exact execAvenueKeyConfirm_memOk h
  | avenueAuthRetry => exact execAvenueAuthRetry_memOk h
  | dataFlit => exact execDataFlit_memOk h
  | idleFlit => exact execIdleFlit_memOk h
  | nak => exact execNak_memOk h
  | laneSwap => exact execLaneSwap_memOk h
  | width => exact execWidth_memOk h
  | retrain => exact execRetrain_memOk h
  | replayTimeout => exact execReplayTimeout_memOk h
  | avenueKeyRollover => exact execAvenueKeyRollover_memOk h
  | laneFailure => exact execLaneFailure_memOk h
  | put => exact execPut_memOk h
  | get => exact execGet_memOk h
  | data => exact execData_memOk h
  | done => exact execDone_memOk h
  | forwarded => exact execForwarded_memOk h
  | notice => exact execNotice_memOk h
  | lastInEpoch => exact execLastInEpoch_memOk h
  | adopt => exact execAdopt_memOk h
  | timer => exact execTimer_memOk h
  | unreachable => exact execUnreachable_memOk h
  | partnerRetry => exact execPartnerRetry_memOk h
  | partnerRangeExpiry => exact execPartnerRangeExpiry_memOk h
  | functionLevelReset => exact execFunctionLevelReset_memOk h
  | busMasterEnableClear => exact execBusMasterEnableClear_memOk h
  | busMasterEnableSet => exact execBusMasterEnableSet_memOk h
  | d3hotEntry => exact execD3hotEntry_memOk h
  | d0Return => exact execD0Return_memOk h
  | hostLinkDown => exact execHostLinkDown_memOk h
  | hostLinkTrain => exact execHostLinkTrain_memOk h
  | vfEnableChange => exact execVfEnableChange_memOk h
  | hostReadFault => exact execHostReadFault_memOk h
  | hostReadTimeout => exact execHostReadTimeout_memOk h
  | ideStreamFail => exact execIdeStreamFail_memOk h
  | spdmMessage => exact execSpdmMessage_memOk h
  | ideKm => exact execIdeKm_memOk h
  | i3cEntdaa => exact execI3cEntdaa_memOk h
  | i3cSetdasa => exact execI3cSetdasa_memOk h
  | i3cCcc => exact execI3cCcc_memOk h
  | setEndpointId => exact execSetEndpointId_memOk h
  | mctpControlMessage => exact execMctpControlMessage_memOk h
  | mctpUnsupportedType msg => exact execMctpUnsupportedType_memOk (x := msg) h
  | getTid => exact execGetTid_memOk h
  | setTid => exact execSetTid_memOk h
  | getPldmVersion => exact execGetPldmVersion_memOk h
  | getPldmTypes => exact execGetPldmTypes_memOk h
  | getPldmCommands => exact execGetPldmCommands_memOk h
  | getPdrRepositoryInfo => exact execGetPdrRepositoryInfo_memOk h
  | getPdr => exact execGetPdr_memOk h
  | getSensorReading => exact execGetSensorReading_memOk h
  | getStateSensorReadings => exact execGetStateSensorReadings_memOk h
  | setEventReceiver => exact execSetEventReceiver_memOk h
  | getFruRecordTableMetadata => exact execGetFruRecordTableMetadata_memOk h
  | getFruRecordTable => exact execGetFruRecordTable_memOk h
  | requestUpdate => exact execRequestUpdate_memOk h
  | pldmFirmwareTransfer => exact execPldmFirmwareTransfer_memOk h
  | pldmActivateFirmware => exact execPldmActivateFirmware_memOk h
  | getStatus => exact execGetStatus_memOk h
  | cancelUpdate => exact execCancelUpdate_memOk h
  | pldmUnsupportedCmd => exact execPldmUnsupportedCmd_memOk h
  | pldmUpdateIdleTimeout => exact execPldmUpdateIdleTimeout_memOk h
  | sensorRefresh => exact execSensorRefresh_memOk h
  | statusSample => exact execStatusSample_memOk h
  | squareHeartbeat => exact execSquareHeartbeat_memOk h
  | squareTimeSync => exact execSquareTimeSync_memOk h
  | squareTakeover => exact execSquareTakeover_memOk h
  | standbyResyncComplete => exact execStandbyResyncComplete_memOk h
  | firmwareCommit => exact execFirmwareCommit_memOk h
  | scrubRead => exact execScrubRead_memOk h
  | ecsCounterRead => exact execEcsCounterRead_memOk h
  | errorBucketRoll => exact execErrorBucketRoll_memOk h
  | channelMapout => exact execChannelMapout_memOk h
  | mapoutDone => exact execMapoutDone_memOk h
  | channelHardFail => exact execChannelHardFail_memOk h
  | refclkSwitch => exact execRefclkSwitch_memOk h
  | refclkBothLost => exact execRefclkBothLost_memOk h
  | junctionRefLost => exact execJunctionRefLost_memOk h
  | pllUnlock => exact execPllUnlock_memOk h
  | dieLinkLaneRepair => exact execDieLinkLaneRepair_memOk h
  | surveyMeasure => exact execSurveyMeasure_memOk h
  | avsRailConfirm => exact execAvsRailConfirm_memOk h
  | spareSwap => exact execSpareSwap_memOk h
  | roadworksDecision => exact execRoadworksDecision_memOk h
  | sliceComplete => exact execSliceComplete_memOk h
  | sliceAbandon => exact execSliceAbandon_memOk h
  | visitLapsed => exact execVisitLapsed_memOk h
  | blockFault => exact execBlockFault_memOk h
  | blockWatchdogTrip => exact execBlockWatchdogTrip_memOk h
  | availabilityHourlyWrite => exact execAvailabilityHourlyWrite_memOk h
  | glitchTrip => exact execGlitchTrip_memOk h
  | powerMeasure => exact execPowerMeasure_memOk h
  | pwrbrkAssert => exact execPwrbrkAssert_memOk h
  | pwrbrkDeassert => exact execPwrbrkDeassert_memOk h
  | thermalTrip => exact execThermalTrip_memOk h
  | powerOn => exact execPowerOn_memOk h
  | powerLoss => exact execPowerLoss_memOk h
  | vddIoLoss => exact execVddIoLoss_memOk h
  | perstAssert => exact execPerstAssert_memOk h
  | perstDeassert => exact execPerstDeassert_memOk h
  | bootFabricTimeout => exact execBootFabricTimeout_memOk h
  | tapBypass => exact execTapBypass_memOk h
  | tapIdcode => exact execTapIdcode_memOk h
  | tapSamplePreload => exact execTapSamplePreload_memOk h
  | tapExtest => exact execTapExtest_memOk h
  | tapClamp => exact execTapClamp_memOk h
  | tapHighz => exact execTapHighz_memOk h
  | tapPrivate => exact execTapPrivate_memOk h
  | fatalDieFault => exact execFatalDieFault_memOk h
  | standbySquareFailure => exact execStandbySquareFailure_memOk h
  | clockGlideComplete => exact execClockGlideComplete_memOk h
  | neighbourReset => exact execNeighbourReset_memOk h

theorem step_memOk {s : State} (h : MemOk s) : ResOk (step s) := by
  unfold step
  split
  · exact .next (idle_memOk h)
  · exact exec_memOk (by exact h)

end Sys2Proof.Machine

open Sys2Proof.Machine

/-- Settles O5: every operation of the model keeps memory in its canonical form, so every row does, and a step runs one. -/
theorem stepKeepsMemoryCanonical : Obligations.StepKeepsMemoryCanonical := by
  unfold Obligations.StepKeepsMemoryCanonical
  exact fun s t h hstep => step_memOk h t hstep

end

section
/-! Commands that only reply, interrupts, and the withdrawal of commands (spec/06_command_protocol.md R183, R187, R191, R203 to
R206). -/

namespace Sys2Proof.Machine

/-! ### The state in which a due command acts -/

/-- Starting a command changes the list of commands and nothing else. -/
theorem begun_cmds (q : QId) (cid : Nat) (s : State) : ∃ l, begun q cid s = { s with cmd.cmds := l } := by
  unfold begun
  split
  · exact ⟨_, rfl⟩
  · exact ⟨_, rfl⟩

@[simp] theorem courtOf_begun (q : QId) (cid : Nat) (s : State) (n : Nat) : courtOf (begun q cid s) n = courtOf s n := by
  simp [courtOf]

@[simp] theorem ownerReady_begun (q : QId) (cid : Nat) (s : State) (n : Nat) :
    ownerReady (begun q cid s) n = ownerReady s n := by
  simp [ownerReady]

@[simp] theorem queueOf_begun (q : QId) (cid : Nat) (s : State) (tq : QId) : queueOf (begun q cid s) tq = queueOf s tq := by
  simp [queueOf]

theorem ownerReady_of_courtOf {s : State} {n : Nat} {k : Court} (hk : courtOf s n = some k) (hready : k.state = .ready) :
    ownerReady s n = true := by
  simp [ownerReady, hk, hready]

/-- A change of a command that leaves its key leaves the look-up of every other command. -/
theorem findCmd_modCmd_ne {q tq : QId} {cid tc : Nat} {f : Cmd → Cmd} (hf : ∀ c, (f c).q = c.q ∧ (f c).cid = c.cid)
    (h : tq ≠ q ∨ tc ≠ cid) (s : State) : findCmd (modCmd q cid f s) tq tc = findCmd s tq tc := by
  unfold findCmd modCmd
  induction s.cmd.cmds with
  | nil => rfl
  | cons d l ih =>
    simp only [List.map_cons, List.find?_cons]
    rw [ih]
    by_cases hd : d.q = q ∧ d.cid = cid
    · have hne : (d.q == tq && d.cid == tc) = false := by
        obtain ⟨rfl, rfl⟩ := hd
        rcases h with h | h <;> simp [Ne.symm h]
      rw [if_pos hd, (hf d).1, (hf d).2, hne]
    · rw [if_neg hd]

/-- A change of a command that leaves its key is what its look-up then shows. -/
theorem findCmd_modCmd_same {q : QId} {cid : Nat} {f : Cmd → Cmd} (hf : ∀ c, (f c).q = c.q ∧ (f c).cid = c.cid)
    (s : State) : findCmd (modCmd q cid f s) q cid = (findCmd s q cid).map f := by
  unfold findCmd modCmd
  induction s.cmd.cmds with
  | nil => rfl
  | cons d l ih =>
    simp only [List.map_cons, List.find?_cons]
    rw [ih]
    by_cases hd : d.q = q ∧ d.cid = cid
    · rw [if_pos hd, (hf d).1, (hf d).2]
      simp [hd]
    · have hne : (d.q == q && d.cid == cid) = false := by simpa using hd
      rw [if_neg hd, hne]

theorem findCmd_begun_ne {q tq : QId} {cid tc : Nat} (h : tq ≠ q ∨ tc ≠ cid) (s : State) :
    findCmd (begun q cid s) tq tc = findCmd s tq tc := by
  unfold begun
  split
  · rfl
  · exact findCmd_modCmd_ne (f := fun d => { d with started := true, kt := _ }) (fun _ => ⟨rfl, rfl⟩) h s

theorem findCmd_begun_same {q : QId} {cid : Nat} {s : State} {c : Cmd} (h : findCmd s q cid = some c) :
    findCmd (begun q cid s) q cid = some (began s c) := by
  rw [begun_eq h, findCmd_modCmd_same (f := fun d => { d with started := true, kt := _ }) (fun _ => ⟨rfl, rfl⟩), h]
  rfl

/-! ### Interrupt masks -/

theorem bit_clear {v : Nat} (hv : v ≤ 63) (m : Nat) : bit (m &&& (2 ^ 64 - 1 - 2 ^ v)) v = false := by
  have hmask : (2 ^ 64 - 1 - 2 ^ v).testBit v = false := by
    rw [Nat.sub_sub, Nat.add_comm 1, Nat.testBit_two_pow_sub_succ (Nat.pow_lt_pow_right (by decide) (by omega))]
    simp
  have h : (m &&& (2 ^ 64 - 1 - 2 ^ v)).testBit v = false := by rw [Nat.testBit_and, hmask, Bool.and_false]
  simpa [Nat.testBit_eq_decide_div_mod_eq, bit] using h

/-- A vector that is not masked, at a function that may write, is raised at once. -/
theorem raiseMsix_unmasked {f : FnId} {v : Nat} {s : State} {h : HostFn} (hf : fnOf s f = some h)
    (hmask : bit h.msixMask v = false) (hwrites : fnWrites s f = true) : raiseMsix f v s = emit (.msix f v) s := by
  simp [raiseMsix, hf, hmask, hwrites]

theorem queueOf_raiseMsix (f : FnId) (v : Nat) (s : State) (q : QId) : queueOf (raiseMsix f v s) q = queueOf s q := by
  unfold raiseMsix
  repeat' split
  · rfl
  · rfl
  · rfl

/-- A coalescing time that has passed raises the queue's vector, with no entry left unsignalled (06 R191). -/
theorem coalesceTimerExpiry_expired {q : QId} {t : Queue} {t0 : Nat} {s : State} (hq : queueOf s q = some t)
    (hfirst : t.firstUnsig = some t0) (htime : t0 + t.coalUs * 100 ≤ s.sq.time) :
    exec (.coalesceTimerExpiry q) s =
      .next (raiseMsix t.via t.vector (modQueue q (fun t => { t with unsignalled := 0, firstUnsig := none }) s)) := by
  show execCoalesceTimerExpiry q s = _
  simp [execCoalesceTimerExpiry, hq, hfirst, Nat.not_lt.mpr htime]

theorem fnWrites_modFn_mask (f : FnId) (g : HostFn → Nat) (s : State) :
    fnWrites (modFn f (fun h => { h with msixMask := g h }) s) f = fnWrites s f := by
  unfold fnWrites
  rw [fnOf_modFn, if_pos rfl]
  cases fnOf s f <;> rfl

/-- Unmasking a vector whose pending bit is set raises it (12 R399). -/
theorem msixUnmask_pending {via : FnId} {h : HostFn} {v : Nat} {s : State} (hfn : fnOf s via = some h) (hv : v ≤ 63)
    (hpend : bit h.msixPend v = true) (hwrites : fnWrites s via = true) :
    exec (.msixUnmask via v) s = .next (emit (.msix via v)
      (modFn via (fun h => { h with msixPend := h.msixPend &&& (2 ^ 64 - 1 - 2 ^ v) })
        (modFn via (fun h => { h with msixMask := h.msixMask &&& (2 ^ 64 - 1 - 2 ^ v) }) s))) := by
  show execMsixUnmask via v s = _
  simp only [execMsixUnmask, hfn, if_neg (Nat.not_lt.mpr hv), fnWrites_modFn_mask, hpend, hwrites, and_self, if_true]

/-- Unmasking a vector whose pending bit is clear raises nothing. -/
theorem msixUnmask_clear {via : FnId} {h : HostFn} {v : Nat} {s : State} (hfn : fnOf s via = some h) (hv : v ≤ 63)
    (hpend : bit h.msixPend v = false) :
    exec (.msixUnmask via v) s =
      .next (modFn via (fun h => { h with msixMask := h.msixMask &&& (2 ^ 64 - 1 - 2 ^ v) }) s) := by
  show execMsixUnmask via v s = _
  simp [execMsixUnmask, hfn, Nat.not_lt.mpr hv, hpend]

/-! ### Withdrawal -/

/-- A retired command is no longer on its queue. -/
theorem findCmd_retire {s : State} {c : Cmd} (f : CmdEnd) : findCmd (retire c f s) c.q c.cid = none := by
  obtain ⟨-, -, -, -, -, -, -, -, -, -, -, -, hcmds, -⟩ := retireFrame c f s
  rw [findCmd, hcmds, List.find?_eq_none]
  intro d hd
  simpa [imp_iff_not_or] using (List.mem_filter.mp hd).2

theorem withdrawable_of_unstarted {c : Cmd} (s : State) (h : c.started = false) : withdrawable s c = true := by
  simp [withdrawable, h]

/-- A command that has not started is withdrawn by completing it. -/
theorem withdraw_of_unstarted {c : Cmd} (st : Nat) (s : State) (h : c.started = false) :
    withdraw st c s = retire c { finSt st with withdrawn := true } s := by
  simp [withdraw, h]

theorem abortFetching_begun (q : QId) (cid : Nat) (s : State) (c : Cmd) (tq : QId) :
    abortFetching (begun q cid s) (began s c) tq = abortFetching s c tq := by
  simp only [abortFetching, queueOf_begun, began]
  rfl

end Sys2Proof.Machine

open Sys2Proof.Machine

/-- Settles O7: the body of each row is its reply, and the state in which it acts differs from the given one in the list of
commands alone, which no reply reads. -/
theorem replyCommands : Obligations.ReplyCommands := by
  unfold Obligations.ReplyCommands
  refine ⟨fun q cid c s => ⟨fun h => ?deviceInfo, fun h => ?sensors, fun k h hk => ?courtKey, fun h => ?survey⟩,
    fun q cid c s hfound hrow hready hturn => ?unknown,
    fun q cid c s h => ⟨fun k howner hscope hk hready => ?saturations, fun k howner hscope hk hready => ?slots,
      fun a b d e howner hscope hthrottle => ?throttle, fun howner hscope => ?throttleElsewhere⟩⟩
  case deviceInfo =>
    have hbytes : deviceInfoBytes (begun q cid s) = deviceInfoBytes s := by
      obtain ⟨l, hl⟩ := begun_cmds q cid s
      rw [hl]; rfl
    exact congrArg Host.Outcome.next (runCmd_fin h (by rw [hbytes]))
  case sensors =>
    have hbytes : sensorsBytes (begun q cid s) = sensorsBytes s := by
      obtain ⟨l, hl⟩ := begun_cmds q cid s
      rw [hl]; rfl
    exact congrArg Host.Outcome.next (runCmd_fin h (by rw [hbytes]))
  case courtKey =>
    obtain ⟨rfl, -⟩ := findCmd_key h.1
    exact congrArg Host.Outcome.next (runCmd_fin h (by simp [getCourtKeyBody, keysOf, epochOf, hk]))
  case survey => exact congrArg Host.Outcome.next (runCmd_fin h (by rw [begun_free]))
  case unknown =>
    obtain ⟨rfl, -⟩ := findCmd_key hfound
    show execInvalidOpcodeCommand c.q cid s = _
    simp [execInvalidOpcodeCommand, hfound, hrow, hready, hturn, stInvalidOpcode, stCourtNotReady]
  case saturations =>
    obtain ⟨rfl, -⟩ := findCmd_key h.1
    exact congrArg Host.Outcome.next (runCmd_fin h
      (by simp [readCountersBody, howner.ne, Nat.not_le.mpr howner, hscope, ownerReady_of_courtOf hk hready, hk]))
  case slots =>
    obtain ⟨rfl, -⟩ := findCmd_key h.1
    exact congrArg Host.Outcome.next (runCmd_fin h
      (by simp [readCountersBody, howner.ne, Nat.not_le.mpr howner, hscope, ownerReady_of_courtOf hk hready, hk]))
  case throttle =>
    obtain ⟨rfl, -⟩ := findCmd_key h.1
    exact congrArg Host.Outcome.next (runCmd_fin h (by simp [readCountersBody, howner, hscope, hthrottle]))
  case throttleElsewhere =>
    obtain ⟨rfl, -⟩ := findCmd_key h.1
    exact congrArg Host.Outcome.next (runCmd_fin h (by simp [readCountersBody, howner, hscope, failWith, stNotPermitted]))

/-- Settles O12, by the masks of the vector before and after each row. -/
theorem interrupts : Obligations.Interrupts := by
  unfold Obligations.Interrupts
  refine ⟨fun via h v s hfn hv => ⟨fun hpend hwrites => ?raised, fun hpend => ?unraised⟩,
    fun q t h t0 s hq hfirst htime hfn hwrites => ?coalesce⟩
  case raised =>
    refine ⟨_, msixUnmask_pending hfn hv hpend hwrites, rfl, ?_⟩
    rw [fnOf_emit, fnOf_modFn, if_pos rfl, fnOf_modFn, if_pos rfl, hfn]
    exact congrArg some (Prod.ext (bit_clear hv _) (bit_clear hv _))
  case unraised =>
    refine ⟨_, msixUnmask_clear hfn hv hpend, rfl, ?_⟩
    rw [fnOf_modFn, if_pos rfl, hfn]
    exact congrArg some (bit_clear hv _)
  case coalesce =>
    refine ⟨_, coalesceTimerExpiry_expired hq hfirst htime, fun hmask => ?_, ?_⟩
    · exact congrArg State.out
        (raiseMsix_unmasked (s := modQueue q (fun t => { t with unsignalled := 0, firstUnsig := none }) s) hfn hmask hwrites)
    · rw [queueOf_raiseMsix, queueOf_modQueue, if_pos rfl, hq]
      rfl

/-- Settles O15: a target that has not started is withdrawn by completing it, and no look-up of it finds a command after
that. -/
theorem abortsAndDeadlines : Obligations.AbortsAndDeadlines := by
  unfold Obligations.AbortsAndDeadlines
  refine ⟨?aborts, fun q cid c s hfound hready htake hab => ⟨?expired, ?early⟩⟩
  case aborts =>
    intro q cid c s h howner hwork tq tc hfetch hother
    obtain ⟨rfl, -⟩ := findCmd_key h.1
    have hfetch' : abortFetching (begun c.q cid s) (began s c) tq = false := by rw [abortFetching_begun, hfetch]
    have hfind : findCmd (begun c.q cid s) tq tc = findCmd s tq tc := findCmd_begun_ne hother s
    have hbody {t : State} {f : CmdEnd} (hb : abortBody (began s c) (begun c.q cid s) = (t, .fin f)) :
        exec (.abort c.q cid) s = .next (completes 8 c f t) := congrArg Host.Outcome.next (runCmd_fin h hb)
    refine ⟨fun t ht hab hstarted => hbody ?aborted, fun t ht hab => hbody ?notAbortable,
      fun u ht hu hmem => hbody ?alreadyDone, fun ht hu => hbody ?notFound⟩
    case aborted =>
      have hgone := findCmd_retire (s := begun c.q cid s) (c := t) { finSt 0x4001 with withdrawn := true }
      obtain ⟨htq, htc⟩ := findCmd_key ht
      rw [htq, htc] at hgone
      simp [abortBody, howner, hfind, ht, hwork, hfetch', hab, withdrawable_of_unstarted _ hstarted,
        withdraw_of_unstarted _ _ hstarted, hgone, stAborted, stSuccess, tq, tc]
    case notAbortable =>
      simp [abortBody, howner, hfind, ht, hwork, hfetch', hab, failWith, stNotAbortable, tq, tc]
    case alreadyDone =>
      simp [abortBody, howner, hfind, ht, hwork, hfetch', hu, hmem, stAlreadyDone, tq, tc]
    case notFound =>
      have hnot : (queueOf s ⟨c.q.owner, fld c.pb 0 1⟩).any (fun t => decide (fld c.pb 2 2 ∈ t.retired)) = false := by
        cases hq : queueOf s ⟨c.q.owner, fld c.pb 0 1⟩ with
        | none => rfl
        | some u => simpa using hu u hq
      simp [abortBody, howner, hfind, ht, hwork, hfetch', hnot, failWith, stNotFound, tq, tc]
  case expired =>
    intro hd htime hstarted
    show execDeadlineExpiry q cid s = _
    simp [execDeadlineExpiry, hfound, hready, htake, hd, hab, msUnits, Nat.not_lt.mpr htime, sendWithdrawal,
      withdrawable_of_unstarted _ hstarted, withdraw_of_unstarted _ _ hstarted, stTimeout]
  case early =>
    intro hearly
    show execDeadlineExpiry q cid s = _
    rcases hearly with h | h <;> simp [execDeadlineExpiry, hfound, h, msUnits]

end

section
/-! Decisions answered, packages, runs, semaphores, data movement and maintenance (spec/05_work_orders.md R140 to R155;
spec/06_command_protocol.md R197, R198, R209). -/

namespace Sys2Proof.Machine

/-! ### What the bodies read is the same once the command has started -/

@[simp] theorem confCourt_begun (q : QId) (cid : Nat) (s : State) (n : Nat) : confCourt (begun q cid s) n = confCourt s n := by
  simp only [confCourt, courtOf_begun]

@[simp] theorem assistOf_begun (q : QId) (cid : Nat) (s : State) (row id : Nat) :
    assistOf (begun q cid s) row id = assistOf s row id := by
  simp [assistOf]

@[simp] theorem pkgOf_begun (q : QId) (cid : Nat) (s : State) (n h : Nat) : pkgOf (begun q cid s) n h = pkgOf s n h := by
  simp only [pkgOf, begun_pkgs]

@[simp] theorem freePkg_begun (q : QId) (cid : Nat) (s : State) (n : Nat) : freePkg (begun q cid s) n = freePkg s n := by
  simp [freePkg]

@[simp] theorem runOfCmd_begun (q : QId) (cid : Nat) (s : State) (c : Cmd) :
    runOfCmd (begun q cid s) (began s c) = runOfCmd s c := by
  simp [runOfCmd]

@[simp] theorem semHeld_begun (q : QId) (cid : Nat) (s : State) (n i : Nat) :
    semHeld (begun q cid s) n i = semHeld s n i := by
  simp [semHeld]

@[simp] theorem fnWrites_begun (q : QId) (cid : Nat) (s : State) (f : FnId) : fnWrites (begun q cid s) f = fnWrites s f := by
  simp only [fnWrites, fnOf, begun_cmd_fns]

@[simp] theorem pkgSigner_begun (q : QId) (cid : Nat) (s : State) (n : Nat) (img : List Byte) :
    pkgSigner (begun q cid s) n img = pkgSigner s n img := by
  obtain ⟨l, hl⟩ := begun_cmds q cid s
  rw [hl]; rfl

@[simp] theorem pkgRefusal_begun (q : QId) (cid : Nat) (s : State) (k : Court) (n at_ : Nat) (want : Bool) (img : List Byte)
    (p : Package) : pkgRefusal (begun q cid s) k n at_ want img p = pkgRefusal s k n at_ want img p := by
  simp [pkgRefusal]

@[simp] theorem rwNamed_begun (q : QId) (cid : Nat) (s : State) (pb : List Byte) : rwNamed (begun q cid s) pb = rwNamed s pb := by
  obtain ⟨l, hl⟩ := begun_cmds q cid s
  rw [hl]; rfl

theorem confCourt_of_courtOf {s : State} {n : Nat} {k : Court} {b : Bool} (hk : courtOf s n = some k) (hconf : k.conf = b) :
    confCourt s n = b := by
  simp [confCourt, hk, hconf]

/-- What comes from the host of a Court that is not confidential is taken as it is (14 R453). -/
theorem fromHost_plain {c : Cmd} {s : State} (h : confCourt s c.q.owner = false) (purpose binding : Nat) (bs : List Byte) :
    fromHost c purpose binding bs s = (some bs, s) := by
  simp [fromHost, h]

/-! ### Writes to a Court change memory alone -/

/-- The two states differ in memory alone. -/
def MemOnly (s t : State) : Prop := ∃ m, t = { s with mem := m }

namespace MemOnly

theorem refl (s : State) : MemOnly s s := ⟨_, rfl⟩

theorem trans {s t u : State} (h : MemOnly s t) (k : MemOnly t u) : MemOnly s u := by
  obtain ⟨_, rfl⟩ := h
  obtain ⟨_, rfl⟩ := k
  exact ⟨_, rfl⟩

theorem foldl {β : Type} {f : State → β → State} (hf : ∀ s b, MemOnly s (f s b)) (l : List β) (s : State) :
    MemOnly s (l.foldl f s) := by
  induction l generalizing s with
  | nil => exact refl s
  | cons b l ih => exact (hf s b).trans (ih _)

end MemOnly

theorem memOnly_hbmPut (dpa : Nat) (b : Byte) (s : State) : MemOnly s (hbmPut dpa b s) := by
  unfold hbmPut
  split
  · exact .refl s
  · exact ⟨_, rfl⟩

theorem memOnly_hbmPutBytes (dpa : Nat) (bs : List Byte) (s : State) : MemOnly s (hbmPutBytes dpa bs s) := by
  unfold hbmPutBytes
  split
  · exact ⟨_, rfl⟩
  · exact .foldl (fun s p => memOnly_hbmPut _ _ s) _ s

theorem memOnly_cureLine (line : Nat) (s : State) : MemOnly s (cureLine line s) := by
  unfold cureLine
  split
  · exact .refl s
  · exact ⟨_, rfl⟩

theorem memOnly_courtWrite (k : Court) (ca : Nat) (bs : List Byte) (s : State) : MemOnly s (courtWrite k ca bs s) := by
  unfold courtWrite
  refine MemOnly.trans (.foldl (fun s r => ?_) _ s) (.foldl (fun s i => ?_) _ _)
  · split
    · exact memOnly_hbmPutBytes _ _ s
    · exact .refl s
  · dsimp only
    split
    · exact memOnly_cureLine _ s
    · exact .refl s

@[simp] theorem courtWrite_pkgs (k : Court) (ca : Nat) (bs : List Byte) (s : State) : (courtWrite k ca bs s).pkgs = s.pkgs := by
  obtain ⟨m, hm⟩ := memOnly_courtWrite k ca bs s
  rw [hm]

@[simp] theorem pkgSigner_courtWrite (k : Court) (ca : Nat) (bs : List Byte) (s : State) (n : Nat) (img : List Byte) :
    pkgSigner (courtWrite k ca bs s) n img = pkgSigner s n img := by
  obtain ⟨m, hm⟩ := memOnly_courtWrite k ca bs s
  rw [hm]; rfl

/-! ### ASSIST_REPLY -/

/-- A reply that keeps nothing of its data settles the decision with none (06 R209). -/
theorem assistReplyBody_settles {c : Cmd} {data : List Byte} {a : AssistRec} {s : State}
    (hdisp : fld c.pb 4 1 = 0 ∨ fld c.pb 4 1 = 2) (ha : assistOf s c.q.owner (fld c.pb 0 4) = some a) (hposted : a.posted = true) :
    assistReplyBody data c s =
      (settle (settleAssist a (some (fld c.pb 4 1)) [] [] (dropAssist a s)), .fin (finSt stSuccess)) := by
  have hle : ¬ 2 < fld c.pb 4 1 := by omega
  have hne : fld c.pb 4 1 ≠ 1 := by omega
  have hfilter : (assistOf s c.q.owner (fld c.pb 0 4)).filter (·.posted) = some a := by
    simp [ha, Option.filter, hposted]
  simp [assistReplyBody, hle, hne, hfilter, replyData, clipBack]

/-- A reply to no decision fails, and with ASSIST_EXPIRED only while its record says that it has expired. -/
theorem assistReplyBody_unknown {c : Cmd} {data : List Byte} {s : State} (hdisp : fld c.pb 4 1 ≤ 2)
    (ha : assistOf s c.q.owner (fld c.pb 0 4) = none) :
    assistReplyBody data c s =
      if (c.q.owner, fld c.pb 0 4) ∈ s.cmd.expired then
        failWith { s with cmd.expired := s.cmd.expired.filter (fun p => p != (c.q.owner, fld c.pb 0 4)) } stAssistExpired
      else failWith s stNotFound := by
  simp [assistReplyBody, Nat.not_lt.mpr hdisp, ha]

/-! ### Packages and runs -/

/-- The command that unloads a package is itself no use of it. -/
theorem pkgUsed_begun_unload {q : QId} {cid h : Nat} {c : Cmd} {s : State} (hc : findCmd s q cid = some c)
    (hop : c.opcode = opUnloadPackage) (hruns : ∀ r ∈ s.runs, r.2.pkg ≠ h)
    (hcmds : ∀ d ∈ s.cmd.cmds, d ≠ c → (d.q ≠ q ∨ d.cid ≠ cid) ∧ (d.started = false ∨ fld d.pb 0 4 ≠ h)) :
    pkgUsed (begun q cid s) h = false := by
  rw [begun_eq hc]
  have huses : ∀ d ∈ s.cmd.cmds, ((d.q = q ∧ d.cid = cid) ∧ d = c) ∨ (¬ (d.q = q ∧ d.cid = cid) ∧
      (d.started = false ∨ fld d.pb 0 4 ≠ h)) := by
    intro d hd
    by_cases hdc : d = c
    · exact .inl ⟨hdc ▸ findCmd_key hc, hdc⟩
    · obtain ⟨hkey, huse⟩ := hcmds d hd hdc
      exact .inr ⟨by tauto, huse⟩
  simp only [pkgUsed, Bool.or_eq_false_iff, List.any_eq_false]
  refine ⟨fun r hr => by simpa using hruns r hr, fun e he => ?_⟩
  obtain ⟨d, hd, rfl⟩ := List.mem_map.mp he
  rcases huses d hd with ⟨hkey, rfl⟩ | ⟨hkey, hidle | hother⟩
  · simp [hkey, hop]
  · simp [hkey, hidle]
  · simp [hkey, hother]

theorem resolveSyms_nil (s : State) {e : SymEnv} (h : e.pkg.symbols = []) : resolveSyms s e = .ok [] := by
  simp [resolveSyms, h]

/-- With no binding and no base there is nothing to bring in. -/
theorem demandAll_nil (s : State) : demandAll [] [] s = (s, .ok) := rfl

theorem bindAll_nil (s : State) : bindAll [] none s = ([], stampUp s) := rfl

/-! ### Semaphores -/

theorem semVal_semSet {n i v m j : Nat} {k : Court} {s : State} (hk : courtOf s n = some k) :
    semVal (semSet n i v s) m j = if m = n ∧ j = i then v else semVal s m j := by
  unfold semVal semSet
  rw [courtOf_modCourt]
  by_cases hm : m = n
  · subst hm
    by_cases hj : j = i <;> by_cases hv : v = 0 <;> simp [hk, hj, hv, tblGetD]
  · simp [hm]

theorem semAdd_eq (n i v : Nat) (s : State) :
    semAdd n i v s = if 2 ^ 32 ≤ semVal s n i + v then none else some (semSet n i (semVal s n i + v) s) := rfl

/-! ### Data movement -/

theorem applyFindings_nil (scrub : Bool) (s : State) : applyFindings scrub [] s = ⟨s, [], false⟩ := rfl

theorem dmaRefusal_of_range {c : Cmd} {k : Court} {s : State} (hk : courtOf s c.q.owner = some k) (hpos : 1 ≤ fld c.pb 16 8)
    (hmax : fld c.pb 16 8 ≤ 2 ^ 40) (hhint : fld c.pb 24 1 < 3) :
    dmaRefusal s c = if courtRangeOk k (fld c.pb 8 8) (fld c.pb 16 8) then none else some stAddressFault := by
  have hbad : ¬ (fld c.pb 16 8 = 0 ∨ 2 ^ 40 < fld c.pb 16 8 ∨ 3 ≤ fld c.pb 24 1) := by omega
  simp only [dmaRefusal, if_neg hbad, hk]

@[simp] theorem cleanLen_begun (q : QId) (cid : Nat) (s : State) (k : Court) (bad : List Nat) (a n : Nat) :
    cleanLen (begun q cid s) k bad a n = cleanLen s k bad a n := by
  obtain ⟨l, hl⟩ := begun_cmds q cid s
  rw [hl]; rfl

@[simp] theorem courtRead_begun (q : QId) (cid : Nat) (s : State) (k : Court) (a n : Nat) :
    courtRead (begun q cid s) k a n = courtRead s k a n := by
  obtain ⟨l, hl⟩ := begun_cmds q cid s
  rw [hl]; rfl

@[simp] theorem ideEnded_begun (q : QId) (cid : Nat) (s : State) (f : FnId) : ideEnded (begun q cid s) f = ideEnded s f := by
  obtain ⟨l, hl⟩ := begun_cmds q cid s
  rw [hl]; rfl

end Sys2Proof.Machine

open Sys2Proof.Machine

/-- Settles O17: each row is the settling of its decision, or a look-up of it that fails. -/
theorem assistSettles : Obligations.AssistSettles := by
  unfold Obligations.AssistSettles
  refine ⟨fun row id a s ha htime hready htake => ?expires, fun q cid c data s h => ?_⟩
  case expires =>
    show execAssistDeadlineExpiry row id s = _
    simp only [execAssistDeadlineExpiry, watched, ha, htime, hready, htake, dropAssist]
    rfl
  obtain ⟨rfl, -⟩ := findCmd_key h.1
  have hrow {t : State} {f : CmdEnd} (hb : assistReplyBody data (began s c) (begun c.q cid s) = (t, .fin f)) :
      exec (.assistReply c.q cid data) s = .next (settleWatch (completes 24 c f t)) :=
    congrArg (fun t => Host.Outcome.next (settleWatch t)) (runCmd_fin h hb)
  refine ⟨fun a hdisp ha hposted => hrow (assistReplyBody_settles hdisp (by simpa using ha) hposted),
    fun hdisp ha hexp => ?expired, fun hdisp ha hexp => hrow ?unknown, fun hdisp => hrow ?field⟩
  case expired =>
    refine ⟨_, hrow ((assistReplyBody_unknown (c := began s c) (s := begun c.q cid s) hdisp (by simpa using ha)).trans (if_pos (by simpa using hexp))), ?_⟩
    simp
  case unknown => exact (assistReplyBody_unknown (c := began s c) (s := begun c.q cid s) hdisp (by simpa using ha)).trans (if_neg (by simpa using hexp))
  case field => simp [assistReplyBody, hdisp, failWith, stInvalidField]

/-- Settles O18, by the body of each of the three commands. -/
theorem packages : Obligations.Packages := by
  unfold Obligations.Packages
  refine ⟨fun q cid c image k p h s hdue hk hconf hflags halign hlen hparse hrefuse hfree => ?load,
    fun q cid c s => ⟨fun hdue => ⟨fun hnone => ?unknown, fun p r hp hr hpkg => ?used, fun p hp hruns hcmds => ?unload⟩,
      fun hdue hrun hnone => ?run⟩⟩
  case load =>
    obtain ⟨rfl, -⟩ := findCmd_key hdue.1
    refine congrArg Host.Outcome.next (runCmd_fin hdue ?_)
    have hplain : confCourt (begun c.q cid s) (began s c).q.owner = false := by
      simpa using confCourt_of_courtOf hk hconf
    have htake : image.take (fld c.pb 8 8) = image := by rw [← hlen, List.take_length]
    simp [loadPackageBody, Nat.not_le.mpr hflags, halign, hlen, htake, fromHost_plain hplain, hparse, hk, hrefuse, hfree]
  case unknown =>
    obtain ⟨rfl, -⟩ := findCmd_key hdue.1
    exact congrArg Host.Outcome.next (runCmd_fin hdue (by simp [unloadBody, hnone, failWith, stInvalidField]))
  case used =>
    obtain ⟨rfl, -⟩ := findCmd_key hdue.1
    have hused : pkgUsed (begun c.q cid s) (fld c.pb 0 4) = true := by
      simp only [pkgUsed, begun_runs, Bool.or_eq_true, List.any_eq_true]
      exact .inl ⟨r, hr, by simp [hpkg]⟩
    exact congrArg Host.Outcome.next
      (runCmd_fin hdue (by simp [unloadBody, hp, hused, failWith, stStateConflict]))
  case unload =>
    obtain ⟨-, -, -, hop, -⟩ := id hdue
    have hidle := pkgUsed_begun_unload hdue.1 hop hruns hcmds
    obtain ⟨rfl, -⟩ := findCmd_key hdue.1
    exact congrArg Host.Outcome.next (runCmd_fin hdue (by simp [unloadBody, hp, hidle, stSuccess]))
  case run =>
    obtain ⟨rfl, -⟩ := findCmd_key hdue.1
    refine congrArg Host.Outcome.next (runCmd_fin hdue ?_)
    by_cases hfields : runFieldsOk c.pb = true <;> simp [runBody, hrun, hfields, hnone, failWith, stInvalidField]

/-- Settles O19: with no symbol, binding or base only the checks of R142 stand between the command and its run. -/
theorem runAdmits : Obligations.RunAdmits := by
  unfold Obligations.RunAdmits
  intro q cid c p k s hdue hrun hfields hp hk hrange hhandles hbase
  obtain ⟨rfl, rfl⟩ := findCmd_key hdue.1
  refine ⟨fun hsems hsyms => congrArg Host.Outcome.next (runCmd_stay hdue ?_),
    fun hsems => congrArg Host.Outcome.next (runCmd_fin hdue ?_),
    fun i hsems hsym => congrArg Host.Outcome.next (runCmd_fin hdue ?_)⟩
  · simp [runBody, hrun, hfields, hp, hk, hrange, hhandles, hbase, Nat.not_lt.mpr hsems, firstBadBinding, runBase,
      resolveSyms_nil, hsyms, handleSlots, demandAll_nil, bindAll_nil, admitRun, stampUp]
  · simp [runBody, hrun, hfields, hp, hk, hsems, failWith, stInvalidField]
  · simp [runBody, hrun, hfields, hp, hk, hrange, hhandles, hbase, Nat.not_lt.mpr hsems, firstBadBinding, runBase, hsym,
      stSymbolUnresolved]

/-- Settles O20: what a look-up gives after a write to the same and to another semaphore. -/
theorem semaphoreValues : Obligations.SemaphoreValues := by
  unfold Obligations.SemaphoreValues
  refine ⟨fun q cid c s hdue => ?_, fun n i v k s hk => ⟨?same, fun m j hne => ?other, ?fails, fun t ht => ?adds⟩⟩
  · obtain ⟨rfl, -⟩ := findCmd_key hdue.1
    refine ⟨fun hi hfree => congrArg Host.Outcome.next (runCmd_fin hdue ?_),
      fun hi => congrArg Host.Outcome.next (runCmd_fin hdue ?_),
      fun hi hheld => congrArg Host.Outcome.next (runCmd_fin hdue ?_)⟩
    · simp [setSemBody, Nat.not_le.mpr hi, hfree, stSuccess]
    · simp [setSemBody, hi, failWith, stInvalidField]
    · simp [setSemBody, Nat.not_le.mpr hi, hheld, failWith, stStateConflict]
  case same => rw [semVal_semSet hk, if_pos ⟨rfl, rfl⟩]
  case other =>
    rw [semVal_semSet hk, if_neg]
    rintro ⟨rfl, rfl⟩
    exact hne rfl
  case fails =>
    rw [semAdd_eq]
    split <;> simp_all
  case adds =>
    rw [semAdd_eq] at ht
    split at ht
    · cases ht
    · obtain rfl := Option.some.inj ht
      rw [semVal_semSet hk, if_pos ⟨rfl, rfl⟩]

/-- Settles O21: a plain Court's transfer of the whole range is one write or one read of the Court's memory. -/
theorem dmaMoves : Obligations.DmaMoves := by
  unfold Obligations.DmaMoves
  intro q cid c k s hk hconf hprog hpos hmax hhint
  refine ⟨fun data hdue hrange hlen => ?write, fun hdue hrange hwrites hclean hlast => ?read, fun data hdue hrange => ?fault⟩
  case write =>
    obtain ⟨rfl, -⟩ := findCmd_key hdue.1
    have htake : data.take (fld c.pb 16 8) = data := by rw [← hlen, List.take_length]
    have hok := dmaRefusal_of_range (c := began s c) (s := begun c.q cid s) (by simpa using hk) hpos hmax hhint
    rw [began_pb, hrange] at hok
    refine congrArg (fun t => Host.Outcome.next (settleWatch t)) (runCmd_fin hdue ?_)
    simp [dmaWriteBody, hok, hk, hconf, hprog, htake, hlen, applyFindings_nil, dmaAt, stSuccess]
  case read =>
    obtain ⟨-, -, -, hop, -, -, -, -, hide⟩ := id hdue
    obtain ⟨rfl, -⟩ := findCmd_key hdue.1
    have hok := dmaRefusal_of_range (c := began s c) (s := begun c.q cid s) (by simpa using hk) hpos hmax hhint
    rw [began_pb, hrange] at hok
    have hide' : ideEnded s c.via = false := by simpa [usesHost, hop] using hide
    refine congrArg (fun t => Host.Outcome.next (settleWatch t)) (runCmd_fin hdue ?_)
    simp [dmaReadBody, hok, hk, hconf, hprog, hwrites, applyFindings_nil, hclean, hlast, hostWrite, hide',
      Nat.pos_iff_ne_zero.mp hpos, dmaAt, stSuccess, emit]
  case fault =>
    obtain ⟨rfl, -⟩ := findCmd_key hdue.1
    have hok := dmaRefusal_of_range (c := began s c) (s := begun c.q cid s) (by simpa using hk) hpos hmax hhint
    rw [began_pb, hrange] at hok
    refine congrArg (fun t => Host.Outcome.next (settleWatch t)) (runCmd_fin hdue ?_)
    simp [dmaWriteBody, hok, hk, failWith, stAddressFault]

/-- Settles O25, by the body of each command. -/
theorem maintenance : Obligations.Maintenance := by
  unfold Obligations.Maintenance
  refine fun q cid c s => ⟨fun hdue => ?reserve, fun hdue => ?repair, fun a l hdue hnamed => ?roadworks,
    fun hdue hnamed => ?nothing⟩
  case reserve =>
    by_cases hr : fld c.pb 0 1 % 3 = 0 ∧ fld c.pb 0 1 ≤ 48
    · rw [if_pos hr]
      exact congrArg Host.Outcome.next
        (runCmd_fin hdue (by simp [setReserveBody, hr.1, Nat.not_lt.mpr hr.2, stSuccess]))
    · have hbad : fld c.pb 0 1 % 3 ≠ 0 ∨ 48 < fld c.pb 0 1 := by omega
      rw [if_neg hr]
      exact congrArg Host.Outcome.next (runCmd_fin hdue (if_pos hbad))
  case repair => exact congrArg Host.Outcome.next (runCmd_fin hdue (by simp [stSuccess]))
  case roadworks =>
    obtain ⟨-, -, -, -, hstarted, -⟩ := id hdue
    obtain ⟨rfl, rfl⟩ := findCmd_key hdue.1
    show execRunRoadworks c.q c.cid s = _
    simp only [execRunRoadworks, hdue.1, hstarted]
    exact congrArg Host.Outcome.next (runCmd_stay hdue (by simp [runRoadworksBody, hnamed]))
  case nothing =>
    obtain ⟨-, -, -, -, hstarted, -⟩ := id hdue
    obtain ⟨rfl, rfl⟩ := findCmd_key hdue.1
    show execRunRoadworks c.q c.cid s = _
    simp only [execRunRoadworks, hdue.1, hstarted]
    exact congrArg Host.Outcome.next (runCmd_fin hdue (by simp [runRoadworksBody, hnamed, failWith, stNotFound]))

end

section
/-! Courts made, reset and destroyed (spec/13_placement_and_scheduling.md R420, R446; spec/04_memory_system.md R106). -/

namespace Sys2Proof.Machine

/-! ### Messages sent touch no Court -/

/-- Sending a message, with the records that a lost one posts, changes nothing but the Avenues, the inbox and what is posted
to the host (12 R374, R378). -/
def SendsOnly (s t : State) : Prop :=
  ∃ queues fns rings held out avs inbox, t = { s with
    cmd.queues := queues, cmd.fns := fns, cmd.eventRings := rings, cmd.heldWrites := held, out := out, avs := avs,
    inbox := inbox }

namespace SendsOnly

theorem refl (s : State) : SendsOnly s s := ⟨_, _, _, _, _, _, _, rfl⟩

theorem trans {s t u : State} (h : SendsOnly s t) (k : SendsOnly t u) : SendsOnly s u := by
  obtain ⟨_, _, _, _, _, _, _, rfl⟩ := h
  obtain ⟨_, _, _, _, _, _, _, rfl⟩ := k
  exact ⟨_, _, _, _, _, _, _, rfl⟩

theorem of_posted {s t : State} (h : Posted s t) : SendsOnly s t := by
  obtain ⟨_, _, _, _, _, rfl⟩ := h
  exact ⟨_, _, _, _, _, _, _, rfl⟩

theorem foldl {β : Type} {f : State → β → State} (hf : ∀ s b, SendsOnly s (f s b)) (l : List β) (s : State) :
    SendsOnly s (l.foldl f s) := by
  induction l generalizing s with
  | nil => exact refl s
  | cons b l ih => exact (hf s b).trans (ih _)

end SendsOnly

theorem sendsOnly_modAv (a : Nat) (f : Avenue → Avenue) (s : State) : SendsOnly s (modAv a f s) := ⟨_, _, _, _, _, _, _, rfl⟩

theorem sendsOnly_postAv (type a lane count : Nat) (s : State) : SendsOnly s (postAv type a lane count s) := by
  unfold postAv
  split
  · exact .refl s
  · exact .of_posted (posted_postEvent _ _ _ s)

theorem sendsOnly_postAvLimited (type a : Nat) (s : State) : SendsOnly s (postAvLimited type a s) := by
  unfold postAvLimited
  split
  · exact .refl s
  · dsimp only
    split
    · exact (sendsOnly_modAv _ _ s).trans (sendsOnly_postAv _ _ _ _ _)
    · split
      · exact sendsOnly_modAv _ _ s
      · exact (sendsOnly_modAv _ _ s).trans (sendsOnly_postAv _ _ _ _ _)

theorem sendsOnly_sendRaw (tc court dest : Nat) (came : Option (Nat × Nat)) (m : List Byte) (s : State) :
    SendsOnly s (sendRaw tc court dest came m s).2 := by
  unfold sendRaw
  split
  · exact ⟨_, _, _, _, _, _, _, rfl⟩
  · split
    · exact .refl s
    · split
      · exact (sendsOnly_modAv _ _ s).trans (sendsOnly_postAvLimited _ _ _)
      · exact sendsOnly_modAv _ _ s

theorem sendsOnly_sendMsg (tc court dest : Nat) (came : Option (Nat × Nat)) (m : List Byte) (s : State) :
    SendsOnly s (sendMsg tc court dest came m s) := by
  have hraw := sendsOnly_sendRaw tc court dest came m s
  unfold sendMsg
  split
  next heq => rwa [heq] at hraw
  next heq =>
    rw [heq] at hraw
    split
    · exact hraw.trans (sendsOnly_sendRaw _ _ _ _ _ _)
    · exact hraw

theorem sendsOnly_sendFlit (a type vc dest seq first : Nat) (payload : List Byte) (s : State) :
    SendsOnly s (sendFlit a type vc dest seq first payload s) := by
  unfold sendFlit
  split
  · exact .refl s
  · exact ⟨_, _, _, _, _, _, _, rfl⟩

theorem sendsOnly_sendNext (a : Nat) (s : State) : SendsOnly s (sendNext a s) := by
  unfold sendNext
  split
  · exact .refl s
  · split
    · exact .refl s
    · split
      · exact .refl s
      · dsimp only
        split
        · exact .refl s
        · exact (sendsOnly_modAv _ _ s).trans (sendsOnly_sendFlit _ _ _ _ _ _ _ _)

theorem sendsOnly_pump (a : Nat) (s : State) : SendsOnly s (pump a s) := by
  unfold pump
  split
  · exact .refl s
  · exact .foldl (fun s _ => sendsOnly_sendNext a s) _ s

theorem sendsOnly_post (tc court dest : Nat) (m : List Byte) (s : State) : SendsOnly s (post tc court dest m s) :=
  (sendsOnly_sendMsg _ _ _ _ _ s).trans (.foldl (fun s a => sendsOnly_pump a s) _ _)

theorem sendsOnly_sendRecord (key : Nat) (pb : List Byte) (step kind : Nat) (dests : List Nat) (b : List Byte) (s : State) :
    SendsOnly s (sendRecord key pb step kind dests b s) :=
  .foldl (fun s _ => .foldl (fun s _ => sendsOnly_post _ _ _ _ s) _ s) _ s

/-! ### What a Court's end leaves of the Courts and their epochs -/

/-- The Courts and the epochs of the state are those given. -/
def CourtsAre (cs : Tbl Court) (es : Tbl Nat) (s : State) : Prop := s.courts = cs ∧ s.sec.epochs = es

theorem CourtsAre.self (s : State) : CourtsAre s.courts s.sec.epochs s := ⟨rfl, rfl⟩

section
variable {cs : Tbl Court} {es : Tbl Nat} {s : State}

theorem CourtsAre.of_memOnly {t : State} (h : CourtsAre cs es s) (k : MemOnly s t) : CourtsAre cs es t := by
  obtain ⟨_, rfl⟩ := k
  exact h

theorem CourtsAre.of_sendsOnly {t : State} (h : CourtsAre cs es s) (k : SendsOnly s t) : CourtsAre cs es t := by
  obtain ⟨_, _, _, _, _, _, _, rfl⟩ := k
  exact h

theorem courtsAre_emptySlot (n : Nat) (h : CourtsAre cs es s) : CourtsAre cs es (emptySlot n s) := by
  unfold emptySlot
  split
  · exact h
  · dsimp only
    split
    · exact foldl_keeps (P := CourtsAre cs es) (f := fun s G => clearGranule G .free false s) (fun s _ h => h) _ h
    · exact h

theorem courtsAre_sweepSlots (h : CourtsAre cs es s) : CourtsAre cs es (sweepSlots s) :=
  foldl_keeps (P := CourtsAre cs es) (fun s p h => by
    split
    · split
      · exact courtsAre_emptySlot _ h
      · exact h
    · exact h) _ h

theorem courtsAre_sweepHandle (n : Nat) (h : CourtsAre cs es s) : CourtsAre cs es (sweepHandle n s) := by
  unfold sweepHandle
  dsimp only
  split
  · exact h
  · split
    · exact h
    · exact h

theorem courtsAre_releaseBinds (t : TrainStep) (h : CourtsAre cs es s) : CourtsAre cs es (releaseBinds t s) := by
  unfold releaseBinds
  refine foldl_keeps (P := CourtsAre cs es) (fun s n h => courtsAre_sweepSlots (s := modSlot n _ s) h) _ ?_
  refine foldl_keeps (P := CourtsAre cs es) (fun s b h => courtsAre_sweepHandle b.handle (s := refVersion _ _ _ s) h) _ ?_
  refine foldl_keeps (P := CourtsAre cs es) (fun s b h => ?_) _ h
  split
  · exact h
  · exact h

theorem courtsAre_endStep (key : Nat) (h : CourtsAre cs es s) : CourtsAre cs es (endStep key s) := h

theorem courtsAre_commitRecord (k : Court) (done : Bool) (d : ShardRun) (h : CourtsAre cs es s) :
    CourtsAre cs es (commitRecord k done d s) := by
  unfold commitRecord
  dsimp only
  split
  · exact h.of_memOnly (memOnly_courtWrite _ _ _ s)
  · exact h.of_memOnly (memOnly_courtWrite _ _ _ s)

theorem courtsAre_discardHeld (key : Nat) (h : CourtsAre cs es s) : CourtsAre cs es (discardHeld key s) := by
  unfold discardHeld
  split
  · split
    · exact courtsAre_endStep key
        (foldl_keeps (P := CourtsAre cs es) (fun s d h => courtsAre_commitRecord _ _ _ h) _ h)
    · exact h
  · exact h

theorem courtsAre_dissolve (key : Nat) (h : CourtsAre cs es s) : CourtsAre cs es (dissolve key s) := by
  have hheld := courtsAre_discardHeld key h
  unfold dissolve
  dsimp only
  split
  · exact hheld
  · exact CourtsAre.of_sendsOnly (s := dropGrp key _) hheld (sendsOnly_sendRecord _ _ _ _ _ _ _)

theorem courtsAre_dissolveAll (n : Nat) (h : CourtsAre cs es s) : CourtsAre cs es (dissolveAll n s) :=
  foldl_keeps (P := CourtsAre cs es) (fun s p h => by
    refine courtsAre_dissolve p.1 ?_
    split
    · split
      · exact h
      · exact courtsAre_endStep p.1 (courtsAre_releaseBinds _ h)
    · exact h) _ h

theorem courtsAre_releaseGaz (n : Nat) (h : CourtsAre cs es s) : CourtsAre cs es (releaseGaz n s) := by
  unfold releaseGaz
  split
  · exact h
  · refine courtsAre_sweepSlots ?_
    exact foldl_keeps (P := CourtsAre cs es) (f := fun s h => modEntry h freeEntry (dropClaims h s)) (fun s _ h => h) _ h

theorem courtsAre_releaseCourt (n : Nat) (h : CourtsAre cs es s) : CourtsAre cs es (releaseCourt n s) :=
  courtsAre_releaseGaz n (courtsAre_dissolveAll n h)

end

/-! ### Granules given back -/

theorem memGet_eq_none_iff {m : List Host.Cell} {a : Nat} : memGet m a = none ↔ ∀ p ∈ m, p.1 ≠ a := by
  induction m with
  | nil => simp [memGet]
  | cons p t ih =>
    obtain ⟨i, b⟩ := p
    by_cases h : a = i <;> simp [memGet, h, ih, eq_comm]

/-- Dropping a range lists no byte anew. -/
theorem memGet_memDrop_none {m : List Host.Cell} {lo hi a : Nat} (h : memGet m a = none) : memGet (memDrop m lo hi) a = none := by
  rw [memGet_eq_none_iff] at h ⊢
  exact fun p hp => h p (List.mem_filter.mp hp).1

theorem memGet_memDrop_same {m : List Host.Cell} {lo hi a : Nat} (hlo : lo ≤ a) (hhi : a < hi) :
    memGet (memDrop m lo hi) a = none := by
  rw [memGet_eq_none_iff]
  rintro p hp rfl
  have hkeep := (List.mem_filter.mp hp).2
  simp [Nat.not_lt.mpr hlo, Nat.not_le.mpr hhi] at hkeep

/-- The granules of a list, each given over or back. -/
def clearAll (l : Tbl Nat) (o : GranOwner) (conf : Bool) (s : State) : State :=
  l.foldl (fun s p => clearGranule p.2 o conf s) s

theorem clearAll_keeps_none {l : Tbl Nat} {o : GranOwner} {conf : Bool} {a : Nat} {s : State}
    (h : memGet s.mem.hbm a = none) : memGet (clearAll l o conf s).mem.hbm a = none :=
  foldl_keeps (P := fun s : State => memGet s.mem.hbm a = none) (fun _ _ h => memGet_memDrop_none h) l h

/-- Every byte of the cleared granules is unlisted (04 R106). -/
theorem memGet_clearAll {l : Tbl Nat} {o : GranOwner} {conf : Bool} {s : State} {p : Nat × Nat} (hp : p ∈ l) {i : Nat}
    (hi : i < gib) : memGet (clearAll l o conf s).mem.hbm (p.2 * gib + i) = none := by
  induction l generalizing s with
  | nil => cases hp
  | cons r l ih =>
    rcases List.mem_cons.mp hp with rfl | hp
    · exact clearAll_keeps_none (s := clearGranule p.2 o conf s)
        (memGet_memDrop_same (Nat.le_add_right _ _) (by rw [Nat.add_mul]; omega))
    · exact ih hp

theorem granules_clearAll_free_none {l : Tbl Nat} {G : Nat} {s : State} (h : tblGet s.mem.granules G = none) :
    tblGet (clearAll l .free false s).mem.granules G = none :=
  foldl_keeps (P := fun s : State => tblGet s.mem.granules G = none) (fun s p h => by simp [clearGranule, h]) l h

/-- The cleared granules are free. -/
theorem granules_clearAll_free {l : Tbl Nat} {s : State} {p : Nat × Nat} (hp : p ∈ l) :
    tblGet (clearAll l .free false s).mem.granules p.2 = none := by
  induction l generalizing s with
  | nil => cases hp
  | cons r l ih =>
    rcases List.mem_cons.mp hp with rfl | hp
    · exact granules_clearAll_free_none (s := clearGranule p.2 .free false s) (by simp [clearGranule])
    · exact ih hp

/-- A Court's packages, jobs and uses are gone, its granules given over to `o`, and its records for the host dropped. -/
def emptied (n : Nat) (all : Bool) (l : Tbl Nat) (o : GranOwner) (conf : Bool) (s : State) : State :=
  clearAll l o conf (dropAssists n all (releaseCourt n s))

theorem courtsAre_clearAll (l : Tbl Nat) (o : GranOwner) (conf : Bool) {cs : Tbl Court} {es : Tbl Nat} {s : State}
    (h : CourtsAre cs es s) : CourtsAre cs es (clearAll l o conf s) := by
  unfold clearAll
  induction l generalizing s with
  | nil => exact h
  | cons p l ih => exact ih (s := clearGranule p.2 o conf s) h

theorem pkgs_clearAll (l : Tbl Nat) (o : GranOwner) (conf : Bool) (s : State) : (clearAll l o conf s).pkgs = s.pkgs := by
  unfold clearAll
  induction l generalizing s with
  | nil => rfl
  | cons p l ih => exact ih (clearGranule p.2 o conf s)

theorem courtsAre_emptied (n : Nat) (all : Bool) (l : Tbl Nat) (o : GranOwner) (conf : Bool) (s : State) :
    CourtsAre s.courts s.sec.epochs (emptied n all l o conf s) :=
  courtsAre_clearAll l o conf (s := dropAssists n all (releaseCourt n s)) (courtsAre_releaseCourt n (.self s))

/-- No package of the Court is left. -/
theorem pkgs_emptied (n : Nat) (all : Bool) (l : Tbl Nat) (o : GranOwner) (conf : Bool) (s : State) :
    ∀ p ∈ (emptied n all l o conf s).pkgs, p.2.court ≠ n := by
  intro p hp
  rw [emptied, pkgs_clearAll] at hp
  simpa using (List.mem_filter.mp hp).2

/-- The states differ in their Blocks alone. -/
def BlocksOnly (s t : State) : Prop := ∃ b, t = { s with blocks := b }

theorem BlocksOnly.foldl {β : Type} {f : State → β → State} (hf : ∀ s b, BlocksOnly s (f s b)) (l : List β) (s : State) :
    BlocksOnly s (l.foldl f s) := by
  induction l generalizing s with
  | nil => exact ⟨_, rfl⟩
  | cons b l ih =>
    obtain ⟨_, hb⟩ := hf s b
    obtain ⟨_, hl⟩ := ih (f s b)
    exact ⟨_, by rw [List.foldl_cons, hl, hb]⟩

/-- The end of a reset, from the state in which the Court's granules and stores are zero. -/
def resetEnd (n : Nat) (k : Court) (s : State) : State :=
  let s := freshKeys n (resetStore n s)
  let s := { s with srv.rings := if k.conf then s.srv.rings.filter (fun p => p.1 / 16384 != n) else s.srv.rings }
  modCourt n (fun k => { k with state := .ready, by_ := none, sems := [], satCount := 0, nonfinCount := 0,
                                slotLate := 0, slotOverrun := 0, slotShort := 0 }) s

theorem finishReset_eq {n : Nat} {k : Court} {s : State} (hk : courtOf s n = some k) :
    ∃ t, BlocksOnly (emptied n false k.gtab (.court n) k.conf s) t ∧ finishReset n s = resetEnd n k t :=
  ⟨_, .foldl (fun s b => ⟨_, rfl⟩) (courtPhys (emptied n false k.gtab (.court n) k.conf s) k) _,
    by simp only [finishReset, hk]; rfl⟩

/-- What the end of a reset leaves of its Court. -/
theorem courtOf_resetEnd {n : Nat} {k r : Court} {s : State} (hr : tblGet s.courts n = some r) :
    (courtOf (resetEnd n k s) n).map
      (fun r => (r.state, r.sems, r.satCount, r.nonfinCount, r.slotLate, r.slotOverrun, r.slotShort)) =
        some (.ready, [], 0, 0, 0, 0, 0) := by
  simp [resetEnd, courtOf, modCourt, freshKeys, draw, resetStore, hr]

theorem epochOf_resetEnd (n : Nat) (k : Court) (s : State) : epochOf (resetEnd n k s) n = (epochOf s n + 1) % 2 ^ 32 := by
  simp [resetEnd, epochOf, tblGetD, modCourt, freshKeys, draw, resetStore]

theorem finishReset_leaves {n : Nat} {k : Court} {s : State} (hk : courtOf s n = some k) :
    (courtOf (finishReset n s) n).map
      (fun r => (r.state, r.sems, r.satCount, r.nonfinCount, r.slotLate, r.slotOverrun, r.slotShort)) =
        some (.ready, [], 0, 0, 0, 0, 0) ∧
    (∀ p ∈ k.gtab, ∀ o < gib, memGet (finishReset n s).mem.hbm (p.2 * gib + o) = none) ∧
    epochOf (finishReset n s) n = (epochOf s n + 1) % 2 ^ 32 ∧ (∀ p ∈ (finishReset n s).pkgs, p.2.court ≠ n) := by
  obtain ⟨hcourts, hepochs⟩ := courtsAre_emptied n false k.gtab (.court n) k.conf s
  obtain ⟨t, ⟨b, rfl⟩, heq⟩ := finishReset_eq hk
  rw [heq]
  refine ⟨courtOf_resetEnd (r := k) ?_, fun p hp o ho => memGet_clearAll hp ho, ?_,
    pkgs_emptied n false k.gtab (.court n) k.conf s⟩
  · exact (congrArg (fun c => tblGet c n) hcourts).trans hk
  · rw [epochOf_resetEnd]
    exact congrArg (fun e => (tblGetD e n 0 + 1) % 2 ^ 32) hepochs

/-- The bootstrap pairs of a list of queues are no longer ready. -/
def bootsDropped (l : Tbl Queue) (s : State) : State :=
  l.foldl (fun s p => if bootQ p.2.via = qOfKey p.1 then modFn p.2.via (fun h => { h with q0Ready := false }) s else s) s

theorem bootsDropped_fns (l : Tbl Queue) (s : State) : ∃ f, bootsDropped l s = { s with cmd.fns := f } := by
  unfold bootsDropped
  induction l generalizing s with
  | nil => exact ⟨_, rfl⟩
  | cons p l ih =>
    rw [List.foldl_cons]
    split
    · obtain ⟨f, hf⟩ := ih (modFn p.2.via (fun h => { h with q0Ready := false }) s)
      exact ⟨f, hf⟩
    · exact ih s

/-- The last of a destruction: everything under the Court's number goes. -/
def destroyEnd (n : Nat) (s : State) : State :=
  { s with
    courts := tblErase s.courts n
    cmd.queues := s.cmd.queues.filter (fun p => p.1 / 64 != n)
    cmd.retireSeq := tblErase s.cmd.retireSeq n
    cmd.eventRings := s.cmd.eventRings.filter (fun p => p.1 % 17 != n)
    cmd.assistRings := s.cmd.assistRings.filter (fun p => p.1 % 17 != n)
    cmd.modes := tblErase s.cmd.modes n
    cmd.modeDeadlines := tblErase s.cmd.modeDeadlines n
    srv.rings := s.srv.rings.filter (fun p => p.1 / 16384 != n)
    tt.active := s.tt.active.filter (fun a => a.court != n)
    sec.signers := tblErase s.sec.signers n
    sec.configs := tblErase s.sec.configs n }

theorem finishDestroy_eq {n : Nat} {k : Court} {s : State} (hk : courtOf s n = some k) :
    ∃ t f, BlocksOnly (emptied n true k.gtab .free false s) t ∧
      finishDestroy n s = destroyEnd n { destroyKeys n (destroyStore n t) with cmd.fns := f } := by
  obtain ⟨t, ht⟩ : ∃ t, t = (courtPhys (emptied n true k.gtab .free false s) k).foldl
    (fun s b => modBlock b (fun b => { b with priv := [], proposal := .none }) s) (emptied n true k.gtab .free false s) := ⟨_, rfl⟩
  obtain ⟨f, hf⟩ := bootsDropped_fns ((destroyKeys n (destroyStore n t)).cmd.queues.filter (fun p => p.1 / 64 == n))
    (destroyKeys n (destroyStore n t))
  refine ⟨t, f, ?_, ?_⟩
  · rw [ht]
    exact .foldl (fun s b => ⟨_, rfl⟩) _ _
  · rw [← hf, ht]
    simp only [finishDestroy, hk]
    rfl

/-- What a destruction leaves of its Court. -/
theorem finishDestroy_leaves {n : Nat} {k : Court} {s : State} (hk : courtOf s n = some k) :
    courtOf (finishDestroy n s) n = none ∧ keysOf (finishDestroy n s) n = none ∧
    (∀ p ∈ k.gtab, tblGet (finishDestroy n s).mem.granules p.2 = none) ∧
    (∀ p ∈ (finishDestroy n s).cmd.queues, p.1 / 64 ≠ n) ∧ (∀ p ∈ (finishDestroy n s).pkgs, p.2.court ≠ n) ∧
    (∀ r ∈ (finishDestroy n s).part.stores, r.court ≠ n) := by
  obtain ⟨t, f, ⟨b, rfl⟩, heq⟩ := finishDestroy_eq hk
  rw [heq]
  refine ⟨by simp [courtOf, destroyEnd], by simp [keysOf, destroyKeys, destroyEnd],
    fun p hp => granules_clearAll_free hp, fun p hp => ?_, pkgs_emptied n true k.gtab .free false s, fun r hr => ?_⟩
  · simpa using (List.mem_filter.mp hp).2
  · simpa using (List.mem_filter.mp hr).2

end Sys2Proof.Machine

open Sys2Proof.Machine

/-- Settles O24: what each end does to the Court itself comes after what it releases, which touches no Court and no epoch. -/
theorem courtsLeave : Obligations.CourtsLeave := by
  unfold Obligations.CourtsLeave
  refine fun n k s hk => ⟨?created, finishReset_leaves hk, finishDestroy_leaves hk⟩
  case created =>
    rintro c rfl
    have hcourt := courtOf_modCourt s (fld c.pb 0 1) (fld c.pb 0 1) (fun k => { k with state := .ready, by_ := none })
    rw [if_pos rfl, hk] at hcourt
    exact congrArg (Option.map (·.state)) hcourt

end

section
/-! The lifecycle commands of a Court that nothing delays (spec/13_placement_and_scheduling.md R420, R491; R446). -/

namespace Sys2Proof.Machine

/-- The states differ in device memory and in Blocks alone. -/
def MemBlocks (s t : State) : Prop := ∃ m b, t = { s with mem := m, blocks := b }

namespace MemBlocks

theorem refl (s : State) : MemBlocks s s := ⟨_, _, rfl⟩

theorem trans {s t u : State} (h : MemBlocks s t) (k : MemBlocks t u) : MemBlocks s u := by
  obtain ⟨_, _, rfl⟩ := h
  obtain ⟨_, _, rfl⟩ := k
  exact ⟨_, _, rfl⟩

theorem foldl {β : Type} {f : State → β → State} (hf : ∀ s b, MemBlocks s (f s b)) (l : List β) (s : State) :
    MemBlocks s (l.foldl f s) := by
  induction l generalizing s with
  | nil => exact refl s
  | cons b l ih => exact (hf s b).trans (ih _)

theorem cmd {s t : State} (h : MemBlocks s t) : t.cmd = s.cmd := by
  obtain ⟨_, _, rfl⟩ := h
  rfl

end MemBlocks

theorem memBlocks_clearGranule (G : Nat) (o : GranOwner) (conf : Bool) (s : State) : MemBlocks s (clearGranule G o conf s) :=
  ⟨_, _, rfl⟩

theorem memBlocks_storeZero (b : Nat) (s : State) : MemBlocks s (storeZero b s) := ⟨_, _, rfl⟩

theorem askGranules_of_mode {s : State} (h : modeBit s 16 0 = false) (c : Cmd) (n : Nat) (gs : List Nat) :
    askGranules c n gs s = s := by
  simp [askGranules, h]

/-- Starting a Court's creation leaves the commands, and the Court stands with its units. -/
theorem createStart_leaves (c : Cmd) (gs : List Nat) (u : Nat) (s : State) :
    (createStart c gs u s).cmd = s.cmd ∧ (courtOf (createStart c gs u s) (fld c.pb 0 1)).map (·.unit0) = some u := by
  refine ⟨?_, by simp [createStart, courtOf, Court.begun]⟩
  refine (MemBlocks.cmd (.foldl (fun s g => ?_) _ _)).trans
    ((MemBlocks.cmd (.foldl (fun s p => memBlocks_clearGranule _ _ _ s) _ _)).trans ?_)
  · split
    · exact memBlocks_storeZero _ s
    · exact .refl s
  · split
    · rfl
    · rfl

theorem createFinish_result {c : Cmd} {s : State} {u : Nat} (h : (courtOf s (fld c.pb 0 1)).map (·.unit0) = some u) :
    (createFinish c s).2 = .fin (finRes 0x0000 (natLe 2 (256 * u))) := by
  obtain ⟨k, hk, rfl⟩ := Option.map_eq_some_iff.mp h
  have hfound : tblGet s.courts (fld c.pb 0 1) = some k := hk
  simp [createFinish, courtOf, newStore, freshKeys, draw, modCourt, hfound, stSuccess]

/-- Taking nothing away, a resize hands over granules and zeroes the added stores, and the command keeps its Blocks. -/
theorem resizeStart_grows {n : Nat} {k : Court} {c : Cmd} {gs : List Nat} {s : State} (hkeep : ∀ g ∈ k.blocks, g ∈ gs) :
    ∃ t, MemBlocks s t ∧ resizeStart n k c gs s = modCmd c.q c.cid (fun d => { d with work := gs }) t := by
  have hcut : k.blocks.filter (fun g => !gs.contains g) = [] := by
    rw [List.filter_eq_nil_iff]
    intro g hg
    simp [hkeep g hg]
  refine ⟨_, ?_, by simp only [resizeStart, hcut, List.filterMap_nil, List.foldl_nil]; rfl⟩
  exact .trans (.foldl (fun s G => memBlocks_clearGranule _ _ _ s) _ _) (.foldl (fun s b => memBlocks_storeZero _ s) _ _)

theorem contextsUsed_of_resizeCheck {s : State} {n : Nat} {k : Court} {pb : List Byte} {gs : List Nat}
    (h : resizeCheck s n k pb = .ok gs) : contextsUsed s n ≤ fld pb 16 2 := by
  unfold resizeCheck at h
  dsimp only at h
  split at h
  · cases h
  · split at h
    · cases h
    · split_ifs at h with _ _ _ _ _ _ hctx
      exact Nat.not_lt.mp hctx

/-- Nothing is taken away and the windows of the server stand: the resize finishes at once. -/
theorem resizeTry_grows {n : Nat} {k : Court} {c : Cmd} {s : State} (hkeep : ∀ g ∈ k.blocks, g ∈ c.work)
    (hserve : fld c.pb 12 2 = k.serve) (hpool : fld c.pb 14 2 = k.pool) (hctx : contextsUsed s n ≤ fld c.pb 16 2) :
    resizeTry n k c s = (resizeFinish n k c s, .fin (finSt stSuccess)) := by
  have hcut : k.blocks.filter (fun g => !c.work.contains g) = [] := by
    rw [List.filter_eq_nil_iff]
    intro g hg
    simp [hkeep g hg]
  have hleft : blocksLeft s k c.work = true := by simp only [blocksLeft, hcut, List.filterMap_nil, List.all_nil]
  simp [resizeTry, hleft, hserve, hpool, Nat.not_lt.mpr hctx]

theorem transits_of_ready {s : State} {n : Nat} {m : Court} {st : CourtState} (c : Cmd) (hm : courtOf s n = some m)
    (hready : m.state = .ready) (hst : st ≠ .ready) : transits s n c st = false := by
  simp [transits, hm, hready, Ne.symm hst]

@[simp] theorem placeAsked_begun (q r : QId) (cid rid : Nat) (s : State) :
    placeAsked (begun q cid s) r rid = placeAsked s r rid := by
  simp only [placeAsked, begun_cmd_assists]

@[simp] theorem modeBit_begun (q : QId) (cid : Nat) (s : State) (r f : Nat) : modeBit (begun q cid s) r f = modeBit s r f := by
  simp only [modeBit, begun_cmd_modes]

/-! ### The bodies -/

/-- A Court of checked fields is made at once where no placement is asked of the host. -/
theorem createBody_makes {c : Cmd} {s : State} {gs : List Nat} {u : Nat} (hnone : courtOf s (fld c.pb 0 1) = none)
    (hfields : courtFieldsOk c.pb = true) (hcheck : createCheck s c.pb = .ok (gs, u)) (hmode : modeBit s 16 0 = false)
    (hasked : placeAsked s c.q c.cid = false) :
    createBody true c s =
      ((createFinish c (createStart c gs u s)).1, .fin (finRes 0x0000 (natLe 2 (256 * u)))) := by
  obtain ⟨hcmd, hunit⟩ := createStart_leaves c gs u s
  have htrans : transits s (fld c.pb 0 1) c .creating = false := by simp [transits, hnone]
  have hmode' : modeBit (createStart c gs u s) 16 0 = false := by rwa [modeBit, hcmd]
  have hasked' : placeAsked (createStart c gs u s) c.q c.cid = false := by rwa [placeAsked, hcmd]
  have hbody : createBody true c s = createFinish c (createStart c gs u s) := by
    simp [createBody, htrans, hfields, hcheck, askGranules_of_mode hmode', hasked']
  rw [hbody]
  exact Prod.ext rfl (createFinish_result hunit)

theorem createBody_refused {c : Cmd} {s : State} {st : Nat} (hfields : courtFieldsOk c.pb = true)
    (htrans : transits s (fld c.pb 0 1) c .creating = false) (hcheck : createCheck s c.pb = .error st) :
    createBody true c s = (s, .fin (finSt st)) := by
  simp [createBody, htrans, hfields, hcheck, failWith]

theorem destroyBody_ready {c : Cmd} {s : State} {m : Court} (hn : fld c.pb 0 1 < 16) (hm : courtOf s (fld c.pb 0 1) = some m)
    (hready : m.state = .ready) :
    destroyBody true c s = (finishDestroy (fld c.pb 0 1) (stopCourt (fld c.pb 0 1) none
      (modCourt (fld c.pb 0 1) (fun r => { r with state := .destroying, by_ := some (c.q, c.cid) }) s)),
      .fin (finSt 0x0000)) := by
  simp [destroyBody, transits_of_ready c hm hready, Nat.not_le.mpr hn, hm, hready, stSuccess]

theorem resetBody_ready {c : Cmd} {s : State} {m : Court} (howner : c.q.owner = 16) (hn : fld c.pb 0 1 < 16)
    (hm : courtOf s (fld c.pb 0 1) = some m) (hready : m.state = .ready) :
    resetBody true c s = (finishReset (fld c.pb 0 1) (beginReset (fld c.pb 0 1) c s), .fin (finSt 0x0000)) := by
  simp [resetBody, courtNamed, howner, transits_of_ready c hm hready, Nat.not_le.mpr hn, hm, hready, stSuccess]

theorem zeroiseBody_ready {c : Cmd} {s : State} {m : Court} (howner : c.q.owner = 16) (hn : fld c.pb 0 1 < 16)
    (hm : courtOf s (fld c.pb 0 1) = some m) (hready : m.state = .ready) (hwork : c.work = []) :
    zeroiseBody true c s = (postSec 0x03 (fld c.pb 0 1) 0xFF 0xFF 1 0
      (finishReset (fld c.pb 0 1) (beginReset (fld c.pb 0 1) c (destroyKeys (fld c.pb 0 1) s))), .fin (finSt 0x0000)) := by
  simp [zeroiseBody, courtNamed, howner, transits_of_ready c hm hready, Nat.not_le.mpr hn, hm, hready, hwork, stSuccess]

/-- A resize that takes nothing away finishes at once where no placement is asked of the host. -/
theorem resizeBody_grows {c : Cmd} {s : State} {m : Court} {gs : List Nat} (hfields : courtFieldsOk c.pb = true)
    (hm : courtOf s (fld c.pb 0 1) = some m) (hready : m.state = .ready) (hwork : c.work = [])
    (hidle : (resizing s).any (fun d => fld d.pb 0 1 == fld c.pb 0 1) = false)
    (hcheck : resizeCheck s (fld c.pb 0 1) m c.pb = .ok gs) (hkeep : ∀ g ∈ m.blocks, g ∈ gs)
    (hserve : fld c.pb 12 2 = m.serve) (hpool : fld c.pb 14 2 = m.pool) (hmode : modeBit s 16 0 = false)
    (hasked : placeAsked s c.q c.cid = false) :
    resizeBody true c s = (resizeFinish (fld c.pb 0 1) m { c with work := gs } (resizeStart (fld c.pb 0 1) m c gs s),
      .fin (finSt 0x0000)) := by
  have hctx := contextsUsed_of_resizeCheck hcheck
  have hstart : modeBit (resizeStart (fld c.pb 0 1) m c gs s) 16 0 = false ∧
      placeAsked (resizeStart (fld c.pb 0 1) m c gs s) c.q c.cid = false ∧
      contextsUsed (resizeStart (fld c.pb 0 1) m c gs s) (fld c.pb 0 1) ≤ fld c.pb 16 2 := by
    obtain ⟨t, ⟨_, _, rfl⟩, ht⟩ := resizeStart_grows (n := fld c.pb 0 1) (c := c) (s := s) hkeep
    rw [ht]
    exact ⟨hmode, hasked, hctx⟩
  obtain ⟨hmode', hasked', hctx'⟩ := hstart
  have htry := resizeTry_grows (c := { c with work := gs }) hkeep hserve hpool hctx'
  simp [resizeBody, hfields, hm, hready, hwork, hidle, hcheck, askGranules_of_mode hmode', hasked', htry, stSuccess]

end Sys2Proof.Machine

open Sys2Proof.Machine

/-- Settles O23: with no placement asked of the host each command starts and finishes in one step. -/
theorem courtsComplete : Obligations.CourtsComplete := by
  unfold Obligations.CourtsComplete
  intro q cid c m s hwork hasked hmode b k n going
  have hrow {op lay : Nat} {rsv : List (Nat × Nat)} {body : Cmd → State → State × Did} {t : State} {f : CmdEnd}
      (hdue : Due op lay rsv q cid c s) (hb : body k b = (t, .fin f)) :
      (watched (.next (runCmd op q cid (fun _ => lay) rsv body s)) : Res) = .next (settleWatch (completes lay c f t)) :=
    congrArg (fun t => Host.Outcome.next (settleWatch t)) (runCmd_fin hdue hb)
  have hcourt : courtOf b n = courtOf s n := courtOf_begun q cid s n
  have hmode' : modeBit b 16 0 = false := (modeBit_begun q cid s 16 0).trans hmode
  have hasked' : placeAsked b q cid = false := (placeAsked_begun q q cid cid s).trans hasked
  refine ⟨fun gs u hdue hfields hnone hcheck => hrow hdue ?create,
    fun st hdue hfields htrans hcheck => hrow hdue (createBody_refused (c := k) hfields htrans hcheck),
    fun hdue hn hm hready => hrow hdue ?destroy, fun hdue howner hn hm hready => hrow hdue ?reset,
    fun hdue howner hn hm hready => hrow hdue ?zeroise,
    fun gs hdue hfields hm hready hidle hcheck hkeep hserve hpool => hrow hdue ?resize⟩
  all_goals obtain ⟨rfl, rfl⟩ := findCmd_key hdue.1
  case create => exact createBody_makes (c := k) (hcourt.trans hnone) hfields hcheck hmode' hasked'
  case destroy => exact destroyBody_ready (c := k) hn (hcourt.trans hm) hready
  case reset => exact resetBody_ready (c := k) howner hn (hcourt.trans hm) hready
  case zeroise => exact zeroiseBody_ready (c := k) howner hn (hcourt.trans hm) hready hwork
  case resize =>
    exact resizeBody_grows (c := k) hfields (hcourt.trans hm) hready hwork hidle hcheck hkeep hserve hpool hmode' hasked'

end

section
/-! Base models in their slots (spec/07_adapters.md R241 to R249). -/

namespace Sys2Proof.Machine

@[simp] theorem slotRefusal_begun (q : QId) (cid : Nat) (s : State) (owner n : Nat) :
    slotRefusal (begun q cid s) owner n = slotRefusal s owner n := by
  simp only [slotRefusal, begun_gaz]

/-- A slot of the owner that is not being loaded is refused to nobody of the owner. -/
theorem slotRefusal_own {s : State} {owner n : Nat} {m : ModelSlot} (hn : n < 32) (hm : tblGet s.gaz.slots n = some m)
    (howner : m.owner = owner) (hstate : m.state ≠ .loading) : slotRefusal s owner n = none := by
  subst howner
  by_cases h16 : m.owner = 16 <;> simp [slotRefusal, Nat.not_le.mpr hn, hm, h16, hstate]

theorem bit_zero_of_lt_two {v : Nat} (h : v < 2) : bit v 0 = (v == 1) := by
  interval_cases v <;> rfl

theorem slots_clearGranules (l : List Nat) (s : State) : (l.foldl (fun s G => clearGranule G .free false s) s).gaz = s.gaz :=
  foldl_keeps (P := fun t : State => t.gaz = s.gaz) (f := fun s G => clearGranule G .free false s) (fun _ _ h => h) l rfl

/-- Emptying a slot leaves every other slot that it does not replace. -/
theorem slots_emptySlot_of_ne {s : State} {n old : Nat} {m : ModelSlot} (hne : n ≠ old)
    (hm : tblGet s.gaz.slots old = some m) (hrep : m.replacedBy ≠ some n) : tblGet (emptySlot n s).gaz.slots old = some m := by
  unfold emptySlot
  split
  · exact hm
  · next r hr =>
    have hmap (l : Tbl ModelSlot) :
        tblGet (l.map (fun (p : Nat × ModelSlot) => if p.2.replacedBy = some n then (p.1, { p.2 with replacedBy := none }) else p)) old =
          (tblGet l old).map (fun m => if m.replacedBy = some n then { m with replacedBy := none } else m) := by
      rw [← tblGet_map]
      congr 1
      refine List.map_congr_left fun p _ => ?_
      split <;> rfl
    dsimp only
    rw [hmap, tblGet_tblErase, if_neg hne.symm]
    split
    · rw [slots_clearGranules, hm]
      simp [hrep]
    · rw [hm]
      simp [hrep]

theorem slots_claimModelSlot_of_ne {c : Cmd} {s : State} {n old : Nat} {m : ModelSlot} (hne : n ≠ old)
    (hm : tblGet s.gaz.slots old = some m) (hrep : m.replacedBy ≠ some n) :
    tblGet (claimModelSlot c n s).gaz.slots old = some m := by
  have hempty := slots_emptySlot_of_ne hne hm hrep
  simp [claimModelSlot, modCmd, hne.symm, hempty]

/-- Where the old slot is none to refuse, a claim of another slot leaves that so. -/
theorem oldRefusal_of_same_slot {s t : State} {owner old : Nat} (h : tblGet t.gaz.slots old = tblGet s.gaz.slots old) :
    oldRefusal t owner old = oldRefusal s owner old := by
  simp only [oldRefusal, slotRefusal, h]

/-! ### The bodies -/

theorem loadBaseBody_loads {c : Cmd} {s t : State} {image : List Byte} {n : Nat} (hwork : c.work = [])
    (hrefuse : loadRefusal s c = none) (htake : takeSlot s c.q.owner = some n)
    (hload : loadSlot { c with work := [n] } n image (fun _ => true) (claimModelSlot c n s) = (t, some (.ok ()))) :
    loadBaseBody image true c s = (t, .fin (finRes 0x0000 (natLe 1 n))) := by
  simp [loadBaseBody, hwork, hrefuse, htake, hload, stSuccess]

theorem replaceBaseBody_supersedes {c : Cmd} {s t : State} {image : List Byte} {n : Nat} {m : ModelSlot} (hwork : c.work = [])
    (hrefuse : loadRefusal s c = none) (hold : oldRefusal s c.q.owner (fld c.pb 19 1) = none)
    (htake : takeSlot { s with gaz.slots := tblModify s.gaz.slots (fld c.pb 19 1) (fun m => { m with state := .resident }) }
      c.q.owner = some n)
    (hne : n ≠ fld c.pb 19 1) (hm : tblGet s.gaz.slots (fld c.pb 19 1) = some m) (hrep : m.replacedBy ≠ some n)
    (hload : loadSlot { c with work := [n] } n image (fun x => x.modelId == m.modelId && x.modelVersion != m.modelVersion)
      (claimModelSlot c n s) = (t, some (.ok ()))) :
    replaceBaseBody image true c s = (supersede n (fld c.pb 19 1) t, .fin (finRes 0x0000 (natLe 1 n))) := by
  have hclaimed := slots_claimModelSlot_of_ne (c := c) hne hm hrep
  have hold' : oldRefusal (claimModelSlot c n s) c.q.owner (fld c.pb 19 1) = none :=
    (oldRefusal_of_same_slot (hclaimed.trans hm.symm)).trans hold
  simp [replaceBaseBody, hwork, hrefuse, hold, htake, hold', hclaimed, hload, stSuccess]

theorem evictBody_eq {c : Cmd} {s : State} {m : ModelSlot} (hfield : fld c.pb 1 1 < 2) (hn : fld c.pb 0 1 < 32)
    (hm : tblGet s.gaz.slots (fld c.pb 0 1) = some m) (howner : m.owner = c.q.owner) (hstate : m.state ≠ .loading) :
    evictBody c s = if m.refs ≠ 0 then (s, .fin (finSt 0x3007))
      else ((if m.state = .cold ∧ fld c.pb 1 1 ≠ 1 then s else evictSlot (fld c.pb 0 1) (fld c.pb 1 1 == 1) s),
        .fin (finSt 0x0000)) := by
  simp [evictBody, Nat.not_le.mpr hfield, slotRefusal_own hn hm howner hstate, hm, bit_zero_of_lt_two hfield, failWith,
    stStateConflict, stSuccess]

/-! ### The reload of a COLD base -/

theorem baseReload_wanted {n : Nat} {m : ModelSlot} {s : State} {image : List Byte} (hm : tblGet s.gaz.slots n = some m)
    (hcold : m.state = .cold) (hwanted : m.wanted = true) (hready : s.sq.ready = true) (hreads : hostReads s m.via = true) :
    exec (.baseReload n image) s = .next (reloadSlot n m image s) := by
  show execBaseReload n image s = _
  simp [execBaseReload, hm, hcold, hwanted, hready, hreads]

theorem reloadSlot_short {n : Nat} {m : ModelSlot} {s : State} {image : List Byte} (hshort : image.length < slotHostLen m) :
    reloadSlot n m image s = reloadFailed n 0x5003 s := by
  simp [reloadSlot, hshort, stHostFault]

theorem reloadSlot_resident {n : Nat} {m x : ModelSlot} {s t : State} {image : List Byte} {place : Space} (hkey : m.keyId = 0)
    (hlen : slotHostLen m ≤ image.length)
    (hroom : baseRoom m.owner m.imageLen m.granules (m.granules != []) ⟨16, 64⟩ n s = (t, place)) (hwait : place ≠ .wait)
    (hno : place ≠ .no) (hparse : baseParse (image.take (slotHostLen m)) = some x) (hid : x.modelId = m.modelId)
    (hversion : x.modelVersion = m.modelVersion) (hhash : x.hash = m.hash) :
    reloadSlot n m image s = modSlot n (fun m => { m with state := .resident, wanted := false, reloadFail := none })
      (placeBase n m.owner (image.take (slotHostLen m)) place t) := by
  have hhost : slotHostLen m = m.imageLen := by simp [slotHostLen, hkey]
  have htake : (image.take (slotHostLen m)).length = m.imageLen := by rw [List.length_take, Nat.min_eq_left hlen, hhost]
  simp only [reloadSlot, if_neg (Nat.not_lt.mpr hlen), openBase, hkey, if_true, htake, hroom]
  cases place with
  | wait => exact absurd rfl hwait
  | no => exact absurd rfl hno
  | at_ a => simp [hparse, hid, hversion, hhash]
  | granules gs => simp [hparse, hid, hversion, hhash]

end Sys2Proof.Machine

open Sys2Proof.Machine

/-- Settles O26, by the body of each command and by the two ends of a reload. -/
theorem baseSlots : Obligations.BaseSlots := by
  unfold Obligations.BaseSlots
  refine ⟨?commands, fun n m image s hm hcold hwanted hready hreads => ?reload⟩
  case reload =>
    rw [baseReload_wanted hm hcold hwanted hready hreads]
    exact ⟨fun hshort => congrArg Host.Outcome.next (reloadSlot_short hshort),
      fun t place x hkey hlen hroom hwait hno hparse hid hversion hhash =>
        congrArg Host.Outcome.next (reloadSlot_resident hkey hlen hroom hwait hno hparse hid hversion hhash)⟩
  case commands =>
    intro q cid c s hwork b k
    have hslots : b.gaz = s.gaz := begun_gaz q cid s
    refine ⟨fun image n t hdue hrefuse htake hload => ?load, fun m hdue hfield hn hm howner hstate => ?pin,
      fun m hdue hfield hn hm howner hstate => ?evict,
      fun image n m t hdue hrefuse hold htake hne hm hrep hload => ?replace⟩
    all_goals obtain ⟨rfl, rfl⟩ := findCmd_key hdue.1
    case load =>
      exact congrArg Host.Outcome.next (runCmd_fin hdue (loadBaseBody_loads (c := k) hwork hrefuse htake hload))
    case pin =>
      have hown := slotRefusal_own hn hm howner hstate
      exact congrArg Host.Outcome.next
        (runCmd_fin hdue (by simp [pinBaseBody, Nat.not_le.mpr hfield, hown, stSuccess, b]))
    case evict =>
      have hbody := evictBody_eq (c := k) (s := b) hfield hn (by rw [hslots]; exact hm) howner hstate
      refine ⟨fun hrefs => ?_, fun hrefs hcold hforget => ?_, fun hrefs hevicts => ?_⟩
      · exact congrArg Host.Outcome.next (runCmd_fin hdue (hbody.trans (if_pos hrefs)))
      · refine congrArg Host.Outcome.next (runCmd_fin hdue (hbody.trans ?_))
        simp [hrefs, hcold, hforget, k]
      · refine congrArg Host.Outcome.next (runCmd_fin hdue (hbody.trans ?_))
        have hnot : ¬ (m.state = .cold ∧ fld c.pb 1 1 ≠ 1) := by tauto
        simp only [hrefs, ne_eq, not_true_eq_false, if_false]
        exact congrArg (·, _) (if_neg hnot)
    case replace =>
      exact congrArg Host.Outcome.next (runCmd_fin hdue (replaceBaseBody_supersedes (c := k) hwork hrefuse hold htake hne
        (by rw [hslots]; exact hm) hrep hload))

end

section
/-! Contracts, claims and sequences (spec/07_adapters.md R226 to R233; spec/08_serving.md R251 to R259). -/

namespace Sys2Proof.Machine

@[simp] theorem entryOf_begun (q : QId) (cid : Nat) (s : State) (h : Nat) : entryOf (begun q cid s) h = entryOf s h := by
  simp only [entryOf, begun_gaz]

@[simp] theorem handleOwner_begun (q : QId) (cid : Nat) (s : State) (h : Nat) :
    handleOwner (begun q cid s) h = handleOwner s h := by
  simp only [handleOwner, begun_courts]

@[simp] theorem handleCheck_begun (q : QId) (cid : Nat) (s : State) (n h : Nat) :
    handleCheck (begun q cid s) n h = handleCheck s n h := by
  simp only [handleCheck, handleOwner_begun, entryOf_begun]

@[simp] theorem nowS_begun (q : QId) (cid : Nat) (s : State) : nowS (begun q cid s) = nowS s := by
  simp only [nowS, begun_sq]

@[simp] theorem claimant_begun (q : QId) (cid : Nat) (s : State) (m : ModelSlot) (layer h : Nat) :
    claimant (begun q cid s) m layer h = claimant s m layer h := by
  simp only [claimant, entryOf_begun]

@[simp] theorem claimsHeld_begun (q : QId) (cid : Nat) (s : State) (m : ModelSlot) (n layer : Nat) :
    claimsHeld (begun q cid s) m n layer = claimsHeld s m n layer := by
  simp only [claimsHeld, handleOwner_begun]

@[simp] theorem seqOfCmd_begun (q r : QId) (cid rid : Nat) (s : State) :
    seqOfCmd (begun q cid s) r rid = seqOfCmd s r rid := by
  simp only [seqOfCmd, begun_srv]

/-! ### Contracts -/

/-- A version that lies in POOL is there already. -/
theorem bring_of_pool {n h : Nat} {image : List Byte} {q : QId} {cid : Nat} {s : State} {k : Court} {v : AdVersion}
    (hk : courtOf s n = some k) (hv : (entryOf s h).cur = some v) (hpool : v.poolAt.isSome = true) :
    bring n h image q cid s = (s, .ok) := by
  simp [bring, hk, hv, hpool]

theorem pinBody_of_pool {c : Cmd} {s : State} {image : List Byte} {k : Court} {v : AdVersion} {h : Nat} (hh : fld c.pb 0 2 = h)
    (hcheck : handleCheck s c.q.owner h = none) (htier : 2 ≤ fld c.pb 2 1 ∧ fld c.pb 2 1 ≤ 3)
    (hmin : fld c.pb 4 4 ≤ 604800) (hexp : nowS s + fld c.pb 4 4 ≤ fld c.pb 8 4) (hnow : nowS s < fld c.pb 8 4)
    (hhold : underContract (entryOf s h) = true → (entryOf s h).holdUntil ≤ fld c.pb 8 4)
    (hstate : (entryOf s h).state = .ready ∨ (entryOf s h).state = .stale) (hk : courtOf s c.q.owner = some k)
    (hv : (entryOf s h).cur = some v) (hpool : v.poolAt.isSome = true) (hfits : pinFits s k h (fld c.pb 2 1) v = true) :
    pinBody image c s =
      (let hold := max (if underContract (entryOf s h) then (entryOf s h).holdUntil else 0) (nowS s + fld c.pb 4 4)
       let t := modEntry h (fun e => { e with minTier := fld c.pb 2 1, contractEnd := fld c.pb 8 4, holdUntil := hold }) s
       (if fld c.pb 2 1 = 3 then lockVersion c.q.owner h t else unlockVersion h t, .fin (finRes 0x0000 (natLe 4 hold)))) := by
  subst hh
  have hfields : ¬ (c.work = [] ∧ (fld c.pb 2 1 < 2 ∨ 3 < fld c.pb 2 1 ∨ 604800 < fld c.pb 4 4 ∨
      fld c.pb 8 4 < nowS s + fld c.pb 4 4 ∨
      (underContract (entryOf s (fld c.pb 0 2)) ∧ fld c.pb 8 4 < (entryOf s (fld c.pb 0 2)).holdUntil))) := by
    rintro ⟨-, h | h | h | h | ⟨h, h'⟩⟩
    · omega
    · omega
    · omega
    · omega
    · exact absurd (hhold h) (Nat.not_le.mpr h')
  have hidle : ¬ ((entryOf s (fld c.pb 0 2)).state = .retiring ∨ (entryOf s (fld c.pb 0 2)).state = .loading) := by
    rcases hstate with h | h <;> simp [h]
  simp only [pinBody, hcheck, if_neg hfields, if_neg hidle, hk, hv, hfits, bring_of_pool hk hv hpool, pinFinish,
    if_neg (Nat.not_le.mpr hnow), Nat.min_eq_left hexp, Bool.not_true, Bool.false_eq_true, if_false, stSuccess]

/-- What a change leaves of an entry, it leaves of its look-up. -/
theorem entryOf_modEntry_field {β : Type} (g : GazEntry → β) {f : GazEntry → GazEntry} (hf : ∀ e, g (f e) = g e) (h : Nat)
    (s : State) : g (entryOf (modEntry h f s) h) = g (entryOf s h) := by
  unfold entryOf modEntry tblGetD
  rw [tblGet_tblModify, if_pos rfl]
  cases tblGet s.gaz.entries h with
  | none => rfl
  | some e => exact hf e

theorem entryOf_modEntry (h : Nat) (f : GazEntry → GazEntry) (s : State) (hfresh : f GazEntry.fresh = GazEntry.fresh) :
    entryOf (modEntry h f s) h = f (entryOf s h) := by
  unfold entryOf modEntry tblGetD
  rw [tblGet_tblModify, if_pos rfl]
  cases tblGet s.gaz.entries h with
  | none => exact hfresh.symm
  | some e => rfl

theorem entries_emptySlot (n : Nat) (s : State) : (emptySlot n s).gaz.entries = s.gaz.entries := by
  unfold emptySlot
  split
  · rfl
  · dsimp only
    split
    · rw [slots_clearGranules]
    · rfl

theorem entries_sweepSlots (s : State) : (sweepSlots s).gaz.entries = s.gaz.entries :=
  foldl_keeps (P := fun t : State => t.gaz.entries = s.gaz.entries) (fun t p h => by
    split
    · split
      · rw [entries_emptySlot, h]
      · exact h
    · exact h) _ rfl

theorem entryOf_sweepSlots (s : State) (h : Nat) : entryOf (sweepSlots s) h = entryOf s h := by
  rw [entryOf, entries_sweepSlots, entryOf]

/-- The contract of an entry: MIN_TIER, CONTRACT_END_S and HOLD_UNTIL_S (07 R228). -/
def contractOf (e : GazEntry) : Nat × Nat × Nat := (e.minTier, e.contractEnd, e.holdUntil)

/-- A contract that has ended is zero in its entry. -/
theorem contractOf_endContract (n h : Nat) (s : State) : contractOf (entryOf (endContract n h s) h) = (0, 0, 0) := by
  have hcleared : contractOf (entryOf (unlockVersion h (modEntry h (fun e =>
      { e with minTier := 0, contractEnd := 0, holdUntil := 0 }) s)) h) = (0, 0, 0) := by
    refine (entryOf_modEntry_field contractOf ?_ h _).trans ?_
    · exact fun _ => rfl
    · rw [entryOf_modEntry _ _ _ rfl]
      rfl
  unfold endContract
  dsimp only
  rw [entryOf_sweepSlots]
  split
  · refine (entryOf_modEntry_field contractOf ?_ h _).trans hcleared
    exact fun _ => rfl
  · exact hcleared

theorem endContract_clears (n h : Nat) (s : State) :
    (entryOf (endContract n h s) h).minTier = 0 ∧ (entryOf (endContract n h s) h).contractEnd = 0 ∧
      (entryOf (endContract n h s) h).holdUntil = 0 := by
  simpa [contractOf] using contractOf_endContract n h s

theorem contractEnd_of_owner {h n : Nat} {s : State} (howner : handleOwner s h = some n)
    (hcontract : underContract (entryOf s h) = true) :
    exec (.contractEnd h) s = .next (if (entryOf s h).contractEnd ≤ nowS s then endContract n h s else s) := by
  show execContractEnd h s = _
  simp [execContractEnd, howner, hcontract]

/-! ### Claims -/

/-- A change of an entry depends on what it does to the value that stands there alone. -/
theorem tblModify_congr {α : Type} {t : Tbl α} {k : Nat} {a : α} {f g : α → α} (h : tblGet t k = some a) (hfg : f a = g a) :
    tblModify t k f = tblModify t k g := by
  induction t with
  | nil => rfl
  | cons p t ih =>
    obtain ⟨i, b⟩ := p
    by_cases hk : k = i
    · subst hk
      obtain rfl : b = a := by simpa [tblGet] using h
      simp [tblModify, hfg]
    · simp [tblModify, hk, ih (by simpa [tblGet, hk] using h)]

theorem modSlot_congr {n : Nat} {m : ModelSlot} {s : State} {f g : ModelSlot → ModelSlot} (h : tblGet s.gaz.slots n = some m)
    (hfg : f m = g m) : modSlot n f s = modSlot n g s := by
  rw [modSlot, modSlot, tblModify_congr h hfg]

/-- A claim that meets no refusal compares the holder and sets it (07 R232). -/
theorem claimBody_compares {c : Cmd} {s : State} {m : ModelSlot} (hm : tblGet s.gaz.slots (fld c.pb 0 1) = some m)
    (hreserved : isReserved m (fld c.pb 2 2) (fld c.pb 1 1) = true) (hslot : slotFor m c.q.owner = true)
    (hnew : fld c.pb 6 2 = 0xFFFF ∨ (handleOwner s (fld c.pb 6 2) = some c.q.owner ∧
      claimant s m (fld c.pb 2 2) (fld c.pb 6 2) = true ∧ claimsHeld s m c.q.owner (fld c.pb 2 2) < 16))
    (hexpect : fld c.pb 4 2 = 0xFFFF ∨ handleOwner s (fld c.pb 4 2) = some c.q.owner) :
    claimBody c s =
      if claimOf m (fld c.pb 2 2) (fld c.pb 1 1) ≠ fld c.pb 4 2 then
        (s, .fin (finRes 0x3003 (natLe 2 (if handleOwner s (claimOf m (fld c.pb 2 2) (fld c.pb 1 1)) = some c.q.owner
          then claimOf m (fld c.pb 2 2) (fld c.pb 1 1) else 0xFFFF))))
      else (modSlot (fld c.pb 0 1) (fun r => { r with
        claims := if fld c.pb 6 2 = 0xFFFF then tblErase m.claims (fld c.pb 2 2 * 256 + fld c.pb 1 1)
          else tblSet m.claims (fld c.pb 2 2 * 256 + fld c.pb 1 1) (fld c.pb 6 2) }) s, .fin (finSt 0x0000)) := by
  have hforeign : ∀ x, (x = 0xFFFF ∨ handleOwner s x = some c.q.owner) →
      (x != 0xFFFF && (handleOwner s x).any (fun o => o != c.q.owner)) = false := by
    rintro x (h | h) <;> simp [h]
  have hnew' := hforeign _ (hnew.imp_right And.left)
  have hexpect' := hforeign _ hexpect
  have hclaimant : ¬ (fld c.pb 6 2 ≠ 0xFFFF ∧ (!claimant s m (fld c.pb 2 2) (fld c.pb 6 2)) = true) := by
    rcases hnew with h | ⟨-, h, -⟩ <;> simp [h]
  have hlimit : ¬ (fld c.pb 6 2 ≠ 0xFFFF ∧ handleOwner s (claimOf m (fld c.pb 2 2) (fld c.pb 1 1)) ≠ some c.q.owner ∧
      16 ≤ claimsHeld s m c.q.owner (fld c.pb 2 2)) := by
    rcases hnew with h | ⟨-, -, h⟩
    · simp [h]
    · omega
  simp only [claimBody, hm, hreserved, hnew', hexpect', if_neg hclaimant, if_neg hlimit, hslot, Bool.not_true, Bool.false_eq_true, or_self,
    if_false, stSlotTaken, stSuccess]

/-! ### Sequences -/

theorem findCmd_addSeq {c : Cmd} {n : Nat} {prompt : List Byte} {s : State} :
    findCmd (addSeq c n prompt s) c.q c.cid = (findCmd s c.q c.cid).map (fun d => { d with uncounted := true }) :=
  findCmd_modCmd_same (f := fun d => { d with uncounted := true }) (fun _ => ⟨rfl, rfl⟩) _

theorem seqOf_addSeq (c : Cmd) (n : Nat) (prompt : List Byte) (s : State) :
    seqOf (addSeq c n prompt s) s.srv.nextSeq = some (newSeq c n prompt) := by
  simp [seqOf, addSeq, modCmd]

/-- The stream ring that a plain Court's command makes: empty, with PHASE 1 (08 R277). -/
def freshStreamRing (c : Cmd) : StreamRing :=
  { via := c.via, base := fld c.pb 8 8, depth := fld c.pb 2 2 + 1,
    vector := if fld c.pb 4 2 = 0xFFFF then none else some (fld c.pb 4 2), head := 0, wr := 0, phase := true, written := 0,
    kt := c.kt, epoch := 0 }

theorem setStreamBody_plain {c : Cmd} {s : State} (hconf : confCourt s c.q.owner = false) (hring : fld c.pb 0 2 ≤ 16383)
    (hdepth : 255 ≤ fld c.pb 2 2) (hvec : fld c.pb 4 2 ≤ 63 ∨ fld c.pb 4 2 = 0xFFFF) (halign : fld c.pb 8 8 % 4096 = 0)
    (hidle : ∀ e ∈ s.srv.seqs, e.2.q.owner = c.q.owner → e.2.ring = fld c.pb 0 2 → e.2.gone = true) :
    setStreamBody c s =
      ({ s with srv.rings := tblSet s.srv.rings (streamKey c.q.owner (fld c.pb 0 2)) (freshStreamRing c) },
        .fin (finSt 0x0000)) := by
  have hfields : ¬ (16383 < fld c.pb 0 2 ∨ fld c.pb 2 2 < 255 ∨ (63 < fld c.pb 4 2 ∧ fld c.pb 4 2 ≠ 0xFFFF) ∨
      fld c.pb 8 8 % 4096 ≠ 0) := by omega
  have hfree : s.srv.seqs.any (fun e => e.2.q.owner == c.q.owner && e.2.ring == fld c.pb 0 2 && !e.2.gone) = false := by
    rw [List.any_eq_false]
    intro e he
    have hgone := hidle e he
    by_cases howner : e.2.q.owner = c.q.owner <;> by_cases hr : e.2.ring = fld c.pb 0 2 <;> simp [howner, hr, hgone]
  have hconf' (r : Tbl StreamRing) : confCourt { s with srv.rings := r } c.q.owner = false := hconf
  simp only [setStreamBody, if_neg hfields, hfree, hconf, hconf', Bool.false_eq_true, false_and, if_false, stSuccess,
    freshStreamRing]

end Sys2Proof.Machine

open Sys2Proof.Machine

/-- Settles O28, by the body of each command. -/
theorem contracts : Obligations.Contracts := by
  unfold Obligations.Contracts
  refine ⟨?commands, fun h n s howner hcontract => ⟨fun hend => ?ends, fun hend => ?stands⟩⟩
  case ends =>
    rw [contractEnd_of_owner howner hcontract, if_pos hend]
    exact ⟨rfl, endContract_clears n h s⟩
  case stands => rw [contractEnd_of_owner howner hcontract, if_neg (Nat.not_le.mpr hend)]
  case commands =>
    intro q cid c s b h e hcheck
    refine ⟨fun image r v hdue hlow hhigh hmin hexp hnow hhold hstate hk hv hpool hfits => ?pin, fun hdue => ⟨?already, ?later, ?now⟩⟩
    all_goals obtain ⟨rfl, rfl⟩ := findCmd_key hdue.1
    case pin =>
      refine congrArg Host.Outcome.next (runCmd_fin hdue ?_)
      have hbody := pinBody_of_pool (c := began s c) (s := b) (image := image) (h := h) (k := r) (v := v) rfl
        (by simpa [b] using hcheck) ⟨hlow, hhigh⟩ hmin (by simpa [b] using hexp) (by simpa [b] using hnow)
        (by simpa [b] using hhold) (by simpa [b] using hstate) (by simpa [b] using hk) (by simpa [b] using hv) hpool hfits
      rw [hbody]
      simp [b, e]
    case already =>
      intro hno
      exact congrArg Host.Outcome.next (runCmd_fin hdue (by simp [releaseBody, hcheck, hno, h, e, b, stAlreadyDone]))
    case later =>
      intro hunder hhold
      exact congrArg Host.Outcome.next (runCmd_fin hdue (by simp [releaseBody, hcheck, hunder, hhold, h, e, b, stSuccess]))
    case now =>
      intro hunder hhold
      exact congrArg Host.Outcome.next
        (runCmd_fin hdue (by simp [releaseBody, hcheck, hunder, Nat.not_lt.mpr hhold, h, e, b, stSuccess]))

/-- Settles O29: with no refusal left the slot's holder is compared, and set where it is the expected one. -/
theorem claimCompares : Obligations.ClaimCompares := by
  unfold Obligations.ClaimCompares
  intro q cid c m s hdue layer index new holder hm hreserved hslot hnew hexpect
  obtain ⟨rfl, rfl⟩ := findCmd_key hdue.1
  have hbody := claimBody_compares (c := began s c) (s := begun c.q c.cid s) (m := m) (by simpa using hm) hreserved hslot
    (by simpa using hnew) (by simpa using hexpect)
  refine ⟨fun heq => congrArg Host.Outcome.next (runCmd_fin hdue ?_), fun hne => congrArg Host.Outcome.next (runCmd_fin hdue ?_)⟩
  · rw [hbody, if_neg (by simpa using heq)]
    exact congrArg (·, _) (modSlot_congr (m := m) (by simpa using hm) rfl)
  · rw [hbody, if_pos (by simpa using hne), handleOwner_begun]
    rfl

/-- Settles O31, by the bodies of the two commands. -/
theorem serveJoins : Obligations.ServeJoins := by
  unfold Obligations.ServeJoins
  intro q cid c s b k
  refine ⟨fun prompt p n hdue hseq hrefuse hp hbatch => ?joins, fun prompt p t hdue hseq hrefuse hp hbatch hnew => ?opens,
    fun hdue hconf hring hdepth hvec halign hidle => ?ring⟩
  all_goals obtain ⟨rfl, rfl⟩ := findCmd_key hdue.1
  case joins =>
    refine ⟨congrArg Host.Outcome.next (runCmd_stay hdue ?_), ?_, ?_⟩
    · have hseq' : seqOfCmd b c.q c.cid = none := by simpa [b] using hseq
      have hp' : pkgOf b c.q.owner (fld c.pb 0 4) = some p := by simpa [b] using hp
      simp [serveBody, hseq', hrefuse, hp', hbatch, b, k]
    · have hnext : s.srv.nextSeq = b.srv.nextSeq := by simp [b]
      rw [hnext]
      exact seqOf_addSeq k n prompt b
    · have hfind : findCmd (addSeq k n prompt b) c.q c.cid = (findCmd b c.q c.cid).map (fun d => { d with uncounted := true }) :=
        findCmd_addSeq
      rw [hfind, findCmd_begun_same hdue.1]
      rfl
  case opens =>
    refine congrArg Host.Outcome.next (runCmd_stay hdue ?_)
    have hseq' : seqOfCmd b c.q c.cid = none := by simpa [b] using hseq
    have hp' : pkgOf b c.q.owner (fld c.pb 0 4) = some p := by simpa [b] using hp
    simp [serveBody, hseq', hrefuse, hp', hbatch, hnew, b, k]
  case ring =>
    refine congrArg Host.Outcome.next (runCmd_fin hdue ?_)
    rw [setStreamBody_plain (c := began s c) (s := begun c.q c.cid s) (by simpa using hconf) hring hdepth hvec halign
      (by simpa using hidle), begun_srv]
    rfl

end

section
/-! Entries of the Gazetteer: made, replaced, retired, rebound and fetched (spec/07_adapters.md R216 to R225, R240). -/

namespace Sys2Proof.Machine

/-! ### Making room in a pool touches no Court and no version's number -/

section
variable {cs : Tbl Court} {vs : List (Nat × Option Nat)} {s : State}

/-- The number of each entry's current version. -/
def versionsOf (s : State) : List (Nat × Option Nat) := s.gaz.entries.map (fun p => (p.1, p.2.cur.map (·.version)))

/-- The Courts of the state, and the numbers of its entries' versions, are those given. -/
def PoolFrame (cs : Tbl Court) (vs : List (Nat × Option Nat)) (s : State) : Prop := s.courts = cs ∧ versionsOf s = vs

theorem PoolFrame.self (s : State) : PoolFrame s.courts (versionsOf s) s := ⟨rfl, rfl⟩

theorem PoolFrame.of_sendsOnly {t : State} (h : PoolFrame cs vs s) (k : SendsOnly s t) : PoolFrame cs vs t := by
  obtain ⟨_, _, _, _, _, _, _, rfl⟩ := k
  exact h

theorem PoolFrame.of_memOnly {t : State} (h : PoolFrame cs vs s) (k : MemOnly s t) : PoolFrame cs vs t := by
  obtain ⟨_, rfl⟩ := k
  exact h

theorem PoolFrame.of_posts {t : State} (h : PoolFrame cs vs s) (k : OnlyPosts s t) : PoolFrame cs vs t :=
  ⟨k.courts.trans h.1, by rw [versionsOf, k.gaz]; exact h.2⟩

theorem versionsOf_modEntry {f : GazEntry → GazEntry} (hf : ∀ e, (f e).cur.map (·.version) = e.cur.map (·.version)) (n : Nat)
    (s : State) : versionsOf (modEntry n f s) = versionsOf s := by
  unfold versionsOf modEntry
  dsimp only
  induction s.gaz.entries with
  | nil => rfl
  | cons p l ih =>
    unfold tblModify
    split
    · simp [hf]
    · simp [ih]

theorem poolFrame_modEntry {f : GazEntry → GazEntry} (hf : ∀ e, (f e).cur.map (·.version) = e.cur.map (·.version)) (n : Nat)
    (h : PoolFrame cs vs s) : PoolFrame cs vs (modEntry n f s) :=
  ⟨h.1, (versionsOf_modEntry hf n s).trans h.2⟩

theorem poolFrame_leavePool (n : Nat) (h : PoolFrame cs vs s) : PoolFrame cs vs (leavePool n s) :=
  poolFrame_modEntry (fun e => by cases e.cur <;> rfl) n h

theorem poolFrame_courtMove (c : Court) (src dst len : Nat) (h : PoolFrame cs vs s) : PoolFrame cs vs (courtMove c src dst len s) := by
  unfold courtMove
  dsimp only
  refine foldl_keeps (P := PoolFrame cs vs) (fun t i ht => ?_) _ (h.of_memOnly (memOnly_courtWrite _ _ _ s))
  split
  · exact ht
  · exact ht

theorem poolFrame_compact (n : Nat) (c : Court) (k : Nat) (h : PoolFrame cs vs s) : PoolFrame cs vs (compact n c k s) := by
  unfold compact
  split
  · exact h
  · dsimp only
    split
    · exact h
    · refine foldl_keeps (P := PoolFrame cs vs) (fun t m ht => ?_) _ ?_
      · split
        · exact ht
        · exact poolFrame_courtMove _ _ _ _ ht
      · exact foldl_keeps (P := PoolFrame cs vs) (fun t m ht => poolFrame_modEntry (fun e => by cases e.cur <;> rfl) _ ht) _ h

theorem poolFrame_putAssist (k : Nat) (a : AssistRec) (h : PoolFrame cs vs s) : PoolFrame cs vs (putAssist k a s) := by
  unfold putAssist
  split
  · exact h
  · split
    · exact h
    · dsimp only
      refine PoolFrame.of_posts ?_ (raiseMsix_posts _ _ _)
      show PoolFrame cs vs (hostWrite _ _ _ _)
      refine PoolFrame.of_posts ?_ (hostWrite_posts _ _ _ _)
      split
      · exact h.of_posts (hostWrite_posts _ _ _ _)
      · exact h

theorem poolFrame_ask (row func : Nat) (data : List Byte) (p : AssistPurpose) (h : PoolFrame cs vs s) :
    PoolFrame cs vs (ask row func data p s).2 := by
  have hhost (data plain : List Byte) {t : State} (ht : PoolFrame cs vs t) : PoolFrame cs vs (askHost row func data plain p t).2 := by
    unfold askHost
    split
    · exact ht.of_posts (postQueueFault_posts _ _ _)
    · dsimp only
      unfold pumpAssists
      split
      · exact ht
      · exact foldl_keeps (P := PoolFrame cs vs) (fun _ a hs => poolFrame_putAssist _ a hs) _ ht
  unfold ask
  split
  · dsimp only
    refine hhost _ _ ?_
    unfold sealHost
    split
    · exact h
    · exact h
  · exact hhost _ _ h

theorem poolFrame_sendReq (n origin kind tc : Nat) (u : ReqUse) (off len : Nat) (mk : Nat → List Byte) (h : PoolFrame cs vs s) :
    PoolFrame cs vs (sendReq n origin kind tc u off len mk s) := by
  have hmap (m : PartnerMap) : PoolFrame cs vs (setMap m s).2 := by
    unfold setMap
    split
    · exact h
    · split
      · exact h
      · exact h
  unfold sendReq
  dsimp only
  split
  · exact h
  · refine PoolFrame.of_sendsOnly ?_ (sendsOnly_sendMsg _ _ _ _ _ _)
    exact hmap _

theorem poolFrame_putAll (n origin off : Nat) (bs : List Byte) (express : Bool) (u : ReqUse) (h : PoolFrame cs vs s) :
    PoolFrame cs vs (putAll n origin off bs express u s) := by
  unfold putAll
  dsimp only
  refine PoolFrame.of_sendsOnly ?_ (.foldl (fun s a => sendsOnly_pump a s) _ _)
  exact foldl_keeps (P := PoolFrame cs vs) (fun _ _ ht => poolFrame_sendReq _ _ _ _ _ _ _ _ ht) _ h

theorem poolFrame_demote (n : Nat) (c : Court) (e : Nat) (h : PoolFrame cs vs s) : PoolFrame cs vs (demote n c e s) := by
  have hseal (binding : Nat) (plain : List Byte) : PoolFrame cs vs (if c.conf then sealColdObj n binding plain s else (plain, s)).2 := by
    split
    · unfold sealColdObj
      split
      · exact h
      · exact h
    · exact h
  unfold demote
  dsimp only
  split
  · exact h
  · split
    · exact h
    · split
      · exact poolFrame_leavePool _ h
      · split
        · exact h
        · split
          · exact poolFrame_leavePool _ (PoolFrame.of_posts (hseal _ _) (hostWrite_posts _ _ _ _))
          · exact poolFrame_putAll _ _ _ _ _ _ (hseal _ _)

theorem poolFrame_freeRoom (n : Nat) (c : Court) (len k : Nat) (h : PoolFrame cs vs s) :
    PoolFrame cs vs (freeRoom n c len k s).1 :=
  freeRoom_keeps (P := PoolFrame cs vs) (fun _ ht => poolFrame_compact _ _ _ ht) (fun _ _ ht => poolFrame_demote _ _ _ ht) h

theorem poolFrame_makeRoom (n len : Nat) (q : QId) (cid : Nat) (h : PoolFrame cs vs s) :
    PoolFrame cs vs (makeRoom n len q cid s).1 := by
  unfold makeRoom
  split
  · exact h
  split
  · exact h
  split
  · exact h
  extract_lets s1 ws hs r
  have h1 : PoolFrame cs vs s1 := by
    dsimp only [s1]
    split
    · exact poolFrame_compact _ _ _ h
    · exact h
  split
  · split
    · exact poolFrame_ask _ _ _ _ h1
    · exact poolFrame_freeRoom _ _ _ _ (poolFrame_ask _ _ _ _ h1)
  · exact poolFrame_freeRoom _ _ _ _ h1

theorem poolFrame_placeImage (n a : Nat) (img : List Byte) (h : PoolFrame cs vs s) : PoolFrame cs vs (placeImage n a img s) := by
  unfold placeImage
  split
  · exact h
  · exact h.of_memOnly (memOnly_courtWrite _ _ _ s)

theorem poolFrame_sealFail (n purpose i : Nat) (h : PoolFrame cs vs s) : PoolFrame cs vs (sealFail n purpose i s) := by
  have hpost (t : State) (count detail : Nat) (ht : PoolFrame cs vs t) : PoolFrame cs vs (postSec 0x04 n 0xFF 0xFF count detail t) := by
    unfold postSec
    dsimp only
    split
    · exact (ht.of_posts (postEvent_posts _ _ _ _)).of_posts (postEvent_posts _ _ _ _)
    · exact ht.of_posts (postEvent_posts _ _ _ _)
  unfold sealFail postSecLimited
  dsimp only
  split
  · exact hpost _ _ _ h
  · split
    · exact h
    · exact hpost _ _ _ h

theorem poolFrame_openImage (n key : Nat) (img : List Byte) (h : PoolFrame cs vs s) :
    PoolFrame cs vs (openImage n key img s).2 := by
  unfold openImage
  split
  · exact h
  · split
    · exact h
    · dsimp only
      split
      · exact poolFrame_sealFail _ _ _ h
      · split
        · exact h
        · exact poolFrame_sealFail _ _ _ h

/-- Loading the image of a replacement changes no version's number. -/
theorem poolFrame_replaceLoad (c : Cmd) (e : Nat) (image : List Byte) (h : PoolFrame cs vs s) :
    PoolFrame cs vs (replaceLoad c e image s).1 := by
  unfold replaceLoad
  dsimp only
  split
  · exact h
  · have hopen := poolFrame_openImage c.q.owner (fld c.pb 16 8) (image.take (fld c.pb 4 4)) h
    split
    next heq => rwa [heq] at hopen
    next img u heq =>
      rw [heq] at hopen
      have hroom := poolFrame_makeRoom c.q.owner img.length c.q c.cid hopen
      split
      next hr => rwa [hr] at hroom
      next hr => rwa [hr] at hroom
      next a hr =>
        rw [hr] at hroom
        repeat' split
        · exact hroom
        · exact hroom
        · exact hroom
        · exact hroom
        · exact hroom
        · exact poolFrame_placeImage _ _ _ hroom

end

/-! ### The bodies -/

theorem confCourt_of_courts {s t : State} (h : t.courts = s.courts) (n : Nat) : confCourt t n = confCourt s n := by
  simp only [confCourt, courtOf, h]

theorem memOnly_placeImage (n a : Nat) (img : List Byte) (s : State) : MemOnly s (placeImage n a img s) := by
  unfold placeImage
  split
  · exact .refl s
  · exact memOnly_courtWrite _ _ _ s

/-- A plain image of a plain Court that its model takes makes the entry READY at version 1 (07 R221). -/
theorem registerLoad_plain {c : Cmd} {h a : Nat} {image : List Byte} {s t : State} {i j : AdImage} {m : ModelSlot}
    (hlen : image.length = fld c.pb 8 4) (hkey : fld c.pb 16 8 = 0) (hconf : confCourt s c.q.owner = false)
    (hroom : makeRoom c.q.owner image.length c.q c.cid s = (t, .at_ a)) (hhead : adHeader image = some i)
    (hslot : (findSlot t c.q.owner i.modelId i.modelVersion).bind (fun n => tblGet t.gaz.slots n) = some m)
    (hcheck : adCheck i m = some j) :
    registerLoad c h image s =
      (let u := stampUp (placeImage c.q.owner a image t)
       (modEntry h (fun e => { e with
          state := .ready, kind := j.kind, modelId := j.modelId, modelVersion := j.modelVersion
          cur := some (mkVersion j 1 0 a (coldKind (fld c.pb 24 8) != 0) u.gaz.stamp) }) u,
        .fin (finRes 0x0000 (natLe 2 h ++ natLe 2 (entryOf t h).generation ++ natLe 4 1)))) := by
  have htake : image.take (fld c.pb 8 4) = image := by rw [← hlen, List.take_length]
  have hcourts : t.courts = s.courts := by
    have h := poolFrame_makeRoom c.q.owner image.length c.q c.cid (.self s)
    rw [hroom] at h
    exact h.1
  obtain ⟨mem, hmem⟩ := memOnly_placeImage c.q.owner a image t
  have hconf' : confCourt (stampUp (placeImage c.q.owner a image t)) c.q.owner = false := by
    rw [confCourt_of_courts (s := s) (by rw [hmem]; exact hcourts), hconf]
  have hgen (f : GazEntry → GazEntry) (hf : ∀ e, (f e).generation = e.generation) :
      (entryOf (modEntry h f (stampUp (placeImage c.q.owner a image t))) h).generation = (entryOf t h).generation := by
    rw [entryOf_modEntry_field (·.generation) hf, hmem]
    rfl
  have hwhole : ¬ image.length < fld c.pb 8 4 := by omega
  simp only [registerLoad, if_neg hwhole, htake, openImage, hkey, if_true, hconf, Bool.false_eq_true, if_false, hroom, hhead, hslot, hcheck, hconf', beq_self_eq_true, Bool.true_and, Bool.not_false, stSuccess]
  rw [hgen]
  exact fun _ => rfl

@[simp] theorem lowestFree_begun (q : QId) (cid : Nat) (s : State) (k : Court) :
    lowestFree (begun q cid s) k = lowestFree s k := by
  simp only [lowestFree, entryOf_begun]

@[simp] theorem findSlot_begun (q : QId) (cid : Nat) (s : State) (n mid mver : Nat) :
    findSlot (begun q cid s) n mid mver = findSlot s n mid mver := by
  simp only [findSlot, begun_gaz]

/-- With no handle claimed yet and no refusal the lowest free handle is claimed, and the image is loaded into its entry. -/
theorem registerBody_claims {c : Cmd} {image : List Byte} {s : State} {k : Court} {h : Nat} (hwork : c.work = [])
    (hflags : fld c.pb 12 1 < 4) (hcold : coldOk (fld c.pb 24 8) = true) (hkey : fld c.pb 16 8 = 0)
    (hconf : confCourt s c.q.owner = false) (hk : courtOf s c.q.owner = some k) (hfree : lowestFree s k = some h) :
    registerBody image true c s = registerLoad { c with work := [h] } h image (claimHandle c h s) := by
  simp [registerBody, claimedHandle, hwork, Nat.not_le.mpr hflags, hcold, hkey, hconf, hk, hfree]

/-! ### REPLACE and RETIRE_ADAPTER -/

theorem tblModify_of_none {α : Type} {t : Tbl α} {k : Nat} (h : tblGet t k = none) (f : α → α) : tblModify t k f = t := by
  induction t with
  | nil => rfl
  | cons p t ih =>
    obtain ⟨i, b⟩ := p
    by_cases hk : k = i
    · simp [tblGet, hk] at h
    · simp [tblModify, hk, ih (by simpa [tblGet, hk] using h)]

theorem tblGet_versionsOf (s : State) (h : Nat) :
    tblGet (versionsOf s) h = (tblGet s.gaz.entries h).map (fun e => e.cur.map (·.version)) := by
  unfold versionsOf
  induction s.gaz.entries with
  | nil => rfl
  | cons p l ih =>
    obtain ⟨i, e⟩ := p
    by_cases hi : h = i <;> simp [tblGet, hi, ih]

/-- The number of an entry's current version follows from the numbers of all. -/
theorem version_entryOf (s : State) (h : Nat) :
    (entryOf s h).cur.map (·.version) = (tblGet (versionsOf s) h).getD none := by
  rw [tblGet_versionsOf, entryOf, tblGetD]
  cases tblGet s.gaz.entries h <;> rfl

theorem modEntry_congr {h : Nat} {s : State} {f g : GazEntry → GazEntry}
    (hfg : ∀ e, tblGet s.gaz.entries h = some e → f e = g e) : modEntry h f s = modEntry h g s := by
  have htbl : tblModify s.gaz.entries h f = tblModify s.gaz.entries h g := by
    cases he : tblGet s.gaz.entries h with
    | none => exact (tblModify_of_none he f).trans (tblModify_of_none he g).symm
    | some e => exact tblModify_congr he (hfg e he)
  rw [modEntry, modEntry, htbl]

section
variable {c : Cmd} {s t : State} {image : List Byte} {h a : Nat} {i : AdImage}

theorem replaceBody_installs (hh : fld c.pb 0 2 = h) (hcheck : handleCheck s c.q.owner h = none) (hflags : fld c.pb 2 1 < 2)
    (hnext : (entryOf s h).nextCmd = none) (htrain : (entryOf s h).train = 0)
    (hdrain : drainShort (stampUp t) (entryOf s h) = false) (hload : replaceLoad c h image s = (t, .ok (some (i, a)))) :
    replaceBody image c s =
      (let n := ((entryOf s h).cur.map (·.version)).getD 0 + 1
       (installVersion c.q.owner h (mkVersion i n (fld c.pb 16 8) a false (t.gaz.stamp + 1)) (stampUp t),
        .fin (finRes 0x0000 (zeros 4 ++ natLe 4 n)))) := by
  subst hh
  simp [replaceBody, hcheck, Nat.not_le.mpr hflags, hnext, htrain, trainRefusal, hload, hdrain, stSuccess]
  simp [stampUp]

theorem replaceBody_inTraining (hh : fld c.pb 0 2 = h) (hcheck : handleCheck s c.q.owner h = none) (hnext : (entryOf s h).nextCmd = none)
    (htrain : (entryOf s h).train ≠ 0) (hclear : fld c.pb 2 1 = 0) : replaceBody image c s = (s, .fin (finSt 0x3004)) := by
  subst hh
  simp [replaceBody, hcheck, hclear, hnext, htrain, trainRefusal, bit, failWith, stAdapterInTraining]

theorem replaceBody_atCommit (hh : fld c.pb 0 2 = h) (hcheck : handleCheck s c.q.owner h = none)
    (hnext : (entryOf s h).nextCmd = none) (htrain : (entryOf s h).train = 1) (hset : fld c.pb 2 1 = 1)
    (hload : replaceLoad c h image s = (t, .ok (some (i, a)))) :
    replaceBody image c s =
      (modEntry h (fun e => { e with
        next := some (mkVersion i ((e.cur.map (·.version)).getD 0 + 1) (fld c.pb 16 8) a false (t.gaz.stamp + 1))
        nextCmd := some (c.q, c.cid), train := 2 }) (stampUp t), .stay) := by
  subst hh
  have hversions : versionsOf t = versionsOf s := by
    have hframe := poolFrame_replaceLoad c (fld c.pb 0 2) image (.self s)
    rw [hload] at hframe
    exact hframe.2
  have hbody : replaceBody image c s = (modEntry (fld c.pb 0 2) (fun e => { e with
      next := some (mkVersion i (((entryOf s (fld c.pb 0 2)).cur.map (·.version)).getD 0 + 1) (fld c.pb 16 8) a false (t.gaz.stamp + 1))
      nextCmd := some (c.q, c.cid), train := 2 }) (stampUp t), .stay) := by
    simp [replaceBody, hcheck, hset, hnext, htrain, trainRefusal, hload, bit]
    simp [stampUp]
  rw [hbody]
  refine congrArg (·, _) (modEntry_congr fun e he => ?_)
  have hnumber : (entryOf s (fld c.pb 0 2)).cur.map (·.version) = e.cur.map (·.version) := by
    rw [version_entryOf, ← hversions, tblGet_versionsOf]
    exact congrArg (fun x => (x.map (fun e : GazEntry => e.cur.map (·.version))).getD none) he
  rw [hnumber]

theorem retireAdapterBody_eq (hh : fld c.pb 0 2 = h) (hcheck : handleCheck s c.q.owner h = none)
    (hstate : (entryOf s h).state = .retiring ∨ (entryOf s h).state = .ready) :
    retireAdapterBody c s =
      if (entryOf s h).state = .retiring then (s, .fin (finSt 0x0002))
      else if (entryOf s h).train ≠ 0 then (s, .fin (finSt 0x3004))
      else (sweepSlots (sweepHandle h (dropClaims h (unlockVersion h (modEntry h (fun e => { e with
        state := .retiring, minTier := 0, contractEnd := 0, holdUntil := 0, next := none, nextCmd := none }) s)))),
        .fin (finSt 0x0000)) := by
  subst hh
  rcases hstate with hstate | hstate <;>
    simp [retireAdapterBody, hcheck, hstate, failWith, stAlreadyDone, stAdapterInTraining, stSuccess]

end

/-! ### Rebinding -/

/-- The entry of the handle stands, and its current version has the number. -/
def HasVersion (h n : Nat) (s : State) : Prop := ∃ e, tblGet s.gaz.entries h = some e ∧ e.cur.map (·.version) = some n

theorem HasVersion.modEntry {h n m : Nat} {s : State} {f : GazEntry → GazEntry} (hs : HasVersion h n s)
    (hf : ∀ e, e.cur.map (·.version) = some n → (f e).cur.map (·.version) = some m) : HasVersion h m (modEntry h f s) := by
  obtain ⟨e, he, hn⟩ := hs
  exact ⟨f e, by simp [Machine.modEntry, he], hf e hn⟩

theorem HasVersion.lockVersion {h n : Nat} {s : State} (court : Nat) (hs : HasVersion h n s) :
    HasVersion h n (lockVersion court h s) := by
  unfold Machine.lockVersion
  split
  · refine foldl_keeps (P := HasVersion h n) (fun t l ht => ?_) _ hs
    unfold lockLine
    dsimp only
    split
    · exact ht.modEntry (fun e he => by simpa using he)
    · exact ht
  · exact hs

/-- The version installed is the current one. -/
theorem hasVersion_installVersion {h n : Nat} {s : State} (court : Nat) (v : AdVersion) (hs : HasVersion h n s) :
    HasVersion h v.version (installVersion court h v s) := by
  have hset (t : State) (ht : HasVersion h n t) :
      HasVersion h v.version (modEntry h (fun e => { e with cur := some v }) t) := ht.modEntry (fun _ _ => rfl)
  unfold installVersion
  dsimp only
  have hdrain : HasVersion h v.version (modEntry h (fun e => { e with cur := some v }) (match (entryOf s h).cur with
      | none => s
      | some old => if 0 < old.refs then { s with gaz.drains := s.gaz.drains ++ [⟨h, { old with locks := [] }⟩] } else s)) := by
    refine hset _ ?_
    split
    · exact hs
    · split
      · exact hs
      · exact hs
  split
  · exact hdrain.lockVersion court
  · exact hdrain

theorem entryOf_of_some {s : State} {h : Nat} {e : GazEntry} (he : tblGet s.gaz.entries h = some e) : entryOf s h = e := by
  simp [entryOf, tblGetD, he]

/-- An entry with a current version stands in the table. -/
theorem hasVersion_of_cur {s : State} {h : Nat} {v : AdVersion} (hv : (entryOf s h).cur = some v) : HasVersion h v.version s := by
  unfold entryOf tblGetD at hv
  cases he : tblGet s.gaz.entries h with
  | none => simp [he, GazEntry.fresh] at hv
  | some e => exact ⟨e, he, by simpa [he] using congrArg (Option.map (·.version)) hv⟩

theorem rebound_leaves {h n : Nat} {s : State} (court mver : Nat) (v : AdVersion) (hs : HasVersion h n s) :
    let t := (rebound court h mver v s).1
    ((entryOf t h).state, (entryOf t h).modelVersion, (entryOf t h).cur.map (·.version)) = (.ready, mver, some v.version) := by
  obtain ⟨e, he, hn⟩ := hasVersion_installVersion court v hs
  have hset : tblGet (modEntry h (fun e => { e with modelVersion := mver, state := .ready }) (installVersion court h v s)).gaz.entries h =
      some { e with modelVersion := mver, state := .ready } := by
    simp [Machine.modEntry, he]
  simp only [rebound]
  rw [entryOf_sweepSlots, entryOf_of_some hset]
  exact congrArg (fun x => (GazState.ready, mver, x)) hn

/-- The weights as they stand, with no use of them, are bound to the other model version (07 R240). -/
theorem rebindBody_asIs {c : Cmd} {image : List Byte} {s : State} {h n : Nat} {m : ModelSlot} {v : AdVersion} {i : AdImage}
    (hh : fld c.pb 0 2 = h) (hcheck : handleCheck s c.q.owner h = none)
    (hstate : (entryOf s h).state = .ready ∨ (entryOf s h).state = .stale) (htrain : (entryOf s h).train = 0)
    (hlen : fld c.pb 16 4 = 0) (hslot : findSlot s c.q.owner (entryOf s h).modelId (fld c.pb 4 4) = some n)
    (hm : tblGet s.gaz.slots n = some m) (hv : (entryOf s h).cur = some v) (hrefs : v.refs = 0)
    (had : adCheck (asImage (entryOf s h) v (fld c.pb 4 4)) m = some i) :
    rebindBody image c s = rebound c.q.owner h (fld c.pb 4 4)
      { v with version := v.version + 1, parts := i.parts, coldHeld := v.poolAt.isNone } s := by
  subst hh
  have hready : ¬ ((entryOf s (fld c.pb 0 2)).state ≠ .ready ∧ (entryOf s (fld c.pb 0 2)).state ≠ .stale) := by tauto
  simp only [rebindBody, hcheck, if_neg hready, htrain, ne_eq, not_true_eq_false, if_false, hlen, hslot, Option.bind_some, hm, hv,
    rebindAsIs, had, hrefs, if_true]

/-! ### The cold fetch -/

theorem adapterColdFetch_plain {n h a : Nat} {k : Court} {v : AdVersion} {image : List Byte} {s t : State}
    (howner : handleOwner s h = some n) (hk : courtOf s n = some k) (hconf : k.conf = false)
    (hv : (entryOf s h).cur = some v) (hwanted : v.wanted = true) (hpool : v.poolAt = none)
    (hkind : coldKind (entryOf s h).coldAt = 1) (hide : ideEnded s (entryOf s h).via = false)
    (hwrites : fnWrites s (entryOf s h).via = true) (hlen : v.imageLen ≤ image.length)
    (hroom : makeRoom n v.imageLen ⟨n, 64⟩ h s = (t, .at_ a)) :
    exec (.adapterColdFetch h v.version image) s = .next
      (modEntry h (fun e => { e with cur := e.cur.map (fun v => { v with poolAt := some a, wanted := false }) })
        (courtWrite k a (image.take v.imageLen) (dropXfer (.fetch h v.version) t))) := by
  have hbring : bring n h image ⟨n, 64⟩ h s = (modEntry h (fun e => { e with cur := e.cur.map (fun v =>
      { v with poolAt := some a, wanted := false }) })
      (courtWrite k a (image.take v.imageLen) (dropXfer (.fetch h v.version) t)), .ok) := by
    simp [bring, hk, hv, hpool, hkind, hide, hwrites, coldLen, hconf, Nat.not_lt.mpr hlen, hroom, fetched]
  show execAdapterColdFetch h v.version image s = _
  simp [execAdapterColdFetch, howner, hv, hwanted, hbring]

@[simp] theorem entryBytes_begun (q : QId) (cid : Nat) (s : State) (n h : Nat) :
    entryBytes (begun q cid s) n h = entryBytes s n h := by
  obtain ⟨l, hl⟩ := begun_cmds q cid s
  rw [hl]; rfl

theorem queryBody_replies {c : Cmd} {s : State} {h : Nat} (hh : fld c.pb 0 2 = h) (hcheck : handleCheck s c.q.owner h = none) :
    queryBody c s = (s, .fin (finReply (entryBytes s c.q.owner h ++
      natLe 8 (((entryOf s h).cur.map (fun v => v.locks.length)).getD 0) ++
      natLe 4 (((s.gaz.drains.find? (fun d => d.handle == h)).map (fun d => sizeKib d.ver)).getD 0) ++ zeros 4))) := by
  subst hh
  simp only [queryBody, hcheck]

end Sys2Proof.Machine

open Sys2Proof.Machine

/-- Settles O27, by the bodies of the three commands. -/
theorem entriesAssigned : Obligations.EntriesAssigned := by
  unfold Obligations.EntriesAssigned
  refine ⟨?register, ?replace⟩
  case register =>
    intro q cid c image k h n a i j m t s hdue hwork hflags hcold hkey hconf hk hfree hlen hroom hhead hslot hcheck hn
    obtain ⟨rfl, rfl⟩ := findCmd_key hdue.1
    subst hn
    have hclaims := registerBody_claims (c := began s c) (s := begun c.q c.cid s) (image := image) (k := k) (h := h) hwork hflags
      hcold hkey (by simpa using hconf) (by simpa using hk) (by simpa using hfree)
    have hconf' : confCourt (claimHandle (began s c) h (begun c.q c.cid s)) c.q.owner = false :=
      (confCourt_begun c.q c.cid s c.q.owner).trans hconf
    have hloads := registerLoad_plain (c := { began s c with work := [h] }) (h := h) hlen hkey hconf' hroom hhead hslot hcheck
    exact congrArg Host.Outcome.next (runCmd_fin hdue (hclaims.trans hloads))
  case replace =>
    intro q cid c s b k h e hcheck
    have he : entryOf b h = e := entryOf_begun q cid s h
    have hb : handleCheck b q.owner h = none := (handleCheck_begun q cid s q.owner h).trans hcheck
    clear_value e
    subst he
    refine ⟨fun image i a t hdue hflags hnext => ⟨fun htrain hdrain hload => ?installs, fun htrain hclear => ?training,
      fun htrain hset hload => ?atCommit⟩, fun hdue => ⟨fun hstate => ?already, fun hstate htrain => ?busy,
      fun hstate htrain => ?retires⟩⟩
    all_goals obtain ⟨rfl, rfl⟩ := findCmd_key hdue.1
    case installs =>
      exact congrArg Host.Outcome.next
        (runCmd_fin hdue (replaceBody_installs (c := k) rfl hb hflags hnext htrain hdrain hload))
    case training =>
      exact congrArg Host.Outcome.next (runCmd_fin hdue (replaceBody_inTraining (c := k) rfl hb hnext htrain hclear))
    case atCommit =>
      exact congrArg Host.Outcome.next
        (runCmd_stay hdue (replaceBody_atCommit (c := k) rfl hb hnext htrain hset hload))
    case already =>
      exact congrArg Host.Outcome.next
        (runCmd_fin hdue ((retireAdapterBody_eq (c := k) rfl hb (.inl hstate)).trans (if_pos hstate)))
    case busy =>
      exact congrArg Host.Outcome.next (runCmd_fin hdue ((retireAdapterBody_eq (c := k) rfl hb (.inr hstate)).trans
        ((if_neg (fun h => by cases hstate.symm.trans h)).trans (if_pos htrain))))
    case retires =>
      exact congrArg Host.Outcome.next (runCmd_fin hdue ((retireAdapterBody_eq (c := k) rfl hb (.inr hstate)).trans
        ((if_neg (fun h => by cases hstate.symm.trans h)).trans (if_neg (not_not.mpr htrain)))))

/-- Settles O30, by the bodies of the two commands and the fetch of a plain image. -/
theorem rebindQueryFetch : Obligations.RebindQueryFetch := by
  unfold Obligations.RebindQueryFetch
  refine ⟨?commands, fun n h a k v image s t howner hk hconf hv hwanted hpool hkind hide hwrites hlen hroom =>
    adapterColdFetch_plain howner hk hconf hv hwanted hpool hkind hide hwrites hlen hroom⟩
  case commands =>
    intro q cid c s b h e hcheck
    have he : entryOf b h = e := entryOf_begun q cid s h
    have hb : handleCheck b q.owner h = none := (handleCheck_begun q cid s q.owner h).trans hcheck
    clear_value e
    subst he
    refine ⟨fun image n m v i hdue hstate htrain hlen hslot hm hv hrefs had => ?rebind, fun hdue => ?query⟩
    all_goals obtain ⟨rfl, rfl⟩ := findCmd_key hdue.1
    case rebind =>
      have hbody := rebindBody_asIs (c := began s c) (s := b) (image := image) rfl hb hstate htrain hlen
        (n := n) (m := m) (v := v) (i := i) (by simpa [b] using hslot) (by simpa [b] using hm) hv hrefs had
      refine ⟨_, congrArg Host.Outcome.next (runCmd_fin hdue hbody), ?_⟩
      exact rebound_leaves c.q.owner (fld c.pb 4 4) { v with version := v.version + 1, parts := i.parts, coldHeld := v.poolAt.isNone }
        (hasVersion_of_cur hv)
    case query =>
      have hbody := queryBody_replies (c := began s c) (s := b) rfl hb
      exact congrArg Host.Outcome.next (runCmd_fin hdue (hbody.trans (by simp [b, h])))

end

section
/-! Parking and returning a sequence (spec/08_serving.md R281 to R283). -/

namespace Sys2Proof.Machine

/-! ### PARK and RESUME -/

section
variable {c : Cmd} {s : State} {i : Nat} {u : Seq}

theorem no_parkReq (h : ∀ e ∈ s.srv.seqs, e.2.parkReq ≠ some (c.q, c.cid)) :
    s.srv.seqs.any (fun e => e.2.parkReq == some (c.q, c.cid)) = false := by
  simpa [List.any_eq_false] using h

theorem no_resumeReq (h : ∀ e ∈ s.srv.seqs, e.2.resumeReq ≠ some (c.q, c.cid)) :
    s.srv.seqs.any (fun e => e.2.resumeReq == some (c.q, c.cid)) = false := by
  simpa [List.any_eq_false] using h

theorem parkBody_unknown (hreq : ∀ e ∈ s.srv.seqs, e.2.parkReq ≠ some (c.q, c.cid)) (httl : fld c.pb 4 4 ≤ 604800)
    (htarget : serveTarget s c = none) : parkBody c s = (s, .fin (finSt 0x1005)) := by
  simp only [parkBody, no_parkReq hreq, Bool.false_eq_true, if_false, if_neg (Nat.not_lt.mpr httl), htarget, failWith, stNotFound]

theorem parkBody_running (hreq : ∀ e ∈ s.srv.seqs, e.2.parkReq ≠ some (c.q, c.cid)) (httl : fld c.pb 4 4 ≤ 604800)
    (htarget : serveTarget s c = some (some (i, u))) (hstate : u.state = .running) (hcopy : u.copy = .none)
    (hpark : u.parkReq = none) (hended : u.ended = none) (hparkable : parkable s u = true) :
    parkBody c s = (modSeq i (fun u => { u with parkReq := some (c.q, c.cid) }) s, .stay) := by
  simp [parkBody, no_parkReq hreq, Nat.not_lt.mpr httl, htarget, hstate, hcopy, hpark, hended, hparkable]

theorem parkBody_parked (hreq : ∀ e ∈ s.srv.seqs, e.2.parkReq ≠ some (c.q, c.cid)) (httl : fld c.pb 4 4 ≤ 604800)
    (htarget : serveTarget s c = some (some (i, u))) (hstate : u.state = .parkedAuto) (hcopy : u.copy = .none) :
    parkBody c s = (armTtl i u (if fld c.pb 4 4 = 0 then u.ttl else fld c.pb 4 4)
      (modSeq i (fun u => { u with state := .parked }) s), .fin (finSt 0x0000)) := by
  simp [parkBody, no_parkReq hreq, Nat.not_lt.mpr httl, htarget, hstate, hcopy, stSuccess]

theorem resumeBody_unknown (hreq : ∀ e ∈ s.srv.seqs, e.2.resumeReq ≠ some (c.q, c.cid)) (htarget : serveTarget s c = none) :
    resumeBody c s = (s, .fin (finSt 0x1005)) := by
  simp only [resumeBody, no_resumeReq hreq, Bool.false_eq_true, if_false, htarget, failWith, stNotFound]

theorem resumeBody_running (hreq : ∀ e ∈ s.srv.seqs, e.2.resumeReq ≠ some (c.q, c.cid))
    (htarget : serveTarget s c = some (some (i, u))) (hstate : u.state = .running) :
    resumeBody c s = (s, .fin (finSt 0x0002)) := by
  simp [resumeBody, no_resumeReq hreq, htarget, hstate, stAlreadyDone]

theorem resumeBody_parked (hreq : ∀ e ∈ s.srv.seqs, e.2.resumeReq ≠ some (c.q, c.cid))
    (htarget : serveTarget s c = some (some (i, u))) (hstate : u.state = .parked) (hresume : u.resumeReq = none) :
    resumeBody c s = (modSeq i (fun u => { u with resumeReq := some (c.q, c.cid) }) s, .stay) := by
  simp [resumeBody, no_resumeReq hreq, htarget, hstate, hresume]

end

/-! ### The copies and the time to live -/

section
variable {i : Nat} {u : Seq} {t : Batch} {k : Court} {s : State}

theorem parkCopyComplete_plain {d : Cmd} (hu : seqOf s i = some u) (hready : s.sq.ready = true)
    (hk : courtOf s u.q.owner = some k) (ht : batchOf s u.batch = some t) (hcopy : u.copy = .out)
    (hxfer : xferOf s (.park i) = none) (hconf : k.conf = false) (hkind : coldKind u.parkAt = 1)
    (hpoison : pagesPoisoned s [] u = none) (hd : findCmd s u.q u.cid = some d) (hwrites : fnWrites s d.via = true) :
    exec (.parkCopyComplete i []) s =
      .next (settleWatch (parked i u (hostWrite d.via (u.parkAt % 2 ^ 57) (kvImage s k t u) s))) := by
  show watched (parkCopyRow i [] s) = _
  simp only [parkCopyRow, hu, hk, ht, hcopy, hready, hxfer, applyFindings_nil, hpoison, hconf, hkind, hd, hwrites]
  rfl

theorem returned_plain (hconf : k.conf = false) (hkind : coldKind u.parkAt = 1) (image : List Byte) :
    returned i u k t image s = endReq u.resumeReq 0x0000
      (modSeq i (fun q => { q with copy := .none, state := .running, expires := none, resumeReq := none })
        (putKv k t u (image.take (u.pages.length * t.kvLayers * (2 * t.kvHalf))) s)) := by
  simp [returned, hconf, hkind, stSuccess]

theorem returnCopyComplete_plain {d : Cmd} {image : List Byte} (hu : seqOf s i = some u) (hgone : u.gone = false)
    (hready : s.sq.ready = true) (hk : courtOf s u.q.owner = some k) (ht : batchOf s u.batch = some t)
    (hcopy : u.copy = .back) (hconf : k.conf = false) (hkind : coldKind u.parkAt = 1) (hd : findCmd s u.q u.cid = some d)
    (hide : ideEnded s d.via = false) (hwrites : fnWrites s d.via = true)
    (hlen : u.pages.length * t.kvLayers * (2 * t.kvHalf) ≤ image.length) :
    exec (.returnCopyComplete i image) s = .next (returned i u k t image s) := by
  show execReturnCopyComplete i image s = _
  simp [execReturnCopyComplete, hu, hk, ht, hcopy, hready, hgone, hconf, hkind, hd, hide, hwrites, Nat.not_lt.mpr hlen]

theorem parkTtlExpiry_parked {e : Nat} (hu : seqOf s i = some u) (hgone : u.gone = false)
    (hstate : u.state = .parked ∨ u.state = .parkedAuto) (hcopy : u.copy = .none) (hexp : u.expires = some e) :
    exec (.parkTtlExpiry i) s = .next (if e ≤ s.sq.time then endSeq i 0x4002 7 s else s) := by
  show execParkTtlExpiry i s = _
  simp only [execParkTtlExpiry, hu, hstate, hcopy, hgone, hexp]
  by_cases he : e ≤ s.sq.time <;> simp [he, stTimeout]

/-- Writing pages back leaves the sequences. -/
theorem memOnly_putKv (image : List Byte) : MemOnly s (putKv k t u image s) :=
  .foldl (fun s _ => .foldl (fun s _ => memOnly_courtWrite _ _ _ s) _ s) _ s

/-- A completed request leaves the sequences. -/
theorem endReq_srv (r : Option (QId × Nat)) (st : Nat) (s : State) : (endReq r st s).srv = s.srv := by
  unfold endReq
  split
  · rfl
  · next c _ =>
    obtain ⟨-, -, -, -, -, -, -, -, -, hsrv, -⟩ := retireFrame c (finSt st) s
    exact hsrv

/-- The sequence runs again. -/
theorem seqOf_returned (hu : seqOf s i = some u) (hconf : k.conf = false) (hkind : coldKind u.parkAt = 1) (image : List Byte) :
    (seqOf (returned i u k t image s) i).map (fun u => (u.state, u.copy)) = some (.running, .none) := by
  obtain ⟨m, hm⟩ := memOnly_putKv (k := k) (t := t) (u := u) (s := s)
    (image.take (u.pages.length * t.kvLayers * (2 * t.kvHalf)))
  have hseq : tblGet s.srv.seqs i = some u := hu
  rw [returned_plain hconf hkind, seqOf, endReq_srv, hm]
  simp [modSeq, hseq]

end

end Sys2Proof.Machine

open Sys2Proof.Machine

/-- Settles O32, by the bodies of the two commands and the three rows of the park area. -/
theorem parkAndReturn : Obligations.ParkAndReturn := by
  unfold Obligations.ParkAndReturn
  refine ⟨?commands, fun i u t k s hu hgone hready hk ht => ⟨?out, ?back, ?ttl⟩⟩
  case out =>
    intro hcopy hxfer hconf hkind hpoison d hd hwrites
    exact parkCopyComplete_plain hu hready hk ht hcopy hxfer hconf hkind hpoison hd hwrites
  case back =>
    intro hcopy hconf hkind d image hd hide hwrites hlen
    exact ⟨returnCopyComplete_plain hu hgone hready hk ht hcopy hconf hkind hd hide hwrites hlen,
      seqOf_returned hu hconf hkind image⟩
  case ttl =>
    intro e hstate hcopy hexp
    have hrow := parkTtlExpiry_parked hu hgone hstate hcopy hexp
    exact ⟨fun he => hrow.trans (by rw [if_pos he]), fun he => hrow.trans (by rw [if_neg (Nat.not_le.mpr he)])⟩
  case commands =>
    intro q cid c s b
    have hsrv : b.srv = s.srv := begun_srv q cid s
    have htarget : serveTarget b (began s c) = serveTarget b c := rfl
    refine ⟨fun hdue hreq httl => ⟨fun hnone => ?parkUnknown, fun i u hu hstate hcopy hpark hended hable => ?park,
      fun i u hu hstate hcopy => ?parkAgain⟩,
      fun hdue hreq => ⟨fun hnone => ?resumeUnknown, fun i u hu hstate => ?resumeDone, fun i u hu hstate hres => ?resume⟩⟩
    all_goals obtain ⟨rfl, rfl⟩ := findCmd_key hdue.1
    all_goals rw [← hsrv] at hreq
    case parkUnknown => exact congrArg Host.Outcome.next (runCmd_fin hdue (parkBody_unknown (c := began s c) hreq httl hnone))
    case park =>
      exact congrArg Host.Outcome.next
        (runCmd_stay hdue (parkBody_running (c := began s c) hreq httl hu hstate hcopy hpark hended hable))
    case parkAgain =>
      exact congrArg Host.Outcome.next (runCmd_fin hdue (parkBody_parked (c := began s c) hreq httl hu hstate hcopy))
    case resumeUnknown => exact congrArg Host.Outcome.next (runCmd_fin hdue (resumeBody_unknown (c := began s c) hreq hnone))
    case resumeDone => exact congrArg Host.Outcome.next (runCmd_fin hdue (resumeBody_running (c := began s c) hreq hu hstate))
    case resume => exact congrArg Host.Outcome.next (runCmd_stay hdue (resumeBody_parked (c := began s c) hreq hu hstate hres))

end

section
/-! Training steps, checkpoints and jobs (spec/09_training.md R290 to R318; spec/10_collective_reduction.md R354, R358;
spec/11_distillation.md R361). -/

namespace Sys2Proof.Machine

@[simp] theorem grpOf_begun (q : QId) (cid : Nat) (s : State) (key : Nat) : grpOf (begun q cid s) key = grpOf s key := by
  simp only [grpOf, begun_grps]

@[simp] theorem pairDie_begun (q : QId) (cid : Nat) (s : State) (l : List Nat) : pairDie (begun q cid s) l = pairDie s l := by
  obtain ⟨r, hr⟩ := begun_cmds q cid s
  rw [hr]; rfl

/-! ### STEP and DISTIL_STEP -/

theorem stepBody_waits {distil : Bool} {c : Cmd} {s : State} (hwork : c.work = []) (hok : stepRefusal s c distil = none) :
    stepBody distil c s = (modCmd c.q c.cid (fun d => { d with work := [1] }) s, .stay) := by
  simp [stepBody, hwork, hok]

theorem stepBody_notNext {distil : Bool} {c : Cmd} {s : State} {g : Group} (hwork : c.work = [])
    (hg : grpOf s (stepKey c) = some g) (hformed : g.state = .formed) (hnext : fld c.pb 8 8 ≠ g.nextStep) :
    stepBody distil c s = (s, .fin (finRes 0x3007 (natLe 8 g.nextStep))) := by
  have hrefuse : stepRefusal s c distil = some (finRes 0x3007 (natLe 8 g.nextStep)) := by
    simp [stepRefusal, hg, hformed, hnext, stStateConflict]
  simp [stepBody, hwork, hrefuse]

/-! ### A step opens -/

section
variable {n group : Nat} {g : Group} {s : State} {c : Cmd} {k : Court}

theorem stepOpen_broken (hg : grpOf s (grpKey n group) = some g) (hready : s.sq.ready = true) (htake : s.sq.takeover = false)
    (hstep : g.step = none) (hc : stepCmd s (grpKey n group) = some c) (hk : courtOf s n = some k)
    (hck : checkpointRuns s (grpKey n group) c = false) (hbroken : g.state = .broken) :
    exec (.stepOpen n group) s = .next (openFail (grpKey n group) c 0x3007 s) := by
  show execStepOpen n group s = _
  simp [execStepOpen, hg, hc, hk, hready, htake, hstep, hck, hbroken, stStateConflict]

theorem stepOpen_unloaded (hg : grpOf s (grpKey n group) = some g) (hready : s.sq.ready = true) (htake : s.sq.takeover = false)
    (hstep : g.step = none) (hc : stepCmd s (grpKey n group) = some c) (hk : courtOf s n = some k)
    (hck : checkpointRuns s (grpKey n group) c = false) (hformed : g.state = .formed) (hp : pkgOf s n (fld c.pb 0 4) = none) :
    exec (.stepOpen n group) s = .next (openFail (grpKey n group) c 0x1002 s) := by
  show execStepOpen n group s = _
  simp [execStepOpen, hg, hc, hk, hready, htake, hstep, hck, hformed, hp, stInvalidField]

theorem stepOpen_binds {p : Package} {base teacher : Option Nat} {ys ys0 : List SymRange} {u : State}
    (hg : grpOf s (grpKey n group) = some g) (hready : s.sq.ready = true) (htake : s.sq.takeover = false)
    (hstep : g.step = none) (hc : stepCmd s (grpKey n group) = some c) (hk : courtOf s n = some k)
    (hck : checkpointRuns s (grpKey n group) c = false) (hformed : g.state = .formed)
    (hp : pkgOf s n (fld c.pb 0 4) = some p) (hbinds : bindsRefusal s n (stepBinds c.pb) = none)
    (hbase : stepBase s n c = .ok base) (hteacher : teacherSlot s n c = .ok teacher)
    (hsyms : stepSyms s ⟨n, p, stepBufs c.pb, 1, (stepBinds c.pb).map (·.1), base⟩ teacher = some ys0)
    (hdemand : demandAll ((stepBinds c.pb).map (·.1)) (base.toList ++ teacher.toList ++
      handleSlots s n ((stepBinds c.pb).map (·.1))).eraseDups s = (u, .ok))
    (hsyms' : stepSyms u ⟨n, p, stepBufs c.pb, 1, (stepBinds c.pb).map (·.1), base⟩ teacher = some ys) :
    exec (.stepOpen n group) s = .next (bindStep (grpKey n group) k c p base teacher ys u) := by
  show execStepOpen n group s = _
  have hopen : ¬ (g.step.isSome = true ∨ checkpointRuns s (grpKey n group) c = true ∨ (!s.sq.ready) = true ∨
      s.sq.takeover = true) := by simp [hstep, hck, hready, htake]
  simp only [execStepOpen, hg, hc, hk, if_neg hopen, hformed, ne_eq, not_true_eq_false, if_false, hp, hbinds, hbase, hteacher,
    hsyms, hdemand, hsyms']

/-! ### Votes and time-outs -/

theorem voteCast_ended {t : TrainStep} (hg : grpOf s (grpKey n group) = some g) (ht : g.step = some t)
    (hopened : t.phase = .opened) (hended : t.ended = true)
    (hrun : takeRun s (.training (grpCourt (grpKey n group)) (grpKey n group % 65536)) = none) :
    exec (.voteCast n group) s = .next (castVote (grpKey n group) s) := by
  show execVoteCast n group s = _
  simp [execVoteCast, takePlanEnd, hrun, stepOf, hg, ht, hopened, hended]

theorem progressTimeout_opened {t : TrainStep} (hg : grpOf s (grpKey n group) = some g) (ht : g.step = some t)
    (hopened : t.phase = .opened) :
    exec (.progressTimeout n group) s =
      if s.sq.time < t.progress + fld g.pb 28 4 * msUnits ∨ t.buckets.all (fun b => bucketOver s.sq.addr g t b.1) then .next s
      else .next (castVote (grpKey n group) (loseContexts (grpKey n group)
        (modGrp (grpKey n group) (fun g => { g with timeouts := (g.timeouts + 1) % 2 ^ 32 }) s))) := by
  show execProgressTimeout n group s = _
  simp only [execProgressTimeout, stepOf, hg, Option.bind_some, ht, Option.map_some, hopened]

end

/-! ### CHECKPOINT -/

theorem demand_nil (s : State) : demand [] none s = (s, .ok) := rfl

/-- A checkpoint of a plain Court that waits for no step and names no handle is written in one piece (09 R316). -/
theorem checkpointBody_plain {c : Cmd} {s u : State} {g : Group} {k : Court}
    (hg : grpOf s (grpKey c.q.owner (fld c.pb 0 2)) = some g) (hk : courtOf s c.q.owner = some k) (hconf : k.conf = false)
    (hfields : ckFieldsOk c.pb = true) (hformed : g.state ≠ .forming) (hprog : c.progress = 0)
    (hwait : ckAwaits s (grpKey c.q.owner (fld c.pb 0 2)) = []) (hhandles : ckHandles c.pb = [])
    (hu : u = modCmd c.q c.cid (fun d => { d with work := [], progress := max 1 d.progress }) s)
    (hranges : (ckRanges u k c.pb).all (fun r => courtRangeOk k r.1 r.2) = true)
    (hpoison : rangesPoison u k [] (ckRanges u k c.pb ++ ckPools u c.pb) = none)
    (hroom : 128 + (ckBody (ckImage u k c.pb)).length ≤ fld c.pb 16 8) (hwrites : fnWrites u c.via = true) :
    checkpointBody [] true c s = (ckWrite { c with work := [] } k g (ckImage u k c.pb) u,
      .fin (finRes 0x0000 (natLe 8 (128 + (ckBody (ckImage u k c.pb)).length) ++ natLe 8 g.committed))) := by
  have hrefuse : ckHandleRefusal u c.q.owner [] = none := rfl
  simp only [checkpointBody, hg, hk, hfields, Bool.not_true, Bool.false_eq_true, if_false, hformed, hprog, if_true, hwait,
    ckWaits, hhandles, ← hu, hrefuse, demand_nil, applyFindings_nil, hranges, hpoison, hconf, if_neg (Nat.not_lt.mpr hroom),
    hwrites, stSuccess]

/-! ### RESTORE -/

/-- An image that names nothing but Court memory is placed section by section (09 R317). -/
theorem restoreBody_memory {c : Cmd} {s : State} {g : Group} {k : Court} {image : List Byte} {step : Nat} {l : List CkSection}
    (hg : grpOf s (grpKey c.q.owner (fld c.pb 16 2)) = some g) (hk : courtOf s c.q.owner = some k) (hconf : k.conf = false)
    (hformed : g.state ≠ .forming) (hbusy : groupBusy s (grpKey c.q.owner (fld c.pb 16 2)) c.q c.cid = false)
    (hlen : image.length = fld c.pb 8 8) (hparse : ckParse image = some (rankOf g.pb s.sq.addr, step, l))
    (hkinds : ∀ x ∈ l, x.kind ≠ 4) (hranges : l.all (fun x => courtRangeOk k x.dest x.body.length) = true) :
    restoreBody image true c s = (modGrp (grpKey c.q.owner (fld c.pb 16 2)) (fun g => { g with committed := step, nextStep := (step + 1) % 2 ^ 64 })
      (ckPlace k l (discardHeld (grpKey c.q.owner (fld c.pb 16 2)) s)), .fin (finSt 0x0000)) := by
  have htake : image.take (fld c.pb 8 8) = image := by rw [← hlen, List.take_length]
  have hwhole : ¬ image.length < fld c.pb 8 8 := by omega
  have hnone : l.filter (fun x => x.kind == 4) = [] := by
    rw [List.filter_eq_nil_iff]
    intro x hx
    simpa using hkinds x hx
  have hall : l.all (fun x => x.kind == 4 || courtRangeOk k x.dest x.body.length) = true := by
    rw [List.all_eq_true] at hranges ⊢
    exact fun x hx => by simp [hranges x hx]
  have hstart : ¬ (g.state = .forming ∨ groupBusy s (grpKey c.q.owner (fld c.pb 16 2)) c.q c.cid = true) := by
    simp [hformed, hbusy]
  simp only [restoreBody, hg, hk, if_neg hstart, Bool.not_true, Bool.false_eq_true, if_false, if_neg hwhole, htake,
    fromHost_plain (confCourt_of_courtOf hk hconf), hparse, ne_eq, not_true_eq_false, hnone, List.mapM_nil, hall]
  rfl

/-! ### DISTIL_JOB -/

theorem jobOpenBody_records {c : Cmd} {s : State} {g : Group} {k : Court} {r : ModelSlot} (hfields : jobFieldsOk c.pb = true)
    (hnone : tblGet s.jobs (jobKey c.q.owner (fld c.pb 1 1)) = none) (hr : tblGet s.gaz.slots (fld c.pb 2 1) = some r)
    (hresident : r.state = .resident) (hg : grpOf s (grpKey c.q.owner (fld c.pb 4 2)) = some g) (hformed : g.state = .formed)
    (hslot : slotFor r c.q.owner = true) (hk : courtOf s c.q.owner = some k) (hconf : k.conf = false)
    (hdie : pairDie s k.blocks = true) :
    jobOpenBody c s = ({ s with jobs := tblSet s.jobs (jobKey c.q.owner (fld c.pb 1 1)) ⟨fld c.pb 2 1, fld c.pb 4 2, fld c.pb 6 2,
      fld c.pb 8 4, fld c.pb 12 4, fld c.pb 16 4, fld c.pb 20 4, r.modelId, r.modelVersion⟩ },
      .fin (finRes 0x0000 (natLe 4 r.modelVersion))) := by
  simp [jobOpenBody, hfields, hnone, hr, hresident, hg, hformed, hslot, confCourt_of_courtOf hk hconf, hk, hdie, stSuccess]

theorem jobEndBody_ends {c : Cmd} {s : State} (hjob : fld c.pb 1 1 < 4) (hbusy : jobBusy s c.q.owner (fld c.pb 1 1) = false)
    (hsome : (tblGet s.jobs (jobKey c.q.owner (fld c.pb 1 1))).isSome = true) :
    jobEndBody c s = ({ s with jobs := tblErase s.jobs (jobKey c.q.owner (fld c.pb 1 1)) }, .fin (finSt 0x0000)) := by
  obtain ⟨j, hj⟩ := Option.isSome_iff_exists.mp hsome
  simp [jobEndBody, Nat.not_le.mpr hjob, hbusy, hj, stSuccess]

end Sys2Proof.Machine

open Sys2Proof.Machine

/-- Settles O34, by the bodies of the two commands, the ways of an opening, the vote and the time-out. -/
theorem stepsStartAndRun : Obligations.StepsStartAndRun := by
  unfold Obligations.StepsStartAndRun
  refine ⟨?commands, ?rows⟩
  case commands =>
    intro q cid c s hwork b wait
    refine ⟨fun hdue hok => ?step, fun hdue hok => ?distil, fun g hdue hg hformed hnext => ?notNext⟩
    all_goals obtain ⟨rfl, rfl⟩ := findCmd_key hdue.1
    case step => exact congrArg Host.Outcome.next (runCmd_stay hdue (stepBody_waits (c := began s c) hwork hok))
    case distil => exact congrArg Host.Outcome.next (runCmd_stay hdue (stepBody_waits (c := began s c) hwork hok))
    case notNext =>
      have hg' : grpOf b (stepKey c) = some g := (grpOf_begun c.q c.cid s (stepKey c)).trans hg
      exact congrArg Host.Outcome.next (runCmd_fin hdue (stepBody_notNext (c := began s c) hwork hg' hformed hnext))
  case rows =>
    intro n group g s key hg hready htake
    refine ⟨fun c k hstep hc hk hck => ⟨fun hbroken => ?broken, fun hformed hp => ?unloaded, ?binds⟩,
      fun t ht hopened hended hrun => ?vote, fun t ht hopened => ?timeout⟩
    case broken => exact stepOpen_broken hg hready htake hstep hc hk hck hbroken
    case unloaded => exact stepOpen_unloaded hg hready htake hstep hc hk hck hformed hp
    case binds =>
      intro p base teacher ys ys0 u hformed hp hbinds hbase hteacher hs e hsyms hdemand hsyms'
      exact stepOpen_binds hg hready htake hstep hc hk hck hformed hp hbinds hbase hteacher hsyms hdemand hsyms'
    case vote => exact voteCast_ended hg ht hopened hended hrun
    case timeout =>
      have hrow := progressTimeout_opened hg ht hopened
      refine ⟨fun hearly => hrow.trans (if_pos (.inl hearly)), fun hlate hover => hrow.trans (if_neg ?_)⟩
      rintro (hearly | hall)
      · exact absurd hearly (Nat.not_lt.mpr hlate)
      · exact absurd hall (by simp [hover])

/-- Settles O35, by the bodies of the four commands. -/
theorem checkpointsAndJobs : Obligations.CheckpointsAndJobs := by
  unfold Obligations.CheckpointsAndJobs
  intro q cid c g m s hm hconf b
  have hm' : courtOf b q.owner = some m := (courtOf_begun q cid s q.owner).trans hm
  have hgrp (key : Nat) : grpOf b key = grpOf s key := grpOf_begun q cid s key
  refine ⟨?checkpoint, ?restore, fun r hdue hfields hkind hnone hr hresident hg hformed hslot hdie => ?opens,
    fun hdue hkind hjob hbusy hsome => ?ends⟩
  case checkpoint =>
    intro u v hdue hg hfields hformed hprog hwait hhandles hu hdemand hranges hpoison hroom hwrites
    obtain ⟨rfl, rfl⟩ := findCmd_key hdue.1
    obtain rfl : u = v := congrArg Prod.fst hdemand
    have hwrites' : fnWrites u c.via = true := by
      subst hu
      exact (fnWrites_begun c.q c.cid s c.via).trans hwrites
    exact congrArg (fun t => Host.Outcome.next (settleWatch t)) (runCmd_fin hdue (checkpointBody_plain (c := began s c)
      ((hgrp _).trans hg) hm' hconf hfields hformed hprog hwait hhandles hu hranges hpoison hroom hwrites'))
  case restore =>
    intro image step l hdue key hg hformed hbusy hlen hparse hkinds hranges
    obtain ⟨rfl, rfl⟩ := findCmd_key hdue.1
    have haddr : b.sq.addr = s.sq.addr := by simp [b]
    exact congrArg Host.Outcome.next (runCmd_fin hdue (restoreBody_memory (c := began s c) ((hgrp _).trans hg) hm' hconf hformed
      hbusy hlen (by rw [haddr]; exact hparse) hkinds hranges))
  case opens =>
    obtain ⟨rfl, rfl⟩ := findCmd_key hdue.1
    have hrow : pbIs s c.q c.cid (fun b => fld b 0 1 != 2) = true := by simp [pbIs_of_findCmd hdue.1, hkind]
    have hbody := jobOpenBody_records (c := began s c) (s := b) (g := g) (k := m) (r := r) hfields (by simpa [b] using hnone)
      (by simpa [b] using hr) hresident ((hgrp _).trans hg) hformed hslot hm' hconf (by simpa [b] using hdie)
    refine (congrArg Host.Outcome.next (if_pos hrow)).trans (congrArg Host.Outcome.next (runCmd_fin hdue (hbody.trans ?_)))
    simp [b]
  case ends =>
    obtain ⟨rfl, rfl⟩ := findCmd_key hdue.1
    have hrow : pbIs s c.q c.cid (fun b => fld b 0 1 == 2) = true := by simp [pbIs_of_findCmd hdue.1, hkind]
    have hbody := jobEndBody_ends (c := began s c) (s := b) hjob hbusy (by simpa [b] using hsome)
    refine ⟨_, (congrArg Host.Outcome.next (if_pos hrow)).trans (congrArg Host.Outcome.next (runCmd_fin hdue hbody)), ?_⟩
    simp

end

section
/-! The frames of a group (spec/10_collective_reduction.md R347): what a vote adds to when the group's key is listed twice. -/

namespace Sys2Proof.Machine

/-- A step that waits for votes, its record all zero. -/
def votingStep : TrainStep :=
  { q := ⟨0, 0⟩, cid := 9, number := 1, job := none, phase := .opened, modes := 0, resync := false, rewarm := false,
    ledgerAt := 0, entries := 0, run := 0, binds := [], base := none, teacher := none, cause := 0, own := none, ended := true,
    scales := [], kinds := [], amax := [], marked := [], buckets := [], shards := [], promoted := 0, progress := 0,
    votedAt := 0, acc := zeros 32, votes := [], sentUp := false, outcome := [], outGot := [], first := [], posted := false,
    verdict := none, repair := [], repaired := [], second := false, clip := none, asked := false, hostState := [] }

/-- A group of one device and one helper, with the step. -/
def votingGroup (tag : Nat) (t : TrainStep) : Group :=
  ⟨zeros 4 ++ natLe 4 tag ++ zeros 12 ++ natLe 2 1 ++ zeros 42, .formed, none, [], none, false, [], 1, 0, some t, 0, 0, 0⟩

/-- A VOTE frame of the group with tag 1, of its step 1. -/
def voteMsg : List Byte := natLe 4 1 ++ zeros 3 ++ natLe 1 frVote ++ zeros 7 ++ natLe 1 1 ++ List.replicate 8 1#8

/-- Two groups under one key, the first of another tag and under repair: no step reaches such a table, but it is a state. -/
def doubleKeyed : State :=
  { State.reset with grps := [(5, votingGroup 0 { votingStep with phase := .repairing }), (5, votingGroup 1 votingStep)] }

/-- The record combined so far in the first group of key 5. -/
def combinedOf (r : Res) : Option (List Byte) := match r with
  | .next t => (stepOf t 5).map (fun p => p.2.acc)
  | _ => none

end Sys2Proof.Machine

open Sys2Proof.Machine

/-- Refutes O37: a vote frame is combined as the step that its tag finds wants it, and the statement as the step that its key
finds wants it. Where a table lists the key twice the two steps differ: here the one votes and the other is under repair. -/
theorem not_groupsAndFrames : ¬ Obligations.GroupsAndFrames := by
  unfold Obligations.GroupsAndFrames
  rintro ⟨-, hframes⟩
  obtain ⟨-, -, -, -, -, -, hvote, -⟩ := hframes 0 voteMsg { doubleKeyed with inbox := [(0, 0, voteMsg)] } doubleKeyed
  have hrow := (hvote (by decide +kernel)).2 5 (votingGroup 1 votingStep) votingStep (by decide +kernel)
  have hacc := congrArg combinedOf hrow
  exact absurd hacc (by decide +kernel)

end

section
/-! Work orders of a training step, slices, context saves and hold limits (spec/05_work_orders.md, spec/10_collective_reduction.md,
spec/13_placement_and_scheduling.md). -/

namespace Sys2Proof.Machine

/-- A work order that meets no finding of memory acts on the state as it stands. -/
theorem withWo_of_sentWo {w : WoRef} {type : Nat} {sel : List Byte → Bool} {act : Sent → Ctx → State → State} {s : State}
    {e : Sent} {c : Court} (hsent : sentWo s w type sel = some e) (hcourt : courtOf s e.k.court = some c) :
    withWo w [] type sel act s =
      .next (settleWatch (act e ⟨e.k.court, c, e.k, e.bs, [], false, allPriv s⟩ s)) := by
  simp [withWo, hsent, hcourt, applyFindings_nil, noteFixes, watched]

/-- A context save or return without findings of memory. -/
theorem contextSaveRow_of_saving {w : WoRef} {k : Run} {t : RunStream} {s : State}
    (hstream : streamOf s w.run w.stream = some (k, t)) (hretires : retiresNow s = true) (hchain : t.chain ≠ [])
    (hsaving : t.chain.all (fun b => useOf s b == some (.saving w.run w.stream)) = true) :
    contextSaveRow w [] s = .next (if t.saved = [] then saveDone w.run w.stream k t s
      else restoreDone w.run w.stream k t none s) := by
  simp [contextSaveRow, hstream, hretires, hchain, hsaving, applyFindings_nil]

end Sys2Proof.Machine

open Sys2Proof.Machine

/-- Settles O41, through what a work order does that meets no finding of memory. -/
theorem stepWorkOrders : Obligations.StepWorkOrders := by
  unfold Obligations.StepWorkOrders
  intro w e c s hcourt x bad
  refine ⟨fun hnone => ⟨fun hsent => ?_, fun hsent hblocks => ?_, fun hsent => ?_⟩,
    fun key g t o hrun hop hsent => ?_, fun key g t o hrun hop hsent hblocks => ?_,
    fun key g t d hrun hshards hop hsent => ?_⟩
  · show execReduceSendLayer w [] s = _
    rw [execReduceSendLayer, withWo_of_sentWo hsent hcourt]
    simp only [hnone, bad]
  · show execReduceSendTile w [] s = _
    rw [execReduceSendTile, withWo_of_sentWo hsent hcourt]
    simp only [hnone, hblocks, if_false, bad]
  · show execUpdate w [] s = _
    rw [execUpdate, withWo_of_sentWo hsent hcourt]
    simp only [hnone, bad]
  · show execReduceSendLayer w [] s = _
    rw [execReduceSendLayer, withWo_of_sentWo hsent hcourt]
    simp only [hrun]
    rw [show sendOp s (envOf s e _) 0 g t = _ from hop]
  · show execReduceSendTile w [] s = _
    rw [execReduceSendTile, withWo_of_sentWo hsent hcourt]
    simp only [hrun, hblocks, if_false]
    rw [show sendOp s (envOf s e _) 1 g t = _ from hop]
  · show execUpdate w [] s = _
    rw [execUpdate, withWo_of_sentWo hsent hcourt]
    simp only [hrun, hshards, List.any_nil]
    rw [show updateShard s (envOf s e _) g t w.run w.stream = _ from hop]
    rfl

/-- Settles O43: each row reads the stream that it names, and its conditions decide the branch. -/
theorem contextsAndHolds : Obligations.ContextsAndHolds := by
  unfold Obligations.ContextsAndHolds
  refine ⟨fun w k t s hstream hretires => ⟨fun hexpress hchain hchained hover hyield => ?_, fun hchain hsaving hsaved => ?_,
      fun hchain hsaving hsaved => ?_⟩,
    fun w k t s hstream hretires => ⟨fun hwithin => ?_, fun hexpress hheld hover hhead => ?_, fun since hsince =>
      ⟨fun hexpress hover => ?_, fun hwithin => ?_⟩⟩⟩
  · show execSliceExpiry w s = _
    simp only [execSliceExpiry, hstream]
    exact congrArg _ (if_pos ⟨hretires, by rw [hexpress]; rfl, hchain, hchained, hover, hyield⟩)
  · show watched (contextSaveRow w [] s) = _
    rw [contextSaveRow_of_saving hstream hretires hchain hsaving, if_pos hsaved]
    rfl
  · show watched (contextSaveRow w [] s) = _
    rw [contextSaveRow_of_saving hstream hretires hchain hsaving, if_neg hsaved]
    rfl
  · show execSemHoldLimit w s = _
    have hkept : t.express = true ∨ t.held.isEmpty = true ∨ s.sq.time < t.heldSince + holdUnits s k.court :=
      hwithin.imp_right (Or.imp_left List.isEmpty_iff.mpr)
    simp only [execSemHoldLimit, hstream, hkept, or_true, if_true]
  · show execSemHoldLimit w s = _
    simp [execSemHoldLimit, hstream, hretires, hexpress, hheld, hhead, Nat.not_lt.mpr hover]
  · show execViaductHoldLimit w s = _
    simp [execViaductHoldLimit, hstream, hsince, hretires, hexpress, Nat.not_lt.mpr hover]
  · show execViaductHoldLimit w s = _
    simp only [execViaductHoldLimit, hstream, hsince, hwithin, or_true, if_true]

end

section
/-! Attestation (spec/14_security_and_attestation.md), firmware commands and the two Squares (spec/16_power_reset_boot.md,
spec/01_device_organisation.md). -/

namespace Sys2Proof.Machine

@[simp] theorem windowHint_begun (q : QId) (cid : Nat) (s : State) : windowHint (begun q cid s) = windowHint s := by
  obtain ⟨l, hl⟩ := begun_cmds q cid s
  rw [hl, windowHint, windowHint]

theorem bak_begun (q : QId) (cid : Nat) (s : State) : (begun q cid s).sec.bak = s.sec.bak := by
  obtain ⟨l, hl⟩ := begun_cmds q cid s
  rw [hl]

theorem squares_begun (q : QId) (cid : Nat) (s : State) : (begun q cid s).sq = s.sq := by
  obtain ⟨l, hl⟩ := begun_cmds q cid s
  rw [hl]

@[simp] theorem activateRefused_begun (q : QId) (cid : Nat) (s : State) (mode : Nat) :
    activateRefused (begun q cid s) mode = activateRefused s mode := by
  obtain ⟨l, hl⟩ := begun_cmds q cid s
  rw [hl]
  rfl

/-- An ATTEST that may start reads no host memory and runs in a takeover too: it acts on the state in which it has started. -/
theorem runCmd_attest {q : QId} {cid : Nat} {lay : Cmd → Nat} {rsv : List (Nat × Nat)} {body : Cmd → State → State × Did}
    {s t : State} {c : Cmd} {f : CmdEnd} (hfind : findCmd s q cid = some c) (hready : s.sq.ready = true)
    (hop : c.opcode = opAttest) (hstarted : c.started = false) (hstart : canStart s c = true)
    (hcheck : startCheck s c (lay c) rsv = none) (hbody : body (began s c) (begun q cid s) = (t, .fin f)) :
    runCmd opAttest q cid lay rsv body s = completes (lay c) c f t := by
  have hreads : readsHost c = false := by simp [readsHost, hop]
  have huses : usesHost c = false := by simp [usesHost, hreads, hop]
  have hwaits : hostWaits s c = false := by simp [hostWaits, hreads]
  rw [began, begun, hfind] at hbody
  simp only [runCmd, hfind]
  rw [if_neg (by simp [hready, hop, hwaits]), if_neg (by simp [hstarted]), if_neg (by simp [hstart]), hcheck]
  simp only [huses, Bool.false_and, Bool.false_eq_true, if_false]
  rw [hbody]
  rfl

/-- The Court that an ATTEST names: the operator's by its parameter block, a Court's its own. -/
def attested (c : Cmd) : Nat := if c.q.owner = 16 then fld c.pb 32 1 else c.q.owner

theorem attestBody_window {c : Cmd} {s : State} {ms : Nat} (hok : attestOk c (attested c) = true)
    (hwindow : windowHint s = some ms) : attestBody c s = (s, .fin (finRes 0x3002 (natLe 4 ms))) := by
  simp only [attested] at hok
  simp only [attestBody, hok, hwindow, Bool.not_true, Bool.false_eq_true, if_false]

theorem attestBody_device {c : Cmd} {s : State} {k : Bak} (hdevice : attested c = 0xFF) (hok : attestOk c 0xFF = true)
    (hwindow : windowHint s = none) (hbak : s.sec.bak = some k) :
    attestBody c s = (s, .fin
      (let r := report s k (slice c.pb 0 32) 0xFF false (deviceEntries s)
       { finReply r with result := natLe 4 r.length })) := by
  simp only [attested] at hdevice
  simp only [attestBody, hdevice, hok, hwindow, hbak, Bool.not_true, Bool.false_eq_true, if_false, if_true]

theorem attestBody_court {c : Cmd} {s : State} {k : Bak} {m : Court} (hown : c.q.owner < 16)
    (hok : attestOk c c.q.owner = true) (hwindow : windowHint s = none) (hbak : s.sec.bak = some k)
    (hcourt : courtOf s c.q.owner = some m) (hstate : m.state = .ready)
    (hhandles : (attestHandles c.pb).findSome? (attestHandle s c.q.owner) = none) :
    attestBody c s = (s, .fin
      (let r := report s k (slice c.pb 0 32) c.q.owner (fld c.pb 33 1 == 1) (courtEntries s c.q.owner m (attestHandles c.pb))
       { finReply r with result := natLe 4 r.length })) := by
  have hadmin : c.q.owner ≠ 16 := by omega
  have hdevice : c.q.owner ≠ 0xFF := by omega
  simp [attestBody, hadmin, hdevice, hok, hwindow, hbak, hcourt, hstate, hhandles]

theorem findCmd_of_cmds {s t : State} (h : t.cmd.cmds = s.cmd.cmds) (q : QId) (cid : Nat) : findCmd t q cid = findCmd s q cid := by
  rw [findCmd, findCmd, h]

/-- Where another command is unretired, the one that has started is not the only one. -/
theorem onlyCmd_begun_false {q : QId} {cid : Nat} {s : State} (h : ∃ d ∈ s.cmd.cmds, d.q ≠ q ∨ d.cid ≠ cid) :
    onlyCmd (begun q cid s) q cid = false := by
  obtain ⟨d, hd, hne⟩ := h
  have hkept : d ∈ (begun q cid s).cmd.cmds := by
    unfold begun
    split
    · exact hd
    · exact List.mem_map.mpr ⟨d, hd, if_neg fun h => hne.elim (· h.1) (· h.2)⟩
  refine List.all_eq_false.mpr ⟨d, hkept, ?_⟩
  rcases hne with h | h <;> simp [h]

theorem openInterval_sq (device fatal : Bool) (s : State) : (openInterval device fatal s).sq = s.sq := rfl

theorem openInterval_cmd (device fatal : Bool) (s : State) : (openInterval device fatal s).cmd = s.cmd := rfl

/-! ### Firmware commands -/

/-- The staging slot emptied, before the image of a STAGE_FIRMWARE is judged. -/
def stagingOpen (c : Cmd) (s : State) : State := emptyStaging (modCmd c.q c.cid (fun d => { d with progress := 1 }) s)

theorem stageBody_refused {image : List Byte} {c : Cmd} {s : State} {st : Nat} (hfree : stagingBusy s c = false)
    (hsize : fld c.pb 8 8 ≤ 2 ^ 25) (hlength : image.length = fld c.pb 8 8)
    (hrefused : fwRefused (stagingOpen c s).flash image = some st) :
    stageBody image true c s = (stagingOpen c s, .fin (finSt st)) := by
  have hwhole : image.take (fld c.pb 8 8) = image := List.take_of_length_le hlength.le
  have hfits : ¬ 33554432 < fld c.pb 8 8 := Nat.not_lt.mpr hsize
  simp only [stagingOpen] at hrefused ⊢
  simp [stageBody, hfree, hfits, hlength, hwhole, hrefused, failWith]

theorem stageBody_staged {image : List Byte} {c : Cmd} {s : State} (hfree : stagingBusy s c = false)
    (hsize : fld c.pb 8 8 ≤ 2 ^ 25) (hlength : image.length = fld c.pb 8 8)
    (hrefused : fwRefused (stagingOpen c s).flash image = none) :
    stageBody image true c s =
      ({ stagingOpen c s with flash := { setStaging (some (fwImageOf image)) (stagingOpen c s).flash with staged := true } },
        .fin (finRes 0x0000 (natLe 4 (fwImageOf image).square.version))) := by
  have hwhole : image.take (fld c.pb 8 8) = image := List.take_of_length_le hlength.le
  have hfits : ¬ 33554432 < fld c.pb 8 8 := Nat.not_lt.mpr hsize
  simp only [stagingOpen] at hrefused ⊢
  simp [stageBody, hfree, hfits, hlength, hwhole, hrefused]

theorem activateHotBody_starts {c : Cmd} {s : State} (hmode : fld c.pb 0 1 = 0) (hfree : activateRefused s 0 = false) :
    activateHotBody c s = ({ s with sq.act := some ⟨c.q, c.cid, true, .preparing⟩, sq.standby := .booting }, .stay) := by
  simp [activateHotBody, hmode, hfree]

theorem activateWarmBody_starts {c : Cmd} {s : State} (hfree : activateRefused s 1 = false) :
    activateWarmBody c s = ({ s with sq.act := some ⟨c.q, c.cid, false, .warming⟩ }, .stay) := by
  simp [activateWarmBody, hfree]

theorem handoverBody_opens {c : Cmd} {s : State} (hmode : fld c.pb 0 1 = 0) (hstandby : s.sq.standby = .inService)
    (hact : s.sq.act = none) : handoverBody c s =
      (openInterval false false { s with sq.act := some ⟨c.q, c.cid, false, .window s.sq.time⟩, sq.takeover := true }, .stay) := by
  simp [handoverBody, hmode, hstandby, hact]

end Sys2Proof.Machine

open Sys2Proof.Machine

/-- Settles O49, through what an ATTEST that may start does. -/
theorem attestation : Obligations.Attestation := by
  unfold Obligations.Attestation
  intro q cid c k s hfind hready hop hstarted hstart hcheck hbak b
  obtain ⟨rfl, rfl⟩ := findCmd_key hfind
  have hruns := fun f => runCmd_attest (lay := attestLay) (rsv := [(36, 4)]) (body := attestBody) (t := b) (f := f)
    hfind hready hop hstarted hstart hcheck
  have hbak' : b.sec.bak = some k := (bak_begun _ _ _).trans hbak
  refine ⟨fun ms hwindow hok => ?_, fun hwindow hadmin hdevice hok => ?_, fun m hwindow howner hok hcourt hstate hhandles => ?_⟩
  · exact congrArg Host.Outcome.next (hruns _ (attestBody_window (c := began s c) hok ((windowHint_begun _ _ _).trans hwindow)))
  · exact congrArg Host.Outcome.next (hruns _ (attestBody_device (c := began s c) ((if_pos hadmin).trans hdevice) hok
      ((windowHint_begun _ _ _).trans hwindow) hbak'))
  · exact congrArg Host.Outcome.next (hruns _ (attestBody_court (c := began s c) howner hok
      ((windowHint_begun _ _ _).trans hwindow) hbak' ((courtOf_begun _ _ _ _).trans hcourt) hstate hhandles))

/-- Settles O51, from what each command's body does in the state in which it has started. -/
theorem firmwareCommands : Obligations.FirmwareCommands := by
  unfold Obligations.FirmwareCommands
  intro q cid c s b
  refine ⟨fun image hdue hprogress hbusy hsize hlength => ⟨?_, fun hform => ?_⟩, fun hdue hact => ⟨fun hmode hfree => ?_,
    fun hmode hfree hother finds => ?_⟩, fun hdue => ⟨fun hmode hstandby hact => ?_, fun hmode => ?_⟩⟩
  · obtain ⟨rfl, rfl⟩ := findCmd_key hdue.1
    have hbusy' : stagingBusy b (began s c) = false := hbusy
    show Host.Outcome.next (runCmd opStageFirmware c.q c.cid (fun _ => 24) [(16, 8)] (stageBody image true) s) = _
    split
    next st hrefused =>
      exact congrArg Host.Outcome.next (runCmd_fin (lay := fun _ => 24) hdue
        (stageBody_refused (c := began s c) hbusy' hsize hlength hrefused))
    next hrefused =>
      exact congrArg Host.Outcome.next (runCmd_fin (lay := fun _ => 24) hdue
        (stageBody_staged (c := began s c) hbusy' hsize hlength hrefused))
  · simp [fwRefused, hform]
  · have hrefused : activateRefused b 0 = false := (activateRefused_begun q cid s 0).trans hfree
    obtain ⟨rfl, rfl⟩ := findCmd_key hdue.1
    show Host.Outcome.next (if _ then runCmd opActivateFirmware c.q c.cid (fun _ => 8) [(1, 7)] activateHotBody s else s) = _
    rw [if_pos (by simp [pbIs, hdue.1, hmode, hact])]
    exact congrArg Host.Outcome.next (runCmd_stay (lay := fun _ => 8) hdue
      (activateHotBody_starts (c := began s c) hmode hrefused))
  · have hrefused : activateRefused b 1 = false := (activateRefused_begun q cid s 1).trans hfree
    obtain ⟨rfl, rfl⟩ := findCmd_key hdue.1
    have hruns : runCmd opActivateFirmware c.q c.cid (fun _ => 8) [(1, 7)] activateWarmBody s =
        { b with sq.act := some ⟨c.q, c.cid, false, .warming⟩ } :=
      runCmd_stay (lay := fun _ => 8) hdue (activateWarmBody_starts (c := began s c) hrefused)
    have honly : onlyCmd { b with sq.act := some ⟨c.q, c.cid, false, .warming⟩ } c.q c.cid = false :=
      onlyCmd_begun_false hother
    show execActivateFirmwareWarm c.q c.cid finds s = _
    simp [execActivateFirmwareWarm, pbIs, hdue.1, hmode, hact, hruns, honly]
  · have hact' : b.sq.act = none := (congrArg (·.act) (squares_begun q cid s)).trans hact
    have hstandby' : b.sq.standby = .inService := (congrArg (·.standby) (squares_begun q cid s)).trans hstandby
    obtain ⟨rfl, rfl⟩ := findCmd_key hdue.1
    refine ⟨openInterval false false { b with sq.act := some ⟨c.q, c.cid, false, .window b.sq.time⟩, sq.takeover := true },
      ?_, ?_, rfl, ?_⟩
    · show Host.Outcome.next (if _ then runCmd opHandover c.q c.cid (fun _ => 8) [(1, 7)] handoverBody s else s) = _
      rw [if_pos (by simp [pbIs, hdue.1, hmode])]
      exact congrArg Host.Outcome.next (runCmd_stay (lay := fun _ => 8) hdue
        (handoverBody_opens (c := began s c) hmode hstandby' hact'))
    · rw [openInterval_sq, squares_begun]
    · rw [findCmd_of_cmds (congrArg (·.cmds) (openInterval_cmd false false _))]
      exact congrArg Option.isSome (findCmd_begun_same hdue.1)
  · obtain ⟨rfl, rfl⟩ := findCmd_key hdue.1
    show Host.Outcome.next (if _ then runCmd opHandover c.q c.cid (fun _ => 8) [(1, 7)] handoverQueryBody s else s) = _
    rw [if_pos (by simp [pbIs, hdue.1, hmode]), ← squares_begun c.q c.cid s]
    exact congrArg Host.Outcome.next (runCmd_fin (lay := fun _ => 8) hdue rfl)

/-- Settles O52: each row reads the state of the Squares, and its conditions decide the branch. -/
theorem squaresChange : Obligations.SquaresChange := by
  unfold Obligations.SquaresChange
  intro s hready
  refine ⟨fun hstandby => ?_, fun hstandby => ?_, ?_, fun d htakeover => ⟨fun hbeat => ?_, fun hstandby => ?_,
    fun hstandby hdrift => ?_⟩, fun d a t0 check htakeover hact hcold hphase => ⟨fun hin hdrift => ?_, fun hlate => ?_⟩,
    fun htakeover hstandby hact => ?_, fun hstandby hact => ?_, fun a g htakeover hact hrunning hphase hstandby => ?_⟩
  · show execSquareHeartbeat s = _
    simp [execSquareHeartbeat, hready, hstandby]
  · show execSquareTimeSync s = _
    simp [execSquareTimeSync, hready, hstandby]
  · show execStatusSample s = _
    simp [execStatusSample, hready]
  · show execSquareTakeover d false s = _
    simp [execSquareTakeover, hready, htakeover, squareFailed, hbeat]
  · refine ⟨setFatal true s, ?_, fun hfatal => ?_⟩
    · show execSquareTakeover d true s = _
      simp [execSquareTakeover, hready, htakeover, squareFailed, hstandby]
    · simp [setFatal, hfatal]
  · refine ⟨openInterval true false { changeActive d s with sq.takeover := true, sq.beatAt := takeoverTime s d },
      ?_, rfl, rfl, rfl, rfl, rfl⟩
    show execSquareTakeover d true s = _
    simp [execSquareTakeover, hready, htakeover, squareFailed, hstandby, hdrift]
  · show execSquareTakeover d check s = _
    simp [execSquareTakeover, hready, htakeover, hact, hphase, hcold, hdrift, Nat.not_lt.mpr hin]
  · show execSquareTakeover d check s = _
    simp [execSquareTakeover, hready, htakeover, hact, hphase, hlate]
  · show execStandbyResyncComplete s = _
    simp [execStandbyResyncComplete, hready, htakeover, hact, hstandby]
  · show execStandbySquareFailure s = _
    simp [execStandbySquareFailure, hready, hact, hstandby]
  · show execFirmwareCommit s = _
    simp [execFirmwareCommit, hready, htakeover, hact, hrunning, hphase, hstandby, sqVersion]

end

section
/-! Clocks, dies and Blocks (spec/15_ageing_and_self_test.md), rails, resets and boot (spec/16_power_reset_boot.md). -/

namespace Sys2Proof.Machine

theorem fatal_setFatal (device : Bool) (s : State) : (setFatal device s).sq.fatal = true := by
  unfold setFatal
  split
  · assumption
  · rfl

theorem setFatal_of_running {s : State} (h : s.sq.fatal = false) (device : Bool) :
    (setFatal device s).sq.fatal = true ∧ (setFatal device s).sq.ready = false ∧ (setFatal device s).sq.faultN = true := by
  simp [setFatal, h]

/-- The record of a clock fault is posted; the Squares stand. -/
theorem postClock_sq (type die : Nat) (ppm : Option Int) (s : State) : (postClock type die ppm s).sq = s.sq :=
  (postEvent_posts (s := s) 16 0x03 _).sq

theorem finishBoot_sq (s : State) : (finishBoot s).sq.ready = true ∧ (finishBoot s).sq.stage = 0xFF := by
  unfold finishBoot
  dsimp only
  split
  · exact ⟨rfl, rfl⟩
  · exact ⟨rfl, rfl⟩

/-- A Court that a trip of a die's monitor puts up for zeroisation is confidential, and has a Block there where the die is a
Street die. -/
theorem mem_glitchCourts {s : State} {die n : Nat} (h : n ∈ glitchCourts s die) :
    ∃ k, (n, k) ∈ s.courts ∧ k.conf = true ∧ (16 ≤ die ∨ ∃ b ∈ courtPhys s k, dieOf b = die) := by
  obtain ⟨⟨m, k⟩, hk, rfl⟩ := List.mem_map.mp h
  obtain ⟨hmem, hplace⟩ := List.mem_filter.mp hk
  simp only [Bool.and_eq_true, Bool.or_eq_true, decide_eq_true_eq, List.any_eq_true, beq_iff_eq] at hplace
  exact ⟨k, hmem, hplace⟩

end Sys2Proof.Machine

open Sys2Proof.Machine

/-- Settles O54: each row's conditions decide its branch; the fatal state stands on what a fatal error sets. -/
theorem dieFaults : Obligations.DieFaults := by
  unfold Obligations.DieFaults
  intro die ppm s halive
  have hup : s.sq.powered = true ∧ s.sq.vddIo = true ∧ s.sq.perst = false ∧ s.sq.fatal = false := by
    simp only [alive, Bool.and_eq_true, Bool.not_eq_true'] at halive
    exact ⟨halive.1.1.1.1, halive.1.1.1.2, halive.1.1.2, halive.1.2⟩
  obtain ⟨hpower, hvdd, hperst, hfatal⟩ := hup
  refine ⟨fun hdie hlost => ⟨fun hfirst => ?_, fun hsecond => ?_⟩, fun hkept => ⟨?_, ?_, ?_⟩, fun hdie hlost => ?_, fun hdie => ?_,
    fun hdie hbelow => ?_, ?_, fun hdie => ?_, fun hdie => ⟨?_, fun n hn => mem_glitchCourts hn⟩, fun b k hready hblock =>
      ⟨fun check hcan hcheck => ?_, fun r i huse => ?_⟩⟩
  · show execRefclkSwitch die ppm s = _
    simp [execRefclkSwitch, halive, hdie, hlost, hfirst]
  · refine ⟨setFatal false (postClock 0x02 die ppm { s with sq.refs := tblSet s.sq.refs die 2 }), ?_, ?_⟩
    · show execRefclkBothLost die ppm s = _
      simp [execRefclkBothLost, halive, hdie, hlost, hsecond]
    · obtain ⟨hset, hstopped, -⟩ := setFatal_of_running
        (s := postClock 0x02 die ppm { s with sq.refs := tblSet s.sq.refs die 2 }) (by rw [postClock_sq]; exact hfatal) false
      exact ⟨hset, hstopped⟩
  · show execRefclkSwitch die ppm s = _
    simp [execRefclkSwitch, hkept]
  · show execRefclkBothLost die ppm s = _
    simp [execRefclkBothLost, hkept]
  · show execJunctionRefLost die ppm s = _
    simp [execJunctionRefLost, hkept]
  · refine ⟨setFatal false (postClock 0x04 die ppm s), ?_, fatal_setFatal _ _⟩
    show execJunctionRefLost die ppm s = _
    simp [execJunctionRefLost, halive, hdie, hlost]
  · show execPllUnlock die s = _
    simp [execPllUnlock, halive, hdie]
  · obtain ⟨hset, -, hpin⟩ := setFatal_of_running hfatal true
    refine ⟨setFatal true s, ?_, hset, hpin⟩
    show execFatalDieFault die s = _
    simp [execFatalDieFault, halive, hdie, Nat.not_le.mpr hbelow]
  · show execDieLinkLaneRepair s = _
    simp [execDieLinkLaneRepair, halive]
  · refine ⟨_, rfl, ?_⟩
    simp [hpower, hvdd, hdie]
  · show execGlitchTrip die s = _
    simp [execGlitchTrip, hdie, hpower, hperst]
  · show execBlockFault b check s = _
    simp [execBlockFault, hblock, hready, hcan, hcheck]
  · show execBlockWatchdogTrip b s = _
    simp [execBlockWatchdogTrip, hblock, huse, hready]

/-- Settles O55: each row reads the die or the Block that it names, and its conditions decide the branch. -/
theorem ageingRows : Obligations.AgeingRows := by
  unfold Obligations.AgeingRows
  intro s hready
  refine ⟨fun die d meas hdie hstill => ?_, fun die d meas mv tries read hdie hchange => ⟨fun hok => ?_, fun hbad htries => ?_⟩,
    fun die d meas hdie hchange => ?_, fun b k sp l meas hblock hwant huse hspares hidle => ?_,
    fun die d look htakeover hdie hslice hstill hok => ?_, fun b result rows meas htesting hmeas => ⟨fun hpass => ?_,
      fun hfail hcode => ?_⟩, fun b htesting => ?_, fun b k hblock hrole => ⟨fun hfirst hover => ?_, fun hlapsed => ?_⟩,
    ⟨_, rfl, rfl⟩⟩
  · show execSurveyMeasure die meas s = _
    simp [execSurveyMeasure, hdie, hready, hstill]
  · show execAvsRailConfirm die read meas s = _
    simp [execAvsRailConfirm, hdie, hchange, hready, hok]
  · show execAvsRailConfirm die read meas s = _
    simp [execAvsRailConfirm, hdie, hchange, hready, hbad, htries]
  · show execClockGlideComplete die meas s = _
    simp [execClockGlideComplete, hdie, hchange, hready]
  · show execSpareSwap b meas s = _
    have hfree : ¬(k.use ≠ .idle ∧ k.use ≠ .isolated) := fun h => huse.elim h.1 h.2
    simp only [execSpareSwap, hblock, hready, hwant, hspares, hidle, hfree]
    simp
  · show execRoadworksDecision die look s = _
    have hnow : ¬((!s.sq.ready) = true ∨ s.sq.takeover = true ∨ sliceOn s die = true ∨ dieMoving d = true ∨
        (!sliceOk d look) = true) := by simp [hready, htakeover, hslice, hstill, hok]
    cases hcalled : calledBlock s die with
    | some b => simp only [execRoadworksDecision, hdie, if_neg hnow, hcalled]
    | none => simp only [execRoadworksDecision, hdie, if_neg hnow, hcalled]
  · show execSliceComplete b result rows meas s = _
    have hcode : ¬ 3 < result := by omega
    simp [execSliceComplete, hready, htesting, hmeas, hcode, hpass]
  · show execSliceComplete b result rows meas s = _
    simp [execSliceComplete, hready, htesting, hmeas, Nat.not_lt.mpr hcode, Nat.not_le.mpr hfail]
  · show execSliceAbandon b s = _
    simp [execSliceAbandon, hready, htesting]
  · show execVisitLapsed b s = _
    simp [execVisitLapsed, hblock, hready, hfirst, hover, hrole]
  · show execVisitLapsed b s = _
    simp [execVisitLapsed, hblock, hlapsed]

/-- Settles O57: the rails and PERST# decide the branch of each row; what a cold reset leaves is read off it. -/
theorem resetsAndBoot : Obligations.ResetsAndBoot := by
  unfold Obligations.ResetsAndBoot
  intro s
  refine ⟨fun hoff => ?_, fun hon => ?_, ⟨_, rfl, rfl, rfl⟩, fun hperst hfatal => ?_, fun hperst => ?_,
    ⟨rfl, rfl, rfl, rfl, rfl, rfl, rfl, rfl, rfl, rfl⟩, fun straps finds hon hvdd hperst htrip => ?_,
    fun hstage hfatal hon => ⟨fun hover => ⟨?_, finishBoot_sq s⟩, fun hbefore => ?_⟩⟩
  · show execPowerOn s = _
    simp [execPowerOn, hoff]
  · show execPowerLoss s = _
    simp [execPowerLoss, hon]
  · show execPerstAssert s = _
    simp [execPerstAssert, hperst, hfatal]
  · show execPerstAssert s = _
    simp [execPerstAssert, hperst]
  · show execPerstDeassert straps finds s = _
    simp [execPerstDeassert, hon, hvdd, hperst, htrip]
  · show execBootFabricTimeout s = _
    simp [execBootFabricTimeout, hstage, hfatal, hon, hover]
  · show execBootFabricTimeout s = _
    simp [execBootFabricTimeout, hbefore]

end

section
/-! Avenues train, exchange keys and roll them over (spec/12_avenues_and_host_ports.md, spec/14_security_and_attestation.md). -/

namespace Sys2Proof.Machine

theorem avOf_modAv (a : Nat) (f : Avenue → Avenue) (s : State) : avOf (modAv a f s) a = (avOf s a).map f := by
  simp [avOf, modAv]

/-- The record of an Avenue is posted; the Avenues stand. -/
theorem postAv_avs (type a lane count : Nat) (s : State) : (postAv type a lane count s).avs = s.avs := by
  unfold postAv
  split
  · rfl
  · exact (postEvent_posts (s := s) 16 0x06 _).avs

theorem avOf_avDown (a : Nat) (s : State) : avOf (avDown a s) a = (avOf s a).map (fun v => { v with phase := .down }) := by
  rw [avOf, avDown, postAv_avs]
  exact avOf_modAv a _ s

end Sys2Proof.Machine

open Sys2Proof.Machine

/-- Settles O46: each row reads the Avenue that it names, and its phase, its wait and the message decide the branch. -/
theorem avenuesComeUp : Obligations.AvenuesComeUp := by
  unfold Obligations.AvenuesComeUp
  intro av v s hav
  refine ⟨fun look hawake hphase hused => ?_, fun look t hawake hphase hretry => ⟨fun hbefore => ?_, fun hover => ?_⟩,
    fun hawake hused => ?_, fun msg hphase hretry hinit => ⟨fun hlength => ?_, fun hlength => ?_, fun htranscript => ?_⟩,
    fun msg hphase hretry hinit htranscript => ⟨fun hlength => ?_, fun hlength => ?_⟩,
    fun t hretry hphase => ⟨fun hbefore => ?_, fun hover => ?_⟩, fun hslot => ?_, fun hslot => ?_⟩
  · show execAvenueTraining av look s = _
    simp [execAvenueTraining, hav, hawake, hphase, hused]
  · show execAvenueTrainRetry av look s = _
    simp [execAvenueTrainRetry, hav, hretry, hbefore]
  · show execAvenueTrainRetry av look s = _
    simp [execAvenueTrainRetry, hav, hretry, hawake, hphase, Nat.not_lt.mpr hover]
  · refine ⟨_, rfl, ?_⟩
    simp only [hav, hawake, hused, Bool.not_true, Bool.false_eq_true, or_false, if_false, avOf_modAv]
    by_cases hup : v.phase = .up
    · simp [hup, avOf_avDown, hav]
    · simp [hup, hav]
  · show execAvenueHello av msg s = _
    simp [execAvenueHello, hav, hphase, hretry, hinit, hlength]
  · show execAvenueHello av msg s = _
    simp only [execAvenueHello, hav, hphase, hretry, hinit, hlength]
    cases peerBak (msg.drop 1600) <;> simp
  · show execAvenueKeyConfirm av msg s = _
    simp only [execAvenueKeyConfirm, hav, hphase, hretry, hinit, htranscript]
    cases peerBak (slice v.transcript 1600 15968) <;> simp
  · show execAvenueKeyResponse av msg s = _
    simp [execAvenueKeyResponse, hav, hphase, hretry, hinit, htranscript, hlength]
  · show execAvenueKeyResponse av msg s = _
    simp only [execAvenueKeyResponse, hav, hphase, hretry, hinit, htranscript, hlength]
    cases peerBak ((msg.take 17568).drop 1600) <;> simp
  · show execAvenueAuthRetry av s = _
    simp [execAvenueAuthRetry, hav, hretry, hbefore]
  · show execAvenueAuthRetry av s = _
    simp [execAvenueAuthRetry, hav, hretry, hphase, Nat.not_lt.mpr hover]
  · show execAvenueKeyRollover av true s = _
    have hfew : v.txSlot < 4294967296 := hslot
    simp [execAvenueKeyRollover, hav, hfew]
  · refine ⟨_, rfl, ?_⟩
    have hmany : ¬ v.rxSlot < 2 ^ 32 := Nat.not_lt.mpr hslot
    simp only [hav, hmany, Bool.false_eq_true, if_false, avOf_modAv, Option.map_some]

end

section
/-! Partner stores and their messages (spec/13_placement_and_scheduling.md, spec/12_avenues_and_host_ports.md). -/

namespace Sys2Proof.Machine

theorem SendsOnly.part {s t : State} (h : SendsOnly s t) : t.part = s.part := by
  obtain ⟨_, _, _, _, _, _, _, rfl⟩ := h
  rfl

theorem SendsOnly.cmds {s t : State} (h : SendsOnly s t) : t.cmd.cmds = s.cmd.cmds := by
  obtain ⟨_, _, _, _, _, _, _, rfl⟩ := h
  rfl

theorem part_begun (q : QId) (cid : Nat) (s : State) : (begun q cid s).part = s.part := by
  obtain ⟨l, hl⟩ := begun_cmds q cid s
  rw [hl]

/-! ### MIGRATE -/

/-- A Court's own MIGRATE whose target is another device, of a store at home that no earlier MIGRATE of this command moves. -/
structure MigrateDue (c : Cmd) (k : Court) (t : Store) (s : State) : Prop where
  mode : fld c.pb 0 1 = 1
  court : c.q.owner < 16
  unmoved : ∀ r ∈ s.part.stores, ∀ m ∈ r.move, ¬(m.q = c.q ∧ m.cid = c.cid)
  found : courtOf s c.q.owner = some k
  ready : k.state = .ready
  store : s.part.stores.find? (fun t => t.court == c.q.owner && t.role == .home) = some t

/-- A due MIGRATE conflicts with a move or the own address, or asks the target to adopt the store. -/
theorem migrateBody_of_due {c : Cmd} {k : Court} {t : Store} {s : State} (h : MigrateDue c k t s) :
    migrateBody c s =
      if t.move.isSome = true ∨ fld c.pb 2 2 = s.sq.addr then failWith s stStateConflict
      else
        let e := nextEpoch t.epoch
        let s := modStore c.q.owner t.origin (fun t => { t with
          move := some ⟨c.q, c.cid, fld c.pb 2 2, false, 0, [], 0, 0, 0, false, []⟩ }) s
        let tok := s.part.token
        let msg := devMsg s 0x14 c.q.owner t.epoch tok
          (forwardBody t.origin 4 (fld c.pb 2 2) e s.sq.addr (c.q.owner + 16 * c.q.owner) k.store [])
        let s := { s with part.token := (tok + 1) % 2 ^ 32
                          part.reqs := s.part.reqs ++ [⟨tok, .adopt c.q.owner, fld c.pb 2 2, 0, 0, 0, msg, none⟩] }
        (post 0 16 (fld c.pb 2 2) msg s, .stay) := by
  obtain ⟨hmode, hcourt, hunmoved, hfound, hready, hstore⟩ := h
  have hadmin : c.q.owner ≠ 16 := by omega
  have hfree : s.part.stores.any (fun t => t.move.any (fun m => m.q == c.q && m.cid == c.cid)) = false := by
    simpa [Option.any_eq_false] using hunmoved
  simp only [migrateBody, if_neg hadmin, hfree, hfound, hstore]
  simp [hmode, Nat.not_le.mpr hcourt, hready]

theorem MigrateDue.begun {c : Cmd} {k : Court} {t : Store} {s : State} (h : MigrateDue c k t s) :
    MigrateDue (began s c) k t (begun c.q c.cid s) where
  mode := h.mode
  court := h.court
  unmoved := by rw [part_begun]; exact h.unmoved
  found := (courtOf_begun _ _ _ _).trans h.found
  ready := h.ready
  store := by rw [part_begun]; exact h.store

/-! ### Messages -/

/-- A GET that meets no finding of memory arrives at the store. -/
theorem getRow_of_taken {s u : State} {tc : Nat} {m : List Byte} (h : takeMsg (isKind 0x11) s = some (tc, m, u)) :
    getRow [] s = .next (pumpAll (storeArrive (arrivalOf tc m) [] u)) := by
  simp only [getRow, h, applyFindings_nil]

theorem setMap_reqs (m : PartnerMap) (s : State) : (setMap m s).2.part.reqs = s.part.reqs := by
  unfold setMap
  split
  · rfl
  · split
    · rfl
    · rfl

end Sys2Proof.Machine

open Sys2Proof.Machine

/-- Settles O45: a MIGRATE through its body, a message through the row that takes it up. -/
theorem partnerMessages : Obligations.PartnerMessages := by
  unfold Obligations.PartnerMessages
  refine ⟨⟨fun q cid c k t s hdue hadmin hmode hcourt hunmoved hfound hready hstore => ?_, fun tc m s u => ⟨fun hput => ?_,
      fun hget => ?_, fun htimer => ?_, fun hlast => ?_, fun hforward hkind => ?_,
      fun hadopt t c hstore hfound hsame hwritten hadopted hmove hroom => ?_, fun hdata => ⟨fun r hreq => ?_, fun hnone => ?_⟩,
      fun hdone => ⟨fun hnone => ?_, fun r hreq hstatus hmove => ?_, fun r hreq hstatus => ?_⟩, fun hnotice hnone => ?_,
      fun hlost hkind => ⟨fun hnone => ?_, fun r hreq hmove => ?_⟩⟩,
    fun token r at_ s hreq hretry => ⟨fun hbefore => ?_, fun hover => ?_⟩⟩,
    fun court n t c r s hstore hfound hrange => ⟨fun hbefore => ?_, fun hover => ?_⟩⟩
  · obtain ⟨rfl, rfl⟩ := findCmd_key hdue.1
    have hbody := migrateBody_of_due (MigrateDue.begun ⟨hmode, hcourt, hunmoved, hfound, hready, hstore⟩)
    refine ⟨fun hconflict => ?_, fun hmove haway => ?_⟩
    · rw [if_pos (by rw [squares_begun]; exact hconflict)] at hbody
      exact congrArg Host.Outcome.next (runCmd_fin (lay := fun _ => 8) hdue hbody)
    · rw [if_neg (by rw [squares_begun]; simp [hmove]; exact haway)] at hbody
      refine ⟨_, congrArg Host.Outcome.next (runCmd_stay (lay := fun _ => 8) hdue hbody), ?_, ?_⟩
      · rw [findCmd_of_cmds (sendsOnly_post _ _ _ _ _).cmds]
        exact congrArg Option.isSome (findCmd_begun_same hdue.1)
      · rw [(sendsOnly_post _ _ _ _ _).part]
        exact ⟨_, List.mem_append_right _ (List.mem_singleton_self _), congrArg (·.token) (part_begun _ _ _), rfl, rfl⟩
  · show execPut s = _
    simp only [execPut, hput]
  · show watched (getRow [] s) = _
    rw [getRow_of_taken hget]
    rfl
  · show execTimer s = _
    simp only [execTimer, htimer]
  · show execLastInEpoch s = _
    simp only [execLastInEpoch, hlast]
  · show execForwarded s = _
    simp only [execForwarded, hforward, hkind, if_true]
  · show execAdopt s = _
    have hmay : ¬((arrivalOf tc m).courts % 16 ≠ arrCourt (arrivalOf tc m) ∨ t.written = true ∨ t.adopted = true ∨
        t.move.isSome = true ∨ c.store < fld (arrivalOf tc m).body 11 2) := by
      simpa [hwritten, hadopted, hmove] using And.intro hsame hroom
    simp only [execAdopt, hadopt]
    simp only [hstore, hfound, if_neg hmay]
    rfl
  · show execData s = _
    simp only [execData, hdata, hreq]
    rfl
  · show execData s = _
    simp only [execData, hdata, hnone, List.find?_nil]
  · show execDone s = _
    simp only [execDone, hdone, hnone]
  · show execDone s = _
    simp [execDone, hdone, hreq, hstatus, hmove]
  · show execDone s = _
    simp [execDone, hdone, hreq, hstatus]
  · show execNotice s = _
    simp only [execNotice, hnotice, (sendsOnly_sendMsg _ _ _ _ _ _).part, setMap_reqs, hnone, List.filter_nil, List.foldl_nil]
  · show execUnreachable s = _
    simp only [execUnreachable, hlost, if_neg hkind, hnone, List.find?_nil]
  · show execUnreachable s = _
    simp only [execUnreachable, hlost, if_neg hkind, hreq, hmove, Bool.false_eq_true, if_false]
  · show execPartnerRetry token s = _
    simp only [execPartnerRetry, hreq, hretry, if_pos hbefore]
  · show execPartnerRetry token s = _
    simp only [execPartnerRetry, hreq, hretry, if_neg (Nat.not_lt.mpr hover)]
  · show execPartnerRangeExpiry court n s = _
    simp only [execPartnerRangeExpiry, hstore, hfound, hrange, if_pos hbefore]
  · show execPartnerRangeExpiry court n s = _
    simp only [execPartnerRangeExpiry, hstore, hfound, hrange, if_neg (Nat.not_lt.mpr hover)]

end
